-- ==== Sys2Proof/Word.lean ====
section
/-! DEFINITION. The word types of the device: bytes, 32-bit register words, 64-bit stamps and instructions,
48-bit frequency words, and the plainest arithmetic on them (R8, R46). -/

namespace Sys2Proof

/-- A byte of a memory. -/
abbrev Byte := BitVec 8
/-- A 32-bit register or payload word. -/
abbrev Word := BitVec 32
/-- A 64-bit word: an instruction, a bank word. -/
abbrev DWord := BitVec 64
/-- A sample time or stamp, in units of 50 ps, modulo 2^64 (R8, R46). -/
abbrev Stamp := BitVec 64
/-- A 48-bit frequency word of a phase frame (R54). -/
abbrev Freq := BitVec 48

/-- Bit `i` of a natural number, as 0 or 1. -/
def bitOf (v i : Nat) : Nat := (v >>> i) % 2

/-- Bits `[hi:lo]` of a natural number. -/
def bitsOf (v hi lo : Nat) : Nat := (v >>> lo) % 2 ^ (hi + 1 - lo)

/-- A truth value as a register bit. -/
def b2n (b : Bool) : Nat := if b then 1 else 0

/-- `v` read as a two's complement number of `w` bits. -/
def toSigned (w v : Nat) : Int := if v % 2 ^ w < 2 ^ (w - 1) then (v % 2 ^ w : Nat) else (v % 2 ^ w : Nat) - 2 ^ w

/-- A signed number as a two's complement register value of `w` bits. -/
def ofSigned (w : Nat) (i : Int) : Nat := (i % 2 ^ w).toNat

/-- `i` limited to the signed range of `w` bits. -/
def satSigned (w : Nat) (i : Int) : Int := max (-(2 ^ (w - 1))) (min (2 ^ (w - 1) - 1) i)

/-- `n + 1`, held at the largest value of `w` bits: a counter that saturates. -/
def satInc (w n : Nat) : Nat := if n + 1 < 2 ^ w then n + 1 else 2 ^ w - 1

/-- The first multiple of `g` at or after `n`. -/
def roundUp (g n : Nat) : Nat := (n + (g - 1)) / g * g

/-- A stamp is in the future when (s − now) mod 2^64 lies below 2^63 (R46). -/
def Stamp.future (s now : Stamp) : Bool := (s - now).toNat < 2 ^ 63

/-- The signed distance s − now, read modulo 2^64 (R46). -/
def Stamp.ahead (s now : Stamp) : Int := (s - now).toInt

/-- `a` is at or after `b`, modulo 2^64 (R46). -/
def Stamp.atOrAfter (a b : Stamp) : Bool := Stamp.future a b

/-- The first multiple of 2^`k` at or after a stamp (the grids of R64 all divide 2^64). -/
def Stamp.gridUp (k : Nat) (s : Stamp) : Stamp := ((s + (BitVec.ofNat 64 (2 ^ k - 1))) >>> k) <<< k

end Sys2Proof
end

