-- ==== Sys2Proof/Syntax.lean ====
section
/-! DEFINITION. The commands of the block: one constructor of `Instr` per row of spec/opcode_table.json, with the
operands the spec gives the row, and the types of those operands. -/

namespace Sys2Proof

/-- Engine e (R4). -/
abbrev EngineId := Fin 1024
/-- Global block k (R4). -/
abbrev BlockId := Fin 64
/-- Region n (R4). -/
abbrev RegionId := Fin 8
/-- Feedline t (R4). -/
abbrev FeedlineId := Fin 32
/-- Drive output d (R4). -/
abbrev DriveId := Fin 128
/-- Flux output f (R4). -/
abbrev FluxId := Fin 128
/-- Fabric port p (R4). -/
abbrev PortId := Fin 4
/-- A PCIe function: 0 the physical function, g the guest g (R403, R410). -/
abbrev FuncId := Fin 65
/-- A guest, numbered from 0 here: value i is guest i + 1. -/
abbrev GuestId := Fin 64
/-- A byte offset in the 32 MiB of BAR0 (R497). -/
abbrev BarOffset := BitVec 25

/-- A register page with its instance (R498). -/
inductive Page where
  | chip | timebase
  | fence (g : FuncId)
  | host | guests
  | session (g : GuestId)
  | power
  | feed (i : Fin 2)
  | thermal | security | fabric
  | port (p : PortId)
  | ledger | watch | hbm | nvm
  | region (n : RegionId)
  | transceiver (t : FeedlineId)
  | decision (n : RegionId)
  | acquisition (n : RegionId)
  | porter (n : RegionId)
  | block (k : BlockId)
  | drive (d : DriveId)
  | flux (f : FluxId)
  | dsp (k : BlockId)
  | bank (k : BlockId)
  | cell (e : EngineId)
deriving DecidableEq, Repr

/-- An output with a DAC: drive, probe or flux (R36, R191). -/
inductive OutputId where
  | drive (d : DriveId)
  | probe (t : FeedlineId)
  | flux (f : FluxId)
deriving DecidableEq, Repr

/-- A route register: CELL_ROUTE_c of an engine, or READ_ROUTE_i of an engine (R32, R34). -/
inductive RouteReg where
  | cell (e : EngineId)
  | read (e : EngineId)
deriving DecidableEq, Repr

/-- The output configuration registers whose writes settle (R165, R188). -/
inductive OutCfgReg where
  | mode | fs | pdCtrl
  | pd (k : Fin 4)
deriving DecidableEq, Repr

/-- The sample-domain registers that an unstamped write reaches (R19, R162, R179, R189, R203, R213, R238, R391). -/
inductive UnstampedReg where
  | bias (f : FluxId)
  | outGain (o : OutputId)
  | jumpLead (o : OutputId)
  | rxToneCfg (t : FeedlineId) (slot : Fin 32)
deriving DecidableEq, Repr

/-- The functions of ALU and ALUI, codes 0 to 10 (R106). -/
inductive AluFn where
  | add | sub | and | or | xor | shl | shr | sar | mul | min | max
deriving DecidableEq, Repr

/-- The second operand of CMP, TSET and TNOW: a general register or the immediate, as bit [39] selects (R106). -/
inductive RegOrImm where
  | reg (i : Fin 16)
  | imm (v : Word)
deriving DecidableEq, Repr

/-- A context reference: the CTX field, or a general register when IND = 1 (R93). -/
inductive CtxRef where
  | imm (i : BitVec 17)
  | reg (g : Fin 16)
deriving DecidableEq, Repr

/-- The fields of a timed instruction (R93): TS, TD, TADV, the context and TOFF. -/
structure Timed where
  ts : Fin 4
  td : Fin 4
  tadv : Bool
  ctx : CtxRef
  toff : Word
deriving DecidableEq, Repr

/-- CLS and IDX of a frame instruction (R61, R98): 0 drive, 1 probe, 2 receive tone. -/
structure FrameTarget where
  cls : Fin 3
  idx : BitVec 9
deriving DecidableEq, Repr

/-- The value of SHIFTPH: PH, or G[A] when RS = 1 (R98). -/
inductive PhaseValue where
  | ph (v : BitVec 16)
  | reg (a : Fin 16)
deriving DecidableEq, Repr

/-- The target of CALL (R104): a program index, or a bank word index with LIB = 1. -/
inductive CallTarget where
  | program (i : BitVec 12)
  | library (w : BitVec 18)
deriving DecidableEq, Repr

/-- The two forms of LOOP (R104). -/
inductive LoopForm where
  | init (count : Word)
  | back (target : BitVec 12)
deriving DecidableEq, Repr

/-- The common fields of BRD, BRF, BRT and BRM (R110). -/
structure BranchArgs where
  ts : Fin 4
  dflt : Bool
  keep : Bool
  lat : Fin 4
  mask : BitVec 4
  dgap : BitVec 10
  target : BitVec 12
deriving DecidableEq, Repr

/-- A trigger source (R111, R131): tone unit, raw-input unit or external input. -/
inductive TriggerId where
  | tone (u : Fin 1024)
  | raw (t : FeedlineId)
  | ext (i : Fin 16)
deriving DecidableEq, Repr

/-- The scope of a curfew (R124). -/
inductive CurfewScope where
  | cell | block | region | chip | group
deriving DecidableEq, Repr

/-- How a cell's read of its microword from the control store goes (R132): without error, corrected, or uncorrectable. -/
inductive CsRead where
  | clean | corrected | bad
deriving DecidableEq, Repr

/-- The fields of a microword beside its MOP (R135), and how its read goes (R132). -/
structure MicroArgs where
  a : BitVec 5
  b : BitVec 8
  next : BitVec 13
  read : CsRead
deriving DecidableEq, Repr

/-- An entry of a sequence of the watch (R347): a pulse or a readout of a context, or a change of the frame of the engine's drive (0),
probe (1) or receive (2) tone. -/
inductive WatchStep where
  | play (at' : Stamp) (ctx : BitVec 17)
  | acquire (at' : Stamp) (ctx : BitVec 17)
  | freq (at' : Stamp) (tone : Fin 3) (f : Freq)
  | phase (at' : Stamp) (tone : Fin 3) (set : Bool) (v : Word)
deriving DecidableEq, Repr

/-- An instruction of a block signal processor as fetched, beside its opcode: bits [25:0] (R279), whether its fetch or its bank
read is uncorrectable (R289), and whether its bank access waited longer than 0.625 ns (R292). -/
structure DspArgs where
  w : BitVec 26
  fetchBad : Bool
  bankBad : Bool
  waited : Bool
deriving DecidableEq, Repr

/-- An ECC word of a memory (R305): a 64-bit word of a bank, a region store, a scratchpad or the HBM, a 32-bit word of a control
store or of a program memory. -/
inductive MemWord where
  | bank (k : BlockId) (w : BitVec 18)
  | context (n : RegionId) (w : BitVec 20)
  | weight (n : RegionId) (w : BitVec 18)
  | ledger (n : RegionId) (w : BitVec 19)
  | capture (n : RegionId) (w : BitVec 19)
  | hbm (w : BitVec 32)
  | spad (e : EngineId) (w : BitVec 13)
  | control (k : BlockId) (w : BitVec 13)
  | program (k : BlockId) (w : BitVec 13)
  | strongroom (w : BitVec 15)
deriving DecidableEq, Repr

/-- What a scrub read finds (R305, R306): a clean word, one it corrects, an uncorrectable one, or, in a context or weight store, the hard
failure of the store's decoder (R21). -/
inductive ScrubFound where
  | clean | corrected | bad | decoder
deriving DecidableEq, Repr

/-- What a wipe covers (R308, R309). -/
inductive WipeUnit where
  | hbm
  | region (n : RegionId)
  | block (k : BlockId)
deriving DecidableEq, Repr

/-- How a porter's transfer ends beside the checks of R303: whole, at a 64-byte unit of the source that is uncorrectable, or at a
failed request to host memory after some bytes. -/
inductive PorterEnd where
  | ok
  | ue (unit : BitVec 19)
  | host (moved : BitVec 25)
deriving DecidableEq, Repr

/-- What a delivery of stream data brings into a slot's window (R182, R183): data of the current segment for the samples before an ST,
the opening data of the current segment's NEXT or JUMP target, or those of the target of a STREAM whose slot does not play yet. -/
inductive StreamPart where
  | current (last : Stamp)
  | next
  | jump
  | target
deriving DecidableEq, Repr

/-- What a release finds uncorrectable (R21, R307): nothing, the timetable entry, or envelope data. -/
inductive GateError where
  | none | entry | envelope
deriving DecidableEq, Repr

/-- What a measurement of the watch proposes (R349): a new DF, or a new DISC, with standard errors in 1/256 of the field's unit. -/
inductive WatchValue where
  | freq (df : BitVec 48) (sigma : Nat)
  | disc (bounds : BitVec 96) (sigmaC sigmaTheta : Nat)
deriving DecidableEq, Repr

/-- The header of a received sequenced frame (R378): SEQ, SRC, DST, DLV, DEADLINE or ORIGIN, and the latency from its readiness
stamp (R401). -/
structure FrameHead where
  seq : BitVec 12
  src : BitVec 6
  dst : BitVec 6
  dlv : Bool
  word : BitVec 48
  lat : BitVec 16
deriving DecidableEq, Repr

/-- A shot group of this device: group entry g, or at 256 + e the group of one of engine e (R315, R316). -/
abbrev GroupNo := Fin 1280


/-- A sample of a temperature sensor: 0 to 79 the on-die sensors, 80 to 83 the external inputs, in 0.1 °C (R449, R450). -/
abbrev SensorSample := Fin 84 × BitVec 16

/-- A keeper's readings, as a beat of the lantern carries them (R431, R448): feed in mV, current in 10 mA, die in 0.1 °C. -/
structure KeeperReading where
  mv : BitVec 16
  ca : BitVec 16
  dc : BitVec 16
deriving DecidableEq, Repr

/-- What acts on RESET_N or as a PCIe conventional reset (R485): RESET_N held low for at least 1 µs, its rise, a PCIe reset. -/
inductive ResetPin where
  | low | high | pcie
deriving DecidableEq, Repr

/-- A stage's saved trims (R432): phase balance, compensation, last good VBUS setpoint. -/
structure Trims where
  balance : Word
  compensation : Word
  setpoint : Word
deriving DecidableEq, Repr

def Trims.init : Trims := ⟨0, 0, 0⟩

/-- An output of any kind that can be muted: a DAC output or a marker output (R545). -/
inductive AnyOutput where
  | dac (o : OutputId)
  | marker (m : Fin 16)
deriving DecidableEq, Repr

/-- The commands, one per row of spec/opcode_table.json, in the table's order. -/
inductive Instr where
  /-- REGISTER_WRITE (R9): A host write to a register that has no row of its own is stored, or ignored and counted under its access code. -/
  | registerWrite (fn : FuncId) (x : BarOffset) (v : Word)
  /-- FAULT_WRITE (R510): A host write to a page's FAULT register clears W1C bits and clears FAULT_FIRST.VALID when FAULT is left at zero. -/
  | faultWrite (fn : FuncId) (p : Page) (v : Word)
  /-- PAGE_ENABLE (R446): A write of PAGE_CTRL.ENABLE = 1 moves an OFF page to STARTING, or queues a re-enable during a drain. -/
  | pageEnable (fn : FuncId) (p : Page)
  /-- PAGE_DISABLE (R446): A write of PAGE_CTRL.ENABLE = 0 starts the page's drain, including the drain of its enclosed pages. -/
  | pageDisable (fn : FuncId) (p : Page)
  /-- PAGE_STARTED (R446): A STARTING page's units come up and the page reads READY. -/
  | pageStarted (p : Page)
  /-- PAGE_DRAINED (R446): A page's drain completes and the page reaches OFF, or STARTING under a re-enable. -/
  | pageDrained (p : Page)
  /-- QUIESCE_REQ (R508): A write of QUIESCE_REQ makes the page's engines stop at their next SHOT or HALT and discards held and later start requests. -/
  | quiesceReq (p : Page) (on : Bool)
  /-- ROUTE_WRITE (R30): A write to CELL_ROUTE_c or READ_ROUTE_i changes tone ownership after the RWL and double-ownership checks. -/
  | routeWrite (fn : FuncId) (r : RouteReg) (v : Word)
  /-- MARK_ROUTE_WRITE (R99): A write to CELL.MARK_ROUTE sets marker ownership, or is ignored on a clash. -/
  | markRouteWrite (fn : FuncId) (e : EngineId) (v : Word)
  /-- T_LO_WRITE (R131): A host write to a time register's low word is held in its staging word. -/
  | tLoWrite (fn : FuncId) (e : EngineId) (j : Fin 4) (v : Word)
  /-- T_HI_WRITE (R131): A host write to a time register's high word sets the whole register with the staged low word. -/
  | tHiWrite (fn : FuncId) (e : EngineId) (j : Fin 4) (v : Word)
  /-- OUT_ENABLE (R191): OUT_CMD.ENABLE takes a drive, probe or flux output to LIVE, or is refused. -/
  | outEnable (o : OutputId)
  /-- OUT_MUTE (R191): OUT_CMD.MUTE takes an output to MUTED. -/
  | outMute (o : OutputId)
  /-- OUT_DISABLE (R191): OUT_CMD.DISABLE takes an output to INERT through MUTED. -/
  | outDisable (o : OutputId)
  /-- OUT_CLR_COUNTS (R194): OUT_CMD.CLR_COUNTS clears CLIP_COUNT and every TONE_COUNT of the page. -/
  | outClrCounts (o : OutputId)
  /-- OUTPUT_POWERED (R191): An output enabled from INERT finishes powering its DAC core and becomes LIVE. -/
  | outputPowered (o : OutputId)
  /-- OUT_CFG_WRITE (R165): A write to OUT_CFG, FS, PD_CTRL or PD_k is accepted only while the output is INERT or MUTED and starts settling. -/
  | outCfgWrite (o : OutputId) (r : OutCfgReg) (v : Word)
  /-- OUTPUT_SETTLED (R165): An accepted output configuration write finishes settling, and a waiting ENABLE acts. -/
  | outputSettled (o : OutputId)
  /-- MARK_ENABLE (R545): MARK_CMD.ENABLE makes a marker output LIVE, or is refused. -/
  | markEnable (m : Fin 16)
  /-- MARK_MUTE (R545): MARK_CMD.MUTE makes a marker output MUTED. -/
  | markMute (m : Fin 16)
  /-- MARK_DISABLE (R545): MARK_CMD.DISABLE makes a marker output INERT through MUTED. -/
  | markDisable (m : Fin 16)
  /-- UNSTAMPED_WRITE_APPLY (R19): An unstamped write to a sample-domain register takes effect at an undefined ST within 1 us. -/
  | unstampedWriteApply (r : UnstampedReg) (v : Word)
  /-- CS_REWRITE_DONE (R132): The innkeeper finishes rewriting a control-store word after an uncorrectable read and the cell reads it again. -/
  | csRewriteDone (e : EngineId) (secondReadFails : Bool)
  /-- PACER_SELFCHECK_FAIL (R21): A block pacer self-check failure quarantines its block. -/
  | pacerSelfcheckFail (k : BlockId)
  /-- CLOCK_LOCK_LOSS (R21): A converter-die clock that stays out of lock for 1 ms quarantines its region. -/
  | clockLockLoss (n : RegionId)
  /-- NETWORK_SELFCHECK_FAIL (R21): A region decision-network self-check failure quarantines the region. -/
  | networkSelfcheckFail (n : RegionId)
  /-- REFCLK_FAIL (R44): REFCLK is found absent, out of period or off frequency, so ST_VALID clears, outputs mute and shots void. -/
  | refclkFail
  /-- SYNC_PULSE (R49): A SYNC pulse is loaded into the counter or captured, according to SYNC_MODE. -/
  | syncPulse
  /-- SYNC_ARM (R50): A write of TB_CTRL.SYNC_ARM arms a LOAD, or is refused while an engine runs. -/
  | syncArm (fn : FuncId)
  /-- SYNC_LOST (R52): Two SYNC periods pass without a pulse in CAPTURE mode and SYNC_LOST is set. -/
  | syncLost
  /-- ALIGN_ADD (R51): At the epoch boundary after alignment, the joiner adds ALIGN_OFFSET to its coarse count. -/
  | alignAdd
  /-- CLK_TRIM_WRITE (R53): A write to CLK_TRIM moves every converter clock, or is refused while engines run or outputs are live. -/
  | clkTrimWrite (fn : FuncId) (v : Byte)
  /-- TRIM_SETTLED (R53): The converter clocks settle after an accepted CLK_TRIM write and TRIM_BUSY clears. -/
  | trimSettled
  /-- ST_LO_READ (R47): A read of ST_LO returns ST and latches the high word into ST_HI. -/
  | stLoRead (fn : FuncId)
  /-- SYNC_CAPT_HI_READ (R83): A read of SYNC_CAPT_HI clears TB_STATUS.SYNC_SEEN. -/
  | syncCaptHiRead (fn : FuncId)
  /-- TT_PEEK_READ (R82): A read of TT_PEEK_0 returns the head entry's low word and latches the other three words. -/
  | ttPeekRead (fn : FuncId) (e : EngineId)
  /-- TT_CLEAR_SLACK (R82): TT_CLEAR.SLACK resets SLACK_MIN. -/
  | ttClearSlack (fn : FuncId) (e : EngineId)
  /-- TT_CLEAR_COUNTS (R82): TT_CLEAR.COUNTS clears LATE_COUNT and STALL_COUNT. -/
  | ttClearCounts (fn : FuncId) (e : EngineId)
  /-- TT_CLEAR_FLAGS (R82): TT_CLEAR.FLAGS clears the LATE, ORDER and BURST flags. -/
  | ttClearFlags (fn : FuncId) (e : EngineId)
  /-- RELEASE (R67): The release gate commits a timetable entry when it forms the word that holds the entry's stamp. -/
  | release (e : EngineId) (err : GateError)
  /-- TONE_START (R167): At its stamp a TONE_START makes the tone play its captured context. -/
  | toneStart (e : EngineId)
  /-- WINDOW_OPEN (R97): At its grid point a WINDOW_OPEN opens the readout integration window. -/
  | windowOpen (e : EngineId) (raws : List (BitVec 12)) (bad : Option (Fin 4096))
  /-- FREQ_SET (R57): At its stamp a FREQ_SET replaces the frame frequency word. -/
  | freqSet (e : EngineId)
  /-- PHASE_ADD (R58): At its stamp a PHASE_ADD adds a virtual-Z rotation to the frame phase offset. -/
  | phaseAdd (e : EngineId)
  /-- PHASE_SET (R58): At its stamp a PHASE_SET replaces the frame phase offset. -/
  | phaseSet (e : EngineId)
  /-- MARK (R62): At its marker sample a MARK sets the marker output level. -/
  | mark (e : EngineId)
  /-- STREAM_START (R178): At its stamp a STREAM_START starts a stream, or makes a jump request on a tone that is already streaming. -/
  | streamStart (e : EngineId)
  /-- FLUX_PULSE (R187): At its flux grid point a FLUX_PULSE starts a pulse on the flux output, cutting an earlier one. -/
  | fluxPulse (e : EngineId)
  /-- AVS_INTERVAL_END (R77): At the end of an evaluation interval, voltage scaling may lower VCP by one step. -/
  | avsIntervalEnd
  /-- ANCHOR_PASS (R60): A shot's anchor passes and the frames of the engine's owned tones are latched into its checkpoint. -/
  | anchorPass (e : EngineId)
  /-- FRAME_RESTORE (R60): At the restore point after a void, the checkpointed frames are restored. -/
  | frameRestore (e : EngineId)
  /-- START (R88): CELL.CTRL.START starts a STOPPED engine, or is held or counted as an overrun. -/
  | start (fn : FuncId) (e : EngineId)
  /-- STOP (R91): CELL.CTRL.STOP stops the engine, discards its entries and leases, and ends its open shot. -/
  | stop (fn : FuncId) (e : EngineId)
  /-- CLR_PENDING (R131): CELL.CTRL.CLR_PENDING discards a held start request. -/
  | clrPending (fn : FuncId) (e : EngineId)
  /-- LOAD (R130): CELL.CTRL.LOAD begins a program load into a stopped engine, or is ignored. -/
  | load (fn : FuncId) (e : EngineId)
  /-- LOAD_DONE (R130): A program load finishes, accepted or rejected, and a held start request acts. -/
  | loadDone (e : EngineId)
  /-- NOP (R92): Engine instruction NOP does nothing. -/
  | nop (e : EngineId)
  /-- HALT (R90): Engine instruction HALT closes any open shot, then stops the engine or restarts it from a held request. -/
  | halt (e : EngineId)
  /-- MOVI (R106): Engine instruction MOVI loads an immediate into a general register. -/
  | movi (e : EngineId) (a : Fin 16) (imm : Word)
  /-- ALU (R106): Engine instruction ALU combines two general registers. -/
  | alu (e : EngineId) (f : AluFn) (a b c : Fin 16)
  /-- ALUI (R106): Engine instruction ALUI combines a general register with an immediate. -/
  | alui (e : EngineId) (f : AluFn) (a b : Fin 16) (imm : Word)
  /-- CMP (R106): Engine instruction CMP sets the condition flags from a subtraction. -/
  | cmp (e : EngineId) (b : Fin 16) (x : RegOrImm)
  /-- LDL (R106): Engine instruction LDL loads a local word. -/
  | ldl (e : EngineId) (a b : Fin 16) (imm : Word) (ue : Bool)
  /-- STL (R86): Engine instruction STL stores a local word, and never into the checkpoint area. -/
  | stl (e : EngineId) (a b : Fin 16) (imm : Word)
  /-- LDB (R106): Engine instruction LDB loads half a bank word. -/
  | ldb (e : EngineId) (a b : Fin 16) (hi : Bool) (imm : Word) (ue : Bool)
  /-- STB (R106): Engine instruction STB stores half a bank word. -/
  | stb (e : EngineId) (a b : Fin 16) (hi : Bool) (imm : Word) (mismatch : Bool)
  /-- TSET (R106): Engine instruction TSET sets a time register from another plus an offset. -/
  | tset (e : EngineId) (td ts : Fin 4) (x : RegOrImm)
  /-- TNOW (R106): Engine instruction TNOW sets a time register from the observed ST plus an offset. -/
  | tnow (e : EngineId) (td : Fin 4) (x : RegOrImm)
  /-- PLAY (R95): Engine instruction PLAY checks its context and enqueues a TONE_START or FLUX_PULSE. -/
  | play (e : EngineId) (i : Timed) (ue : Option (Fin 8)) (mismatch : Bool)
  /-- ACQUIRE (R95): Engine instruction ACQUIRE enqueues the probe TONE_START and the WINDOW_OPEN of a readout context. -/
  | acquire (e : EngineId) (i : Timed) (ue : Option (Fin 8)) (mismatch : Bool)
  /-- STREAM (R95): Engine instruction STREAM takes a stream slot and enqueues a STREAM_START. -/
  | stream (e : EngineId) (i : Timed) (ue : Option (Fin 8)) (mismatch : Bool)
  /-- SETFRQ (R98): Engine instruction SETFRQ enqueues a FREQ_SET on an owned tone. -/
  | setfrq (e : EngineId) (ts : Fin 4) (tgt : FrameTarget) (a b : Fin 16) (toff : Word) (mismatch : Bool)
  /-- SHIFTPH (R98): Engine instruction SHIFTPH enqueues a PHASE_ADD or PHASE_SET on an owned tone. -/
  | shiftph (e : EngineId) (ts : Fin 4) (set : Bool) (tgt : FrameTarget) (v : PhaseValue) (toff : BitVec 20) (mismatch : Bool)
  /-- SIGNAL (R99): Engine instruction SIGNAL enqueues a MARK on an owned marker. -/
  | signal (e : EngineId) (ts : Fin 4) (level : Bool) (m : Fin 16) (toff : Word) (mismatch : Bool)
  /-- SENDM (R100): Engine instruction SENDM sends one Nerdar message with an optional deadline. -/
  | sendm (e : EngineId) (ts : Fin 4) (dev : Fin 64) (tag : BitVec 16) (a : Fin 16) (doff : BitVec 16)
  /-- WAITST (R101): Engine instruction WAITST holds the engine until a given ST. -/
  | waitst (e : EngineId) (ts : Fin 4) (toff : Word)
  /-- WAITST_RESUME (R101): An engine held by WAITST resumes once the control plane observes the ST. -/
  | waitstResume (e : EngineId)
  /-- LEASE (R102): Engine instruction LEASE requests, tries or releases a flux output lease. -/
  | lease (e : EngineId) (rel try1 : Bool) (j : Fin 2)
  /-- LEASE_GRANT (R20): A waiting lease request is granted when the holder releases it or the holder's shot ends. -/
  | leaseGrant (f : FluxId)
  /-- WATCH (R103): Engine instruction WATCH grants the watch the engine's owned tones for a window and waits. -/
  | watch (e : EngineId) (ts : Fin 4) (len : BitVec 16) (toff : Word) (seq : List WatchStep)
  /-- WATCH_GRANT_RETURN (R103): The watch returns a grant and the waiting engine continues. -/
  | watchGrantReturn (e : EngineId) (noWork : Bool)
  /-- JUMP (R104): Engine instruction JUMP sets the PC. -/
  | jump (e : EngineId) (target : BitVec 12)
  /-- CALL (R104): Engine instruction CALL pushes the return PC and enters a program or library target. -/
  | call (e : EngineId) (target : CallTarget)
  /-- RET (R104): Engine instruction RET pops the call stack and returns. -/
  | ret (e : EngineId)
  /-- LOOP (R104): Engine instruction LOOP initialises a loop counter or decrements it and branches. -/
  | loop (e : EngineId) (l : Fin 4) (form : LoopForm)
  /-- BRD (R111): Engine instruction BRD arms a branch on a readout tone's decision state. -/
  | brd (e : EngineId) (b : BranchArgs) (remote : Option (Fin 64)) (tone : Fin 1024) (mismatch : Bool)
  /-- BRF (R111): Engine instruction BRF arms a branch on a decision function result. -/
  | brf (e : EngineId) (b : BranchArgs) (remote : Option (Fin 64)) (region : RegionId) (func : Fin 256) (mismatch : Bool)
  /-- BRT (R114): Engine instruction BRT arms a branch on a trigger unit's firing in a span. -/
  | brt (e : EngineId) (b : BranchArgs) (u : TriggerId) (mismatch : Bool)
  /-- BRM (R115): Engine instruction BRM arms a branch on a fabric message in the inbox. -/
  | brm (e : EngineId) (b : BranchArgs) (dev : Fin 64) (tag : BitVec 16) (mismatch : Bool)
  /-- BRC (R120): Engine instruction BRC branches on a bit of the condition word. -/
  | brc (e : EngineId) (cbit : Fin 16) (sense : Bool) (target : BitVec 12)
  /-- DECISION_ARRIVAL (R112): A decision result, trigger delivery or message reaches the engine's branch unit. -/
  | decisionArrival (e : EngineId)
  /-- BRANCH_RESOLVE (R113): At its deadline D the branch resolves and enqueues the chosen path's staged entries. -/
  | branchResolve (e : EngineId) (mismatch : Bool)
  /-- SHOT (R121): Engine instruction SHOT closes the open shot, waits for settlement and opens the next shot with a checkpoint. -/
  | shot (e : EngineId) (endShot : Bool) (ts : Fin 4) (toff : Word) (differ : Bool) (lead : Stamp)
  /-- PREP (R123): Engine instruction PREP declares the shot's preparation routine. -/
  | prep (e : EngineId) (first : Bool) (target : BitVec 12)
  /-- CURFEW (R125): Engine instruction CURFEW makes the engine wait at a barrier of its scope. -/
  | curfew (e : EngineId) (scope : CurfewScope) (tag : BitVec 16)
  /-- CURFEW_RELEASE (R126): Every participant has arrived and the curfew releases all of them with its guarantees. -/
  | curfewRelease (e : EngineId) (peerTag : Option (BitVec 16)) (peerOpen : Bool)
  /-- NOPW (R136): Microword NOPW does nothing. -/
  | nopw (e : EngineId) (m : MicroArgs)
  /-- LDI (R136): Microword LDI loads an immediate into a micro-temporary. -/
  | ldi (e : EngineId) (m : MicroArgs)
  /-- MOV (R136): Microword MOV copies a source into a micro-temporary. -/
  | mov (e : EngineId) (m : MicroArgs)
  /-- MICRO_ALU (R136): Microword ALU combines a micro-temporary with a source and sets the micro-flags. -/
  | microAlu (e : EngineId) (m : MicroArgs)
  /-- ADDI (R136): Microword ADDI adds a signed immediate to a micro-temporary. -/
  | addi (e : EngineId) (m : MicroArgs)
  /-- WRS (R139): Microword WRS writes a micro-temporary to a destination register. -/
  | wrs (e : EngineId) (m : MicroArgs)
  /-- LDRC (R136): Microword LDRC loads the repeat count. -/
  | ldrc (e : EngineId) (m : MicroArgs)
  /-- LOOPRC (R136): Microword LOOPRC steps the repeat count and selects the next address. -/
  | looprc (e : EngineId) (m : MicroArgs)
  /-- CSEL (R135): Microword CSEL selects the next address by a condition. -/
  | csel (e : EngineId) (m : MicroArgs)
  /-- WAITC (R136): Microword WAITC holds until a condition holds, in WAITING mode only. -/
  | waitc (e : EngineId) (m : MicroArgs)
  /-- HOLDOFF (R148): Microword HOLDOFF opens a window in which no stopover is taken. -/
  | holdoff (e : EngineId) (m : MicroArgs)
  /-- MRET (R152): Microword MRET restores the saved micro-state and returns from a stopover. -/
  | mret (e : EngineId) (m : MicroArgs)
  /-- DISP (R136): Microword DISP fetches the next instruction and dispatches to its routine. -/
  | disp (e : EngineId) (m : MicroArgs) (ue : Bool)
  /-- HALTW (R136): Microword HALTW carries out HALT. -/
  | haltw (e : EngineId) (m : MicroArgs)
  /-- FAULT (R153): Microword FAULT sets a CELL.FAULT bit and raises a cell fault. -/
  | faultWord (e : EngineId) (m : MicroArgs)
  /-- PARK (R136): Microword PARK suspends the cell until its curfew releases or its watch grant returns. -/
  | park (e : EngineId) (m : MicroArgs)
  /-- CTXR (R136): Microword CTXR issues a context read into CB and checks the context range. -/
  | ctxr (e : EngineId) (m : MicroArgs)
  /-- CHK (R136): Microword CHK applies the route, class and marker checks to the instruction. -/
  | chk (e : EngineId) (m : MicroArgs)
  /-- TSTAMP (R136): Microword TSTAMP computes the entry's stamp. -/
  | tstamp (e : EngineId) (m : MicroArgs)
  /-- EBLD (R136): Microword EBLD fills the entry builder's kind, class, index and operand. -/
  | ebld (e : EngineId) (m : MicroArgs)
  /-- ENQ (R136): Microword ENQ enqueues the built entry into the timetable and captures the context. -/
  | enq (e : EngineId) (m : MicroArgs) (ue : Option (Fin 8)) (mismatch : Bool)
  /-- TWRT (R136): Microword TWRT writes T[TD] when the instruction asks for it. -/
  | twrt (e : EngineId) (m : MicroArgs)
  /-- RDL (R136): Microword RDL issues a scratchpad local read. -/
  | rdl (e : EngineId) (m : MicroArgs) (ue : Bool)
  /-- WRL (R136): Microword WRL writes a local word. -/
  | wrl (e : EngineId) (m : MicroArgs)
  /-- RDB (R136): Microword RDB issues a read of half a bank word. -/
  | rdb (e : EngineId) (m : MicroArgs) (ue : Bool)
  /-- WRB (R136): Microword WRB writes half a bank word. -/
  | wrb (e : EngineId) (m : MicroArgs) (mismatch : Bool)
  /-- REQ_LEASE (R140): Request code 0x01 issues a lease request. -/
  | reqLease (e : EngineId) (m : MicroArgs)
  /-- REQ_CURFEW (R140): Request code 0x02 issues a curfew arrival. -/
  | reqCurfew (e : EngineId) (m : MicroArgs)
  /-- REQ_SENDM (R140): Request code 0x03 queues a message at the fabric port. -/
  | reqSendm (e : EngineId) (m : MicroArgs)
  /-- REQ_WATCH (R140): Request code 0x04 issues a watch grant. -/
  | reqWatch (e : EngineId) (m : MicroArgs) (seq : List WatchStep)
  /-- REQ_SHOT_OPEN (R140): Request code 0x05 writes the checkpoint and notifies the ledger of a shot open. -/
  | reqShotOpen (e : EngineId) (m : MicroArgs) (differ : Bool) (lead : Stamp)
  /-- REQ_SHOT_CLOSE (R140): Request code 0x06 closes the shot. -/
  | reqShotClose (e : EngineId) (m : MicroArgs)
  /-- REQ_PREP (R140): Request code 0x07 records a PREP declaration. -/
  | reqPrep (e : EngineId) (m : MicroArgs)
  /-- BR_ARM (R141): Request code 0x08 arms the branch unit and stages the first entries of both paths. -/
  | brArm (e : EngineId) (m : MicroArgs) (mismatch : Bool)
  /-- DOORBELL (R149): A host write to CELL.DOORBELL raises the doorbell stopover source. -/
  | doorbell (fn : FuncId) (e : EngineId) (v : Word)
  /-- STOPOVER_TAKE (R151): A pending stopover is taken at a word boundary, saving the micro-state and jumping to its vector. -/
  | stopoverTake (e : EngineId)
  /-- PACE_MODE_CHANGE (R145): A pending pace-mode change is made once every engine of the block is stopped or parked at a curfew. -/
  | paceModeChange (k : BlockId)
  /-- UC_LOAD (R158): BLOCK.UC_CTRL.LOAD begins a microcode image load from HBM. -/
  | ucLoad (k : BlockId)
  /-- UC_STD (R158): BLOCK.UC_CTRL.STD reloads the standard microcode image from NVM. -/
  | ucStd (k : BlockId)
  /-- UC_LOAD_DONE (R159): A microcode load finishes, accepted or rejected, and held start requests act. -/
  | ucLoadDone (k : BlockId)
  /-- SEGMENT_BOUNDARY (R179): A stream reaches a segment boundary and continues at the next repetition, NEXT or a held jump target. -/
  | segmentBoundary (o : OutputId) (slot : Fin 32)
  /-- STREAM_DATA_DELIVERY (R183): HBM delivers requested stream data into a stream slot's window. -/
  | streamDataDelivery (k : BlockId) (slot : Fin 8) (part : StreamPart) (uncorrectable : Bool)
  /-- STREAM_UNDERRUN (R184): A word is formed without its stream data, so it plays zero, the lead doubles and the shot voids. -/
  | streamUnderrun (o : OutputId) (slot : Fin 32)
  /-- INTEGRATOR_LATCH (R210): A window closes and the integrator latches its sum with the window end. -/
  | integratorLatch (u : Fin 1024) (raws : List (BitVec 12)) (bad : Option (Fin 4096))
  /-- RESULT_PUBLISH (R216): A latched result is discriminated and delivered to the decision network, registers, ledger and watch. -/
  | resultPublish (u : Fin 1024)
  /-- DF_EVALUATE (R222): A decision-mode function completes its evaluation for an anchor window end. -/
  | dfEvaluate (n : RegionId) (f : Fin 256)
  /-- DF_TRIGGER_EVAL (R224): A trigger-mode function evaluates at a multiple of 32 ST once its inputs' progress marks have passed. -/
  | dfTriggerEval (n : RegionId) (f : Fin 256)
  /-- DF_DATA (R225): An access to DF_DATA reads or writes a function word, with the configuration checks and autoincrement. -/
  | dfData (fn : FuncId) (n : RegionId) (w : Option Word)
  /-- DF_RESULT_READ (R231): A read of DF_RESULT latches DF_W_LO and DF_W_HI. -/
  | dfResultRead (fn : FuncId) (n : RegionId)
  /-- RES_IQ_READ (R229): A read of RES_IQ_s latches RES_TAG_s and RES_W_s. -/
  | resIqRead (fn : FuncId) (t : FeedlineId) (slot : Fin 32)
  /-- RX_ENABLE (R204): RX_CMD.ENABLE takes a receive input from OFF to CALIBRATING, or is refused. -/
  | rxEnable (t : FeedlineId)
  /-- RX_DISABLE (R204): RX_CMD.DISABLE takes a receive input to OFF. -/
  | rxDisable (t : FeedlineId)
  /-- RECAL (R204): RX_CMD.RECAL takes a LIVE input back to CALIBRATING. -/
  | recal (t : FeedlineId)
  /-- RX_CLR_COUNTS (R229): RX_CMD.CLR_COUNTS clears OVR_COUNT. -/
  | rxClrCounts (t : FeedlineId)
  /-- CAL_ATTEMPT_END (R204): A calibration attempt ends, giving LIVE, another attempt or UNAVAILABLE. -/
  | calAttemptEnd (t : FeedlineId) (success : Bool)
  /-- RX_CHAIN_FAULT (R21): A receive-chain fault is detected and a chain-fault recalibration begins. -/
  | rxChainFault (t : FeedlineId)
  /-- APPLY (R202): CORR_CMD.APPLY, or the watch, requests a copy of the shadow corrections. -/
  | corrApply (t : FeedlineId) (watch : Option (Word × Word × BitVec 12))
  /-- CORR_COPY (R202): The shadow corrections are copied to the active set when no window is open or after 2^20 ST. -/
  | corrCopy (t : FeedlineId)
  /-- CLAMP (R205): A receive input clamps and its samples and neighbours' samples are tagged OVR and OVR_NB. -/
  | clamp (t : FeedlineId) (first last : Stamp)
  /-- TRIGGER_FIRING (R235): A tone or raw-input trigger unit's value crosses its level while armed and it fires. -/
  | triggerFiring (u : TriggerId) (t : Stamp) (raws : List (BitVec 12))
  /-- EXT_TRIGGER_FIRING (R237): An external trigger input holds a level change for GLITCH + 1 samples and its unit fires. -/
  | extTriggerFiring (i : Fin 16) (t : Stamp) (levels : List Bool)
  /-- FIRING_DELIVERY (R238): A firing or progress mark reaches its users in the control plane. -/
  | firingDelivery (u : TriggerId) (mark : Option Stamp)
  /-- CU_EVALUATE (R242): A coincidence unit evaluates an ST once the control plane observes ST beyond it plus LAG. -/
  | cuEvaluate (n : RegionId) (i : Fin 8)
  /-- RECORD_TRIGGER (R246): A record trigger reaches a former and opens, extends or misses a record. -/
  | recordTrigger (k : Fin 1056) (x : Stamp) (delay : BitVec 32)
  /-- SW_TRIG (R246): A host write to SW_TRIG gives a record trigger to the named unit. -/
  | swTrig (fn : FuncId) (n : RegionId) (unit : BitVec 8)
  /-- RECORD_ENQUEUE (R254): A complete record that fits enters the region capture queue. -/
  | recordEnqueue (k : Fin 1056) (raws : List (BitVec 12))
  /-- AUTO_RISE (R255): The capture queue fill exceeds three quarters, or stays there for 100 us, and AUTO rises. -/
  | autoRise (n : RegionId)
  /-- AUTO_FALL (R255): The capture queue fill stays below one quarter for 1 ms and AUTO falls. -/
  | autoFall (n : RegionId)
  /-- FACTOR_ADOPT (R256): A unit with no open record adopts its new recording factor and refills. -/
  | factorAdopt (k : Fin 1056)
  /-- RING_WRITE (R258): The region porter writes a queued record into its owner's ring and advances RING_WR. -/
  | ringWrite (n : RegionId) (owner : FuncId) (ue : Option (Fin 4097 × BitVec 19))
  /-- UNIT_DATA (R263): An access to UNIT_DATA reads or writes a unit word, with the busy and configuration checks. -/
  | unitData (fn : FuncId) (n : RegionId) (w : Option Word)
  /-- DSP_START (R288): DSP.CTRL.START begins execution at START_PC, or is held or ignored. -/
  | dspStart (fn : FuncId) (k : BlockId)
  /-- DSP_CTRL_HALT (R288): DSP.CTRL.HALT stops the processor at the next interruptible boundary. -/
  | dspCtrlHalt (fn : FuncId) (k : BlockId)
  /-- DSP_ABORT (R288): DSP.CTRL.ABORT stops the processor at the next instruction boundary. -/
  | dspAbort (fn : FuncId) (k : BlockId)
  /-- CLR_FLAGS (R292): DSP.CTRL.CLR_FLAGS clears NOTIFY and the sticky SW flags. -/
  | clrFlags (fn : FuncId) (k : BlockId)
  /-- DSP_DOORBELL (R286): A host write to DSP.DOORBELL raises the DOORBELL interrupt source. -/
  | dspDoorbell (fn : FuncId) (k : BlockId) (v : Word)
  /-- PMEM_DATA (R292): An access to PMEM_DATA reads or writes a program-memory instruction, with autoincrement. -/
  | pmemData (fn : FuncId) (k : BlockId) (w : Option Word)
  /-- REG_DATA (R292): An access to REG_DATA reads or writes the selected processor register. -/
  | regData (fn : FuncId) (k : BlockId) (w : Option Word)
  /-- DSP_NOP (R280): Processor instruction NOP does nothing. -/
  | dspNop (k : BlockId) (m : DspArgs)
  /-- DSP_HALT (R280): Processor instruction HALT stops the processor. -/
  | dspHalt (k : BlockId) (m : DspArgs)
  /-- IDLE (R280): Processor instruction IDLE waits for an enabled interrupt source. -/
  | dspIdle (k : BlockId) (m : DspArgs)
  /-- RETI (R280): Processor instruction RETI returns from an interrupt. -/
  | dspReti (k : BlockId) (m : DspArgs)
  /-- DSP_LDI (R280): Processor instruction LDI loads a sign-extended immediate. -/
  | dspLdi (k : BlockId) (m : DspArgs)
  /-- LDIH (R280): Processor instruction LDIH loads the high half of a data register. -/
  | ldih (k : BlockId) (m : DspArgs)
  /-- DSP_ALU (R280): Processor instruction ALU combines two data registers. -/
  | dspAlu (k : BlockId) (m : DspArgs)
  /-- DSP_ALUI (R280): Processor instruction ALUI combines a data register with an immediate. -/
  | dspAlui (k : BlockId) (m : DspArgs)
  /-- LDW (R275): Processor instruction LDW loads a bank word with address update. -/
  | ldw (k : BlockId) (m : DspArgs)
  /-- LDH (R280): Processor instruction LDH loads a sign-extended half word. -/
  | ldh (k : BlockId) (m : DspArgs)
  /-- STW (R280): Processor instruction STW stores a word with address update. -/
  | stw (k : BlockId) (m : DspArgs)
  /-- STH (R280): Processor instruction STH stores a half word. -/
  | sth (k : BlockId) (m : DspArgs)
  /-- MAC (R269): Processor instruction MAC multiplies two halves and sets, adds or subtracts into an accumulator. -/
  | dspMac (k : BlockId) (m : DspArgs)
  /-- ACC (R280): Processor instruction ACC performs its selected accumulator operation. -/
  | dspAcc (k : BlockId) (m : DspArgs)
  /-- EXT (R271): Processor instruction EXT extracts a rounded, limited accumulator value. -/
  | dspExt (k : BlockId) (m : DspArgs)
  /-- ASX (R272): Processor instruction ASX forms both outputs of a radix-2 butterfly. -/
  | asx (k : BlockId) (m : DspArgs)
  /-- BEXP (R273): Processor instruction BEXP takes the minimum of a register and a 32-bit headroom. -/
  | bexp (k : BlockId) (m : DspArgs)
  /-- BEXP2 (R273): Processor instruction BEXP2 takes the minimum with both 16-bit headrooms. -/
  | bexp2 (k : BlockId) (m : DspArgs)
  /-- MAXI (R274): Processor instruction MAXI keeps a running maximum and its index. -/
  | maxi (k : BlockId) (m : DspArgs)
  /-- MINI (R274): Processor instruction MINI keeps a running minimum and its index. -/
  | mini (k : BlockId) (m : DspArgs)
  /-- MOVS (R281): Processor instruction MOVS reads a system register. -/
  | movs (k : BlockId) (m : DspArgs)
  /-- MOVT (R281): Processor instruction MOVT writes a system register. -/
  | movt (k : BlockId) (m : DspArgs)
  /-- BR (R283): Processor instruction BR branches after two delay slots if its condition holds. -/
  | dspBr (k : BlockId) (m : DspArgs)
  /-- DSP_CALL (R280): Processor instruction CALL sets LR and branches after two delay slots. -/
  | dspCall (k : BlockId) (m : DspArgs)
  /-- DSP_RET (R280): Processor instruction RET returns to LR after two delay slots. -/
  | dspRet (k : BlockId) (m : DspArgs)
  /-- RPT (R284): Processor instruction RPT repeats the following body a counted number of times. -/
  | dspRpt (k : BlockId) (m : DspArgs)
  /-- NOTIFY (R280): Processor instruction NOTIFY sets STATUS.NOTIFY and raises the notify interrupt. -/
  | dspNotify (k : BlockId) (m : DspArgs)
  /-- DSP_INTERRUPT (R287): A pending enabled interrupt is taken at an eligible boundary. -/
  | dspInterrupt (k : BlockId)
  /-- DSP_WDOG (R289): No instruction retires for 10 ms in RUNNING and the block is quarantined. -/
  | dspWdog (k : BlockId)
  /-- WATCH_JOB_END (R290): A watch job on a lent processor ends and restores program memory and registers. -/
  | watchJobEnd (k : BlockId) (bank : List (BitVec 14 × Word))
  /-- BAR2_WRITE (R298): A host write through the BAR2 window is stored as a unit or in pieces, or ignored for read-only areas. -/
  | bar2Write (fn : FuncId) (a : BitVec 36) (data : List Byte)
  /-- DESCRIPTOR_FETCH (R302): The porter fetches a descriptor from a queue and advances DQ_HEAD. -/
  | descriptorFetch (n : RegionId) (owner : FuncId)
  /-- DESCRIPTOR_COMPLETE (R302): A porter descriptor completes, STATUS and DONE are written, DQ_DONE advances and interrupts are raised. -/
  | descriptorComplete (n : RegionId) (owner : FuncId) (result : PorterEnd) (hostData : List Byte)
  /-- DQ_DISABLE (R303): A write of DQ_CTRL.EN = 0 ends the queue's descriptors with ABORTED. -/
  | dqDisable (fn : FuncId) (n : RegionId)
  /-- RETEST_DONE (R306): The innkeeper's retest of an uncorrectable word finishes and the word is poisoned or replaced. -/
  | retestDone (m : MemWord) (clean repaired : Bool)
  /-- SCRUB_WRITEBACK (R305): Scrub writes back a corrected word in an idle cycle, unless the word was written since. -/
  | scrubWriteback (m : MemWord)
  /-- WIPE_DONE (R309): A wipe of a unit's memories or of the HBM completes. -/
  | wipeDone (u : WipeUnit)
  /-- LIB_LOAD (R311): BLOCK.LIB_CTRL.LOAD begins a library page load. -/
  | libLoad (k : BlockId)
  /-- LIB_LOAD_DONE (R311): A library page load finishes, accepted or rejected. -/
  | libLoadDone (k : BlockId)
  /-- GRP_DATA (R355): An access to GRP_DATA reads or writes a group entry word, with the stopped and clash checks. -/
  | grpData (fn : FuncId) (w : Option Word)
  /-- MARK_ATT_WRITE (R330): A write to LEDGER.MARK_ATT assigns a marker as a group's MARK_ATTEMPT output, or is refused on a clash. -/
  | markAttWrite (fn : FuncId) (v : Word)
  /-- SHOT_SETTLE (R319): Every running member has closed the shot and every window has delivered, so the shot is settled. -/
  | shotSettle (g : GroupNo) (idle : BitVec 64)
  /-- VOID_EFFECT (R323): A void takes effect at a member, discarding entries, streams and leases and abandoning its routine. -/
  | voidEffect (e : EngineId)
  /-- NEW_START (R327): The lead ledger observes every member restored and computes the replay's new start. -/
  | newStart (g : GroupNo) (idle : BitVec 64) (far : Fin 64)
  /-- REPLAY_START (R121): At the new start members restore from the checkpoint shifted by delta and resume the replay. -/
  | replayStart (g : GroupNo)
  /-- LEDGER_RECORD_WRITE (R339): A waiting shot or tag record is written into its owner's ledger ring once it fits. -/
  | ledgerRecordWrite (owner : FuncId) (ue : Option (Fin 514 × BitVec 19))
  /-- TAKEOVER_DONE (R343): The spare's takeover completes and the crossbar maps it under the cell's address. -/
  | takeoverDone (e : EngineId) (locals : List (BitVec 12)) (ckptBad : Bool)
  /-- SHADOW_COPY_DONE (R342): The background copy of a cell's scratchpad into the spare completes. -/
  | shadowCopyDone (k : BlockId)
  /-- SPARE_ROTATE (R342): After 2^20 shots under shadow the spare moves to the next cell. -/
  | spareRotate (k : BlockId)
  /-- WATCH_PROPOSAL (R349): A watch measurement yields a proposal, which is discarded, clipped or held as a pending update. -/
  | watchProposal (e : EngineId) (i : BitVec 17) (version : BitVec 16) (m : WatchValue)
  /-- WATCH_BUDGET_INTERVAL (R348): A watch accounting interval of 2^34 ST ends and the grant budget is renewed. -/
  | watchBudgetInterval
  /-- WATCH_IDLE_START (R347): The watch begins idle tending on a stopped engine. -/
  | watchIdleStart (e : EngineId) (seq : List WatchStep)
  /-- DAC_TRIM_APPLY (R353): The watch applies a DAC trim at a word in which no tone of the output plays. -/
  | dacTrimApply (o : OutputId) (trim : Word)
  /-- TEND_DATA (R357): An access to TEND_DATA reads or writes a tending word, with autoincrement. -/
  | tendData (fn : FuncId) (w : Option Word)
  /-- LANE_LOSS (R371): A live receive lane is lost on errors, missing markers or loss of signal. -/
  | laneLoss (p : PortId) (l : Fin 4) (errors : BitVec 16)
  /-- WIDTH_CHANGE (R372): At the marker after the LANE_MAP echo both sides change their striping to the new lane set. -/
  | widthChange (p : PortId)
  /-- LANE_READY (R373): A retraining lane finishes locking, adapting and deskewing and is reported ready. -/
  | laneReady (p : PortId) (l : Fin 4) (delay : BitVec 16)
  /-- RETRAIN_RESTART (R373): A lane not ready 2 ms after its loss restarts its retraining every 10 ms. -/
  | retrainRestart (p : PortId) (l : Fin 4)
  /-- EYE_SCAN_DONE (R368): A full eye scan completes and adaptation takes or keeps one trial step. -/
  | eyeScanDone (p : PortId) (eyes : List (BitVec 6 × BitVec 8)) (coef : Word)
  /-- IDLE_WINDOW_END (R369): A 4,096-character window ends and the lane's adaptation freezes or resumes. -/
  | idleWindowEnd (p : PortId) (l : Fin 4) (idle : BitVec 13)
  /-- SLEEP_CTRL_WRITE (R370): A write to SLEEP_CTRL puts transmit lanes to sleep or wakes them. -/
  | sleepCtrlWrite (fn : FuncId) (p : PortId) (v : Word)
  /-- AUTO_SLEEP (R370): After 64 marker periods with no frame the port puts its highest live transmit lanes to sleep. -/
  | autoSleep (p : PortId)
  /-- SLEEP (R370): A receive lane sees the SLEEP character and enters SLEEP. -/
  | sleep (p : PortId) (l : Fin 4)
  /-- LANE_WAKE (R370): A sleeping lane wakes, trains and rejoins the width. -/
  | laneWake (p : PortId) (l : Fin 4) (rx : Bool)
  /-- EPOCH (R362): An EPOCH ordered set is received and its epoch number checked. -/
  | epoch (p : PortId) (number : BitVec 16)
  /-- EPOCH_BOUNDARY (R396): At each epoch boundary members send PRESENT, the chair sends ROUTES and presence is judged. -/
  | epochBoundary (links : List (Fin 64 × PortId × Fin 64))
  /-- HELLO_TIMER (R380): Every 64 marker periods the port sends HELLO. -/
  | helloTimer (p : PortId)
  /-- FRAME_SEND (R386): A transmit direction sends its next frame in priority order. -/
  | frameSend (p : PortId)
  /-- ACK_TIMEOUT (R382): No ACK arrives within ACK_TIMEOUT and unacknowledged frames are sent again. -/
  | ackTimeout (p : PortId)
  /-- ACK (R382): An ACK frame acknowledges frames up to its sequence number. -/
  | ack (p : PortId) (seq : BitVec 12)
  /-- NAK (R382): A NAK frame makes the transmitter resend from the expected number. -/
  | nak (p : PortId) (seq : BitVec 12)
  /-- LANE_MAP (R372): A LANE_MAP frame reports the partner's accepted and ready lanes. -/
  | laneMap (p : PortId) (acc rdy echo : BitVec 4)
  /-- HELLO (R380): A HELLO frame identifies the neighbour and may reveal a second fabric. -/
  | hello (p : PortId) (serial chair : BitVec 64) (id : BitVec 6) (port : PortId)
  /-- STUB (R384): A STUB frame occupies the sequence number of a discarded deadline frame. -/
  | stub (p : PortId) (h : FrameHead)
  /-- MSG (R390): A MSG frame is delivered through the tag table into an engine's inbox. -/
  | msg (p : PortId) (h : FrameHead) (tag group : BitVec 16) (shot : BitVec 48) (attempt : BitVec 4) (v : Word)
  /-- START_FRAME (R390): An engine-start frame is delivered through the tag table as a start request. -/
  | startFrame (p : PortId) (h : FrameHead) (tag : BitVec 16)
  /-- TRIG (R244): A TRIG frame gives a remote event to matching coincidence-unit sources. -/
  | trig (p : PortId) (h : FrameHead) (tag : BitVec 16) (fire : Stamp)
  /-- DEC (R392): A DEC frame stores a remote decision result in a remote slot. -/
  | dec (p : PortId) (h : FrameHead) (fn : Bool) (index : BitVec 11) (v : BitVec 2) (flags : BitVec 4) (group : BitVec 16) (w : Stamp)
  /-- VOID (R331): A VOID ledger frame voids the named attempt of the group on this device. -/
  | voidFrame (p : PortId) (h : FrameHead) (group : BitVec 16) (attempt : BitVec 4) (shot : BitVec 48) (causes : Word)
  /-- READY (R331): A READY ledger frame reports a member device's void effect and takeovers to the lead. -/
  | readyFrame (p : PortId) (h : FrameHead) (group : BitVec 16) (attempt : BitVec 4) (shot : BitVec 48)
  /-- RSTART (R331): An RSTART ledger frame gives member devices the replay's new start. -/
  | rstart (p : PortId) (h : FrameHead) (group : BitVec 16) (attempt : BitVec 4) (shot : BitVec 48) (start : Stamp)
  /-- SETTLE (R332): A SETTLE ledger frame reports a member device's settling to the lead. -/
  | settle (p : PortId) (h : FrameHead) (group : BitVec 16) (attempt : BitVec 4) (shot : BitVec 48)
  /-- OPEN (R332): An OPEN ledger frame lets members open the next shot. -/
  | openFrame (p : PortId) (h : FrameHead) (group : BitVec 16) (attempt : BitVec 4) (shot : BitVec 48)
  /-- JOIN_REQ (R395): A JOIN_REQ frame asks the chair to take in a joiner. -/
  | joinReq (p : PortId) (h : FrameHead) (serial : BitVec 64)
  /-- ADMIT (R395): An ADMIT frame assigns the joiner its fabric ID, capture and admission epoch. -/
  | admitFrame (p : PortId) (h : FrameHead) (id : BitVec 6) (capture epoch : BitVec 64)
  /-- ROUTES (R393): A ROUTES frame installs the route table and serves as the chair's heartbeat. -/
  | routes (p : PortId) (h : FrameHead) (bytes : List Byte)
  /-- PRESENT (R396): A PRESENT frame reports a member's presence to the chair. -/
  | present (p : PortId) (h : FrameHead)
  /-- LOST (R396): A LOST frame declares a device lost and stops groups that include it. -/
  | lost (p : PortId) (h : FrameHead) (id : BitVec 6)
  /-- LEAVE_FRAME (R397): A LEAVE frame announces an orderly departure to the chair. -/
  | leaveFrame (p : PortId) (h : FrameHead)
  /-- SYNC_CAPT (R52): A SYNC_CAPT frame gives the chair's capture for alignment or the running check. -/
  | syncCapt (p : PortId) (h : FrameHead) (capture : Stamp)
  /-- EXPIRY (R384): An EXPIRY frame records cause EXPIRED in the named group's ledger. -/
  | expiry (p : PortId) (h : FrameHead) (type : Byte) (group : BitVec 16)
  /-- MEMBER (R394): A MEMBER frame gives a member's fabric ID and serial. -/
  | member (p : PortId) (h : FrameHead) (id : BitVec 6) (serial : BitVec 64)
  /-- JOIN (R395): FABRIC.FCTRL.JOIN starts the join sequence. -/
  | join (fn : FuncId)
  /-- JOIN_TIMEOUT (R395): A join not complete in time sends JOIN_REQ again or fails to ALONE. -/
  | joinTimeout
  /-- LEAVE (R397): FABRIC.FCTRL.LEAVE stops multi-device groups and sends LEAVE. -/
  | leave (fn : FuncId)
  /-- LEAVE_TIMEOUT (R397): The LOST naming the leaving device arrives, or 1 ms passes, and the device returns to ALONE. -/
  | leaveTimeout
  /-- PORT_CLR_COUNTS (R401): PCMD.CLR_COUNTS clears the port's counters and LAT_MAX. -/
  | portClrCounts (fn : FuncId) (p : PortId)
  /-- TAG_DATA (R390): An access to TAG_DATA reads or writes a tag-table entry, with autoincrement. -/
  | tagData (fn : FuncId) (w : Option Word)
  /-- SUB_DATA (R391): An access to SUB_DATA reads or writes a subscription word, applied unstamped. -/
  | subData (fn : FuncId) (w : Option Word)
  /-- FENCE_REQ (R417): A write to FENCE_REQ issues a fence request, merged when 16 are outstanding. -/
  | fenceReq (fn : FuncId) (v : Word)
  /-- FENCE_COMPLETE (R419): A fence's conditions hold and it completes with write-back, status, tag and interrupt. -/
  | fenceComplete (fn : FuncId)
  /-- FENCE_TIMEOUT (R419): A WAIT fence passes WAIT_LIMIT and completes with TIMEOUT. -/
  | fenceTimeout (fn : FuncId)
  /-- FENCE_RESULT_READ (R424): A read of FENCE_RESULT clears the sticky MERGED bit. -/
  | fenceResultRead (fn : FuncId)
  /-- GDATA (R410): An access to GDATA reads or writes a guest's lease word, accepted only while the guest is OFF. -/
  | gdata (fn : FuncId) (w : Option Word)
  /-- GUEST_ENABLE (R411): A write of EN = 1 checks a guest's leases and starts them, or is refused. -/
  | guestEnable (g : GuestId)
  /-- GUEST_READY (R411): A starting guest's leases are installed and the guest reads READY. -/
  | guestReady (g : GuestId)
  /-- GUEST_DISABLE (R413): A write of EN = 0 starts the guest's drain. -/
  | guestDisable (g : GuestId)
  /-- GUEST_DRAIN_DONE (R413): A guest's drain completes and its state becomes OFF, or starts again under a re-enable. -/
  | guestDrainDone (g : GuestId)
  /-- VF_FLR (R413): A virtual function's Function Level Reset drains the guest and re-enables it with the same leases. -/
  | vfFlr (g : GuestId)
  /-- SRIOV_DISABLE (R415): Disabling SR-IOV or lowering NumVFs drains the guests above the limit. -/
  | sriovDisable (enable : Bool) (numVfs : FuncId)
  /-- FEED_LOW (R434): The active feed reads below 10.2 V for 2 us and triggers a switchover. -/
  | feedLow (mv : BitVec 16) (byCold : Bool)
  /-- FEED_HIGH (R434): The active feed reads above 14.0 V for 2 us and triggers a switchover. -/
  | feedHigh (mv : BitVec 16)
  /-- STAGE_FAULT (R434): The active stage reports a fault and triggers a switchover. -/
  | stageFault
  /-- VBUS_LOW (R434): VBUS falls below 1.62 V and triggers a switchover. -/
  | vbusLow (mv : BitVec 12) (byCold : Bool)
  /-- SWAP (R440): POWER.PCTRL.SWAP requests a planned swap of feeds, or is refused. -/
  | swap (fn : FuncId)
  /-- LOAD_SHED (R438): At H+0 the sample domain freezes, the control plane pauses and every output enters HOLD. -/
  | loadShed
  /-- VBUS_RETURN (R438): VBUS returns within tolerance from the new stage, which becomes ACTIVE. -/
  | vbusReturn (mv : BitVec 12)
  /-- CLOCK_RELOCK (R42): The converter clocks relock with their original alignment after VBUS returns. -/
  | clockRelock
  /-- GATE_RESUME (R438): At W0 the gates resume forming words and the control plane resumes. -/
  | gateResume
  /-- SWITCHOVER_ABANDON (R441): A switchover with no armed stage, no VBUS return or VBUS below 1.30 V is abandoned and the device enters DORMANT. -/
  | switchoverAbandon (mv : BitVec 12)
  /-- DUAL_START_RESOLVE (R437): The former active stage sees its output current below 1 A for 20 us and goes COLD. -/
  | dualStartResolve
  /-- LANTERN (R431): A keeper receives the other keeper's heartbeat. -/
  | lantern (i : Fin 2) (missed : BitVec 16) (handover : Bool) (r : KeeperReading)
  /-- LANTERN_LOST (R431): Four consecutive beats are missed and the keeper sets LANTERN_LOST. -/
  | lanternLost (i : Fin 2)
  /-- TRIM_RECORD (R432): The active stage's trims are recorded into the always-on mirror every second. -/
  | trimRecord (t : Trims) (drifted : Bool) (est : BitVec 16)
  /-- COLD_CHECK (R433): The keeper runs the COLD stage's one-second cold check, arming or disarming it. -/
  | coldCheck (pass : Bool)
  /-- STAGE_ARMED (R442): A stage's feed has been good for 100 ms and the stage becomes COLD. -/
  | stageArmed (i : Fin 2)
  /-- AUX_LOST (R428): One AUX input leaves its range and AUX_LOST is set. -/
  | auxLost (i : Fin 2)
  /-- POWER_LOSS (R428): Both AUX inputs are lost and the device is unpowered. -/
  | powerLoss
  /-- POWER_ON_RESET (R485): An AUX input rises while both were absent and a power-on reset begins. -/
  | powerOnReset (i : Fin 2)
  /-- BOTH_FEEDS_LOST (R444): Both feeds are lost with AUX present and the device enters DORMANT. -/
  | bothFeedsLost (mv : BitVec 12)
  /-- TARGET (R444): A write of POWER.PCTRL.TARGET requests a power-state change, or is refused. -/
  | powerTarget (fn : FuncId) (v : Fin 4)
  /-- POWER_STATE_DONE (R444): A requested power-state change to STANDBY, READY or DORMANT completes. -/
  | powerStateDone (dieTemp : BitVec 16)
  /-- THRESHOLD_FIRE (R456): A sensor dwells eight samples at or above a thermal threshold and the threshold fires. -/
  | thresholdFire (level : Fin 4) (samples : List SensorSample)
  /-- THRESHOLD_CLEAR (R456): Every sensor's last eight samples lie below a threshold's clear level and it clears. -/
  | thresholdClear (level : Fin 3) (samples : List SensorSample)
  /-- CRIT_OUTPUT_MUTE (R457): Under CRIT an output mutes once no owning engine has a shot open. -/
  | critOutputMute (o : AnyOutput)
  /-- SENSOR_BROKEN (R451): A sensor is declared broken and its substitute enters TMAX. -/
  | sensorBroken (i : Fin 80) (cause : Fin 5) (samples : List SensorSample)
  /-- HARD_TRIP (R459): An always-on comparator stays above 128 C for 10 us and cuts both power stages. -/
  | hardTrip (h : Fin 16)
  /-- DORMANT_EXIT (R489): The exit condition of the cause of DORMANT is met and a cold start begins. -/
  | dormantExit (ext : BitVec 16) (below : Bool)
  /-- LIFE_RECORD (R463): Once per hour the lifetime average temperature and powered hours are written to NVM. -/
  | lifeRecord (average : BitVec 16)
  /-- LC (R467): SECURITY.SCMD.LC requests a life-cycle transition with the token at SRC. -/
  | lifeCycle (fn : FuncId)
  /-- PASSPORT (R477): SECURITY.SCMD.PASSPORT signs a passport and writes it to DST. -/
  | passport (fn : FuncId)
  /-- PASSPORT_DONE (R477): A passport is written and CMD_STATUS.DONE is set. -/
  | passportDone
  /-- EXTEND (R475): SECURITY.SCMD.EXTEND extends a host measurement register with the bytes at SRC. -/
  | extend (fn : FuncId)
  /-- SCRAP (R466): SECURITY.SCMD.SCRAP takes a BLANK device to SCRAPPED without a token. -/
  | scrap (fn : FuncId)
  /-- SECURITY_CMD_DONE (R470): A security command's image check completes with OK or a reason. -/
  | securityCmdDone
  /-- MESH_BREACH (R480): The package mesh opens or shorts and the sealed identity key is erased. -/
  | meshBreach
  /-- SUPPLY_GLITCH (R478): An AUX input glitches out of range and the event is logged or draws the full response. -/
  | supplyGlitch
  /-- TEMP_AT_RESET (R478): T_ext out of range at the end of a reset holds the device in reset and logs the event. -/
  | tempAtReset (ext : BitVec 16)
  /-- DEBUG_UNLOCK (R483): The DEBUG_UNLOCK instruction loads a debug token and opens innkeeper debug, or counts as tamper. -/
  | debugUnlock (token : List Byte)
  /-- BYPASS (R482): The boundary-scan BYPASS instruction. -/
  | bypass
  /-- IDCODE (R482): The boundary-scan IDCODE instruction returns the part number and manufacturer code. -/
  | idcode
  /-- SAMPLE_PRELOAD (R482): The boundary-scan SAMPLE/PRELOAD instruction. -/
  | samplePreload
  /-- EXTEST (R482): The boundary-scan EXTEST instruction, acting only with RESET_N low. -/
  | extest
  /-- CLAMP_INSTR (R482): The boundary-scan CLAMP instruction, acting only with RESET_N low. -/
  | clampInstr
  /-- HIGHZ (R482): The boundary-scan HIGHZ instruction, acting only with RESET_N low. -/
  | highz
  /-- EXTEST_PULSE (R482): The IEEE 1149.6 EXTEST_PULSE instruction on the AC-coupled lanes. -/
  | extestPulse
  /-- EXTEST_TRAIN (R482): The IEEE 1149.6 EXTEST_TRAIN instruction on the AC-coupled lanes. -/
  | extestTrain
  /-- COLD_START (R488): The cold-start sequence begins once an AUX input is within range. -/
  | coldStart (ext : BitVec 16) (goodA goodB : Bool) (trimsA trimsB : Trims)
  /-- FIRMWARE_START (R492): The boot ROM verifies a firmware slot and starts it, falls back, or enters recovery. -/
  | firmwareStart (gen : Fin 5) (width : BitVec 5) (refmode : BitVec 2)
  /-- COLD_START_READY (R488): The cold start completes and the device reads READY. -/
  | coldStartReady (dieTemp : BitVec 16) (sealOk : Bool) (bad : List Page)
  /-- RESET_N (R485): RESET_N held low for 1 us, or a PCIe conventional reset, causes a chip reset. -/
  | resetN (pin : ResetPin)
  /-- RESET_CTRL_CHIP (R485): CHIP.RESET_CTRL.CHIP causes a chip reset. -/
  | resetCtrlChip (fn : FuncId)
  /-- REGION_RESET (R486): A RESET_CTRL.REGION bit resets its region. -/
  | regionReset (fn : FuncId) (n : RegionId)
  /-- BLOCK_RST (R486): A BLOCK_RST bit resets its block. -/
  | blockRst (fn : FuncId) (k : BlockId)
  /-- REGION_RESET_DONE (R486): A region bring-up completes and its pages read OFF. -/
  | regionResetDone (n : RegionId) (bad : List Page)
  /-- BLOCK_RESET_DONE (R486): A block bring-up completes and its pages read OFF. -/
  | blockResetDone (k : BlockId) (bad : List Page)
  /-- STAGE (R493): FW_CTRL.STAGE verifies a firmware image and writes it into the inactive slot. -/
  | fwStage (fn : FuncId)
  /-- FW_STAGE_DONE (R493): A staged firmware image finishes verification and writing. -/
  | fwStageDone
  /-- SWITCH (R493): FW_CTRL.SWITCH holds every group at its shot boundary before the firmware switch. -/
  | fwSwitch (fn : FuncId)
  /-- FW_HOLD_REACHED (R493): Every group has reached its boundary and the new firmware takes over. -/
  | fwHoldReached
  /-- FW_HOLD_TIMEOUT (R493): A group fails to reach its boundary within 1 s and the switch is refused. -/
  | fwHoldTimeout
  /-- FW_CONFIRM_TIMEOUT (R493): New firmware that does not report healthy within 2 s is reverted. -/
  | fwConfirmTimeout
  /-- RECOVER (R492): FW_CTRL.RECOVER in recovery verifies an image and writes it into slot A. -/
  | fwRecover (fn : FuncId)
  /-- LOG_DATA (R517): A read of LOG_DATA returns a fault-log word and advances the selection under autoincrement. -/
  | logData (fn : FuncId)
  /-- M_DATA (R484): A read of M_DATA returns a measurement word and advances the selection under autoincrement. -/
  | mData (fn : FuncId)
  /-- SCRUB_READ (R306): Background scrub reads a word and, finding it uncorrectable, starts the innkeeper's retest. -/
  | scrubRead (m : MemWord) (found : ScrubFound)
  /-- WATCH_JOB_START (R290): The innkeeper starts a watch job on a lent, HALTED processor and its STATE reads WATCH. -/
  | watchJobStart (k : BlockId)
  /-- WATCH_YIELD (R290): The watch raises the YIELD interrupt source on a lent processor that is RUNNING or IDLE. -/
  | watchYield (k : BlockId)
  /-- FEED_OUT_OF_RANGE (R448): A keeper's feed leaves the good range of R433, setting UV or OV and disarming a COLD stage so that REDUNDANT falls. -/
  | feedOutOfRange (i : Fin 2) (mv : BitVec 16)
  /-- AUX_RETURN (R524): A lost AUX input comes back within range and its OK bit in POWER.PSTATUS is set again. -/
  | auxReturn (i : Fin 2)
  /-- FW_CONFIRM (R493): New firmware reports itself healthy within 2 s, the boot record names its slot, FW_FLOOR is raised if due and FW_STATUS.ACTIVE changes. -/
  | fwConfirm
  /-- PF_FLR (R485): A Function Level Reset of the physical function causes a chip reset. -/
  | pfFlr
  /-- HOST_LINK_DOWN (R422): The PCIe data link goes down, DL_UP clears and HOST.FAULT.LINK_DOWN is set. -/
  | hostLinkDown
  /-- HOST_LINK_RECOVERY (R422): The PCIe link recovers or retrains, LINK_STATUS is updated and RECOVERY.COUNT rises. -/
  | hostLinkRecovery (gen : Fin 5) (width : BitVec 5) (refmode : BitVec 2)
  /-- IMPORT_DEADLINE_PASS (R390): A deadline frame waiting in a port's import buffer reaches its deadline and is discarded under R385 with EXPIRY sent. -/
  | importDeadlinePass (p : PortId)
  /-- CRC_FAIL_FRAME (R379): A received frame fails its CRC, ends in ABORT or has a reserved field, is discarded, counted in CRC_ERR and answered by NAK. -/
  | crcFailFrame (p : PortId)
  /-- LANE_TRAIN_FAIL (R363): A training lane is found to have a sustained frequency offset or excess skew and never reaches LIVE, setting PORT.FAULT.FREQ or DESKEW. -/
  | laneTrainFail (p : PortId) (l : Fin 4) (skew : Bool)
  /-- TRIGGER_ARMED (R235): A trigger unit's value passes its arming level, so the unit becomes armed and STATUS.ARMED reads 1. -/
  | triggerArmed (u : TriggerId) (t : Stamp) (raws : List (BitVec 12))
  /-- SENSOR_RATE_CHANGE (R450): A sensor's reading enters or leaves the band 6 C below an armed threshold, and its sampling switches between 1 kS/s and 16 kS/s. -/
  | sensorRateChange (i : Fin 80) (samples : List SensorSample)
deriving DecidableEq, Repr

end Sys2Proof
end

