-- ==== Sys2Proof/Decode.lean ====
section
/-! DEFINITION. Decoding. The opcode table gives its rows no bits, so a table word spells no command; an engine's
64-bit instruction word (R92 to R124) and a microword (R135) are decoded here into the commands they spell. -/

namespace Sys2Proof

/-- The command a table word spells: the table gives no row any bits, so none. -/
def decodeTableWord (_nbits _w : Nat) : Option Instr := none

/-- FN codes of R106. -/
def AluFn.ofCode : Nat → Option AluFn
  | 0 => some .add | 1 => some .sub | 2 => some .and | 3 => some .or | 4 => some .xor | 5 => some .shl
  | 6 => some .shr | 7 => some .sar | 8 => some .mul | 9 => some .min | 10 => some .max | _ => none

/-- SCOPE codes of R124. -/
def CurfewScope.ofCode : Nat → Option CurfewScope
  | 0 => some .cell | 1 => some .block | 2 => some .region | 3 => some .chip | 4 => some .group | _ => none

/-- The OP values that R92 lists. -/
def opListed (op : Nat) : Bool :=
  op ≤ 0x0B || (0x10 ≤ op && op ≤ 0x19) || (0x20 ≤ op && op ≤ 0x23) || (0x30 ≤ op && op ≤ 0x34)
    || (0x38 ≤ op && op ≤ 0x3A)

/-- The fields of a timed instruction word (R93); none where a bit that must be 0 is 1. -/
def decodeTimed (n : Nat) : Option Timed :=
  let ctx := bitsOf n 49 32
  let mk (c : CtxRef) : Timed :=
    ⟨Fin.ofNat 4 (bitsOf n 55 54), Fin.ofNat 4 (bitsOf n 53 52), bitOf n 51 = 1, c, BitVec.ofNat 32 n⟩
  if bitOf n 50 = 1 then (if ctx / 16 = 0 then some (mk (.reg (Fin.ofNat 16 ctx))) else none)
  else if ctx / 2 ^ 17 = 0 then some (mk (.imm (BitVec.ofNat 17 ctx))) else none

/-- The common branch fields of R110. -/
def decodeBranch (n : Nat) : BranchArgs :=
  ⟨Fin.ofNat 4 (bitsOf n 55 54), bitOf n 53 = 1, bitOf n 52 = 1, Fin.ofNat 4 (bitsOf n 51 50),
   BitVec.ofNat 4 (bitsOf n 49 46), BitVec.ofNat 10 (bitsOf n 45 36), BitVec.ofNat 12 (bitsOf n 35 24)⟩

/-- REMOTE and DEV of a branch source (R111). -/
def decodeRemote (n : Nat) : Option (Fin 64) := if bitOf n 23 = 1 then some (Fin.ofNat 64 (bitsOf n 22 17)) else none

/-- An engine's instruction word as the command it spells (R92 to R124). The error is the loader's REASON of R130:
1 for a reserved opcode, 2 for a 1 in a reserved bit or a reserved field value. Bits that no field of the form in use
names count as reserved. -/
def decodeEng (e : EngineId) (w : DWord) : Except Nat Instr :=
  let n := w.toNat
  let A := Fin.ofNat 16 (bitsOf n 55 52)
  let B := Fin.ofNat 16 (bitsOf n 51 48)
  let C := Fin.ofNat 16 (bitsOf n 47 44)
  let imm := BitVec.ofNat 32 n
  let t2 := Fin.ofNat 4 (bitsOf n 55 54)
  let tgt := BitVec.ofNat 12 (bitsOf n 35 24)
  let zero (hi lo : Nat) : Bool := bitsOf n hi lo = 0
  let ok (c : Bool) (i : Instr) : Except Nat Instr := if c then .ok i else .error 2
  let src : RegOrImm := if bitOf n 39 = 1 then .reg B else .imm imm
  match bitsOf n 63 56 with
  | 0x00 => ok (zero 55 0) (.nop e)
  | 0x01 => ok (zero 55 0) (.halt e)
  | 0x02 => ok (zero 51 32) (.movi e A imm)
  | 0x03 => match AluFn.ofCode (bitsOf n 43 40) with
    | some f => ok (zero 39 0) (.alu e f A B C)
    | none => .error 2
  | 0x04 => match AluFn.ofCode (bitsOf n 43 40) with
    | some f => ok (zero 47 44 && zero 39 32) (.alui e f A B imm)
    | none => .error 2
  | 0x05 => ok (zero 55 52 && zero 43 40 && zero 38 32)
      (.cmp e B (if bitOf n 39 = 1 then .imm imm else .reg C))
  | 0x06 => ok (zero 47 32) (.ldl e A B imm false)
  | 0x07 => ok (zero 47 32) (.stl e A B imm)
  | 0x08 => ok (zero 47 40 && zero 38 32) (.ldb e A B (bitOf n 39 = 1) imm false)
  | 0x09 => ok (zero 47 40 && zero 38 32) (.stb e A B (bitOf n 39 = 1) imm false)
  | 0x0A => ok (zero 47 40 && zero 38 32) (.tset e (Fin.ofNat 4 (bitsOf n 55 54)) (Fin.ofNat 4 (bitsOf n 53 52)) src)
  | 0x0B => ok (zero 53 52 && zero 47 40 && zero 38 32) (.tnow e (Fin.ofNat 4 (bitsOf n 55 54)) src)
  | 0x10 => match decodeTimed n with | some i => .ok (.play e i none false) | none => .error 2
  | 0x11 => match decodeTimed n with | some i => .ok (.acquire e i none false) | none => .error 2
  | 0x12 => match decodeTimed n with | some i => .ok (.stream e i none false) | none => .error 2
  | 0x13 => ok (zero 53 52 && bitsOf n 51 49 ≤ 2)
      (.setfrq e t2 ⟨Fin.ofNat 3 (bitsOf n 51 49), BitVec.ofNat 9 (bitsOf n 48 40)⟩
        (Fin.ofNat 16 (bitsOf n 39 36)) (Fin.ofNat 16 (bitsOf n 35 32)) imm false)
  | 0x14 => ok (bitsOf n 51 49 ≤ 2)
      (.shiftph e t2 (bitOf n 53 = 1) ⟨Fin.ofNat 3 (bitsOf n 51 49), BitVec.ofNat 9 (bitsOf n 48 40)⟩
        (if bitOf n 52 = 1 then .reg (Fin.ofNat 16 (bitsOf n 39 36)) else .ph (BitVec.ofNat 16 (bitsOf n 35 20)))
        (BitVec.ofNat 20 n) false)
  | 0x15 => ok (zero 53 53 && zero 47 32) (.signal e t2 (bitOf n 52 = 1) B imm false)
  | 0x16 => ok (zero 11 0) (.sendm e t2 (Fin.ofNat 64 (bitsOf n 53 48)) (BitVec.ofNat 16 (bitsOf n 47 32))
      (Fin.ofNat 16 (bitsOf n 31 28)) (BitVec.ofNat 16 (bitsOf n 27 12)))
  | 0x17 => ok (zero 53 32) (.waitst e t2 imm)
  | 0x18 => ok (zero 53 49 && zero 47 0) (.lease e (bitOf n 55 = 1) (bitOf n 54 = 1) (Fin.ofNat 2 (bitOf n 48)))
  | 0x19 => ok (zero 53 48) (.watch e t2 (BitVec.ofNat 16 (bitsOf n 47 32)) imm [])
  | 0x20 => ok (zero 55 36 && zero 23 0) (.jump e tgt)
  | 0x21 =>
    if bitOf n 55 = 1 then ok (zero 54 18) (.call e (.library (BitVec.ofNat 18 n)))
    else ok (zero 54 36 && zero 23 0) (.call e (.program tgt))
  | 0x22 => ok (zero 55 0) (.ret e)
  | 0x23 =>
    if bitOf n 53 = 1 then ok (zero 52 32) (.loop e t2 (.init imm))
    else ok (zero 52 36 && zero 23 0) (.loop e t2 (.back tgt))
  | 0x30 => ok (zero 16 10) (.brd e (decodeBranch n) (decodeRemote n) (Fin.ofNat 1024 (bitsOf n 9 0)) false)
  | 0x31 => ok (zero 16 11) (.brf e (decodeBranch n) (decodeRemote n) (Fin.ofNat 8 (bitsOf n 10 8))
      (Fin.ofNat 256 (bitsOf n 7 0)) false)
  | 0x32 =>
    match bitsOf n 11 10 with
    | 0 => ok (zero 23 12) (.brt e (decodeBranch n) (.tone (Fin.ofNat 1024 (bitsOf n 9 0))) false)
    | 1 => ok (zero 23 12 && bitsOf n 9 0 < 32) (.brt e (decodeBranch n) (.raw (Fin.ofNat 32 (bitsOf n 9 0))) false)
    | 2 => ok (zero 23 12 && bitsOf n 9 0 < 16) (.brt e (decodeBranch n) (.ext (Fin.ofNat 16 (bitsOf n 9 0))) false)
    | _ => .error 2
  | 0x33 => ok (zero 23 23 && zero 16 16)
      (.brm e (decodeBranch n) (Fin.ofNat 64 (bitsOf n 22 17)) (BitVec.ofNat 16 (bitsOf n 15 0)) false)
  | 0x34 => ok (zero 50 36 && zero 23 0) (.brc e A (bitOf n 51 = 1) tgt)
  | 0x38 => ok (zero 54 54 && zero 51 32) (.shot e (bitOf n 55 = 1) (Fin.ofNat 4 (bitsOf n 53 52)) imm false 0)
  | 0x39 => ok (zero 54 36 && zero 23 0) (.prep e (bitOf n 55 = 1) tgt)
  | 0x3A => match CurfewScope.ofCode (bitsOf n 55 53) with
    | some sc => ok (zero 52 48 && zero 31 0) (.curfew e sc (BitVec.ofNat 16 (bitsOf n 47 32)))
    | none => .error 2
  | _ => .error 1

/-- The fields of a microword beside its MOP (R135). -/
def decodeMicroArgs (w : Word) : MicroArgs :=
  ⟨BitVec.ofNat 5 (bitsOf w.toNat 25 21), BitVec.ofNat 8 (bitsOf w.toNat 20 13), BitVec.ofNat 13 w.toNat, .clean⟩

/-- A microword as the command it spells (R135, R136, R140); none for a reserved MOP or request code. -/
def decodeMicro (e : EngineId) (w : Word) : Option Instr :=
  let m := decodeMicroArgs w
  match bitsOf w.toNat 31 26 with
  | 0x00 => some (.nopw e m) | 0x01 => some (.ldi e m) | 0x02 => some (.mov e m) | 0x03 => some (.microAlu e m)
  | 0x04 => some (.addi e m) | 0x05 => some (.wrs e m) | 0x06 => some (.ldrc e m) | 0x07 => some (.looprc e m)
  | 0x08 => some (.csel e m) | 0x09 => some (.waitc e m) | 0x0A => some (.holdoff e m) | 0x0B => some (.mret e m)
  | 0x0C => some (.disp e m false) | 0x0D => some (.haltw e m) | 0x0E => some (.faultWord e m) | 0x0F => some (.park e m)
  | 0x10 => some (.ctxr e m) | 0x11 => some (.chk e m) | 0x12 => some (.tstamp e m) | 0x13 => some (.ebld e m)
  | 0x14 => some (.enq e m none false) | 0x15 => some (.twrt e m) | 0x18 => some (.rdl e m false) | 0x19 => some (.wrl e m)
  | 0x1A => some (.rdb e m false) | 0x1B => some (.wrb e m false)
  | 0x20 => match m.b.toNat with
    | 1 => some (.reqLease e m) | 2 => some (.reqCurfew e m) | 3 => some (.reqSendm e m) | 4 => some (.reqWatch e m [])
    | 5 => some (.reqShotOpen e m false 0) | 6 => some (.reqShotClose e m) | 7 => some (.reqPrep e m) | 8 => some (.brArm e m false)
    | _ => none
  | _ => none

/-- An instruction word of a block signal processor as the command it spells: OP [31:26] and the fields of its format (R279, R280); none
for a reserved opcode. -/
def decodeDsp (k : BlockId) (w : Word) : Option Instr :=
  let m : DspArgs := ⟨BitVec.ofNat 26 w.toNat, false, false, false⟩
  match bitsOf w.toNat 31 26 with
  | 0x00 => some (.dspNop k m) | 0x01 => some (.dspHalt k m) | 0x02 => some (.dspIdle k m) | 0x03 => some (.dspReti k m)
  | 0x04 => some (.dspLdi k m) | 0x05 => some (.ldih k m) | 0x06 => some (.dspAlu k m) | 0x07 => some (.dspAlui k m)
  | 0x08 => some (.ldw k m) | 0x09 => some (.ldh k m) | 0x0A => some (.stw k m) | 0x0B => some (.sth k m)
  | 0x0C => some (.dspMac k m) | 0x0D => some (.dspAcc k m) | 0x0E => some (.dspExt k m) | 0x0F => some (.asx k m)
  | 0x10 => some (.bexp k m) | 0x11 => some (.bexp2 k m) | 0x12 => some (.maxi k m) | 0x13 => some (.mini k m)
  | 0x14 => some (.movs k m) | 0x15 => some (.movt k m) | 0x18 => some (.dspBr k m) | 0x19 => some (.dspCall k m)
  | 0x1A => some (.dspRet k m) | 0x1B => some (.dspRpt k m) | 0x1C => some (.dspNotify k m)
  | _ => none

end Sys2Proof
end

