-- ==== Sys2Proof/Config.lean ====
section
/-! DEFINITION. What the spec fixes by figures or leaves open: functions with no body, so that no proof can lean on a
value of them. -/

namespace Sys2Proof

/-- SHAKE256 with a 64-byte output (FIPS 202), as a number of 512 bits, byte 0 lowest (R475). -/
opaque Config.shake256 : List Byte → BitVec 512

/-- Whether an SLH-DSA signature verifies for a public key over a message (FIPS 205; R468 to R471). -/
opaque Config.verifies : (key message signature : List Byte) → Bool

/-- The signature of a passport by the identity's private key, as the strongroom holds it (R474, R476). -/
opaque Config.passportSignature : (key body : List Byte) → List Byte

/-- The 8 bytes of context of a measurement that names more than one thing: the boot ROM's and the firmware's KIND and EPOCH, a
library load's block and page, an event's code (R475 gives no layout). -/
opaque Config.measureContext : List Nat → Nat

/-- The record of an event that M6 measures: its kind and detail (R475 gives no layout). -/
opaque Config.eventRecord : (kind : Nat) → (detail : List Nat) → List Byte

/-- The boot ROM's image, which M0 measures first (R475). -/
opaque Config.bootRom : List Byte

/-- The IDCODE of a part number (R482: the manufacturer code stands in the boundary-scan description file). -/
opaque Config.idcode : (part : Nat) → BitVec 32

/-- The public key of the n-th identity the device generates (R473). -/
opaque Config.identityKey : Nat → BitVec 512

/-- The private key of the n-th identity the device generates (R473). -/
opaque Config.privateKey : Nat → List Byte

/-- The authenticated cipher that seals a private key under the sealing key, and its opening (R473 names no cipher). -/
opaque Config.sealUp : (key plain : List Byte) → List Byte
opaque Config.unseal : (key blob : List Byte) → List Byte

/-- The n-th random draw of the device, by word (R473, R488). -/
opaque Config.random : (draw word : Nat) → BitVec 32

/-- A free value: the n-th one drawn. Used where the spec states no value. -/
opaque Config.freeValue : Nat → BitVec 64

/-- The word LDL reads from the checkpoint area after the n-th checkpoint: the layout of the area is not stated (R85). -/
opaque Config.checkpointWord : (n index : Nat) → BitVec 32

/-- The taps of the envelope resampler: 32 coefficients for each of its 1,024 phases (R169 gives their figures only). -/
opaque Config.resamplerTap : (phase i : Nat) → Rat

/-- The envelope sample under tap 0, counted from the sample at or before the position (R169: the delay is compensated). -/
opaque Config.firstTap : Int

/-- The cosine and sine of a phase of 20 bits, as the synthesis and mixing paths use them (R55 gives no word length for them). -/
opaque Config.oscillator : (phase : Nat) → Rat × Rat

/-- The fractional-delay filter that retimes the samples of core 1 by SKEW: its output at an index of the stream (R201 gives no taps). -/
opaque Config.skewFilter : (skew : Int) → (stream : List Int) → (index : Nat) → Int

/-- The taps of the channelizer's prototype filter over its 1,024 input samples (R208 gives its figures only). -/
opaque Config.prototypeTap : (i : Nat) → Rat

/-- The anti-alias filter of a record former that records one sample in 2^`dl`: its output at an index of the stream (R247 gives its
figures only). -/
opaque Config.antiAlias : (dl : Nat) → (stream : List Int) → (index : Nat) → Int

/-- The phase of a sample that is 0, in 1/65,536 turn (R234 states no direction for it). -/
opaque Config.zeroPhase : Int

/-- The value of a unit's quantity on a recorded sample where R234 gives none: RAW of a tone unit, a tone quantity of a
raw-input unit, or a reserved QTY (R253). -/
opaque Config.quantityOf : (qty : Nat) → (i q : Int) → Int

/-- The crossing time of LEVEL at a firing whose sample equals the one before it (R253). -/
opaque Config.flatCrossing : Nat → Rat

end Sys2Proof
end

