-- ==== Sys2Proof/Machine/State.lean ====
section
/-! DEFINITION. The state of the device as plain data: the register fields, the memories and word tables, and the
internal state of engines, tones, outputs, groups and every other unit of the spec; the queue of commands; reset. -/

namespace Sys2Proof.Machine

/-! Register fields -/

/-- The access codes of R9. -/
inductive Access where
  | ro | rw | w1c | w1s | wo | rwl
deriving DecidableEq, Repr

/-- A register field of a page (R8, R9, R10): byte offset in the page, lowest bit, width, access code, reset value. -/
structure Field where
  off : Nat
  lo : Nat
  width : Nat
  acc : Access
  reset : Nat
deriving DecidableEq, Repr

/-- A row of a page's field table: a field repeated `count` times at `stride` bytes. -/
structure FieldRow where
  field : Field
  count : Nat
  stride : Nat
deriving DecidableEq, Repr

/-- A sparse store of values by number, in ascending order of the number. -/
abbrev Store (α : Type) := List (Nat × α)

/-! The timetable and the engines (R61, R62, R84, R133) -/

/-- The event kinds of R62. -/
inductive EntryKind where
  | toneStart | windowOpen | freqSet | phaseAdd | phaseSet | mark | streamStart | fluxPulse
deriving DecidableEq, Repr

/-- The target classes of R61. -/
inductive TargetClass where
  | drive | probe | receive | flux | marker
deriving DecidableEq, Repr

/-- A timetable entry (R61) with the context captured at its enqueue (R63); `watch` marks an entry of the watch (R347),
`slot` the stream slot it took (R181), `silent` an entry refused by the envelope budget (R173). -/
structure Entry where
  stamp : Stamp
  kind : EntryKind
  cls : TargetClass
  index : Nat
  operand : BitVec 48
  ctx : BitVec 512
  slot : Option Nat
  watch : Bool
  silent : Bool
deriving DecidableEq, Repr

/-- A fabric message in an inbox (R84), with its arrival ST (R115) and the attempt it carries (R329). -/
structure InMsg where
  tag : Nat
  dev : Nat
  payload : Word
  arrival : Stamp
  attempt : Option (Nat × Nat × Nat)
deriving DecidableEq, Repr

/-- A return point on the call stack: PC and, for a library page, its number (R84, R87). -/
structure ReturnPoint where
  pc : Nat
  page : Option Nat
deriving DecidableEq, Repr

/-- F and P of a phase frame (R54). -/
structure PhaseFrame where
  f : Freq
  p : Word
deriving DecidableEq, Repr

/-- A checkpoint (R122). `frames` holds (tone number, frame) pairs once they are latched (R60). -/
structure Checkpoint where
  g : List Word
  t : List Stamp
  l : List Word
  cw : Nat
  ret : ReturnPoint
  stack : List ReturnPoint
  prep : Option ReturnPoint
  ts : Nat
  frames : List (Nat × PhaseFrame)
  latched : Bool
deriving DecidableEq, Repr

/-- What an engine does when the shot it has closed is settled (R90, R121, R319); `lead` is the anchor of the next shot where the group's
lead engine is on another device (R320). -/
inductive AfterClose where
  | openNext (ts : Nat) (toff : Word) (lead : Stamp)
  | proceed
  | halt
deriving DecidableEq, Repr

/-- What a waiting engine waits for. -/
inductive Wait where
  | none
  | space (rest : List Entry) (td : Option (Nat × Stamp))
  | streamSlot (rest : List Entry) (td : Option (Nat × Stamp))
  | lease (j : Nat)
  | until (s : Stamp)
  | settle (next : AfterClose)
  | curfew (scope : CurfewScope) (tag : Nat)
  | grant (first last : Stamp)
  | branch
  | send (dests : List Nat) (tag : Nat) (payload : Word) (deadline : Option Stamp)
  | newStart
deriving DecidableEq, Repr

/-- The entries a branch unit has staged for one path (R141): `tWrite` its T[TD] write, `fault` a failed check's
CELL.FAULT bit, `ecc` an uncorrectable context, `built` whether the path's first instruction could be staged. -/
structure Staged where
  built : Bool
  entries : List Entry
  tWrite : Option (Nat × Stamp)
  fault : Option Nat
  ecc : Bool
deriving DecidableEq, Repr

/-- The source a branch names (R111). -/
inductive BranchSource where
  | tone (dev : Option Nat) (u : Nat)
  | func (dev : Option Nat) (region func : Nat)
  | trigger (u : TriggerId)
  | message (dev tag : Nat)
deriving DecidableEq, Repr

/-- What the branch unit still has to do for a resolved branch (R141): the staged entries not enqueued yet, the T[TD] write of the path's
first instruction, the PC past it and the outcome. -/
structure BranchTail where
  rest : List Entry
  tWrite : Option (Nat × Stamp)
  pc : Nat
  taken : Bool
deriving DecidableEq, Repr

/-- An armed branch (R110 to R113). -/
structure Branch where
  src : BranchSource
  ts : Nat
  ref : Stamp
  dflt : Bool
  keep : Bool
  mask : Nat
  play : Stamp
  result : Option Nat
  missed : Bool
  taken : Staged
  fallen : Staged
  target : Nat
  next : Nat
deriving DecidableEq, Repr

/-- A builder set (R133, R134): context buffer, entry builder, read result and their condition flags, that of ENQ among them (R138), and
whether the buffer's context was uncorrectable (R307). -/
structure Builder where
  cb : BitVec 512
  eb : BitVec 128
  ebCtx : Bool
  lres : DWord
  cbrdy : Bool
  ldone : Bool
  enqfail : Bool
  cbBad : Bool
deriving DecidableEq, Repr

/-- A stopover save slot (R151), with the source whose trap routine was entered. -/
structure SaveSlot where
  upc : Nat
  u : List Word
  mf : Nat
  rc : Nat
  src : Nat
deriving DecidableEq, Repr

/-- The micro-state of a cell (R133): µPC, U0 to U3, MF, RC, IR, the builder sets of levels 0 to 2, the save slots, the
time staging register (R139), the open holdoff window (R148) and the request flags (R138); whether the curfew or the grant waited for was
requested by a microword, and whether a PARK holds the cell at it (R136, R145); whether an uncorrectable word of the control store holds
the cell (R132). -/
structure Micro where
  upc : Nat
  u : List Word
  mf : Nat
  rc : Nat
  ir : DWord
  builders : List Builder
  slots : List SaveSlot
  tLow : Word
  holdoff : Nat
  udone : Bool
  uok : Bool
  branchDone : Bool
  branchTaken : Bool
  inFaultTrap : Bool
  reqWait : Bool
  parked : Bool
  csHeld : Bool
deriving DecidableEq, Repr

/-- The state of a cell that no register shows directly; the spare of block k has the record 1,024 + k (R14). `due` holds the entries committed by the gate whose stamps
have not acted yet (R67); `word` and `inWord` count commitments into one word (R68); `streamsEnd` is the first sample word
without the streams a void ended (R186); `tail` is what the branch unit still has to do (R141), `missDue` a deadline miss whose stopover
waits for the abandonment of its shot (R154). -/
structure Engine where
  page : Nat
  stack : List ReturnPoint
  inbox : List InMsg
  timetable : List Entry
  due : List Entry
  lastStamp : Option Stamp
  released : Option Stamp
  word : Stamp
  inWord : Nat
  stagedLow : List (Option Word)
  ckpt : Option Checkpoint
  wait : Wait
  branch : Option Branch
  tail : Option BranchTail
  missDue : Bool
  closed : Bool
  voided : Bool
  restored : Bool
  micro : Micro
  tending : Bool
  grantUsed : Nat
  openTime : Nat
  openTimeLast : Nat
  shotOpenedAt : Stamp
  streamsEnd : Option Stamp
  byMicro : Bool
  ckptNo : Option Nat
  loadFrom : Nat
  loadLen : Nat
deriving DecidableEq, Repr

def Builder.init : Builder := ⟨0, 0, false, 0, false, false, false, false⟩
def SaveSlot.init : SaveSlot := ⟨0, [0, 0, 0, 0], 0, 0, 0⟩
def Micro.init : Micro :=
  ⟨0, [0, 0, 0, 0], 0, 0, 0, [.init, .init, .init], [.init, .init], 0, 0, false, false, false, false, false, false, false, false⟩
/-- An engine after a reset that includes its cell (R84). -/
def Engine.init : Engine :=
  ⟨0, [], [], [], [], none, none, 0, 0, [none, none, none, none], none, .none, none, none, false, false, false, false, .init,
   false, 0, 0, 0, 0, none, false, none, 0, 0⟩

/-! Tones and outputs (R54, R167, R174, R187, R97) -/

/-- A pulse that plays on a tone or a flux output: its captured context, its start and the first sample after it, the
engine that released it, whether it plays a zero envelope (R173). -/
structure Pulse where
  ctx : BitVec 512
  start : Stamp
  stop : Stamp
  engine : Nat
  silent : Bool
deriving DecidableEq, Repr

/-- A held jump request (R178, R180): arrival time, target descriptor, whether it came from the engine, its slot, and
whether it came too late for the coming boundary, once that is known (R179). -/
structure JumpReq where
  arrival : Stamp
  target : Nat
  fromEngine : Bool
  slot : Option Nat
  verdict : Option Bool
deriving DecidableEq, Repr

/-- A playing stream (R174 to R186): `seg` the current descriptor in 64-byte units, `segStart` the first sample of the
current repetition, `rep` the repetitions played of the segment, `coming` the trigger requests that have not arrived yet (R178). Its
window (R182): `upTo` the first sample whose data are not in it, `openNext` and `openJump` whether it holds the opening data of NEXT and
JUMP (with an uncorrectable error or not), `rotten` the spans of samples whose data are uncorrectable (R307); `zero` the words formed
without their data (R184). -/
structure Streaming where
  ctx : BitVec 512
  start : Stamp
  stop : Stamp
  engine : Nat
  slot : Nat
  seg : Nat
  segStart : Stamp
  rep : Nat
  jump : Option JumpReq
  coming : List JumpReq
  upTo : Stamp
  openNext : Option Bool
  openJump : Option Bool
  rotten : List (Stamp × Stamp)
  zero : List Stamp
  silent : Bool
deriving DecidableEq, Repr

/-- An open integration window on a receive tone (R97, R210): open ST g, end W, the engine, its flags so far, the weights
overwritten since it opened (samples integrated by then, weight index, old value; oldest first, R212), the shot and attempt
the engine had open. -/
structure OpenWindow where
  ctx : BitVec 512
  opened : Stamp
  close : Stamp
  engine : Nat
  flags : Nat
  olds : List (Nat × Nat × Nat)
  shot : Option (Nat × Nat)
deriving DecidableEq, Repr

/-- A latched integrator result (R210, R216). -/
structure Latched where
  opened : Stamp
  w : Stamp
  ctx : BitVec 512
  engine : Nat
  i : Int
  q : Int
  flags : Nat
  shot : Option (Nat × Nat)
deriving DecidableEq, Repr

/-- A tone: its frame, what plays or integrates on it, and the first sample of its muting by a cell fault (R21, R192). For a receive
tone, `frames` holds the earlier frames, each with the first sample at which it no longer held, newest first, and `mixed` the windows
that have closed (first sample, end, DF, DP), newest first: samples taken before are still mixed with them (R209). -/
structure Tone where
  f : Freq
  p : Word
  pulse : Option Pulse
  stream : Option Streaming
  window : Option OpenWindow
  latched : List Latched
  muteFrom : Stamp
  frames : List (Stamp × PhaseFrame)
  mixed : List (Stamp × Stamp × Freq × Word)
deriving DecidableEq, Repr

def Tone.init : Tone := ⟨0, 0, none, none, none, [], 0, [], []⟩

/-- What an output does besides its registers: whether an ENABLE waits for settling (R165), is powering
the DAC core (R191), whether a configuration settles (R165), and for a flux output its pulse, the engines
waiting for its lease in arrival order (R20) and the stage registers lp_k of R188; for a marker its level (R62); the internal
DAC trim, held in no register (R345); the last word counted in CLIP_COUNT (R162); the sample a HOLD froze (R36). -/
structure Output where
  enableWaits : Bool
  powering : Bool
  settling : Bool
  pulse : Option Pulse
  waiters : List Nat
  lp : List Rat
  level : Bool
  trim : Word
  clipped : Option Stamp
  held : Rat
deriving DecidableEq, Repr

def Output.init : Output := ⟨false, false, false, none, [], [0, 0, 0, 0], false, 0, none, 0⟩

/-! Shot groups (R315 to R339) -/

/-- One decision entry of a shot record, with its sort key (R337). -/
structure DecEntry where
  engine : Nat
  w : Stamp
  state : Nat
  flags : Nat
  conf : Nat
  tone : Nat
deriving DecidableEq, Repr

/-- A shot group's run-time state: a group entry 0 to 255, or the group of one of engine e at number 256 + e (R316).
`anchor` is A0, `anchored` whether the lead engine has opened the shot, so that A0 is known (R320), `begun` the anchor of the present
attempt, `windows` the windows opened and not yet delivered. -/
structure Group where
  open' : Bool
  shot : Nat
  attempt : Nat
  anchor : Stamp
  begun : Stamp
  voidedNow : Bool
  stopped : Bool
  unrecovered : Bool
  causesAll : Nat
  causesNow : Nat
  vsetTaken : Bool
  newStart : Stamp
  windows : Nat
  entries : List DecEntry
  started : Bool
  readyDevs : List Nat
  settledDevs : List Nat
  mayOpen : Bool
  expired : Bool
  vset : Nat
  startSet : Bool
  anchored : Bool
  early : List (Nat × Nat × Nat)
deriving DecidableEq, Repr

def Group.init : Group :=
  ⟨false, 0, 0, 0, 0, false, false, false, 0, 0, false, 0, 0, [], false, [], [], true, false, 0, false, false, []⟩

/-! The timebase (R43, R49 to R53, R75 to R79) -/

/-- The ST counter in its two parts (R43) and the timebase's internal state: whether the coarse count runs, whether the
sample domain is frozen (R81), the voltage-scaling interval of R75 and R77 with its
start; whether the converter clocks are unlocked together (unpowered, or without REFCLK), and the dies whose clock lost its lock alone
(R21, R83); the watch of R52: the ST of the last SYNC pulse in CAPTURE, or of the choice of CAPTURE where none has come, whether one has
come, the pulse period (0 while unknown), and whether pulses are missing; the ST at which the outputs leave HOLD after a gap (R438). -/
structure TimeState where
  coarse : Stamp
  fine : Fin 200
  counting : Bool
  frozen : Bool
  minSlack : Option (Int × Nat)
  raised : Bool
  lateSeen : Bool
  noLower : Nat
  lastRaise : Option Stamp
  avsFrom : Stamp
  clocksOff : Bool
  lockLost : List Nat
  syncFrom : Stamp
  pulsed : Bool
  syncPeriod : Nat
  syncGone : Bool
  liveAt : Option Stamp
deriving DecidableEq, Repr

def TimeState.init : TimeState := ⟨0, 0, false, false, none, false, false, 0, none, 0, true, [], 0, false, 0, false, none⟩

/-! What leaves the block -/

/-- An effect seen outside the block: an MSI-X message (R407), a write to host memory by a request of a function (R300), a frame queued at
a port (R378). -/
inductive Emit where
  | msix (fn vector : Nat)
  | hostWrite (fn addr : Nat) (bytes : List Byte)
  | frame (port : Nat) (bytes : List Byte)
deriving DecidableEq, Repr


/-! Records waiting in the ledger buffers (R335 to R339) -/

/-- A record of the ledger: the region whose ledger buffer holds it, the guest whose ring takes it, its bytes without SEQ, and
the tag of a tag record. -/
structure LedRecord where
  region : Nat
  guest : Nat
  bytes : List Byte
  tag : Option Nat
deriving DecidableEq, Repr

/-- The ledger's waiting records, oldest first, and the last 64 tags written to each owner's ring (R418). -/
structure LedgerState where
  waiting : List LedRecord
  tags : List (Nat × Nat)
deriving DecidableEq, Repr

def LedgerState.init : LedgerState := ⟨[], []⟩

/-! A block's spare and stream slots (R26, R181, R342, R343) -/

/-- A byte that host software has written into a scratchpad or a bank and engines do not see yet (R127, R298, R304): the function, the
number of the fence request that covers the write once one has been made, the byte's address, and what engines still see there. -/
structure Unseen where
  fn : Nat
  fence : Option Nat
  addr : Nat
  old : Byte
deriving DecidableEq, Repr

/-- A block: whether its spare has been used, the cell it shadows, the shots settled under that shadow, whether the
background copy is complete, whether the spare runs in lockstep, the cell a takeover is under way for, the stream slots in
use with the engine that holds each, the slots that hold the opening data of their target (with an uncorrectable error or not, R182),
the cell whose ENABLE caused the pace-mode change that waits (R145),
and the loads in progress: the microcode image's address (none for the standard
image) and whether a cell ran when the load began (R159), the library load's source, page and length (R311); the bytes of its bank and
scratchpads that engines do not see yet, oldest write first. -/
structure Block where
  spareUsed : Bool
  shadow : Nat
  shadowShots : Nat
  copied : Bool
  running : Bool
  takeover : Option Nat
  slots : List (Nat × Nat)
  primed : List (Nat × Bool)
  paceCell : Option Nat
  ucFrom : Option Nat
  ucBusy : Bool
  libFrom : Nat
  libDst : Nat
  libLen : Nat
  unseen : List Unseen
deriving DecidableEq, Repr

def Block.init : Block := ⟨false, 0, 0, false, false, none, [], [], none, none, false, 0, 0, 0, []⟩

/-! Frames of the fabric (R378) -/

/-- The kinds of frame. -/
inductive FrameKind where
  | ack | nak | laneMap | hello | stub | msg | start | trig | dec | void | ready | rstart | settle | openShot | joinReq
  | admission | routes | present | lost | leave | syncCapt | expiry | member
deriving DecidableEq, Repr

/-- A frame of the transaction layer: its kind, destination and source devices, deadline and payload fields; its ORIGIN once it has
one (R387), and the port it must leave by where no route applies (R395). -/
structure Frame where
  kind : FrameKind
  dest : Nat
  src : Nat
  deadline : Option Stamp
  group : Nat
  words : List Nat
  origin : Option Nat
  via : Option Nat
deriving DecidableEq, Repr

/-- The transaction layer and the membership of the device (R387, R393 to R398): the frames that wait for transmission, oldest
first; whether a join was commanded, whether it joins again once it has left, the port of its join and the requests sent, and
the fabric ID and admission epoch it was given; at the chair the joiners that wait for a SYNC pulse (serial, relaying device,
port), and the ports a relayed ADMIT goes to; devices admitted for an epoch (fabric ID, serial, epoch); the members' serials,
the epochs of their last PRESENT, of their loss, of the last ROUTES and of the last epoch boundary; the ORIGIN counters by
destination, the last delivered ORIGINs by source, and the frames held for their order. -/
structure FabricState where
  sendq : List Frame
  joinWanted : Bool
  rejoin : Bool
  joinPort : Nat
  joinTries : Nat
  offered : Option (Nat × Nat)
  joiners : List (Nat × Option Nat × Nat)
  relays : List Nat
  admitted : List (Nat × Nat × Nat)
  serials : List (Nat × Nat)
  lastSeen : List (Nat × Nat)
  lostAt : List (Nat × Nat)
  routesAt : Nat
  epoch : Nat
  outOrigin : List (Nat × Nat)
  inOrigin : List (Nat × Nat)
  held : List Frame
deriving DecidableEq, Repr

def FabricState.init : FabricState := ⟨[], false, false, 0, 0, none, [], [], [], [], [], [], 0, 0, [], [], []⟩

/-- The link layer of a port (R367 to R374, R382 to R386, R390): the next SEQ to send and the SEQ expected; the waystation, oldest
first, and the SEQs due for retransmission; the link frames that wait; the import buffer; the SEQ last NAKed and its marker
period; the receive lanes accepted and ready, the partner's, and its echo; the lanes our last LANE_MAP reported, and those of them that the
partner has answered; whether a LANE_MAP is owed and the marker period of the last
one, whether a striping change is agreed; the lanes' equaliser coefficients and the trial step in progress (lane, margin before,
coefficients before); the ST of the last frame sent; whether DEADLINE_RISK has had cause in this epoch. -/
structure PortLink where
  txSeq : Nat
  rxSeq : Nat
  way : List (Nat × Frame)
  resend : List Nat
  linkq : List Frame
  imports : List Frame
  naked : Option (Nat × Nat)
  acc : Nat
  rdy : Nat
  peerAcc : Nat
  peerRdy : Nat
  peerEcho : Nat
  told : Nat
  heard : Nat
  mapDue : Bool
  mapAt : Nat
  change : Bool
  coef : List Word
  trial : Option (Nat × Nat × Word)
  lastSent : Stamp
  risk : Bool
deriving DecidableEq, Repr

def PortLink.init : PortLink := ⟨0, 0, [], [], [], [], none, 0, 0, 0, 0, 0, 0, 0, false, 0, false, [0, 0, 0, 0], none, 0, false⟩

/-! The watch (R345 to R353) -/

/-- A pending update (R350): the context, the engine that owns its tone, the VERSION the proposal read, and the new DF
or DISC. -/
structure Update where
  region : Nat
  index : Nat
  engine : Nat
  version : Nat
  df : Option Nat
  disc : Option Nat
deriving DecidableEq, Repr

/-- An IQ point the watch has been delivered for training: tone, window end, I and Q (R216). -/
structure IqPoint where
  tone : Nat
  w : Stamp
  i : Int
  q : Int
deriving DecidableEq, Repr

/-- The watch's store of pending updates, oldest first (at most 4,096), the number of the accounting interval (R348), and the IQ points
it holds for training, oldest first (R216, R345). -/
structure WatchState where
  pending : List Update
  interval : Nat
  points : List IqPoint
deriving DecidableEq, Repr

def WatchState.init : WatchState := ⟨[], 0, []⟩

/-! Decision slots and trigger units as the control plane sees them (R218, R219, R238) -/

/-- What a decision source last published: value, window end, VALID, flags in the order of RES_TAG [22:16], CONF, whether
OVR_VOID lets it void (R217), whether it has published at all; the results before it, newest first, that a function may
still use (value, W, VALID, flags; R222); for a remote slot (R392) the GROUP_ID of its last DEC frame and whether one came
in this epoch. -/
structure DecSlot where
  value : Nat
  w : Stamp
  valid : Bool
  flags : Nat
  conf : Nat
  voids : Bool
  seen : Bool
  past : List (Nat × Stamp × Bool × Nat)
  group : Nat
  fresh : Bool
deriving DecidableEq, Repr

def DecSlot.init : DecSlot := ⟨0, 0, false, 0, 0, false, false, [], 0, false⟩

/-- A trigger unit's state: whether it is armed, the STs of its delivered firings, newest first, its progress mark (R114,
R235, R238), and the firings not delivered yet, oldest first. -/
structure TrigUnit where
  armed : Bool
  firings : List Stamp
  progress : Stamp
  waiting : List Stamp
deriving DecidableEq, Repr

def TrigUnit.init : TrigUnit := ⟨false, [], 0, []⟩

/-! Receive inputs (R201 to R207) -/

/-- A set of corrections of a receive input, as written (R201, R202). -/
structure Correction where
  ofs0 : Nat
  ofs1 : Nat
  gain0 : Nat
  gain1 : Nat
  skew : Nat
deriving DecidableEq, Repr

def Correction.init : Correction := ⟨0, 0, 0x4000, 0x4000, 0⟩

/-- A run of clamped samples: its first and last ST, and the first ST at which the cores no longer sample, once they have stopped
(R205, R207). -/
structure ClampRun where
  first : Stamp
  last : Stamp
  cut : Option Stamp
deriving DecidableEq, Repr

/-- A receive input: the runs of clamped samples, newest first; whether a chain-fault recalibration runs, since when, and the spans of
those that have ended (R204); the active corrections and the earlier sets, each with the first sample at which it no longer held, newest
first; the ST by which a requested apply is made (R202). -/
structure RxState where
  runs : List ClampRun
  faultRecal : Bool
  recalFrom : Stamp
  recals : List (Stamp × Stamp)
  active : Correction
  earlier : List (Stamp × Correction)
  applyBy : Option Stamp
  applyWatch : Bool
deriving DecidableEq, Repr

def RxState.init : RxState := ⟨[], false, 0, [], .init, [], none, false⟩

/-! Decision functions (R221 to R224) -/

/-- An evaluation of a decision-mode function: Wa, for each input the result held for it (value, valid, flags), and whether
it has become invalid. -/
structure FuncEval where
  wa : Stamp
  held : List (Nat × Nat × Bool × Nat)
  bad : Bool
deriving DecidableEq, Repr

/-- A decision function: its waiting evaluations and its complete ones, oldest first; in trigger mode its last output, the
last ST it evaluated, and its firings, newest first. -/
structure FuncState where
  waiting : List FuncEval
  ready : List FuncEval
  out : Bool
  at' : Stamp
  firings : List Stamp
deriving DecidableEq, Repr

def FuncState.init : FuncState := ⟨[], [], false, 0, []⟩

/-! Records (R246 to R260) -/

/-- An open record: TSRC of its trigger, x, G, DL, QTY, RSHIFT, PRE_ACT, LEN, FLAGS, MISSED, the shot (number, attempt) its
tone's engine had open, its owner, and whether it was ended early. -/
structure OpenRecord where
  kind : Nat
  x : Stamp
  g : Stamp
  dl : Nat
  qty : Nat
  rshift : Nat
  preAct : Nat
  len : Nat
  flags : Nat
  missed : Nat
  shot : Option (Nat × Nat)
  owner : Nat
  ended : Bool
deriving DecidableEq, Repr

/-- A record former: its open record, the DL in force, the ST from which it has held samples at that factor, and the last
firing it took as a record trigger. -/
structure Former where
  record : Option OpenRecord
  dl : Nat
  heldFrom : Stamp
  last : Option Stamp
deriving DecidableEq, Repr

def Former.init : Former := ⟨none, 0, 0, none⟩

/-- A record in a capture queue: its owner and its bytes. -/
structure CapRecord where
  owner : Nat
  bytes : List Byte
deriving DecidableEq, Repr

/-- A region's capture queue: its records, oldest first, the ST of AUTO's last rise since FILL rose above three quarters,
the ST from which FILL has stayed below one quarter (R254, R255), and the unit of the region whose turn it is to write (R20); the owner
whose descriptor queue the region's porter serves next (R302). -/
structure CapQueue where
  recs : List CapRecord
  lastRise : Option Stamp
  lowSince : Option Stamp
  turn : Nat
  dqTurn : Nat
deriving DecidableEq, Repr

def CapQueue.init : CapQueue := ⟨[], none, some 0, 0, 0⟩

/-- A coincidence unit: the events of its sources (source, ST), its last output, the last ST evaluated, and its
firings, newest first (R241, R242). -/
structure CoincState where
  events : List (Nat × Stamp)
  out : Bool
  at' : Stamp
  firings : List Stamp
deriving DecidableEq, Repr

def CoincState.init : CoincState := ⟨[], false, 0, []⟩

/-! Block signal processors (R265, R282 to R288) -/

/-- A processor: the registers of R265, the load whose register is not visible yet (R282), the delay slots left, the target
they end in, and whether that is the LR they leave (R280, R283), the repeat in progress as its first and last index and the iterations left (R284), a HALT that waits for
its boundary (R288), and the command held during a watch job (R290), START or ABORT. -/
structure DspState where
  d : List Word
  a : List (BitVec 40)
  p : List (BitVec 19)
  q : List (BitVec 19)
  pcfg : List (BitVec 9)
  cbase : List (BitVec 19)
  clen : List (BitVec 19)
  xc : Word
  sw : Nat
  lr : Nat
  ipc : Nat
  isw : Nat
  pc : Nat
  load : Option (Nat × Word)
  slots : Nat
  target : Option Nat
  toLr : Bool
  rpt : Option (Nat × Nat × Nat)
  haltReq : Bool
  heldStart : Option Bool
deriving DecidableEq, Repr

def DspState.init : DspState :=
  ⟨List.replicate 16 0, [0, 0], List.replicate 8 0, List.replicate 8 0, List.replicate 8 0, [0, 0, 0, 0], [0, 0, 0, 0], 0, 0x40, 0, 0, 0, 0,
   none, 0, none, false, none, false, none⟩

/-! Porters (R301, R302) -/

/-- An owner's queue in a region: the descriptors fetched and not completed, oldest first. -/
structure PorterQueue where
  fetched : List (BitVec 256)
deriving DecidableEq, Repr

def PorterQueue.init : PorterQueue := ⟨[]⟩

/-! Fences (R417 to R420) -/

/-- A fence request: its number, TAG, WAIT, IRQ, WB, and whether a tag record with its tag has been written. -/
structure FenceReq where
  seq : Nat
  tag : Nat
  wait : Bool
  irq : Bool
  wb : Bool
  met : Bool
deriving DecidableEq, Repr

/-- An outstanding fence: its request and those merged into it, and the arrival of the last. -/
structure Fence where
  reqs : List FenceReq
  arrived : Stamp
deriving DecidableEq, Repr

/-- A function's outstanding fences, oldest first. -/
structure FenceState where
  open' : List Fence
deriving DecidableEq, Repr

def FenceState.init : FenceState := ⟨[]⟩

/-! Power, temperature and faults held in the always-on domain (R431 to R442, R456, R458, R479) -/

/-- Why the device is DORMANT (R489). -/
inductive DormantCause where
  | target | trip | feeds
deriving DecidableEq, Repr

/-- What a keeper keeps for its stage: the mirror's and the NVM copy's trims, the ST of the last recording into NVM, whether the
last cold check passed, and the consecutive good beats it has received. -/
structure Keeper where
  mirror : Trims
  copy : Trims
  copyAt : Option Stamp
  checked : Bool
  beats : Nat
deriving DecidableEq, Repr

def Keeper.init : Keeper := ⟨.init, .init, none, false, 0⟩

/-- An entry of the always-on fault record: its kind in the fault log (R518), BOOT_COUNT and ST at the event, and its detail. -/
structure FaultRecord where
  kind : Nat
  boot : Nat
  at' : Stamp
  detail : List Nat
deriving DecidableEq, Repr

/-- Power: whether a switchover is triggered, and by the COLD keeper's own sense alone; H+0; whether VBUS has returned and the
clocks have relocked; why the device is DORMANT, and why it will be after the gap; whether its exit is asked for; whether
both AUX inputs are lost; the power-state change under way; a chip reset held until W0 (R487); the keepers of A and B; the
thresholds in force as bits of THERMAL.FAULT; the always-on fault record. -/
structure PowerState where
  triggered : Bool
  byCold : Bool
  shedAt : Stamp
  returned : Bool
  relocked : Bool
  cause : Option DormantCause
  afterGap : Option DormantCause
  exitAsked : Bool
  unpowered : Bool
  change : Option Nat
  resetHeld : Bool
  keepers : List Keeper
  inForce : Nat
  records : List FaultRecord
deriving DecidableEq, Repr

def PowerState.init : PowerState := ⟨false, false, 0, false, false, none, none, false, false, none, false, [.init, .init], 0, []⟩

/-! Start, resets, firmware and security commands (R467, R477, R485 to R493) -/

/-- How far the device has started: a cold start is due; the boot ROM runs; firmware runs and the start goes on; recovery (R492);
the start is complete. -/
inductive StartPhase where
  | due | rom | firmware | recovery | complete
deriving DecidableEq, Repr

/-- A security command in progress, with its REASON (0 while none has failed) and, for a transition, the state it goes to. -/
inductive SecurityCmd where
  | transition (into reason : Nat)
  | passport (reason : Nat)
  | extend (reason : Nat)
deriving DecidableEq, Repr

/-- A firmware command in progress (R492, R493). -/
inductive FirmwareCmd where
  | stage | switch | recover
deriving DecidableEq, Repr

/-- The instructions of the test port (R482). -/
inductive ScanInstr where
  | bypass | idcode | samplePreload | extest | clamp | highz | extestPulse | extestTrain
deriving DecidableEq, Repr

/-- The start: its phase, whether it began at the boot ROM, whether RESET_N is low, whether the start waits for T_ext; the pages to be
retested; the regions (first) and blocks in reset; the die temperature at the saved calibration; the slot that runs, and
whether its image is still to report itself healthy, or to be left at the next hold; whether the hold is one of those returns; the
commands in progress; the test port's instruction and whether it acts; the draws made of the random source. -/
structure StartState where
  phase : StartPhase
  fromRom : Bool
  resetLow : Bool
  tempHeld : Bool
  retest : List Page
  regionsInReset : List Nat
  blocksInReset : List Nat
  calTemp : Int
  slot : Nat
  confirming : Bool
  reverting : Bool
  security : Option SecurityCmd
  firmware : Option FirmwareCmd
  scan : ScanInstr
  scanActs : Bool
  draws : Nat
deriving DecidableEq, Repr

def StartState.init : StartState :=
  ⟨.due, false, false, false, [], [], [], 0, 0, false, false, none, none, .bypass, false, 0⟩

/-- Why a run stops with a fault. The model stops for none of the spec's commands: every error of the spec is a
register, flag or state change. -/
inductive Fault where
  /-- Raised by nothing in this model; kept so that the type is inhabited. Safe. -/
  | unreachable
deriving DecidableEq, Repr

/-- Why a command is refused. -/
inductive Refusal where
  /-- Raised by the dispatch for a command that has no meaning yet. Safe. -/
  | notModelled (mnemonic : String)
deriving DecidableEq, Repr

/-- The state of the block. Every store lists only what differs from its reset value, in ascending order. -/
structure State where
  /-- the commands that wait, first in, first out -/
  pending : List Instr
  /-- the register fields, by page address and lowest bit -/
  regs : Store Nat
  /-- the byte memories, by the addresses of Ops; an unlisted byte reads 0 (R308) -/
  mem : List Host.Cell
  /-- the word tables, by table and index -/
  tbl : Store Nat
  /-- what has left the block, oldest first -/
  out : List Emit
  /-- the data of the last read a host command made -/
  rdata : Nat
  /-- the model's own counter of free values drawn (not the spec's) -/
  free : Nat
  /-- the timebase -/
  time : TimeState
  /-- engines by number e, and the spare of block k at 1,024 + k -/
  engs : Store Engine
  /-- tones: drive 8d + slot, probe 1,024 + 32t + slot, receive 2,048 + 32t + slot -/
  tones : Store Tone
  /-- outputs: drive d, probe 128 + t, flux 160 + f -/
  outputs : Store Output
  /-- shot groups: entries 0 to 255, groups of one at 256 + e -/
  groups : Store Group
  /-- blocks by number k -/
  blks : Store Block
  /-- the ledger's records -/
  led : LedgerState
  /-- the fabric -/
  fab : FabricState
  /-- the watch -/
  tend : WatchState
  /-- decision slots: tone u, function 1,024 + 256n + f, remote slot 4,096 + 4,096 dev + 2,048 kind + index -/
  slots : Store DecSlot
  /-- trigger units: tone u, raw input 1,024 + t, external 1,056 + i -/
  trigs : Store TrigUnit
  /-- receive inputs by feedline t -/
  rxs : Store RxState
  /-- decision functions: 256n + f -/
  funcs : Store FuncState
  /-- record formers: tone unit u, raw-input unit 1,024 + t -/
  formers : Store Former
  /-- capture queues by region n -/
  capqs : Store CapQueue
  /-- coincidence units: 8n + i -/
  coincs : Store CoincState
  /-- block signal processors by block k -/
  dsps : Store DspState
  /-- porter queues: 65n + owner -/
  dqs : Store PorterQueue
  /-- link layers by port p -/
  links : Store PortLink
  /-- outstanding fences by function -/
  fences : Store FenceState
  /-- power, the always-on fault record and the thresholds in force -/
  power : PowerState
  /-- the start, resets, firmware and security commands -/
  start : StartState
deriving DecidableEq, Repr

/-- The device after a power-on reset, with no command waiting (R10, R84, R485). -/
def State.reset : State where
  pending := []
  regs := []
  mem := []
  tbl := []
  out := []
  rdata := 0
  free := 0
  time := TimeState.init
  engs := []
  tones := []
  outputs := []
  groups := []
  blks := []
  led := LedgerState.init
  fab := FabricState.init
  tend := WatchState.init
  slots := []
  trigs := []
  rxs := []
  funcs := []
  formers := []
  capqs := []
  coincs := []
  dsps := []
  dqs := []
  links := []
  fences := []
  power := PowerState.init
  start := StartState.init

end Sys2Proof.Machine
end

