-- ==== Sys2Proof/Machine/Fields.lean ====
section
/-! DEFINITION. The register fields of every page type, each written from its field table: offset, lowest bit, width,
access code (R9) and reset value. A field that a page computes from other state when it is read has no entry here. -/

namespace Sys2Proof.Machine

/-! Fields of the common header of every page (R503). -/
namespace ALL
def PAGE_ID_VERSION : Field := ⟨0x000, 0, 12, .ro, 1⟩
def PAGE_CTRL_ENABLE : Field := ⟨0x004, 0, 1, .rw, 0⟩
def PAGE_CTRL_QUIESCE_REQ : Field := ⟨0x004, 1, 1, .rw, 0⟩
def PAGE_CTRL_FAULT_STOP_EN : Field := ⟨0x004, 2, 1, .rw, 0⟩
def PAGE_STATE_STATE : Field := ⟨0x008, 0, 3, .ro, 0⟩
def PAGE_STATE_SPARED : Field := ⟨0x008, 8, 1, .ro, 0⟩
def FAULT_BITS : Field := ⟨0x00C, 0, 32, .w1c, 0⟩
def FAULT_MASK_BITS : Field := ⟨0x010, 0, 32, .rw, 0⟩
def FAULT_FIRST_INDEX : Field := ⟨0x014, 0, 6, .ro, 0⟩
def FAULT_FIRST_VALID : Field := ⟨0x014, 31, 1, .ro, 0⟩
def FAULT_ST_LO : Field := ⟨0x018, 0, 32, .ro, 0⟩
def FAULT_ST_HI : Field := ⟨0x01C, 0, 32, .ro, 0⟩
def EVENT_COUNT_COUNT : Field := ⟨0x020, 0, 32, .ro, 0⟩
def FENCE_TAG_TAG : Field := ⟨0x024, 0, 16, .ro, 0⟩
def GUEST_OWNER_GUEST : Field := ⟨0x028, 0, 7, .rw, 0⟩
def rows0 : List FieldRow := [⟨PAGE_ID_VERSION, 1, 0⟩, ⟨PAGE_CTRL_ENABLE, 1, 0⟩, ⟨PAGE_CTRL_QUIESCE_REQ, 1, 0⟩, ⟨PAGE_CTRL_FAULT_STOP_EN, 1, 0⟩,
  ⟨PAGE_STATE_STATE, 1, 0⟩, ⟨PAGE_STATE_SPARED, 1, 0⟩, ⟨FAULT_BITS, 1, 0⟩, ⟨FAULT_MASK_BITS, 1, 0⟩,
  ⟨FAULT_FIRST_INDEX, 1, 0⟩, ⟨FAULT_FIRST_VALID, 1, 0⟩, ⟨FAULT_ST_LO, 1, 0⟩, ⟨FAULT_ST_HI, 1, 0⟩,
  ⟨EVENT_COUNT_COUNT, 1, 0⟩, ⟨FENCE_TAG_TAG, 1, 0⟩, ⟨GUEST_OWNER_GUEST, 1, 0⟩]
/-- Every stored field of the common header of every page (R503). -/
def rows : List FieldRow := rows0
end ALL

/-! Fields of the CHIP page (R513). -/
namespace CHIP
def PART_ID_PART : Field := ⟨0x040, 0, 16, .ro, 0x1024⟩
def PART_REV_STEP : Field := ⟨0x044, 0, 4, .ro, 0⟩
def PART_REV_ORDER : Field := ⟨0x044, 8, 1, .ro, 0⟩
def SERIAL_LO : Field := ⟨0x048, 0, 32, .ro, 0⟩
def SERIAL_HI : Field := ⟨0x04C, 0, 32, .ro, 0⟩
def FAULT_SUM_CHIP_PAGES : Field := ⟨0x050, 0, 20, .ro, 0⟩
def FAULT_SUM_REGION_REGIONS : Field := ⟨0x054, 0, 8, .ro, 0⟩
def FAULT_SUM_BLOCK_LO : Field := ⟨0x058, 0, 32, .ro, 0⟩
def FAULT_SUM_BLOCK_HI : Field := ⟨0x05C, 0, 32, .ro, 0⟩
def SCRATCH_DATA : Field := ⟨0x060, 0, 32, .rw, 0⟩
def BOOT_COUNT_COUNT : Field := ⟨0x064, 0, 32, .ro, 0⟩
def RESET_CTRL_CHIP : Field := ⟨0x080, 0, 1, .w1s, 0⟩
def RESET_CTRL_REGION : Field := ⟨0x080, 8, 8, .w1s, 0⟩
def BLOCK_RST_LO : Field := ⟨0x084, 0, 32, .w1s, 0⟩
def BLOCK_RST_HI : Field := ⟨0x088, 0, 32, .w1s, 0⟩
def BOOT_STATUS_STAGE : Field := ⟨0x08C, 0, 8, .ro, 0⟩
def BOOT_STATUS_SLOT : Field := ⟨0x08C, 8, 1, .ro, 0⟩
def BOOT_STATUS_FALLBACK : Field := ⟨0x08C, 9, 1, .ro, 0⟩
def BOOT_STATUS_RECOVERY : Field := ⟨0x08C, 10, 1, .ro, 0⟩
def BOOT_STATUS_CAL_STALE : Field := ⟨0x08C, 11, 1, .ro, 0⟩
def FW_CTRL_STAGE : Field := ⟨0x090, 0, 1, .w1s, 0⟩
def FW_CTRL_SWITCH : Field := ⟨0x090, 1, 1, .w1s, 0⟩
def FW_CTRL_RECOVER : Field := ⟨0x090, 2, 1, .w1s, 0⟩
def FW_STATUS_BUSY : Field := ⟨0x094, 0, 1, .ro, 0⟩
def FW_STATUS_DONE : Field := ⟨0x094, 1, 1, .ro, 0⟩
def FW_STATUS_OK : Field := ⟨0x094, 2, 1, .ro, 0⟩
def FW_STATUS_REVERTED : Field := ⟨0x094, 3, 1, .ro, 0⟩
def FW_STATUS_ACTIVE : Field := ⟨0x094, 4, 1, .ro, 0⟩
def FW_STATUS_REASON : Field := ⟨0x094, 8, 8, .ro, 0⟩
def FW_SRC_LO : Field := ⟨0x098, 0, 32, .rw, 0⟩
def FW_SRC_HI : Field := ⟨0x09C, 0, 4, .rw, 0⟩
def FW_LEN_BYTES : Field := ⟨0x0A0, 0, 26, .rw, 0⟩
def FW_VERSION_VERSION : Field := ⟨0x0A4, 0, 32, .ro, 0⟩
def rows0 : List FieldRow := [⟨PART_ID_PART, 1, 0⟩, ⟨PART_REV_STEP, 1, 0⟩, ⟨PART_REV_ORDER, 1, 0⟩, ⟨SERIAL_LO, 1, 0⟩,
  ⟨SERIAL_HI, 1, 0⟩, ⟨FAULT_SUM_CHIP_PAGES, 1, 0⟩, ⟨FAULT_SUM_REGION_REGIONS, 1, 0⟩, ⟨FAULT_SUM_BLOCK_LO, 1, 0⟩,
  ⟨FAULT_SUM_BLOCK_HI, 1, 0⟩, ⟨SCRATCH_DATA, 1, 0⟩, ⟨BOOT_COUNT_COUNT, 1, 0⟩, ⟨RESET_CTRL_CHIP, 1, 0⟩,
  ⟨RESET_CTRL_REGION, 1, 0⟩, ⟨BLOCK_RST_LO, 1, 0⟩, ⟨BLOCK_RST_HI, 1, 0⟩, ⟨BOOT_STATUS_STAGE, 1, 0⟩,
  ⟨BOOT_STATUS_SLOT, 1, 0⟩, ⟨BOOT_STATUS_FALLBACK, 1, 0⟩, ⟨BOOT_STATUS_RECOVERY, 1, 0⟩, ⟨BOOT_STATUS_CAL_STALE, 1, 0⟩,
  ⟨FW_CTRL_STAGE, 1, 0⟩, ⟨FW_CTRL_SWITCH, 1, 0⟩, ⟨FW_CTRL_RECOVER, 1, 0⟩, ⟨FW_STATUS_BUSY, 1, 0⟩]
def rows1 : List FieldRow := [⟨FW_STATUS_DONE, 1, 0⟩, ⟨FW_STATUS_OK, 1, 0⟩, ⟨FW_STATUS_REVERTED, 1, 0⟩, ⟨FW_STATUS_ACTIVE, 1, 0⟩,
  ⟨FW_STATUS_REASON, 1, 0⟩, ⟨FW_SRC_LO, 1, 0⟩, ⟨FW_SRC_HI, 1, 0⟩, ⟨FW_LEN_BYTES, 1, 0⟩,
  ⟨FW_VERSION_VERSION, 1, 0⟩]
/-- Every stored field of the CHIP page (R513). -/
def rows : List FieldRow := rows0 ++ rows1
end CHIP

/-! Fields of the TIMEBASE page (R83, R516). -/
namespace TIMEBASE
def TB_CTRL_SYNC_MODE : Field := ⟨0x040, 0, 2, .rw, 0⟩
def TB_CTRL_SYNC_ARM : Field := ⟨0x040, 4, 1, .w1s, 0⟩
def TB_CTRL_AVS_EN : Field := ⟨0x040, 8, 1, .rw, 0⟩
def TB_STATUS_LOCKED : Field := ⟨0x044, 0, 1, .ro, 0⟩
def TB_STATUS_ST_VALID : Field := ⟨0x044, 1, 1, .ro, 0⟩
def TB_STATUS_SYNC_SEEN : Field := ⟨0x044, 2, 1, .ro, 0⟩
def TB_STATUS_ALIGN_PENDING : Field := ⟨0x044, 3, 1, .ro, 0⟩
def TB_STATUS_SLACK_LOW : Field := ⟨0x044, 4, 1, .ro, 0⟩
def TB_STATUS_TRIM_BUSY : Field := ⟨0x044, 5, 1, .ro, 0⟩
def ST_LO : Field := ⟨0x048, 0, 32, .ro, 0⟩
def ST_HI : Field := ⟨0x04C, 0, 32, .ro, 0⟩
def SYNC_LOAD_LO : Field := ⟨0x050, 0, 32, .rw, 0⟩
def SYNC_LOAD_HI : Field := ⟨0x054, 0, 32, .rw, 0⟩
def SYNC_CAPT_LO : Field := ⟨0x058, 0, 32, .ro, 0⟩
def SYNC_CAPT_HI : Field := ⟨0x05C, 0, 32, .ro, 0⟩
def ALIGN_OFFSET_LO : Field := ⟨0x060, 0, 32, .ro, 0⟩
def ALIGN_OFFSET_HI : Field := ⟨0x064, 0, 32, .ro, 0⟩
def CLK_TRIM_TRIM : Field := ⟨0x068, 0, 8, .rw, 0⟩
def SLACK_GUARD_GUARD : Field := ⟨0x070, 0, 16, .rw, 0x7D0⟩
def SLACK_GUARD_HYST : Field := ⟨0x070, 16, 16, .rw, 0x3E8⟩
def SLACK_MIN_INTERVAL_SLACK : Field := ⟨0x074, 0, 32, .ro, 0x7FFFFFFF⟩
def SLACK_MIN_ENGINE_ENGINE : Field := ⟨0x078, 0, 10, .ro, 0⟩
def VCP_STATE_STEP : Field := ⟨0x07C, 0, 5, .ro, 0⟩
def VCP_STATE_VCP_FLOOR : Field := ⟨0x07C, 16, 5, .rw, 0x1C⟩
def LATE_TOTAL_COUNT : Field := ⟨0x080, 0, 32, .ro, 0⟩
def rows0 : List FieldRow := [⟨TB_CTRL_SYNC_MODE, 1, 0⟩, ⟨TB_CTRL_SYNC_ARM, 1, 0⟩, ⟨TB_CTRL_AVS_EN, 1, 0⟩, ⟨TB_STATUS_LOCKED, 1, 0⟩,
  ⟨TB_STATUS_ST_VALID, 1, 0⟩, ⟨TB_STATUS_SYNC_SEEN, 1, 0⟩, ⟨TB_STATUS_ALIGN_PENDING, 1, 0⟩, ⟨TB_STATUS_SLACK_LOW, 1, 0⟩,
  ⟨TB_STATUS_TRIM_BUSY, 1, 0⟩, ⟨ST_LO, 1, 0⟩, ⟨ST_HI, 1, 0⟩, ⟨SYNC_LOAD_LO, 1, 0⟩,
  ⟨SYNC_LOAD_HI, 1, 0⟩, ⟨SYNC_CAPT_LO, 1, 0⟩, ⟨SYNC_CAPT_HI, 1, 0⟩, ⟨ALIGN_OFFSET_LO, 1, 0⟩,
  ⟨ALIGN_OFFSET_HI, 1, 0⟩, ⟨CLK_TRIM_TRIM, 1, 0⟩, ⟨SLACK_GUARD_GUARD, 1, 0⟩, ⟨SLACK_GUARD_HYST, 1, 0⟩,
  ⟨SLACK_MIN_INTERVAL_SLACK, 1, 0⟩, ⟨SLACK_MIN_ENGINE_ENGINE, 1, 0⟩, ⟨VCP_STATE_STEP, 1, 0⟩, ⟨VCP_STATE_VCP_FLOOR, 1, 0⟩]
def rows1 : List FieldRow := [⟨LATE_TOTAL_COUNT, 1, 0⟩]
/-- Every stored field of the TIMEBASE page (R83, R516). -/
def rows : List FieldRow := rows0 ++ rows1
end TIMEBASE

/-! Fields of the FENCE pages (R424). -/
namespace FENCE
def FENCE_REQ_TAG : Field := ⟨0x040, 0, 16, .wo, 0⟩
def FENCE_REQ_WAIT : Field := ⟨0x040, 16, 1, .wo, 0⟩
def FENCE_REQ_IRQ : Field := ⟨0x040, 17, 1, .wo, 0⟩
def FENCE_REQ_WB : Field := ⟨0x040, 18, 1, .wo, 0⟩
def FENCE_STATUS_REQ_SEQ : Field := ⟨0x044, 0, 16, .ro, 0⟩
def FENCE_STATUS_DONE_SEQ : Field := ⟨0x044, 16, 16, .ro, 0⟩
def FENCE_RESULT_STATUS : Field := ⟨0x048, 0, 2, .ro, 0⟩
def FENCE_RESULT_MERGED : Field := ⟨0x048, 8, 1, .ro, 0⟩
def FENCE_RESULT_OUTSTANDING : Field := ⟨0x048, 16, 5, .ro, 0⟩
def WAIT_LIMIT_UNITS : Field := ⟨0x04C, 0, 16, .rw, 0x40⟩
def WB_ADDR_LO : Field := ⟨0x050, 3, 29, .rw, 0⟩
def WB_ADDR_HI : Field := ⟨0x054, 0, 32, .rw, 0⟩
def rows0 : List FieldRow := [⟨FENCE_REQ_TAG, 1, 0⟩, ⟨FENCE_REQ_WAIT, 1, 0⟩, ⟨FENCE_REQ_IRQ, 1, 0⟩, ⟨FENCE_REQ_WB, 1, 0⟩,
  ⟨FENCE_STATUS_REQ_SEQ, 1, 0⟩, ⟨FENCE_STATUS_DONE_SEQ, 1, 0⟩, ⟨FENCE_RESULT_STATUS, 1, 0⟩, ⟨FENCE_RESULT_MERGED, 1, 0⟩,
  ⟨FENCE_RESULT_OUTSTANDING, 1, 0⟩, ⟨WAIT_LIMIT_UNITS, 1, 0⟩, ⟨WB_ADDR_LO, 1, 0⟩, ⟨WB_ADDR_HI, 1, 0⟩]
/-- Every stored field of the FENCE pages (R424). -/
def rows : List FieldRow := rows0
end FENCE

/-! Fields of the HOST page (R422). -/
namespace HOST
def LINK_STATUS_GEN : Field := ⟨0x040, 0, 3, .ro, 0⟩
def LINK_STATUS_WIDTH : Field := ⟨0x040, 4, 5, .ro, 0⟩
def LINK_STATUS_REFMODE : Field := ⟨0x040, 12, 2, .ro, 0⟩
def LINK_STATUS_DL_UP : Field := ⟨0x040, 16, 1, .ro, 0⟩
def LINK_LIMIT_MAX_GEN : Field := ⟨0x044, 0, 3, .rw, 5⟩
def LINK_LIMIT_MAX_WIDTH : Field := ⟨0x044, 4, 5, .rw, 0x10⟩
def VF_STATUS_NUM_VFS : Field := ⟨0x048, 0, 7, .ro, 0⟩
def VF_STATUS_VF_ENABLE : Field := ⟨0x048, 8, 1, .ro, 0⟩
def ERR_COUNT_CORRECTABLE : Field := ⟨0x04C, 0, 16, .ro, 0⟩
def ERR_COUNT_UNCORRECTABLE : Field := ⟨0x04C, 16, 16, .ro, 0⟩
def RECOVERY_COUNT : Field := ⟨0x050, 0, 32, .ro, 0⟩
def rows0 : List FieldRow := [⟨LINK_STATUS_GEN, 1, 0⟩, ⟨LINK_STATUS_WIDTH, 1, 0⟩, ⟨LINK_STATUS_REFMODE, 1, 0⟩, ⟨LINK_STATUS_DL_UP, 1, 0⟩,
  ⟨LINK_LIMIT_MAX_GEN, 1, 0⟩, ⟨LINK_LIMIT_MAX_WIDTH, 1, 0⟩, ⟨VF_STATUS_NUM_VFS, 1, 0⟩, ⟨VF_STATUS_VF_ENABLE, 1, 0⟩,
  ⟨ERR_COUNT_CORRECTABLE, 1, 0⟩, ⟨ERR_COUNT_UNCORRECTABLE, 1, 0⟩, ⟨RECOVERY_COUNT, 1, 0⟩]
/-- Every stored field of the HOST page (R422). -/
def rows : List FieldRow := rows0
end HOST

/-! Fields of the GUESTS page (R423). -/
namespace GUESTS
def GSEL_GUEST : Field := ⟨0x040, 0, 7, .rw, 0⟩
def GSEL_WORD : Field := ⟨0x040, 8, 7, .rw, 0⟩
def GSEL_AUTOINC : Field := ⟨0x040, 16, 1, .rw, 0⟩
def rows0 : List FieldRow := [⟨GSEL_GUEST, 1, 0⟩, ⟨GSEL_WORD, 1, 0⟩, ⟨GSEL_AUTOINC, 1, 0⟩]
/-- Every stored field of the GUESTS page (R423). -/
def rows : List FieldRow := rows0
end GUESTS

/-! Fields of the SESSION pages (R425). -/
namespace SESSION
def LRING_BASE_LO : Field := ⟨0x040, 16, 16, .rw, 0⟩
def LRING_BASE_HI : Field := ⟨0x044, 0, 32, .rw, 0⟩
def LRING_SIZE_UNITS : Field := ⟨0x048, 0, 16, .rw, 0⟩
def LRING_WR_OFFSET : Field := ⟨0x04C, 0, 32, .ro, 0⟩
def LRING_RD_OFFSET : Field := ⟨0x050, 6, 26, .rw, 0⟩
def LRING_CTRL_EN : Field := ⟨0x054, 0, 1, .rw, 0⟩
def LRING_CTRL_IRQ_LEVEL : Field := ⟨0x054, 8, 16, .rw, 0⟩
def LRING_STATUS_WAIT : Field := ⟨0x058, 0, 1, .ro, 0⟩
def RING_BASE_LO_ADDR (i : Nat) : Field := ⟨0x100 + 0x20 * i, 16, 16, .rw, 0⟩
def RING_BASE_HI_ADDR (i : Nat) : Field := ⟨0x104 + 0x20 * i, 0, 4, .rw, 0⟩
def RING_SIZE_UNITS (i : Nat) : Field := ⟨0x108 + 0x20 * i, 0, 16, .rw, 0⟩
def RING_WR_OFFSET (i : Nat) : Field := ⟨0x10C + 0x20 * i, 0, 32, .ro, 0⟩
def RING_RD_OFFSET (i : Nat) : Field := ⟨0x110 + 0x20 * i, 6, 26, .rw, 0⟩
def RING_CTRL_EN (i : Nat) : Field := ⟨0x114 + 0x20 * i, 0, 1, .rw, 0⟩
def RING_CTRL_IRQ_LEVEL (i : Nat) : Field := ⟨0x114 + 0x20 * i, 8, 16, .rw, 0⟩
def RING_STATUS_WAIT (i : Nat) : Field := ⟨0x118 + 0x20 * i, 0, 1, .ro, 0⟩
def DQ_BASE_LO_ADDR (i : Nat) : Field := ⟨0x200 + 0x20 * i, 5, 27, .rw, 0⟩
def DQ_BASE_HI_ADDR (i : Nat) : Field := ⟨0x204 + 0x20 * i, 0, 4, .rw, 0⟩
def DQ_SIZE_ENTRIES (i : Nat) : Field := ⟨0x208 + 0x20 * i, 0, 13, .rw, 0⟩
def DQ_TAIL_INDEX (i : Nat) : Field := ⟨0x20C + 0x20 * i, 0, 12, .rw, 0⟩
def DQ_HEAD_INDEX (i : Nat) : Field := ⟨0x210 + 0x20 * i, 0, 12, .ro, 0⟩
def DQ_DONE_INDEX (i : Nat) : Field := ⟨0x214 + 0x20 * i, 0, 12, .ro, 0⟩
def DQ_CTRL_EN (i : Nat) : Field := ⟨0x218 + 0x20 * i, 0, 1, .rw, 0⟩
def DQ_STATUS_INFLIGHT (i : Nat) : Field := ⟨0x21C + 0x20 * i, 0, 9, .ro, 0⟩
def DQ_STATUS_LAST (i : Nat) : Field := ⟨0x21C + 0x20 * i, 16, 8, .ro, 0⟩
def rows0 : List FieldRow := [⟨LRING_BASE_LO, 1, 0⟩, ⟨LRING_BASE_HI, 1, 0⟩, ⟨LRING_SIZE_UNITS, 1, 0⟩, ⟨LRING_WR_OFFSET, 1, 0⟩,
  ⟨LRING_RD_OFFSET, 1, 0⟩, ⟨LRING_CTRL_EN, 1, 0⟩, ⟨LRING_CTRL_IRQ_LEVEL, 1, 0⟩, ⟨LRING_STATUS_WAIT, 1, 0⟩,
  ⟨RING_BASE_LO_ADDR 0, 8, 0x20⟩, ⟨RING_BASE_HI_ADDR 0, 8, 0x20⟩, ⟨RING_SIZE_UNITS 0, 8, 0x20⟩, ⟨RING_WR_OFFSET 0, 8, 0x20⟩,
  ⟨RING_RD_OFFSET 0, 8, 0x20⟩, ⟨RING_CTRL_EN 0, 8, 0x20⟩, ⟨RING_CTRL_IRQ_LEVEL 0, 8, 0x20⟩, ⟨RING_STATUS_WAIT 0, 8, 0x20⟩,
  ⟨DQ_BASE_LO_ADDR 0, 8, 0x20⟩, ⟨DQ_BASE_HI_ADDR 0, 8, 0x20⟩, ⟨DQ_SIZE_ENTRIES 0, 8, 0x20⟩, ⟨DQ_TAIL_INDEX 0, 8, 0x20⟩,
  ⟨DQ_HEAD_INDEX 0, 8, 0x20⟩, ⟨DQ_DONE_INDEX 0, 8, 0x20⟩, ⟨DQ_CTRL_EN 0, 8, 0x20⟩, ⟨DQ_STATUS_INFLIGHT 0, 8, 0x20⟩]
def rows1 : List FieldRow := [⟨DQ_STATUS_LAST 0, 8, 0x20⟩]
/-- Every stored field of the SESSION pages (R425). -/
def rows : List FieldRow := rows0 ++ rows1
end SESSION

/-! Fields of the POWER page. -/
namespace POWER
def PCTRL_TARGET : Field := ⟨0x040, 0, 2, .rw, 2⟩
def PCTRL_SWAP : Field := ⟨0x040, 8, 1, .w1s, 0⟩
def PSTATUS_STATE : Field := ⟨0x044, 0, 2, .ro, 0⟩
def PSTATUS_ACTIVE : Field := ⟨0x044, 4, 1, .ro, 0⟩
def PSTATUS_REDUNDANT : Field := ⟨0x044, 5, 1, .ro, 0⟩
def PSTATUS_SWITCHING : Field := ⟨0x044, 6, 1, .ro, 0⟩
def PSTATUS_AUX_A_OK : Field := ⟨0x044, 8, 1, .ro, 0⟩
def PSTATUS_AUX_B_OK : Field := ⟨0x044, 9, 1, .ro, 0⟩
def VBUS_MV : Field := ⟨0x048, 0, 12, .ro, 0⟩
def POWER_EST_DW : Field := ⟨0x04C, 0, 16, .ro, 0⟩
def SWITCH_COUNT_COUNT : Field := ⟨0x050, 0, 32, .ro, 0⟩
def LAST_GAP_ST : Field := ⟨0x054, 0, 20, .ro, 0⟩
def LAST_H_LO : Field := ⟨0x058, 0, 32, .ro, 0⟩
def LAST_H_HI : Field := ⟨0x05C, 0, 32, .ro, 0⟩
def DUAL_COUNT_COUNT : Field := ⟨0x060, 0, 32, .ro, 0⟩
def rows0 : List FieldRow := [⟨PCTRL_TARGET, 1, 0⟩, ⟨PCTRL_SWAP, 1, 0⟩, ⟨PSTATUS_STATE, 1, 0⟩, ⟨PSTATUS_ACTIVE, 1, 0⟩,
  ⟨PSTATUS_REDUNDANT, 1, 0⟩, ⟨PSTATUS_SWITCHING, 1, 0⟩, ⟨PSTATUS_AUX_A_OK, 1, 0⟩, ⟨PSTATUS_AUX_B_OK, 1, 0⟩,
  ⟨VBUS_MV, 1, 0⟩, ⟨POWER_EST_DW, 1, 0⟩, ⟨SWITCH_COUNT_COUNT, 1, 0⟩, ⟨LAST_GAP_ST, 1, 0⟩,
  ⟨LAST_H_LO, 1, 0⟩, ⟨LAST_H_HI, 1, 0⟩, ⟨DUAL_COUNT_COUNT, 1, 0⟩]
/-- Every stored field of the POWER page. -/
def rows : List FieldRow := rows0
end POWER

/-! Fields of the FEED pages. -/
namespace FEED
def KSTATUS_ROLE : Field := ⟨0x040, 0, 2, .ro, 0⟩
def KSTATUS_FEED_GOOD : Field := ⟨0x040, 4, 1, .ro, 0⟩
def KSTATUS_LANTERN_OK : Field := ⟨0x040, 5, 1, .ro, 0⟩
def KSTATUS_ARMED : Field := ⟨0x040, 6, 1, .ro, 0⟩
def KSTATUS_TRIMS_VALID : Field := ⟨0x040, 7, 1, .ro, 0⟩
def KSTATUS_GOOD_MS : Field := ⟨0x040, 16, 7, .ro, 0⟩
def FEED_V_MV : Field := ⟨0x044, 0, 16, .ro, 0⟩
def FEED_I_CA : Field := ⟨0x048, 0, 16, .ro, 0⟩
def STAGE_TEMP_DC : Field := ⟨0x04C, 0, 16, .ro, 0⟩
def TRIM_VER_VER : Field := ⟨0x050, 0, 16, .ro, 0⟩
def LANTERN_MISS_COUNT : Field := ⟨0x054, 0, 32, .ro, 0⟩
def COLD_CHECKS_PASSES : Field := ⟨0x058, 0, 16, .ro, 0⟩
def COLD_CHECKS_FAILS : Field := ⟨0x058, 16, 16, .ro, 0⟩
def rows0 : List FieldRow := [⟨KSTATUS_ROLE, 1, 0⟩, ⟨KSTATUS_FEED_GOOD, 1, 0⟩, ⟨KSTATUS_LANTERN_OK, 1, 0⟩, ⟨KSTATUS_ARMED, 1, 0⟩,
  ⟨KSTATUS_TRIMS_VALID, 1, 0⟩, ⟨KSTATUS_GOOD_MS, 1, 0⟩, ⟨FEED_V_MV, 1, 0⟩, ⟨FEED_I_CA, 1, 0⟩,
  ⟨STAGE_TEMP_DC, 1, 0⟩, ⟨TRIM_VER_VER, 1, 0⟩, ⟨LANTERN_MISS_COUNT, 1, 0⟩, ⟨COLD_CHECKS_PASSES, 1, 0⟩,
  ⟨COLD_CHECKS_FAILS, 1, 0⟩]
/-- Every stored field of the FEED pages. -/
def rows : List FieldRow := rows0
end FEED

/-! Fields of the THERMAL page. -/
namespace THERMAL
def TSTATE_STATE : Field := ⟨0x040, 0, 3, .ro, 0⟩
def TSTATE_SOURCE : Field := ⟨0x040, 4, 1, .ro, 1⟩
def TSTATE_MAX_SENSOR : Field := ⟨0x040, 8, 7, .ro, 0⟩
def TSTATE_SLACK_THROTTLE : Field := ⟨0x040, 16, 1, .ro, 0⟩
def TMAX_DC : Field := ⟨0x044, 0, 16, .ro, 0⟩
def TCTRL_WARN_LEVEL : Field := ⟨0x048, 0, 8, .rw, 0x5F⟩
def TCTRL_SHED_LEVEL : Field := ⟨0x048, 8, 8, .rw, 0x67⟩
def TCTRL_SUB_MARGIN : Field := ⟨0x048, 16, 7, .rw, 8⟩
def TCTRL_EXT_FORCE : Field := ⟨0x048, 31, 1, .rw, 0⟩
def EXT_CFG_PRESENT : Field := ⟨0x04C, 0, 4, .ro, 0⟩
def EXT_CFG_EXT_RISE : Field := ⟨0x04C, 8, 8, .ro, 0⟩
def SENSOR_SEL_INDEX : Field := ⟨0x050, 0, 7, .rw, 0⟩
def COUNT_A_WARN : Field := ⟨0x058, 0, 16, .ro, 0⟩
def COUNT_A_SHED : Field := ⟨0x058, 16, 16, .ro, 0⟩
def COUNT_B_CRIT : Field := ⟨0x05C, 0, 16, .ro, 0⟩
def REFUSED_STARTS_COUNT : Field := ⟨0x060, 0, 32, .ro, 0⟩
def LAST_TRIP_KIND : Field := ⟨0x064, 0, 2, .ro, 0⟩
def LAST_TRIP_SENSOR : Field := ⟨0x064, 8, 7, .ro, 0⟩
def LAST_TRIP_ST_LO : Field := ⟨0x068, 0, 32, .ro, 0⟩
def LAST_TRIP_ST_HI : Field := ⟨0x06C, 0, 32, .ro, 0⟩
def LIFE_AVG_DC : Field := ⟨0x070, 0, 16, .ro, 0⟩
def LIFE_HOURS_HOURS : Field := ⟨0x074, 0, 32, .ro, 0⟩
def rows0 : List FieldRow := [⟨TSTATE_STATE, 1, 0⟩, ⟨TSTATE_SOURCE, 1, 0⟩, ⟨TSTATE_MAX_SENSOR, 1, 0⟩, ⟨TSTATE_SLACK_THROTTLE, 1, 0⟩,
  ⟨TMAX_DC, 1, 0⟩, ⟨TCTRL_WARN_LEVEL, 1, 0⟩, ⟨TCTRL_SHED_LEVEL, 1, 0⟩, ⟨TCTRL_SUB_MARGIN, 1, 0⟩,
  ⟨TCTRL_EXT_FORCE, 1, 0⟩, ⟨EXT_CFG_PRESENT, 1, 0⟩, ⟨EXT_CFG_EXT_RISE, 1, 0⟩, ⟨SENSOR_SEL_INDEX, 1, 0⟩,
  ⟨COUNT_A_WARN, 1, 0⟩, ⟨COUNT_A_SHED, 1, 0⟩, ⟨COUNT_B_CRIT, 1, 0⟩, ⟨REFUSED_STARTS_COUNT, 1, 0⟩,
  ⟨LAST_TRIP_KIND, 1, 0⟩, ⟨LAST_TRIP_SENSOR, 1, 0⟩, ⟨LAST_TRIP_ST_LO, 1, 0⟩, ⟨LAST_TRIP_ST_HI, 1, 0⟩,
  ⟨LIFE_AVG_DC, 1, 0⟩, ⟨LIFE_HOURS_HOURS, 1, 0⟩]
/-- Every stored field of the THERMAL page. -/
def rows : List FieldRow := rows0
end THERMAL

/-! Fields of the SECURITY page (R484). -/
namespace SECURITY
def SSTATUS_LC_STATE : Field := ⟨0x040, 0, 3, .ro, 0⟩
def SSTATUS_OWNER_KEY : Field := ⟨0x040, 4, 1, .ro, 0⟩
def SSTATUS_ID_VALID : Field := ⟨0x040, 5, 1, .ro, 0⟩
def SSTATUS_DEBUG_OPEN : Field := ⟨0x040, 6, 1, .ro, 0⟩
def SSTATUS_FW_FLOOR : Field := ⟨0x040, 8, 6, .ro, 0⟩
def SCMD_LC : Field := ⟨0x044, 0, 1, .w1s, 0⟩
def SCMD_PASSPORT : Field := ⟨0x044, 1, 1, .w1s, 0⟩
def SCMD_EXTEND : Field := ⟨0x044, 2, 1, .w1s, 0⟩
def SCMD_SCRAP : Field := ⟨0x044, 3, 1, .w1s, 0⟩
def CMD_STATUS_BUSY : Field := ⟨0x048, 0, 1, .ro, 0⟩
def CMD_STATUS_DONE : Field := ⟨0x048, 1, 1, .ro, 0⟩
def CMD_STATUS_OK : Field := ⟨0x048, 2, 1, .ro, 0⟩
def CMD_STATUS_REASON : Field := ⟨0x048, 8, 8, .ro, 0⟩
def SRC_LO : Field := ⟨0x04C, 0, 32, .rw, 0⟩
def SRC_HI : Field := ⟨0x050, 0, 4, .rw, 0⟩
def SRC_LEN_BYTES : Field := ⟨0x054, 0, 26, .rw, 0⟩
def DST_LO : Field := ⟨0x058, 6, 26, .rw, 0⟩
def DST_HI : Field := ⟨0x05C, 0, 32, .rw, 0⟩
def PP_CTRL_MASK : Field := ⟨0x060, 0, 16, .rw, 0⟩
def EXT_SEL_REG : Field := ⟨0x064, 0, 4, .rw, 0⟩
def EXT_CTX_LO : Field := ⟨0x068, 0, 32, .rw, 0⟩
def EXT_CTX_HI : Field := ⟨0x06C, 0, 32, .rw, 0⟩
def NONCE_WORD (i : Nat) : Field := ⟨0x080 + 4 * i, 0, 32, .ro, 0⟩
def PP_NONCE_WORD (i : Nat) : Field := ⟨0x0A0 + 4 * i, 0, 32, .rw, 0⟩
def M_SEL_REG : Field := ⟨0x0C0, 0, 4, .rw, 0⟩
def M_SEL_WORD : Field := ⟨0x0C0, 8, 4, .rw, 0⟩
def M_SEL_AUTOINC : Field := ⟨0x0C0, 16, 1, .rw, 0⟩
def TAMPER_LAST_SOURCE : Field := ⟨0x0C8, 0, 3, .ro, 0⟩
def TAMPER_LAST_FULL : Field := ⟨0x0C8, 8, 1, .ro, 0⟩
def TAMPER_COUNT_COUNT : Field := ⟨0x0CC, 0, 32, .ro, 0⟩
def DEBUG_FAILS_COUNT : Field := ⟨0x0D0, 0, 2, .ro, 0⟩
def rows0 : List FieldRow := [⟨SSTATUS_LC_STATE, 1, 0⟩, ⟨SSTATUS_OWNER_KEY, 1, 0⟩, ⟨SSTATUS_ID_VALID, 1, 0⟩, ⟨SSTATUS_DEBUG_OPEN, 1, 0⟩,
  ⟨SSTATUS_FW_FLOOR, 1, 0⟩, ⟨SCMD_LC, 1, 0⟩, ⟨SCMD_PASSPORT, 1, 0⟩, ⟨SCMD_EXTEND, 1, 0⟩,
  ⟨SCMD_SCRAP, 1, 0⟩, ⟨CMD_STATUS_BUSY, 1, 0⟩, ⟨CMD_STATUS_DONE, 1, 0⟩, ⟨CMD_STATUS_OK, 1, 0⟩,
  ⟨CMD_STATUS_REASON, 1, 0⟩, ⟨SRC_LO, 1, 0⟩, ⟨SRC_HI, 1, 0⟩, ⟨SRC_LEN_BYTES, 1, 0⟩,
  ⟨DST_LO, 1, 0⟩, ⟨DST_HI, 1, 0⟩, ⟨PP_CTRL_MASK, 1, 0⟩, ⟨EXT_SEL_REG, 1, 0⟩,
  ⟨EXT_CTX_LO, 1, 0⟩, ⟨EXT_CTX_HI, 1, 0⟩, ⟨NONCE_WORD 0, 8, 4⟩, ⟨PP_NONCE_WORD 0, 8, 4⟩]
def rows1 : List FieldRow := [⟨M_SEL_REG, 1, 0⟩, ⟨M_SEL_WORD, 1, 0⟩, ⟨M_SEL_AUTOINC, 1, 0⟩, ⟨TAMPER_LAST_SOURCE, 1, 0⟩,
  ⟨TAMPER_LAST_FULL, 1, 0⟩, ⟨TAMPER_COUNT_COUNT, 1, 0⟩, ⟨DEBUG_FAILS_COUNT, 1, 0⟩]
/-- Every stored field of the SECURITY page (R484). -/
def rows : List FieldRow := rows0 ++ rows1
end SECURITY

/-! Fields of the FABRIC page (R400). -/
namespace FABRIC
def FCTRL_JOIN : Field := ⟨0x040, 0, 1, .w1s, 0⟩
def FCTRL_LEAVE : Field := ⟨0x040, 1, 1, .w1s, 0⟩
def FSTATUS_STATE : Field := ⟨0x044, 0, 3, .ro, 0⟩
def FSTATUS_CHAIR : Field := ⟨0x044, 8, 1, .ro, 0⟩
def FSTATUS_DEADLINE_RISK : Field := ⟨0x044, 9, 1, .ro, 0⟩
def FSTATUS_FABRIC_ID : Field := ⟨0x044, 16, 6, .ro, 0⟩
def FSTATUS_MEMBERS : Field := ⟨0x044, 24, 7, .ro, 0⟩
def SERIAL_LO : Field := ⟨0x048, 0, 32, .ro, 0⟩
def SERIAL_HI : Field := ⟨0x04C, 0, 32, .ro, 0⟩
def CHAIR_ID_ID : Field := ⟨0x050, 0, 6, .ro, 0⟩
def PRESENT_LO : Field := ⟨0x054, 0, 32, .ro, 0⟩
def PRESENT_HI : Field := ⟨0x058, 0, 32, .ro, 0⟩
def ROUTE_SEL_DEST : Field := ⟨0x05C, 0, 6, .rw, 0⟩
def TAG_SEL_INDEX : Field := ⟨0x064, 0, 12, .rw, 0⟩
def TAG_SEL_AUTOINC : Field := ⟨0x064, 16, 1, .rw, 0⟩
def SUB_SEL_INDEX : Field := ⟨0x06C, 0, 11, .rw, 0⟩
def SUB_SEL_KIND : Field := ⟨0x06C, 12, 1, .rw, 0⟩
def SUB_SEL_WORD : Field := ⟨0x06C, 16, 2, .rw, 0⟩
def SUB_SEL_AUTOINC : Field := ⟨0x06C, 20, 1, .rw, 0⟩
def NO_TAG_COUNT : Field := ⟨0x074, 0, 32, .ro, 0⟩
def DUP_COUNT : Field := ⟨0x078, 0, 32, .ro, 0⟩
def REMOTE_FULL_COUNT : Field := ⟨0x07C, 0, 32, .ro, 0⟩
def LOST_COUNT_COUNT : Field := ⟨0x080, 0, 32, .ro, 0⟩
def rows0 : List FieldRow := [⟨FCTRL_JOIN, 1, 0⟩, ⟨FCTRL_LEAVE, 1, 0⟩, ⟨FSTATUS_STATE, 1, 0⟩, ⟨FSTATUS_CHAIR, 1, 0⟩,
  ⟨FSTATUS_DEADLINE_RISK, 1, 0⟩, ⟨FSTATUS_FABRIC_ID, 1, 0⟩, ⟨FSTATUS_MEMBERS, 1, 0⟩, ⟨SERIAL_LO, 1, 0⟩,
  ⟨SERIAL_HI, 1, 0⟩, ⟨CHAIR_ID_ID, 1, 0⟩, ⟨PRESENT_LO, 1, 0⟩, ⟨PRESENT_HI, 1, 0⟩,
  ⟨ROUTE_SEL_DEST, 1, 0⟩, ⟨TAG_SEL_INDEX, 1, 0⟩, ⟨TAG_SEL_AUTOINC, 1, 0⟩, ⟨SUB_SEL_INDEX, 1, 0⟩,
  ⟨SUB_SEL_KIND, 1, 0⟩, ⟨SUB_SEL_WORD, 1, 0⟩, ⟨SUB_SEL_AUTOINC, 1, 0⟩, ⟨NO_TAG_COUNT, 1, 0⟩,
  ⟨DUP_COUNT, 1, 0⟩, ⟨REMOTE_FULL_COUNT, 1, 0⟩, ⟨LOST_COUNT_COUNT, 1, 0⟩]
/-- Every stored field of the FABRIC page (R400). -/
def rows : List FieldRow := rows0
end FABRIC

/-! Fields of the PORT pages (R401). -/
namespace PORT
def PCMD_CLR_COUNTS : Field := ⟨0x040, 0, 1, .w1s, 0⟩
def PSTATUS_STATE : Field := ⟨0x044, 0, 2, .ro, 0⟩
def PSTATUS_TX_WIDTH : Field := ⟨0x044, 4, 3, .ro, 0⟩
def PSTATUS_RX_WIDTH : Field := ⟨0x044, 8, 3, .ro, 0⟩
def PSTATUS_NEIGHBOUR : Field := ⟨0x044, 16, 6, .ro, 0⟩
def PSTATUS_NB_VALID : Field := ⟨0x044, 22, 1, .ro, 0⟩
def PSTATUS_DEADLINE_RISK : Field := ⟨0x044, 24, 1, .ro, 0⟩
def PSTATUS_FROZEN : Field := ⟨0x044, 28, 4, .ro, 0⟩
def LANE_STATE_RX0 : Field := ⟨0x048, 0, 3, .ro, 0⟩
def LANE_STATE_TX0 : Field := ⟨0x048, 4, 2, .ro, 0⟩
def LANE_STATE_RX1 : Field := ⟨0x048, 8, 3, .ro, 0⟩
def LANE_STATE_TX1 : Field := ⟨0x048, 12, 2, .ro, 0⟩
def LANE_STATE_RX2 : Field := ⟨0x048, 16, 3, .ro, 0⟩
def LANE_STATE_TX2 : Field := ⟨0x048, 20, 2, .ro, 0⟩
def LANE_STATE_RX3 : Field := ⟨0x048, 24, 3, .ro, 0⟩
def LANE_STATE_TX3 : Field := ⟨0x048, 28, 2, .ro, 0⟩
def SLEEP_CTRL_TX_SLEEP : Field := ⟨0x04C, 0, 4, .rw, 0⟩
def SLEEP_CTRL_AUTO : Field := ⟨0x04C, 8, 1, .rw, 0⟩
def SLEEP_CTRL_MIN_WIDTH : Field := ⟨0x04C, 16, 3, .rw, 2⟩
def FOM_FOM : Field := ⟨0x050, 0, 8, .ro, 0⟩
def EYE_EW (i : Nat) : Field := ⟨0x054 + 4 * i, 0, 6, .ro, 0⟩
def EYE_EH (i : Nat) : Field := ⟨0x054 + 4 * i, 8, 8, .ro, 0⟩
def EYE_MARGIN (i : Nat) : Field := ⟨0x054 + 4 * i, 16, 8, .ro, 0⟩
def LANE_ERR_CODE_ERR (i : Nat) : Field := ⟨0x064 + 4 * i, 0, 16, .ro, 0⟩
def LANE_ERR_LOSSES (i : Nat) : Field := ⟨0x064 + 4 * i, 16, 16, .ro, 0⟩
def WAYSTATION_USED : Field := ⟨0x074, 0, 9, .ro, 0⟩
def WAYSTATION_OUTSTANDING_DL : Field := ⟨0x074, 16, 10, .ro, 0⟩
def LINK_DELAY_ST : Field := ⟨0x078, 0, 16, .ro, 0⟩
def ACK_TIMEOUT_ST : Field := ⟨0x07C, 0, 16, .rw, 0x12C0⟩
def RETRIES_COUNT : Field := ⟨0x080, 0, 32, .ro, 0⟩
def EXPIRED_COUNT : Field := ⟨0x084, 0, 32, .ro, 0⟩
def RX_DROP_COUNT : Field := ⟨0x088, 0, 32, .ro, 0⟩
def CRC_ERR_COUNT : Field := ⟨0x08C, 0, 32, .ro, 0⟩
def LAT_MAX_ST : Field := ⟨0x090, 0, 16, .ro, 0⟩
def rows0 : List FieldRow := [⟨PCMD_CLR_COUNTS, 1, 0⟩, ⟨PSTATUS_STATE, 1, 0⟩, ⟨PSTATUS_TX_WIDTH, 1, 0⟩, ⟨PSTATUS_RX_WIDTH, 1, 0⟩,
  ⟨PSTATUS_NEIGHBOUR, 1, 0⟩, ⟨PSTATUS_NB_VALID, 1, 0⟩, ⟨PSTATUS_DEADLINE_RISK, 1, 0⟩, ⟨PSTATUS_FROZEN, 1, 0⟩,
  ⟨LANE_STATE_RX0, 1, 0⟩, ⟨LANE_STATE_TX0, 1, 0⟩, ⟨LANE_STATE_RX1, 1, 0⟩, ⟨LANE_STATE_TX1, 1, 0⟩,
  ⟨LANE_STATE_RX2, 1, 0⟩, ⟨LANE_STATE_TX2, 1, 0⟩, ⟨LANE_STATE_RX3, 1, 0⟩, ⟨LANE_STATE_TX3, 1, 0⟩,
  ⟨SLEEP_CTRL_TX_SLEEP, 1, 0⟩, ⟨SLEEP_CTRL_AUTO, 1, 0⟩, ⟨SLEEP_CTRL_MIN_WIDTH, 1, 0⟩, ⟨FOM_FOM, 1, 0⟩,
  ⟨EYE_EW 0, 4, 4⟩, ⟨EYE_EH 0, 4, 4⟩, ⟨EYE_MARGIN 0, 4, 4⟩, ⟨LANE_ERR_CODE_ERR 0, 4, 4⟩]
def rows1 : List FieldRow := [⟨LANE_ERR_LOSSES 0, 4, 4⟩, ⟨WAYSTATION_USED, 1, 0⟩, ⟨WAYSTATION_OUTSTANDING_DL, 1, 0⟩, ⟨LINK_DELAY_ST, 1, 0⟩,
  ⟨ACK_TIMEOUT_ST, 1, 0⟩, ⟨RETRIES_COUNT, 1, 0⟩, ⟨EXPIRED_COUNT, 1, 0⟩, ⟨RX_DROP_COUNT, 1, 0⟩,
  ⟨CRC_ERR_COUNT, 1, 0⟩, ⟨LAT_MAX_ST, 1, 0⟩]
/-- Every stored field of the PORT pages (R401). -/
def rows : List FieldRow := rows0 ++ rows1
end PORT

/-! Fields of the LEDGER page (R354). -/
namespace LEDGER
def DEFAULTS_MAX_ATT : Field := ⟨0x040, 0, 4, .rw, 3⟩
def DEFAULTS_GRID : Field := ⟨0x040, 8, 5, .rw, 5⟩
def REPLAY_GAP_GAP : Field := ⟨0x044, 0, 24, .rw, 0x9C40⟩
def GRP_SEL_GROUP : Field := ⟨0x048, 0, 8, .rw, 0⟩
def GRP_SEL_WORD : Field := ⟨0x048, 8, 6, .rw, 0⟩
def GRP_SEL_AUTOINC : Field := ⟨0x048, 16, 1, .rw, 0⟩
def MARK_ATT_EN : Field := ⟨0x050, 0, 1, .rw, 0⟩
def MARK_ATT_MARKER : Field := ⟨0x050, 4, 4, .rw, 0⟩
def MARK_ATT_GROUP : Field := ⟨0x050, 8, 8, .rw, 0⟩
def PF_QUOTA_UNITS : Field := ⟨0x054, 0, 16, .rw, 0x800⟩
def DELIVERED_COUNT : Field := ⟨0x058, 0, 32, .ro, 0⟩
def VOIDED_COUNT : Field := ⟨0x05C, 0, 32, .ro, 0⟩
def UNRECOVERED_COUNT : Field := ⟨0x060, 0, 32, .ro, 0⟩
def TAKEOVERS_COUNT : Field := ⟨0x064, 0, 32, .ro, 0⟩
def MISMATCH_COUNT : Field := ⟨0x068, 0, 32, .ro, 0⟩
def STALE_MSG_COUNT : Field := ⟨0x06C, 0, 32, .ro, 0⟩
def VOID_CAUSE_COUNT (i : Nat) : Field := ⟨0x080 + 4 * i, 0, 32, .ro, 0⟩
def LRING_BASE_LO : Field := ⟨0x0C0, 16, 16, .rw, 0⟩
def LRING_BASE_HI : Field := ⟨0x0C4, 0, 32, .rw, 0⟩
def LRING_SIZE_UNITS : Field := ⟨0x0C8, 0, 16, .rw, 0⟩
def LRING_WR_OFFSET : Field := ⟨0x0CC, 0, 32, .ro, 0⟩
def LRING_RD_OFFSET : Field := ⟨0x0D0, 6, 26, .rw, 0⟩
def LRING_CTRL_EN : Field := ⟨0x0D4, 0, 1, .rw, 0⟩
def LRING_CTRL_IRQ_LEVEL : Field := ⟨0x0D4, 8, 16, .rw, 0⟩
def LRING_STATUS_WAIT : Field := ⟨0x0D8, 0, 1, .ro, 0⟩
def rows0 : List FieldRow := [⟨DEFAULTS_MAX_ATT, 1, 0⟩, ⟨DEFAULTS_GRID, 1, 0⟩, ⟨REPLAY_GAP_GAP, 1, 0⟩, ⟨GRP_SEL_GROUP, 1, 0⟩,
  ⟨GRP_SEL_WORD, 1, 0⟩, ⟨GRP_SEL_AUTOINC, 1, 0⟩, ⟨MARK_ATT_EN, 1, 0⟩, ⟨MARK_ATT_MARKER, 1, 0⟩,
  ⟨MARK_ATT_GROUP, 1, 0⟩, ⟨PF_QUOTA_UNITS, 1, 0⟩, ⟨DELIVERED_COUNT, 1, 0⟩, ⟨VOIDED_COUNT, 1, 0⟩,
  ⟨UNRECOVERED_COUNT, 1, 0⟩, ⟨TAKEOVERS_COUNT, 1, 0⟩, ⟨MISMATCH_COUNT, 1, 0⟩, ⟨STALE_MSG_COUNT, 1, 0⟩,
  ⟨VOID_CAUSE_COUNT 0, 12, 4⟩, ⟨LRING_BASE_LO, 1, 0⟩, ⟨LRING_BASE_HI, 1, 0⟩, ⟨LRING_SIZE_UNITS, 1, 0⟩,
  ⟨LRING_WR_OFFSET, 1, 0⟩, ⟨LRING_RD_OFFSET, 1, 0⟩, ⟨LRING_CTRL_EN, 1, 0⟩, ⟨LRING_CTRL_IRQ_LEVEL, 1, 0⟩]
def rows1 : List FieldRow := [⟨LRING_STATUS_WAIT, 1, 0⟩]
/-- Every stored field of the LEDGER page (R354). -/
def rows : List FieldRow := rows0 ++ rows1
end LEDGER

/-! Fields of the WATCH page (R356). -/
namespace WATCH
def WCTRL_TRACK_FREQ : Field := ⟨0x040, 0, 1, .rw, 0⟩
def WCTRL_TRACK_DISC : Field := ⟨0x040, 1, 1, .rw, 0⟩
def WCTRL_TRACK_TRIM : Field := ⟨0x040, 2, 1, .rw, 0⟩
def WCTRL_IDLE_EN : Field := ⟨0x040, 3, 1, .rw, 0⟩
def BUDGET_PCT : Field := ⟨0x044, 0, 8, .rw, 0x14⟩
def CONF_MIN_CONF : Field := ⟨0x048, 0, 8, .rw, 0xC8⟩
def DF_STEP_STEP : Field := ⟨0x04C, 0, 16, .rw, 0x28⟩
def DISC_STEP_C : Field := ⟨0x050, 0, 16, .rw, 0x100⟩
def DISC_STEP_THETA : Field := ⟨0x050, 16, 8, .rw, 8⟩
def TEND_SEL_ENTRY : Field := ⟨0x054, 0, 10, .rw, 0⟩
def TEND_SEL_WORD : Field := ⟨0x054, 16, 2, .rw, 0⟩
def TEND_SEL_AUTOINC : Field := ⟨0x054, 20, 1, .rw, 0⟩
def VSET_COUNT : Field := ⟨0x05C, 0, 32, .ro, 0⟩
def APPLIED_COUNT : Field := ⟨0x060, 0, 32, .ro, 0⟩
def REJ_CONF_COUNT : Field := ⟨0x064, 0, 32, .ro, 0⟩
def REJ_STALE_COUNT : Field := ⟨0x068, 0, 32, .ro, 0⟩
def CLIPPED_COUNT : Field := ⟨0x06C, 0, 32, .ro, 0⟩
def DROPPED_COUNT : Field := ⟨0x070, 0, 32, .ro, 0⟩
def SKIPPED_COUNT : Field := ⟨0x074, 0, 32, .ro, 0⟩
def PENDING_COUNT : Field := ⟨0x078, 0, 13, .ro, 0⟩
def rows0 : List FieldRow := [⟨WCTRL_TRACK_FREQ, 1, 0⟩, ⟨WCTRL_TRACK_DISC, 1, 0⟩, ⟨WCTRL_TRACK_TRIM, 1, 0⟩, ⟨WCTRL_IDLE_EN, 1, 0⟩,
  ⟨BUDGET_PCT, 1, 0⟩, ⟨CONF_MIN_CONF, 1, 0⟩, ⟨DF_STEP_STEP, 1, 0⟩, ⟨DISC_STEP_C, 1, 0⟩,
  ⟨DISC_STEP_THETA, 1, 0⟩, ⟨TEND_SEL_ENTRY, 1, 0⟩, ⟨TEND_SEL_WORD, 1, 0⟩, ⟨TEND_SEL_AUTOINC, 1, 0⟩,
  ⟨VSET_COUNT, 1, 0⟩, ⟨APPLIED_COUNT, 1, 0⟩, ⟨REJ_CONF_COUNT, 1, 0⟩, ⟨REJ_STALE_COUNT, 1, 0⟩,
  ⟨CLIPPED_COUNT, 1, 0⟩, ⟨DROPPED_COUNT, 1, 0⟩, ⟨SKIPPED_COUNT, 1, 0⟩, ⟨PENDING_COUNT, 1, 0⟩]
/-- Every stored field of the WATCH page (R356). -/
def rows : List FieldRow := rows0
end WATCH

/-! Fields of the HBM page (R314). -/
namespace HBM
def STATUS_TRAINED : Field := ⟨0x040, 0, 1, .ro, 0⟩
def STATUS_WIPING : Field := ⟨0x040, 1, 1, .ro, 0⟩
def ECC_CORRECTED : Field := ⟨0x044, 0, 16, .ro, 0⟩
def ECC_UNCORRECTED : Field := ⟨0x044, 16, 16, .ro, 0⟩
def UE_ADDR_LO : Field := ⟨0x048, 0, 32, .ro, 0⟩
def UE_ADDR_HI : Field := ⟨0x04C, 0, 4, .ro, 0⟩
def POISON_PAGES : Field := ⟨0x050, 0, 16, .ro, 0⟩
def SCRUB_PASSES : Field := ⟨0x054, 0, 32, .ro, 0⟩
def rows0 : List FieldRow := [⟨STATUS_TRAINED, 1, 0⟩, ⟨STATUS_WIPING, 1, 0⟩, ⟨ECC_CORRECTED, 1, 0⟩, ⟨ECC_UNCORRECTED, 1, 0⟩,
  ⟨UE_ADDR_LO, 1, 0⟩, ⟨UE_ADDR_HI, 1, 0⟩, ⟨POISON_PAGES, 1, 0⟩, ⟨SCRUB_PASSES, 1, 0⟩]
/-- Every stored field of the HBM page (R314). -/
def rows : List FieldRow := rows0
end HBM

/-! Fields of the NVM page (R517). -/
namespace NVM
def NSTATUS_BUSY : Field := ⟨0x040, 0, 1, .ro, 0⟩
def NSTATUS_JOURNAL_OK : Field := ⟨0x040, 1, 1, .ro, 0⟩
def LOG_SEL_ENTRY : Field := ⟨0x044, 0, 12, .rw, 0⟩
def LOG_SEL_WORD : Field := ⟨0x044, 16, 4, .rw, 0⟩
def LOG_SEL_AUTOINC : Field := ⟨0x044, 24, 1, .rw, 0⟩
def LOG_COUNT_HELD : Field := ⟨0x04C, 0, 13, .ro, 0⟩
def LOG_COUNT_OVERWRITTEN : Field := ⟨0x04C, 16, 16, .ro, 0⟩
def WEAR_PCT : Field := ⟨0x050, 0, 8, .ro, 0⟩
def rows0 : List FieldRow := [⟨NSTATUS_BUSY, 1, 0⟩, ⟨NSTATUS_JOURNAL_OK, 1, 0⟩, ⟨LOG_SEL_ENTRY, 1, 0⟩, ⟨LOG_SEL_WORD, 1, 0⟩,
  ⟨LOG_SEL_AUTOINC, 1, 0⟩, ⟨LOG_COUNT_HELD, 1, 0⟩, ⟨LOG_COUNT_OVERWRITTEN, 1, 0⟩, ⟨WEAR_PCT, 1, 0⟩]
/-- Every stored field of the NVM page (R517). -/
def rows : List FieldRow := rows0
end NVM

/-! Fields of the REGION pages (R34). -/
namespace REGION
def READ_ROUTE_SLOT (i : Nat) : Field := ⟨0x200 + 4 * i, 0, 5, .rwl, 0⟩
def READ_ROUTE_FEED (i : Nat) : Field := ⟨0x200 + 4 * i, 5, 2, .rwl, 0⟩
def READ_ROUTE_NONE (i : Nat) : Field := ⟨0x200 + 4 * i, 30, 1, .rwl, 0⟩
def READ_ROUTE_EN (i : Nat) : Field := ⟨0x200 + 4 * i, 31, 1, .rwl, 0⟩
def rows0 : List FieldRow := [⟨READ_ROUTE_SLOT 0, 128, 4⟩, ⟨READ_ROUTE_FEED 0, 128, 4⟩, ⟨READ_ROUTE_NONE 0, 128, 4⟩, ⟨READ_ROUTE_EN 0, 128, 4⟩]
/-- Every stored field of the REGION pages (R34). -/
def rows : List FieldRow := rows0
end REGION

/-! Fields of the DRIVE pages and the probe part of the TRANSCEIVER pages (R166, R194). -/
namespace OUTP
def OUT_CMD_ENABLE : Field := ⟨0x040, 0, 1, .w1s, 0⟩
def OUT_CMD_MUTE : Field := ⟨0x040, 1, 1, .w1s, 0⟩
def OUT_CMD_DISABLE : Field := ⟨0x040, 2, 1, .w1s, 0⟩
def OUT_CMD_CLR_COUNTS : Field := ⟨0x040, 3, 1, .w1s, 0⟩
def OUT_STATUS_COND : Field := ⟨0x044, 0, 2, .ro, 0⟩
def OUT_STATUS_SETTLING : Field := ⟨0x044, 2, 1, .ro, 0⟩
def OUT_STATUS_POWERING : Field := ⟨0x044, 3, 1, .ro, 0⟩
def OUT_CFG_MODE : Field := ⟨0x048, 0, 1, .rw, 0⟩
def FS_CODE : Field := ⟨0x04C, 0, 7, .rw, 0⟩
def OUT_GAIN_GAIN : Field := ⟨0x050, 0, 16, .rw, 0x1000⟩
def CLIP_COUNT_COUNT : Field := ⟨0x054, 0, 32, .ro, 0⟩
def JUMP_LEAD_LEAD : Field := ⟨0x058, 0, 8, .rw, 0x28⟩
def PF_LEAD_LEAD : Field := ⟨0x05C, 0, 20, .rw, 0x2000⟩
def TONE_STATUS_PLAYING (i : Nat) : Field := ⟨0x100 + 0x10 * i, 0, 1, .ro, 0⟩
def TONE_STATUS_STREAMING (i : Nat) : Field := ⟨0x100 + 0x10 * i, 1, 1, .ro, 0⟩
def TONE_STATUS_JUMP_HELD (i : Nat) : Field := ⟨0x100 + 0x10 * i, 2, 1, .ro, 0⟩
def TONE_STATUS_SLOT (i : Nat) : Field := ⟨0x100 + 0x10 * i, 4, 3, .ro, 0⟩
def TONE_STATUS_OVERLAP (i : Nat) : Field := ⟨0x100 + 0x10 * i, 8, 1, .w1c, 0⟩
def TONE_STATUS_REPLACED (i : Nat) : Field := ⟨0x100 + 0x10 * i, 9, 1, .w1c, 0⟩
def TONE_STATUS_BADSEG (i : Nat) : Field := ⟨0x100 + 0x10 * i, 10, 1, .w1c, 0⟩
def TONE_STATUS_FAULT_MUTED (i : Nat) : Field := ⟨0x100 + 0x10 * i, 11, 1, .ro, 0⟩
def TONE_SEG_ADDR (i : Nat) : Field := ⟨0x104 + 0x10 * i, 0, 32, .ro, 0⟩
def TONE_LEAD_LEAD_CUR (i : Nat) : Field := ⟨0x108 + 0x10 * i, 0, 20, .ro, 0x2000⟩
def TONE_COUNT_UNDERRUN (i : Nat) : Field := ⟨0x10C + 0x10 * i, 0, 16, .ro, 0⟩
def TONE_COUNT_LATE_JUMP (i : Nat) : Field := ⟨0x10C + 0x10 * i, 16, 16, .ro, 0⟩
def rows0 : List FieldRow := [⟨OUT_CMD_ENABLE, 1, 0⟩, ⟨OUT_CMD_MUTE, 1, 0⟩, ⟨OUT_CMD_DISABLE, 1, 0⟩, ⟨OUT_CMD_CLR_COUNTS, 1, 0⟩,
  ⟨OUT_STATUS_COND, 1, 0⟩, ⟨OUT_STATUS_SETTLING, 1, 0⟩, ⟨OUT_STATUS_POWERING, 1, 0⟩, ⟨OUT_CFG_MODE, 1, 0⟩,
  ⟨FS_CODE, 1, 0⟩, ⟨OUT_GAIN_GAIN, 1, 0⟩, ⟨CLIP_COUNT_COUNT, 1, 0⟩, ⟨JUMP_LEAD_LEAD, 1, 0⟩,
  ⟨PF_LEAD_LEAD, 1, 0⟩, ⟨TONE_STATUS_PLAYING 0, 32, 0x10⟩, ⟨TONE_STATUS_STREAMING 0, 32, 0x10⟩, ⟨TONE_STATUS_JUMP_HELD 0, 32, 0x10⟩,
  ⟨TONE_STATUS_SLOT 0, 32, 0x10⟩, ⟨TONE_STATUS_OVERLAP 0, 32, 0x10⟩, ⟨TONE_STATUS_REPLACED 0, 32, 0x10⟩, ⟨TONE_STATUS_BADSEG 0, 32, 0x10⟩,
  ⟨TONE_STATUS_FAULT_MUTED 0, 32, 0x10⟩, ⟨TONE_SEG_ADDR 0, 32, 0x10⟩, ⟨TONE_LEAD_LEAD_CUR 0, 32, 0x10⟩, ⟨TONE_COUNT_UNDERRUN 0, 32, 0x10⟩]
def rows1 : List FieldRow := [⟨TONE_COUNT_LATE_JUMP 0, 32, 0x10⟩]
/-- Every stored field of the DRIVE pages and the probe part of the TRANSCEIVER pages (R166, R194). -/
def rows : List FieldRow := rows0 ++ rows1
end OUTP

/-! Fields of the receive part of the TRANSCEIVER pages (R229). -/
namespace TRANSCEIVER
def RX_CMD_ENABLE : Field := ⟨0x300, 0, 1, .w1s, 0⟩
def RX_CMD_DISABLE : Field := ⟨0x300, 1, 1, .w1s, 0⟩
def RX_CMD_RECAL : Field := ⟨0x300, 2, 1, .w1s, 0⟩
def RX_CMD_CLR_COUNTS : Field := ⟨0x300, 3, 1, .w1s, 0⟩
def RX_STATUS_COND : Field := ⟨0x304, 0, 2, .ro, 0⟩
def RX_STATUS_FAILS : Field := ⟨0x304, 8, 2, .ro, 0⟩
def RX_CTRL_OVR_VOID : Field := ⟨0x308, 0, 1, .rw, 0⟩
def RX_CTRL_TRIM_LOCK : Field := ⟨0x308, 1, 1, .rw, 0⟩
def OVR_COUNT_EVENTS : Field := ⟨0x30C, 0, 16, .ro, 0⟩
def OVR_COUNT_FLAGGED : Field := ⟨0x30C, 16, 16, .ro, 0⟩
def CORR_OFS_OFS0 : Field := ⟨0x310, 0, 16, .rw, 0⟩
def CORR_OFS_OFS1 : Field := ⟨0x310, 16, 16, .rw, 0⟩
def CORR_GAIN_GAIN0 : Field := ⟨0x314, 0, 16, .rw, 0x4000⟩
def CORR_GAIN_GAIN1 : Field := ⟨0x314, 16, 16, .rw, 0x4000⟩
def CORR_SKEW_SKEW : Field := ⟨0x318, 0, 12, .rw, 0⟩
def CORR_CMD_APPLY : Field := ⟨0x31C, 0, 1, .w1s, 0⟩
def CORR_STATUS_PEND : Field := ⟨0x320, 0, 1, .ro, 0⟩
def CORR_STATUS_WATCH : Field := ⟨0x320, 1, 1, .ro, 0⟩
def RX_TONE_CFG_SHIFT (i : Nat) : Field := ⟨0x400 + 0x10 * i, 0, 5, .rw, 0⟩
def RX_TONE_CFG_CSHIFT (i : Nat) : Field := ⟨0x400 + 0x10 * i, 8, 4, .rw, 0⟩
def RES_IQ_I (i : Nat) : Field := ⟨0x404 + 0x10 * i, 0, 16, .ro, 0⟩
def RES_IQ_Q (i : Nat) : Field := ⟨0x404 + 0x10 * i, 16, 16, .ro, 0⟩
def RES_TAG_STATE (i : Nat) : Field := ⟨0x408 + 0x10 * i, 0, 2, .ro, 0⟩
def RES_TAG_CONF (i : Nat) : Field := ⟨0x408 + 0x10 * i, 8, 8, .ro, 0⟩
def RES_TAG_VALID (i : Nat) : Field := ⟨0x408 + 0x10 * i, 16, 1, .ro, 0⟩
def RES_TAG_OVR (i : Nat) : Field := ⟨0x408 + 0x10 * i, 17, 1, .ro, 0⟩
def RES_TAG_OVR_NB (i : Nat) : Field := ⟨0x408 + 0x10 * i, 18, 1, .ro, 0⟩
def RES_TAG_RX_FAULT (i : Nat) : Field := ⟨0x408 + 0x10 * i, 19, 1, .ro, 0⟩
def RES_TAG_SAT (i : Nat) : Field := ⟨0x408 + 0x10 * i, 20, 1, .ro, 0⟩
def RES_TAG_CUT (i : Nat) : Field := ⟨0x408 + 0x10 * i, 21, 1, .ro, 0⟩
def RES_TAG_CORR_CHG (i : Nat) : Field := ⟨0x408 + 0x10 * i, 22, 1, .ro, 0⟩
def RES_W_W (i : Nat) : Field := ⟨0x40C + 0x10 * i, 0, 32, .ro, 0⟩
def rows0 : List FieldRow := [⟨RX_CMD_ENABLE, 1, 0⟩, ⟨RX_CMD_DISABLE, 1, 0⟩, ⟨RX_CMD_RECAL, 1, 0⟩, ⟨RX_CMD_CLR_COUNTS, 1, 0⟩,
  ⟨RX_STATUS_COND, 1, 0⟩, ⟨RX_STATUS_FAILS, 1, 0⟩, ⟨RX_CTRL_OVR_VOID, 1, 0⟩, ⟨RX_CTRL_TRIM_LOCK, 1, 0⟩,
  ⟨OVR_COUNT_EVENTS, 1, 0⟩, ⟨OVR_COUNT_FLAGGED, 1, 0⟩, ⟨CORR_OFS_OFS0, 1, 0⟩, ⟨CORR_OFS_OFS1, 1, 0⟩,
  ⟨CORR_GAIN_GAIN0, 1, 0⟩, ⟨CORR_GAIN_GAIN1, 1, 0⟩, ⟨CORR_SKEW_SKEW, 1, 0⟩, ⟨CORR_CMD_APPLY, 1, 0⟩,
  ⟨CORR_STATUS_PEND, 1, 0⟩, ⟨CORR_STATUS_WATCH, 1, 0⟩, ⟨RX_TONE_CFG_SHIFT 0, 32, 0x10⟩, ⟨RX_TONE_CFG_CSHIFT 0, 32, 0x10⟩,
  ⟨RES_IQ_I 0, 32, 0x10⟩, ⟨RES_IQ_Q 0, 32, 0x10⟩, ⟨RES_TAG_STATE 0, 32, 0x10⟩, ⟨RES_TAG_CONF 0, 32, 0x10⟩]
def rows1 : List FieldRow := [⟨RES_TAG_VALID 0, 32, 0x10⟩, ⟨RES_TAG_OVR 0, 32, 0x10⟩, ⟨RES_TAG_OVR_NB 0, 32, 0x10⟩, ⟨RES_TAG_RX_FAULT 0, 32, 0x10⟩,
  ⟨RES_TAG_SAT 0, 32, 0x10⟩, ⟨RES_TAG_CUT 0, 32, 0x10⟩, ⟨RES_TAG_CORR_CHG 0, 32, 0x10⟩, ⟨RES_W_W 0, 32, 0x10⟩]
/-- Every stored field of the receive part of the TRANSCEIVER pages (R229). -/
def rows : List FieldRow := rows0 ++ rows1
end TRANSCEIVER

/-! Fields of the DECISION pages (R231). -/
namespace DECISION
def DF_SEL_FUNC : Field := ⟨0x040, 0, 8, .rw, 0⟩
def DF_SEL_WORD : Field := ⟨0x040, 8, 8, .rw, 0⟩
def DF_SEL_AUTOINC : Field := ⟨0x040, 16, 1, .rw, 0⟩
def DF_W_LO : Field := ⟨0x04C, 0, 32, .ro, 0⟩
def DF_W_HI : Field := ⟨0x050, 0, 32, .ro, 0⟩
def DF_STALE_COUNT : Field := ⟨0x054, 0, 32, .ro, 0⟩
def FOREIGN_COUNT : Field := ⟨0x058, 0, 32, .ro, 0⟩
def rows0 : List FieldRow := [⟨DF_SEL_FUNC, 1, 0⟩, ⟨DF_SEL_WORD, 1, 0⟩, ⟨DF_SEL_AUTOINC, 1, 0⟩, ⟨DF_W_LO, 1, 0⟩,
  ⟨DF_W_HI, 1, 0⟩, ⟨DF_STALE_COUNT, 1, 0⟩, ⟨FOREIGN_COUNT, 1, 0⟩]
/-- Every stored field of the DECISION pages (R231). -/
def rows : List FieldRow := rows0
end DECISION

/-! Fields of the ACQUISITION pages (R261, R545). -/
namespace ACQUISITION
def UNIT_SEL_UNIT : Field := ⟨0x040, 0, 8, .rw, 0⟩
def UNIT_SEL_WORD : Field := ⟨0x040, 8, 4, .rw, 0⟩
def UNIT_SEL_AUTOINC : Field := ⟨0x040, 16, 1, .rw, 0⟩
def Q_STATUS_FILL : Field := ⟨0x04C, 0, 23, .ro, 0⟩
def Q_STATUS_AUTO : Field := ⟨0x04C, 24, 4, .ro, 0⟩
def Q_STEPS_DOWN : Field := ⟨0x050, 0, 16, .ro, 0⟩
def Q_STEPS_UP : Field := ⟨0x050, 16, 16, .ro, 0⟩
def TRUNC_COUNT_COUNT : Field := ⟨0x054, 0, 32, .ro, 0⟩
def RING_BASE_LO_ADDR : Field := ⟨0x058, 16, 16, .rw, 0⟩
def RING_BASE_HI_ADDR : Field := ⟨0x05C, 0, 4, .rw, 0⟩
def RING_SIZE_UNITS : Field := ⟨0x060, 0, 16, .rw, 0⟩
def RING_WR_OFFSET : Field := ⟨0x064, 0, 32, .ro, 0⟩
def RING_RD_OFFSET : Field := ⟨0x068, 6, 26, .rw, 0⟩
def RING_CTRL_EN : Field := ⟨0x06C, 0, 1, .rw, 0⟩
def RING_CTRL_IRQ_LEVEL : Field := ⟨0x06C, 8, 16, .rw, 0⟩
def RING_STATUS_WAIT : Field := ⟨0x070, 0, 1, .ro, 0⟩
def MARK_CMD_ENABLE0 : Field := ⟨0x074, 0, 1, .w1s, 0⟩
def MARK_CMD_MUTE0 : Field := ⟨0x074, 1, 1, .w1s, 0⟩
def MARK_CMD_DISABLE0 : Field := ⟨0x074, 2, 1, .w1s, 0⟩
def MARK_CMD_ENABLE1 : Field := ⟨0x074, 8, 1, .w1s, 0⟩
def MARK_CMD_MUTE1 : Field := ⟨0x074, 9, 1, .w1s, 0⟩
def MARK_CMD_DISABLE1 : Field := ⟨0x074, 10, 1, .w1s, 0⟩
def MARK_STATUS_COND0 : Field := ⟨0x078, 0, 2, .ro, 0⟩
def MARK_STATUS_COND1 : Field := ⟨0x078, 8, 2, .ro, 0⟩
def rows0 : List FieldRow := [⟨UNIT_SEL_UNIT, 1, 0⟩, ⟨UNIT_SEL_WORD, 1, 0⟩, ⟨UNIT_SEL_AUTOINC, 1, 0⟩, ⟨Q_STATUS_FILL, 1, 0⟩,
  ⟨Q_STATUS_AUTO, 1, 0⟩, ⟨Q_STEPS_DOWN, 1, 0⟩, ⟨Q_STEPS_UP, 1, 0⟩, ⟨TRUNC_COUNT_COUNT, 1, 0⟩,
  ⟨RING_BASE_LO_ADDR, 1, 0⟩, ⟨RING_BASE_HI_ADDR, 1, 0⟩, ⟨RING_SIZE_UNITS, 1, 0⟩, ⟨RING_WR_OFFSET, 1, 0⟩,
  ⟨RING_RD_OFFSET, 1, 0⟩, ⟨RING_CTRL_EN, 1, 0⟩, ⟨RING_CTRL_IRQ_LEVEL, 1, 0⟩, ⟨RING_STATUS_WAIT, 1, 0⟩,
  ⟨MARK_CMD_ENABLE0, 1, 0⟩, ⟨MARK_CMD_MUTE0, 1, 0⟩, ⟨MARK_CMD_DISABLE0, 1, 0⟩, ⟨MARK_CMD_ENABLE1, 1, 0⟩,
  ⟨MARK_CMD_MUTE1, 1, 0⟩, ⟨MARK_CMD_DISABLE1, 1, 0⟩, ⟨MARK_STATUS_COND0, 1, 0⟩, ⟨MARK_STATUS_COND1, 1, 0⟩]
/-- Every stored field of the ACQUISITION pages (R261, R545). -/
def rows : List FieldRow := rows0
end ACQUISITION

/-! Fields of the PORTER pages (R313). -/
namespace PORTER
def DQ_BASE_LO_ADDR : Field := ⟨0x040, 5, 27, .rw, 0⟩
def DQ_BASE_HI_ADDR : Field := ⟨0x044, 0, 4, .rw, 0⟩
def DQ_SIZE_ENTRIES : Field := ⟨0x048, 0, 13, .rw, 0⟩
def DQ_TAIL_INDEX : Field := ⟨0x04C, 0, 12, .rw, 0⟩
def DQ_HEAD_INDEX : Field := ⟨0x050, 0, 12, .ro, 0⟩
def DQ_DONE_INDEX : Field := ⟨0x054, 0, 12, .ro, 0⟩
def DQ_CTRL_EN : Field := ⟨0x058, 0, 1, .rw, 0⟩
def DQ_STATUS_INFLIGHT : Field := ⟨0x05C, 0, 9, .ro, 0⟩
def DQ_STATUS_LAST : Field := ⟨0x05C, 16, 8, .ro, 0⟩
def CTX_ECC_CORRECTED : Field := ⟨0x080, 0, 16, .ro, 0⟩
def CTX_ECC_UNCORRECTED : Field := ⟨0x080, 16, 16, .ro, 0⟩
def WGT_ECC_CORRECTED : Field := ⟨0x084, 0, 16, .ro, 0⟩
def WGT_ECC_UNCORRECTED : Field := ⟨0x084, 16, 16, .ro, 0⟩
def LEDGER_ECC_CORRECTED : Field := ⟨0x088, 0, 16, .ro, 0⟩
def LEDGER_ECC_UNCORRECTED : Field := ⟨0x088, 16, 16, .ro, 0⟩
def QUEUE_ECC_CORRECTED : Field := ⟨0x08C, 0, 16, .ro, 0⟩
def QUEUE_ECC_UNCORRECTED : Field := ⟨0x08C, 16, 16, .ro, 0⟩
def UE_ADDR_OFFSET : Field := ⟨0x090, 0, 23, .ro, 0⟩
def UE_ADDR_STORE : Field := ⟨0x090, 28, 4, .ro, 0⟩
def SPARE_ROWS_CONTEXT : Field := ⟨0x094, 0, 6, .ro, 0⟩
def SPARE_ROWS_WEIGHT : Field := ⟨0x094, 6, 6, .ro, 0⟩
def SPARE_ROWS_LEDGER : Field := ⟨0x094, 12, 6, .ro, 0⟩
def SPARE_ROWS_CAPTURE : Field := ⟨0x094, 18, 6, .ro, 0⟩
def rows0 : List FieldRow := [⟨DQ_BASE_LO_ADDR, 1, 0⟩, ⟨DQ_BASE_HI_ADDR, 1, 0⟩, ⟨DQ_SIZE_ENTRIES, 1, 0⟩, ⟨DQ_TAIL_INDEX, 1, 0⟩,
  ⟨DQ_HEAD_INDEX, 1, 0⟩, ⟨DQ_DONE_INDEX, 1, 0⟩, ⟨DQ_CTRL_EN, 1, 0⟩, ⟨DQ_STATUS_INFLIGHT, 1, 0⟩,
  ⟨DQ_STATUS_LAST, 1, 0⟩, ⟨CTX_ECC_CORRECTED, 1, 0⟩, ⟨CTX_ECC_UNCORRECTED, 1, 0⟩, ⟨WGT_ECC_CORRECTED, 1, 0⟩,
  ⟨WGT_ECC_UNCORRECTED, 1, 0⟩, ⟨LEDGER_ECC_CORRECTED, 1, 0⟩, ⟨LEDGER_ECC_UNCORRECTED, 1, 0⟩, ⟨QUEUE_ECC_CORRECTED, 1, 0⟩,
  ⟨QUEUE_ECC_UNCORRECTED, 1, 0⟩, ⟨UE_ADDR_OFFSET, 1, 0⟩, ⟨UE_ADDR_STORE, 1, 0⟩, ⟨SPARE_ROWS_CONTEXT, 1, 0⟩,
  ⟨SPARE_ROWS_WEIGHT, 1, 0⟩, ⟨SPARE_ROWS_LEDGER, 1, 0⟩, ⟨SPARE_ROWS_CAPTURE, 1, 0⟩]
/-- Every stored field of the PORTER pages (R313). -/
def rows : List FieldRow := rows0
end PORTER

/-! Fields of the BLOCK pages (R32, R160, R196, R311). -/
namespace BLOCK
def PACE_CTRL_PIN_PACED : Field := ⟨0x040, 0, 1, .rwl, 0⟩
def PACE_STATUS_MODE : Field := ⟨0x044, 0, 1, .ro, 0⟩
def PACE_STATUS_PENDING : Field := ⟨0x044, 1, 1, .ro, 0⟩
def PACE_STATUS_ENABLED : Field := ⟨0x044, 16, 5, .ro, 0⟩
def UC_CTRL_LOAD : Field := ⟨0x048, 0, 1, .w1s, 0⟩
def UC_CTRL_STD : Field := ⟨0x048, 1, 1, .w1s, 0⟩
def UC_STATUS_BUSY : Field := ⟨0x04C, 0, 1, .ro, 0⟩
def UC_STATUS_DONE : Field := ⟨0x04C, 1, 1, .ro, 0⟩
def UC_STATUS_OK : Field := ⟨0x04C, 2, 1, .ro, 0⟩
def UC_STATUS_REASON : Field := ⟨0x04C, 8, 8, .ro, 0⟩
def UC_STATUS_ADDR : Field := ⟨0x04C, 16, 13, .ro, 0⟩
def UC_SRC_LO : Field := ⟨0x050, 0, 32, .rw, 0⟩
def UC_SRC_HI : Field := ⟨0x054, 0, 32, .rw, 0⟩
def UC_ID_VERSION : Field := ⟨0x058, 0, 32, .ro, 0⟩
def UC_INFO_MODES : Field := ⟨0x05C, 0, 2, .ro, 0⟩
def UC_INFO_KEY_SLOT : Field := ⟨0x05C, 4, 1, .ro, 0⟩
def UC_INFO_STD : Field := ⟨0x05C, 5, 1, .ro, 0⟩
def UC_ECC_CORRECTED : Field := ⟨0x060, 0, 16, .ro, 0⟩
def UC_ECC_UNCORRECTED : Field := ⟨0x060, 16, 16, .ro, 0⟩
def ENV_OVER_COUNT : Field := ⟨0x064, 0, 32, .ro, 0⟩
def STREAM_STATUS_USED : Field := ⟨0x068, 0, 4, .ro, 0⟩
def STREAM_STATUS_STALLS : Field := ⟨0x068, 16, 16, .ro, 0⟩
def LIB_SRC_LO : Field := ⟨0x070, 3, 29, .rw, 0⟩
def LIB_SRC_HI : Field := ⟨0x074, 0, 4, .rw, 0⟩
def LIB_DST_PAGE : Field := ⟨0x078, 0, 6, .rw, 0⟩
def LIB_DST_LEN : Field := ⟨0x078, 16, 13, .rw, 0⟩
def LIB_CTRL_LOAD : Field := ⟨0x07C, 0, 1, .w1s, 0⟩
def LIB_STATUS_BUSY : Field := ⟨0x080, 0, 1, .ro, 0⟩
def LIB_STATUS_DONE : Field := ⟨0x080, 1, 1, .ro, 0⟩
def LIB_STATUS_OK : Field := ⟨0x080, 2, 1, .ro, 0⟩
def LIB_STATUS_REASON : Field := ⟨0x080, 8, 8, .ro, 0⟩
def LIB_STATUS_INDEX : Field := ⟨0x080, 16, 12, .ro, 0⟩
def CELL_ROUTE_SLOT (i : Nat) : Field := ⟨0x100 + 4 * i, 0, 3, .rwl, 0⟩
def CELL_ROUTE_J (i : Nat) : Field := ⟨0x100 + 4 * i, 3, 1, .rwl, 0⟩
def CELL_ROUTE_FLUX_DENY (i : Nat) : Field := ⟨0x100 + 4 * i, 4, 2, .rwl, 0⟩
def CELL_ROUTE_NONE (i : Nat) : Field := ⟨0x100 + 4 * i, 30, 1, .rwl, 0⟩
def CELL_ROUTE_EN (i : Nat) : Field := ⟨0x100 + 4 * i, 31, 1, .rwl, 0⟩
def rows0 : List FieldRow := [⟨PACE_CTRL_PIN_PACED, 1, 0⟩, ⟨PACE_STATUS_MODE, 1, 0⟩, ⟨PACE_STATUS_PENDING, 1, 0⟩, ⟨PACE_STATUS_ENABLED, 1, 0⟩,
  ⟨UC_CTRL_LOAD, 1, 0⟩, ⟨UC_CTRL_STD, 1, 0⟩, ⟨UC_STATUS_BUSY, 1, 0⟩, ⟨UC_STATUS_DONE, 1, 0⟩,
  ⟨UC_STATUS_OK, 1, 0⟩, ⟨UC_STATUS_REASON, 1, 0⟩, ⟨UC_STATUS_ADDR, 1, 0⟩, ⟨UC_SRC_LO, 1, 0⟩,
  ⟨UC_SRC_HI, 1, 0⟩, ⟨UC_ID_VERSION, 1, 0⟩, ⟨UC_INFO_MODES, 1, 0⟩, ⟨UC_INFO_KEY_SLOT, 1, 0⟩,
  ⟨UC_INFO_STD, 1, 0⟩, ⟨UC_ECC_CORRECTED, 1, 0⟩, ⟨UC_ECC_UNCORRECTED, 1, 0⟩, ⟨ENV_OVER_COUNT, 1, 0⟩,
  ⟨STREAM_STATUS_USED, 1, 0⟩, ⟨STREAM_STATUS_STALLS, 1, 0⟩, ⟨LIB_SRC_LO, 1, 0⟩, ⟨LIB_SRC_HI, 1, 0⟩]
def rows1 : List FieldRow := [⟨LIB_DST_PAGE, 1, 0⟩, ⟨LIB_DST_LEN, 1, 0⟩, ⟨LIB_CTRL_LOAD, 1, 0⟩, ⟨LIB_STATUS_BUSY, 1, 0⟩,
  ⟨LIB_STATUS_DONE, 1, 0⟩, ⟨LIB_STATUS_OK, 1, 0⟩, ⟨LIB_STATUS_REASON, 1, 0⟩, ⟨LIB_STATUS_INDEX, 1, 0⟩,
  ⟨CELL_ROUTE_SLOT 0, 16, 4⟩, ⟨CELL_ROUTE_J 0, 16, 4⟩, ⟨CELL_ROUTE_FLUX_DENY 0, 16, 4⟩, ⟨CELL_ROUTE_NONE 0, 16, 4⟩,
  ⟨CELL_ROUTE_EN 0, 16, 4⟩]
/-- Every stored field of the BLOCK pages (R32, R160, R196, R311). -/
def rows : List FieldRow := rows0 ++ rows1
end BLOCK

/-! Fields of the FLUX pages (R195). -/
namespace FLUX
def OUT_CMD_ENABLE : Field := ⟨0x040, 0, 1, .w1s, 0⟩
def OUT_CMD_MUTE : Field := ⟨0x040, 1, 1, .w1s, 0⟩
def OUT_CMD_DISABLE : Field := ⟨0x040, 2, 1, .w1s, 0⟩
def OUT_CMD_CLR_COUNTS : Field := ⟨0x040, 3, 1, .w1s, 0⟩
def OUT_STATUS_COND : Field := ⟨0x044, 0, 2, .ro, 0⟩
def BIAS_CODE : Field := ⟨0x048, 0, 16, .rw, 0⟩
def LEASE_HOLDER : Field := ⟨0x04C, 0, 10, .ro, 0⟩
def LEASE_HELD : Field := ⟨0x04C, 15, 1, .ro, 0⟩
def LEASE_WAITERS : Field := ⟨0x04C, 16, 4, .ro, 0⟩
def FLUX_STATUS_PLAYING : Field := ⟨0x050, 0, 1, .ro, 0⟩
def FLUX_STATUS_OVERLAP : Field := ⟨0x050, 8, 1, .w1c, 0⟩
def CLIP_COUNT_COUNT : Field := ⟨0x054, 0, 32, .ro, 0⟩
def PD_CTRL_EN : Field := ⟨0x058, 0, 4, .rw, 0⟩
def PD_A (i : Nat) : Field := ⟨0x060 + 4 * i, 0, 16, .rw, 0⟩
def PD_TAU (i : Nat) : Field := ⟨0x060 + 4 * i, 16, 16, .rw, 0⟩
def rows0 : List FieldRow := [⟨OUT_CMD_ENABLE, 1, 0⟩, ⟨OUT_CMD_MUTE, 1, 0⟩, ⟨OUT_CMD_DISABLE, 1, 0⟩, ⟨OUT_CMD_CLR_COUNTS, 1, 0⟩,
  ⟨OUT_STATUS_COND, 1, 0⟩, ⟨BIAS_CODE, 1, 0⟩, ⟨LEASE_HOLDER, 1, 0⟩, ⟨LEASE_HELD, 1, 0⟩,
  ⟨LEASE_WAITERS, 1, 0⟩, ⟨FLUX_STATUS_PLAYING, 1, 0⟩, ⟨FLUX_STATUS_OVERLAP, 1, 0⟩, ⟨CLIP_COUNT_COUNT, 1, 0⟩,
  ⟨PD_CTRL_EN, 1, 0⟩, ⟨PD_A 0, 4, 4⟩, ⟨PD_TAU 0, 4, 4⟩]
/-- Every stored field of the FLUX pages (R195). -/
def rows : List FieldRow := rows0
end FLUX

/-! Fields of the DSP pages (R292). -/
namespace DSP
def CTRL_START : Field := ⟨0x040, 0, 1, .w1s, 0⟩
def CTRL_HALT : Field := ⟨0x040, 1, 1, .w1s, 0⟩
def CTRL_ABORT : Field := ⟨0x040, 2, 1, .w1s, 0⟩
def CTRL_CLR_FLAGS : Field := ⟨0x040, 3, 1, .w1s, 0⟩
def STATUS_STATE : Field := ⟨0x044, 0, 3, .ro, 0⟩
def STATUS_ABORTED : Field := ⟨0x044, 4, 1, .ro, 0⟩
def STATUS_START_HELD : Field := ⟨0x044, 5, 1, .ro, 0⟩
def STATUS_NOTIFY : Field := ⟨0x044, 6, 1, .ro, 0⟩
def CFG_START_PC : Field := ⟨0x048, 0, 13, .rwl, 0⟩
def CFG_WATCH_EN : Field := ⟨0x048, 16, 1, .rwl, 0⟩
def IRQ_EN_EN : Field := ⟨0x04C, 0, 3, .rw, 0⟩
def IRQ_STATUS_PEND : Field := ⟨0x050, 0, 3, .ro, 0⟩
def IRQ_STATUS_DB_OVER : Field := ⟨0x050, 8, 1, .ro, 0⟩
def DOORBELL_VALUE : Field := ⟨0x054, 0, 32, .rw, 0⟩
def PMEM_SEL_ADDR : Field := ⟨0x058, 0, 13, .rwl, 0⟩
def PMEM_SEL_AUTOINC : Field := ⟨0x058, 16, 1, .rwl, 0⟩
def REG_SEL_REG : Field := ⟨0x060, 0, 7, .rw, 0⟩
def FAULT_PC_PC : Field := ⟨0x068, 0, 13, .ro, 0⟩
def RETIRED_COUNT : Field := ⟨0x06C, 0, 32, .ro, 0⟩
def BANK_WAITS_COUNT : Field := ⟨0x070, 0, 32, .ro, 0⟩
def rows0 : List FieldRow := [⟨CTRL_START, 1, 0⟩, ⟨CTRL_HALT, 1, 0⟩, ⟨CTRL_ABORT, 1, 0⟩, ⟨CTRL_CLR_FLAGS, 1, 0⟩,
  ⟨STATUS_STATE, 1, 0⟩, ⟨STATUS_ABORTED, 1, 0⟩, ⟨STATUS_START_HELD, 1, 0⟩, ⟨STATUS_NOTIFY, 1, 0⟩,
  ⟨CFG_START_PC, 1, 0⟩, ⟨CFG_WATCH_EN, 1, 0⟩, ⟨IRQ_EN_EN, 1, 0⟩, ⟨IRQ_STATUS_PEND, 1, 0⟩,
  ⟨IRQ_STATUS_DB_OVER, 1, 0⟩, ⟨DOORBELL_VALUE, 1, 0⟩, ⟨PMEM_SEL_ADDR, 1, 0⟩, ⟨PMEM_SEL_AUTOINC, 1, 0⟩,
  ⟨REG_SEL_REG, 1, 0⟩, ⟨FAULT_PC_PC, 1, 0⟩, ⟨RETIRED_COUNT, 1, 0⟩, ⟨BANK_WAITS_COUNT, 1, 0⟩]
/-- Every stored field of the DSP pages (R292). -/
def rows : List FieldRow := rows0
end DSP

/-! Fields of the BANK pages (R312). -/
namespace BANK
def ECC_CORRECTED : Field := ⟨0x040, 0, 16, .ro, 0⟩
def ECC_UNCORRECTED : Field := ⟨0x040, 16, 16, .ro, 0⟩
def UE_ADDR_WORD : Field := ⟨0x044, 0, 18, .ro, 0⟩
def UE_ADDR_READER : Field := ⟨0x044, 28, 4, .ro, 0⟩
def POISON_COUNT : Field := ⟨0x048, 0, 16, .ro, 0⟩
def SPAD_ECC_CORRECTED : Field := ⟨0x04C, 0, 16, .ro, 0⟩
def SCRUB_PASSES : Field := ⟨0x050, 0, 32, .ro, 0⟩
def INJECT_WORD : Field := ⟨0x054, 0, 18, .rw, 0⟩
def INJECT_KIND : Field := ⟨0x054, 24, 2, .rw, 0⟩
def INJECT_ARM : Field := ⟨0x054, 31, 1, .rw, 0⟩
def rows0 : List FieldRow := [⟨ECC_CORRECTED, 1, 0⟩, ⟨ECC_UNCORRECTED, 1, 0⟩, ⟨UE_ADDR_WORD, 1, 0⟩, ⟨UE_ADDR_READER, 1, 0⟩,
  ⟨POISON_COUNT, 1, 0⟩, ⟨SPAD_ECC_CORRECTED, 1, 0⟩, ⟨SCRUB_PASSES, 1, 0⟩, ⟨INJECT_WORD, 1, 0⟩,
  ⟨INJECT_KIND, 1, 0⟩, ⟨INJECT_ARM, 1, 0⟩]
/-- Every stored field of the BANK pages (R312). -/
def rows : List FieldRow := rows0
end BANK

/-! Fields of the CELL pages (R82, R131, R161). -/
namespace CELL
def CTRL_START : Field := ⟨0x040, 0, 1, .w1s, 0⟩
def CTRL_STOP : Field := ⟨0x040, 1, 1, .w1s, 0⟩
def CTRL_CLR_PENDING : Field := ⟨0x040, 2, 1, .w1s, 0⟩
def CTRL_LOAD : Field := ⟨0x040, 3, 1, .w1s, 0⟩
def STATUS_STATE : Field := ⟨0x044, 0, 4, .ro, 0⟩
def STATUS_START_PENDING : Field := ⟨0x044, 8, 1, .ro, 0⟩
def STATUS_IN_SHOT : Field := ⟨0x044, 9, 1, .ro, 0⟩
def STATUS_LIB : Field := ⟨0x044, 10, 1, .ro, 0⟩
def STATUS_ATTEMPT : Field := ⟨0x044, 12, 4, .ro, 0⟩
def STATUS_PC : Field := ⟨0x044, 16, 12, .ro, 0⟩
def START_PC_PC : Field := ⟨0x048, 0, 12, .rwl, 0⟩
def START_SRC_KIND : Field := ⟨0x04C, 0, 2, .rwl, 0⟩
def START_SRC_UNIT : Field := ⟨0x04C, 4, 10, .rwl, 0⟩
def START_OVERRUN_COUNT : Field := ⟨0x050, 0, 32, .ro, 0⟩
def DL_MISS_COUNT : Field := ⟨0x054, 0, 32, .ro, 0⟩
def MARK_ROUTE_OWN : Field := ⟨0x058, 0, 16, .rwl, 0⟩
def CW_Z : Field := ⟨0x05C, 0, 1, .ro, 0⟩
def CW_N : Field := ⟨0x05C, 1, 1, .ro, 0⟩
def CW_C : Field := ⟨0x05C, 2, 1, .ro, 0⟩
def CW_V : Field := ⟨0x05C, 3, 1, .ro, 0⟩
def CW_BT : Field := ⟨0x05C, 4, 1, .ro, 0⟩
def CW_LR : Field := ⟨0x05C, 5, 1, .ro, 0⟩
def CW_SP : Field := ⟨0x05C, 6, 1, .ro, 0⟩
def CW_RP : Field := ⟨0x05C, 7, 1, .ro, 0⟩
def CW_ATT : Field := ⟨0x05C, 8, 4, .ro, 0⟩
def LOAD_SRC_LO : Field := ⟨0x060, 3, 29, .rw, 0⟩
def LOAD_SRC_HI : Field := ⟨0x064, 0, 4, .rw, 0⟩
def LOAD_LEN_LEN : Field := ⟨0x068, 0, 13, .rw, 0⟩
def LOAD_STATUS_BUSY : Field := ⟨0x06C, 0, 1, .ro, 0⟩
def LOAD_STATUS_DONE : Field := ⟨0x06C, 1, 1, .ro, 0⟩
def LOAD_STATUS_OK : Field := ⟨0x06C, 2, 1, .ro, 0⟩
def LOAD_STATUS_REASON : Field := ⟨0x06C, 8, 8, .ro, 0⟩
def LOAD_STATUS_INDEX : Field := ⟨0x06C, 16, 12, .ro, 0⟩
def CURFEW_STATUS_TAG : Field := ⟨0x070, 0, 16, .ro, 0⟩
def CURFEW_STATUS_SCOPE : Field := ⟨0x070, 16, 3, .ro, 0⟩
def CURFEW_STATUS_WAITING : Field := ⟨0x070, 31, 1, .ro, 0⟩
def TT_CTRL_LOWWATER : Field := ⟨0x080, 0, 6, .rw, 8⟩
def TT_CTRL_LW_EN : Field := ⟨0x080, 8, 1, .rw, 0⟩
def TT_CTRL_AVS_EXCL : Field := ⟨0x080, 9, 1, .rw, 0⟩
def TT_STATUS_LATE : Field := ⟨0x084, 16, 1, .ro, 0⟩
def TT_STATUS_ORDER : Field := ⟨0x084, 17, 1, .ro, 0⟩
def TT_STATUS_BURST : Field := ⟨0x084, 18, 1, .ro, 0⟩
def SLACK_LAST : Field := ⟨0x088, 0, 32, .ro, 0⟩
def SLACK_MIN : Field := ⟨0x08C, 0, 32, .ro, 0x7FFFFFFF⟩
def LATE_COUNT_COUNT : Field := ⟨0x090, 0, 32, .ro, 0⟩
def STALL_COUNT_COUNT : Field := ⟨0x094, 0, 32, .ro, 0⟩
def TT_CLEAR_SLACK : Field := ⟨0x098, 0, 1, .wo, 0⟩
def TT_CLEAR_COUNTS : Field := ⟨0x098, 1, 1, .wo, 0⟩
def TT_CLEAR_FLAGS : Field := ⟨0x098, 2, 1, .wo, 0⟩
def TT_PEEK_WORD (i : Nat) : Field := ⟨0x0A0 + 4 * i, 0, 32, .ro, 0⟩
def G_VALUE (i : Nat) : Field := ⟨0x0C0 + 4 * i, 0, 32, .rwl, 0⟩
def T_LO (i : Nat) : Field := ⟨0x100 + 8 * i, 0, 32, .rwl, 0⟩
def T_HI (i : Nat) : Field := ⟨0x104 + 8 * i, 0, 32, .rwl, 0⟩
def L_VALUE (i : Nat) : Field := ⟨0x120 + 4 * i, 0, 32, .rwl, 0⟩
def SO_CTRL_FLT_EN : Field := ⟨0x140, 0, 1, .rw, 0⟩
def SO_CTRL_DL_EN : Field := ⟨0x140, 1, 1, .rw, 0⟩
def SO_CTRL_CR_EN : Field := ⟨0x140, 2, 1, .rw, 0⟩
def SO_CTRL_MSG_EN : Field := ⟨0x140, 3, 1, .rw, 0⟩
def SO_CTRL_DB_EN : Field := ⟨0x140, 4, 1, .rw, 0⟩
def SO_STATUS_PEND : Field := ⟨0x144, 0, 6, .ro, 0⟩
def SO_STATUS_LEVEL : Field := ⟨0x144, 8, 2, .ro, 0⟩
def SO_STATUS_DB_OVER : Field := ⟨0x144, 16, 1, .ro, 0⟩
def DOORBELL_VALUE : Field := ⟨0x148, 0, 32, .rw, 0⟩
def SO_COUNT_TAKEN : Field := ⟨0x14C, 0, 32, .ro, 0⟩
def SO_SAVE_UPC_UPC : Field := ⟨0x150, 0, 13, .ro, 0⟩
def SO_FAULT_UPC_UPC : Field := ⟨0x154, 0, 13, .ro, 0⟩
def rows0 : List FieldRow := [⟨CTRL_START, 1, 0⟩, ⟨CTRL_STOP, 1, 0⟩, ⟨CTRL_CLR_PENDING, 1, 0⟩, ⟨CTRL_LOAD, 1, 0⟩,
  ⟨STATUS_STATE, 1, 0⟩, ⟨STATUS_START_PENDING, 1, 0⟩, ⟨STATUS_IN_SHOT, 1, 0⟩, ⟨STATUS_LIB, 1, 0⟩,
  ⟨STATUS_ATTEMPT, 1, 0⟩, ⟨STATUS_PC, 1, 0⟩, ⟨START_PC_PC, 1, 0⟩, ⟨START_SRC_KIND, 1, 0⟩,
  ⟨START_SRC_UNIT, 1, 0⟩, ⟨START_OVERRUN_COUNT, 1, 0⟩, ⟨DL_MISS_COUNT, 1, 0⟩, ⟨MARK_ROUTE_OWN, 1, 0⟩,
  ⟨CW_Z, 1, 0⟩, ⟨CW_N, 1, 0⟩, ⟨CW_C, 1, 0⟩, ⟨CW_V, 1, 0⟩,
  ⟨CW_BT, 1, 0⟩, ⟨CW_LR, 1, 0⟩, ⟨CW_SP, 1, 0⟩, ⟨CW_RP, 1, 0⟩]
def rows1 : List FieldRow := [⟨CW_ATT, 1, 0⟩, ⟨LOAD_SRC_LO, 1, 0⟩, ⟨LOAD_SRC_HI, 1, 0⟩, ⟨LOAD_LEN_LEN, 1, 0⟩,
  ⟨LOAD_STATUS_BUSY, 1, 0⟩, ⟨LOAD_STATUS_DONE, 1, 0⟩, ⟨LOAD_STATUS_OK, 1, 0⟩, ⟨LOAD_STATUS_REASON, 1, 0⟩,
  ⟨LOAD_STATUS_INDEX, 1, 0⟩, ⟨CURFEW_STATUS_TAG, 1, 0⟩, ⟨CURFEW_STATUS_SCOPE, 1, 0⟩, ⟨CURFEW_STATUS_WAITING, 1, 0⟩,
  ⟨TT_CTRL_LOWWATER, 1, 0⟩, ⟨TT_CTRL_LW_EN, 1, 0⟩, ⟨TT_CTRL_AVS_EXCL, 1, 0⟩, ⟨TT_STATUS_LATE, 1, 0⟩,
  ⟨TT_STATUS_ORDER, 1, 0⟩, ⟨TT_STATUS_BURST, 1, 0⟩, ⟨SLACK_LAST, 1, 0⟩, ⟨SLACK_MIN, 1, 0⟩,
  ⟨LATE_COUNT_COUNT, 1, 0⟩, ⟨STALL_COUNT_COUNT, 1, 0⟩, ⟨TT_CLEAR_SLACK, 1, 0⟩, ⟨TT_CLEAR_COUNTS, 1, 0⟩]
def rows2 : List FieldRow := [⟨TT_CLEAR_FLAGS, 1, 0⟩, ⟨TT_PEEK_WORD 0, 4, 4⟩, ⟨G_VALUE 0, 16, 4⟩, ⟨T_LO 0, 4, 8⟩,
  ⟨T_HI 0, 4, 8⟩, ⟨L_VALUE 0, 4, 4⟩, ⟨SO_CTRL_FLT_EN, 1, 0⟩, ⟨SO_CTRL_DL_EN, 1, 0⟩,
  ⟨SO_CTRL_CR_EN, 1, 0⟩, ⟨SO_CTRL_MSG_EN, 1, 0⟩, ⟨SO_CTRL_DB_EN, 1, 0⟩, ⟨SO_STATUS_PEND, 1, 0⟩,
  ⟨SO_STATUS_LEVEL, 1, 0⟩, ⟨SO_STATUS_DB_OVER, 1, 0⟩, ⟨DOORBELL_VALUE, 1, 0⟩, ⟨SO_COUNT_TAKEN, 1, 0⟩,
  ⟨SO_SAVE_UPC_UPC, 1, 0⟩, ⟨SO_FAULT_UPC_UPC, 1, 0⟩]
/-- Every stored field of the CELL pages (R82, R131, R161). -/
def rows : List FieldRow := rows0 ++ rows1 ++ rows2
end CELL

/-- The stored fields of a page, its header first (R498, R503, R519). -/
def pageRows : Page → List FieldRow
  | .chip => ALL.rows ++ CHIP.rows
  | .timebase => ALL.rows ++ TIMEBASE.rows
  | .fence _ => ALL.rows ++ FENCE.rows
  | .host => ALL.rows ++ HOST.rows
  | .guests => ALL.rows ++ GUESTS.rows
  | .session _ => ALL.rows ++ SESSION.rows
  | .power => ALL.rows ++ POWER.rows
  | .feed _ => ALL.rows ++ FEED.rows
  | .thermal => ALL.rows ++ THERMAL.rows
  | .security => ALL.rows ++ SECURITY.rows
  | .fabric => ALL.rows ++ FABRIC.rows
  | .port _ => ALL.rows ++ PORT.rows
  | .ledger => ALL.rows ++ LEDGER.rows
  | .watch => ALL.rows ++ WATCH.rows
  | .hbm => ALL.rows ++ HBM.rows
  | .nvm => ALL.rows ++ NVM.rows
  | .region _ => ALL.rows ++ REGION.rows
  | .decision _ => ALL.rows ++ DECISION.rows
  | .acquisition _ => ALL.rows ++ ACQUISITION.rows
  | .porter _ => ALL.rows ++ PORTER.rows
  | .block _ => ALL.rows ++ BLOCK.rows
  | .flux _ => ALL.rows ++ FLUX.rows
  | .dsp _ => ALL.rows ++ DSP.rows
  | .bank _ => ALL.rows ++ BANK.rows
  | .cell _ => ALL.rows ++ CELL.rows
  | .drive _ => ALL.rows ++ OUTP.rows.map fun r => if r.count = 32 then { r with count := 8 } else r
  | .transceiver _ => ALL.rows ++ OUTP.rows ++ TRANSCEIVER.rows

end Sys2Proof.Machine
end

