-- ==== Sys2Proof/Machine/Ops.lean ====
section
/-! DEFINITION. The named operations over the state: sparse stores, register fields, memories, and acts, which are the
lists of primitive changes that meanings are built from. -/

namespace Sys2Proof.Machine

/-! Sparse stores -/

/-- The value at a number, `d` where none is listed. -/
def Store.get {α : Type} (d : α) : Store α → Nat → α
  | [], _ => d
  | (a, v) :: m, k => if a = k then v else Store.get d m k

/-- The store with nothing at a number. -/
def Store.drop {α : Type} : Store α → Nat → Store α
  | [], _ => []
  | (a, v) :: m, k => if a = k then Store.drop m k else (a, v) :: Store.drop m k

/-- The store with a value at a number, in ascending order. -/
def Store.insert {α : Type} (k : Nat) (v : α) : Store α → Store α
  | [] => [(k, v)]
  | (a, w) :: m => if k < a then (k, v) :: (a, w) :: m else if a = k then (k, v) :: m else (a, w) :: Store.insert k v m

/-- Write a value: the default `d` is not listed. -/
def Store.put {α : Type} [DecidableEq α] (d : α) (k : Nat) (v : α) (m : Store α) : Store α :=
  if v = d then Store.drop m k else Store.insert k v m

/-- The store with nothing at the numbers from `lo` to below `hi`. -/
def Store.clear {α : Type} (lo hi : Nat) (m : Store α) : Store α := m.filter fun x => x.1 < lo || hi ≤ x.1

/-- The canonical form of a store: numbers strictly rising, no value equal to the default. -/
def Store.wf {α : Type} [DecidableEq α] (d : α) : Store α → Bool
  | [] => true
  | [(_, v)] => v ≠ d
  | (a, v) :: (b, w) :: m => v ≠ d && a < b && Store.wf d ((b, w) :: m)

/-- The canonical form of the byte memory. -/
def Memory.wf (m : List Host.Cell) : Bool := Store.wf (0 : Byte) m

/-! Pages and register fields (R497, R498) -/

/-- The BAR0 address of a page; the FENCE instance of function g > 0 lies in that function's own BAR0 and is told
apart here by g × 2^32 (R520). -/
def pageBase : Page → Nat
  | .chip => 0x0 | .timebase => 0x1000 | .fence g => 0x2000 + g.val * 2 ^ 32 | .host => 0x3000 | .guests => 0x4000
  | .session g => 0x10_1000 + g.val * 0x1000
  | .power => 0x1_0000 | .feed i => 0x1_1000 + i.val * 0x1000 | .thermal => 0x1_8000 | .security => 0x2_0000
  | .fabric => 0x3_0000 | .port p => 0x3_1000 + p.val * 0x1000
  | .ledger => 0x4_0000 | .watch => 0x5_0000 | .hbm => 0x6_0000 | .nvm => 0x7_0000
  | .region n => 0x80_0000 + n.val * 0x4_0000
  | .transceiver t => 0x80_0000 + t.val / 4 * 0x4_0000 + 0x4000 + t.val % 4 * 0x1000
  | .decision n => 0x80_0000 + n.val * 0x4_0000 + 0x8000
  | .acquisition n => 0x80_0000 + n.val * 0x4_0000 + 0xC000
  | .porter n => 0x80_0000 + n.val * 0x4_0000 + 0x1_0000
  | .block k => 0x100_0000 + k.val * 0x2_0000
  | .drive d => 0x100_0000 + d.val / 2 * 0x2_0000 + 0x2000 + d.val % 2 * 0x1000
  | .flux f => 0x100_0000 + f.val / 2 * 0x2_0000 + 0x4000 + f.val % 2 * 0x1000
  | .dsp k => 0x100_0000 + k.val * 0x2_0000 + 0x6000
  | .bank k => 0x100_0000 + k.val * 0x2_0000 + 0x8000
  | .cell e => 0x100_0000 + e.val / 16 * 0x2_0000 + 0x1_0000 + e.val % 16 * 0x1000

/-- PAGE_ID.TYPE and PAGE_ID.INSTANCE of a page (R498). -/
def pageIdent : Page → Nat × Nat
  | .chip => (0x01, 0) | .timebase => (0x02, 0) | .fence g => (0x03, g.val) | .host => (0x04, 0) | .guests => (0x05, 0)
  | .session g => (0x06, g.val + 1)
  | .power => (0x10, 0) | .feed i => (0x11, i.val) | .thermal => (0x18, 0) | .security => (0x20, 0)
  | .fabric => (0x30, 0) | .port p => (0x31, p.val)
  | .ledger => (0x40, 0) | .watch => (0x50, 0) | .hbm => (0x60, 0) | .nvm => (0x70, 0)
  | .region n => (0x80, n.val) | .transceiver t => (0x81, t.val) | .decision n => (0x82, n.val)
  | .acquisition n => (0x83, n.val) | .porter n => (0x84, n.val)
  | .block k => (0xA0, k.val) | .drive d => (0xA1, d.val) | .flux f => (0xA2, f.val) | .dsp k => (0xA3, k.val)
  | .bank k => (0xA4, k.val) | .cell e => (0xA5, e.val)

/-- The number of a field's cell in the register store: byte address, then lowest bit. -/
def regKey (p : Page) (f : Field) : Nat := (pageBase p + f.off) * 32 + f.lo

/-- The value of a register field. -/
def State.get (s : State) (p : Page) (f : Field) : Nat := Store.get f.reset s.regs (regKey p f)

/-- A one-bit field read as a truth value. -/
def State.flag (s : State) (p : Page) (f : Field) : Bool := s.get p f = 1

/-- The stores of the state that a reset or a wipe clears by ranges. -/
inductive Part where
  | regs | mem | tbl | engs | tones | outputs | groups | blks | slots | trigs | rxs | funcs | formers | capqs | coincs | dsps | dqs | links | fences
deriving DecidableEq, Repr

/-- A primitive change of one part of the state: every meaning is a list of these. -/
inductive Eff where
  /-- a register field: its key, new value and reset value -/
  | reg (key val rst : Nat)
  /-- a byte of memory -/
  | mem (addr : Nat) (b : Byte)
  /-- a word of a table -/
  | tbl (key val : Nat)
  | emit (e : Emit)
  | rdata (v : Nat)
  | free
  /-- everything a store lists from `lo` to below `hi` returns to its reset value -/
  | clear (p : Part) (lo hi : Nat)
  | time (v : TimeState)
  | eng (i : Nat) (v : Engine)
  | tone (i : Nat) (v : Tone)
  | output (i : Nat) (v : Output)
  | group (i : Nat) (v : Group)
  | blk (i : Nat) (v : Block)
  | led (v : LedgerState)
  | fab (v : FabricState)
  | tend (v : WatchState)
  | slot (i : Nat) (v : DecSlot)
  | trig (i : Nat) (v : TrigUnit)
  | rx (i : Nat) (v : RxState)
  | func (i : Nat) (v : FuncState)
  | former (i : Nat) (v : Former)
  | capq (i : Nat) (v : CapQueue)
  | coinc (i : Nat) (v : CoincState)
  | dsp (i : Nat) (v : DspState)
  | dq (i : Nat) (v : PorterQueue)
  | link (i : Nat) (v : PortLink)
  | fence (i : Nat) (v : FenceState)
  | power (v : PowerState)
  | start (v : StartState)
deriving Repr

/-- The state after one primitive change. -/
def Eff.apply : Eff → State → State
  | .reg k v r, s => { s with regs := Store.put r k v s.regs }
  | .mem a b, s => { s with mem := Store.put 0 a b s.mem }
  | .tbl k v, s => { s with tbl := Store.put 0 k v s.tbl }
  | .emit e, s => { s with out := s.out ++ [e] }
  | .rdata v, s => { s with rdata := v }
  | .free, s => { s with free := s.free + 1 }
  | .clear .regs lo hi, s => { s with regs := Store.clear lo hi s.regs }
  | .clear .mem lo hi, s => { s with mem := Store.clear lo hi s.mem }
  | .clear .tbl lo hi, s => { s with tbl := Store.clear lo hi s.tbl }
  | .clear .engs lo hi, s => { s with engs := Store.clear lo hi s.engs }
  | .clear .tones lo hi, s => { s with tones := Store.clear lo hi s.tones }
  | .clear .outputs lo hi, s => { s with outputs := Store.clear lo hi s.outputs }
  | .clear .groups lo hi, s => { s with groups := Store.clear lo hi s.groups }
  | .clear .blks lo hi, s => { s with blks := Store.clear lo hi s.blks }
  | .clear .slots lo hi, s => { s with slots := Store.clear lo hi s.slots }
  | .clear .trigs lo hi, s => { s with trigs := Store.clear lo hi s.trigs }
  | .clear .rxs lo hi, s => { s with rxs := Store.clear lo hi s.rxs }
  | .clear .funcs lo hi, s => { s with funcs := Store.clear lo hi s.funcs }
  | .clear .formers lo hi, s => { s with formers := Store.clear lo hi s.formers }
  | .clear .capqs lo hi, s => { s with capqs := Store.clear lo hi s.capqs }
  | .clear .coincs lo hi, s => { s with coincs := Store.clear lo hi s.coincs }
  | .clear .dsps lo hi, s => { s with dsps := Store.clear lo hi s.dsps }
  | .clear .dqs lo hi, s => { s with dqs := Store.clear lo hi s.dqs }
  | .clear .links lo hi, s => { s with links := Store.clear lo hi s.links }
  | .clear .fences lo hi, s => { s with fences := Store.clear lo hi s.fences }
  | .time v, s => { s with time := v }
  | .eng i v, s => { s with engs := Store.put Engine.init i v s.engs }
  | .tone i v, s => { s with tones := Store.put Tone.init i v s.tones }
  | .output i v, s => { s with outputs := Store.put Output.init i v s.outputs }
  | .group i v, s => { s with groups := Store.put Group.init i v s.groups }
  | .blk i v, s => { s with blks := Store.put Block.init i v s.blks }
  | .led v, s => { s with led := v }
  | .fab v, s => { s with fab := v }
  | .tend v, s => { s with tend := v }
  | .slot i v, s => { s with slots := Store.put DecSlot.init i v s.slots }
  | .trig i v, s => { s with trigs := Store.put TrigUnit.init i v s.trigs }
  | .rx i v, s => { s with rxs := Store.put RxState.init i v s.rxs }
  | .func i v, s => { s with funcs := Store.put FuncState.init i v s.funcs }
  | .former i v, s => { s with formers := Store.put Former.init i v s.formers }
  | .capq i v, s => { s with capqs := Store.put CapQueue.init i v s.capqs }
  | .coinc i v, s => { s with coincs := Store.put CoincState.init i v s.coincs }
  | .dsp i v, s => { s with dsps := Store.put DspState.init i v s.dsps }
  | .dq i v, s => { s with dqs := Store.put PorterQueue.init i v s.dqs }
  | .link i v, s => { s with links := Store.put PortLink.init i v s.links }
  | .fence i v, s => { s with fences := Store.put FenceState.init i v s.fences }
  | .power v, s => { s with power := v }
  | .start v, s => { s with start := v }

/-- engines by number e: the record of one of them. -/
def State.eng (s : State) (i : Nat) : Engine := Store.get Engine.init s.engs i

/-- tones: drive 8d + slot, probe 1,024 + 32t + slot, receive 2,048 + 32t + slot: the record of one of them. -/
def State.tone (s : State) (i : Nat) : Tone := Store.get Tone.init s.tones i

/-- outputs: drive d, probe 128 + t, flux 160 + f: the record of one of them. -/
def State.output (s : State) (i : Nat) : Output := Store.get Output.init s.outputs i

/-- shot groups: entries 0 to 255, groups of one at 256 + e: the record of one of them. -/
def State.group (s : State) (i : Nat) : Group := Store.get Group.init s.groups i

/-- blocks by number k: the record of one of them. -/
def State.blk (s : State) (i : Nat) : Block := Store.get Block.init s.blks i

/-- decision slots: tone u, function 1,024 + 256n + f, remote slot 4,096 + 4,096 dev + 2,048 kind + index: the record of one of them. -/
def State.slot (s : State) (i : Nat) : DecSlot := Store.get DecSlot.init s.slots i

/-- trigger units: tone u, raw input 1,024 + t, external 1,056 + i: the record of one of them. -/
def State.trig (s : State) (i : Nat) : TrigUnit := Store.get TrigUnit.init s.trigs i

/-- receive inputs by feedline t: the record of one of them. -/
def State.rx (s : State) (i : Nat) : RxState := Store.get RxState.init s.rxs i

/-- decision functions: 256n + f: the record of one of them. -/
def State.func (s : State) (i : Nat) : FuncState := Store.get FuncState.init s.funcs i

/-- record formers: tone unit u, raw-input unit 1,024 + t: the record of one of them. -/
def State.former (s : State) (i : Nat) : Former := Store.get Former.init s.formers i

/-- capture queues by region n: the record of one of them. -/
def State.capq (s : State) (i : Nat) : CapQueue := Store.get CapQueue.init s.capqs i

/-- coincidence units: 8n + i: the record of one of them. -/
def State.coinc (s : State) (i : Nat) : CoincState := Store.get CoincState.init s.coincs i

/-- block signal processors by block k: the record of one of them. -/
def State.dsp (s : State) (i : Nat) : DspState := Store.get DspState.init s.dsps i

/-- porter queues: 65n + owner: the record of one of them. -/
def State.dq (s : State) (i : Nat) : PorterQueue := Store.get PorterQueue.init s.dqs i

/-- link layers by port p: the record of one of them. -/
def State.link (s : State) (i : Nat) : PortLink := Store.get PortLink.init s.links i

/-- outstanding fences by function: the record of one of them. -/
def State.fence (s : State) (i : Nat) : FenceState := Store.get FenceState.init s.fences i

/-- The engines that have a record: spares apart (R14). -/
def State.engines (s : State) : List Nat := (s.engs.map (·.1)).filter (· < 1024)

/-! Acts -/

/-- What a command does: the primitive changes it makes in a state. -/
abbrev Act := State → List Eff

/-- The state after a list of changes, in order. -/
def applyAll : List Eff → State → State
  | [], s => s
  | e :: es, s => applyAll es (e.apply s)

/-- The state after an act. -/
def run (a : Act) (s : State) : State := applyAll (a s) s

/-- The outcome of a command. -/
abbrev Res := Host.Outcome State Fault Refusal

/-- A command that does an act and nothing else. -/
def done (a : Act) (s : State) : Res := .next (run a s)

/-- No change. -/
def skip : Act := fun _ => []

/-- Several acts, each in the state the ones before it leave. -/
def acts : List Act → Act
  | [] => skip
  | a :: as => fun s => let es := a s; es ++ acts as (applyAll es s)

/-- An act chosen from the state it starts in. -/
def look (f : State → Act) : Act := fun s => f s s

/-- An act under a condition on the state it starts in. -/
def onlyIf (c : State → Bool) (a : Act) : Act := fun s => if c s then a s else []

/-- One act for each element of a list, in order. -/
def forEach {α : Type} : List α → (α → Act) → Act
  | [], _ => skip
  | x :: xs, f => fun s => let es := f x s; es ++ forEach xs f (applyAll es s)

/-- A range of a store returns to its reset values. -/
def clear (p : Part) (lo hi : Nat) : Act := fun _ => [.clear p lo hi]

/-- Write a register field; bits beyond its width are dropped. -/
def setF (p : Page) (f : Field) (v : Nat) : Act := fun _ => [.reg (regKey p f) (v % 2 ^ f.width) f.reset]

/-- Change a register field by a function of its value. -/
def modF (p : Page) (f : Field) (g : Nat → Nat) : Act := look fun s => setF p f (g (s.get p f))

/-- Write a one-bit field. -/
def setB (p : Page) (f : Field) (b : Bool) : Act := setF p f (b2n b)

/-- Return a field to its reset value. -/
def resetF (p : Page) (f : Field) : Act := setF p f f.reset

/-- Count one in a saturating counter field. -/
def countF (p : Page) (f : Field) : Act := modF p f (satInc f.width)

/-- Count one in a wrapping counter field. -/
def wrapF (p : Page) (f : Field) : Act := modF p f (· + 1)

/-- Write a pair of LO and HI fields from a 64-bit value. -/
def setPair (p : Page) (lo hi : Field) (v : Nat) : Act :=
  acts [setF p lo (v % 2 ^ 32), setF p hi (v / 2 ^ 32)]

/-- A 64-bit value held in a pair of LO and HI fields. -/
def State.pair (s : State) (p : Page) (lo hi : Field) : Nat := s.get p lo + s.get p hi * 2 ^ 32

/-- Something leaves the block. -/
def emit (e : Emit) : Act := fun _ => [.emit e]

/-- The data a host read returns. -/
def setRdata (v : Nat) : Act := fun _ => [.rdata v]

/-- Advance the counter of free values. -/
def drawFree : Act := fun _ => [.free]

/-- A register field takes a value the spec does not state. -/
def setOpen (p : Page) (f : Field) : Act := look fun s => acts [setF p f (Config.freeValue s.free).toNat, drawFree]

/-- Change a part of the timebase. -/
def updTime (f : TimeState → TimeState) : Act := fun s => [.time (f s.time)]

/-- Change one record: engines by number e. -/
def updEng (i : Nat) (f : Engine → Engine) : Act := fun s => [.eng i (f (s.eng i))]

/-- Change one record: tones: drive 8d + slot, probe 1,024 + 32t + slot, receive 2,048 + 32t + slot. -/
def updTone (i : Nat) (f : Tone → Tone) : Act := fun s => [.tone i (f (s.tone i))]

/-- Change one record: outputs: drive d, probe 128 + t, flux 160 + f. -/
def updOutput (i : Nat) (f : Output → Output) : Act := fun s => [.output i (f (s.output i))]

/-- Change one record: shot groups: entries 0 to 255, groups of one at 256 + e. -/
def updGroup (i : Nat) (f : Group → Group) : Act := fun s => [.group i (f (s.group i))]

/-- Change one record: blocks by number k. -/
def updBlk (i : Nat) (f : Block → Block) : Act := fun s => [.blk i (f (s.blk i))]

/-- Change a part of the ledger's records. -/
def updLed (f : LedgerState → LedgerState) : Act := fun s => [.led (f s.led)]

/-- Change a part of the fabric. -/
def updFab (f : FabricState → FabricState) : Act := fun s => [.fab (f s.fab)]

/-- Change a part of the watch. -/
def updTend (f : WatchState → WatchState) : Act := fun s => [.tend (f s.tend)]

/-- Change one record: decision slots: tone u, function 1,024 + 256n + f, remote slot 4,096 + 4,096 dev + 2,048 kind + index. -/
def updSlot (i : Nat) (f : DecSlot → DecSlot) : Act := fun s => [.slot i (f (s.slot i))]

/-- Change one record: trigger units: tone u, raw input 1,024 + t, external 1,056 + i. -/
def updTrig (i : Nat) (f : TrigUnit → TrigUnit) : Act := fun s => [.trig i (f (s.trig i))]

/-- Change one record: receive inputs by feedline t. -/
def updRx (i : Nat) (f : RxState → RxState) : Act := fun s => [.rx i (f (s.rx i))]

/-- Change one record: decision functions: 256n + f. -/
def updFunc (i : Nat) (f : FuncState → FuncState) : Act := fun s => [.func i (f (s.func i))]

/-- Change one record: record formers: tone unit u, raw-input unit 1,024 + t. -/
def updFormer (i : Nat) (f : Former → Former) : Act := fun s => [.former i (f (s.former i))]

/-- Change one record: capture queues by region n. -/
def updCapq (i : Nat) (f : CapQueue → CapQueue) : Act := fun s => [.capq i (f (s.capq i))]

/-- Change one record: coincidence units: 8n + i. -/
def updCoinc (i : Nat) (f : CoincState → CoincState) : Act := fun s => [.coinc i (f (s.coinc i))]

/-- Change one record: block signal processors by block k. -/
def updDsp (i : Nat) (f : DspState → DspState) : Act := fun s => [.dsp i (f (s.dsp i))]

/-- Change one record: porter queues: 65n + owner. -/
def updDq (i : Nat) (f : PorterQueue → PorterQueue) : Act := fun s => [.dq i (f (s.dq i))]

/-- Change one record: link layers by port p. -/
def updLink (i : Nat) (f : PortLink → PortLink) : Act := fun s => [.link i (f (s.link i))]

/-- Change one record: outstanding fences by function. -/
def updFence (i : Nat) (f : FenceState → FenceState) : Act := fun s => [.fence i (f (s.fence i))]

/-- Change a part of power, the always-on fault record and the thresholds in force. -/
def updPower (f : PowerState → PowerState) : Act := fun s => [.power (f s.power)]

/-- Change a part of the start, resets, firmware and security commands. -/
def updStart (f : StartState → StartState) : Act := fun s => [.start (f s.start)]

/-! Sample time (R43, R45) -/

/-- ST: the coarse count plus the fine count (R43). -/
def State.st (s : State) : Stamp := s.time.coarse + BitVec.ofNat 64 s.time.fine.val

/-- A sample-domain event at ST `t` is reached: ST moves forward to it, and never back. The coarse count stays on
REFCLK edges, 200 ST apart (R42, R43). -/
def advanceTo (t : Stamp) : Act := look fun s =>
  if Stamp.future t s.st && t ≠ s.st then
    let d := (t - s.st).toNat + s.time.fine.val
    updTime fun x => { x with coarse := x.coarse + BitVec.ofNat 64 (d / 200 * 200), fine := Fin.ofNat 200 d }
  else skip

/-! Word tables -/

/-- The word tables: their cells lie at table × 2^44 + index. -/
inductive Table where
  | groups | tending | guests | tags | subs | functions | units | faultLog | measurements | sensors
  | routes | lastShot | fuses | misc | poison
deriving DecidableEq, Repr

def Table.number : Table → Nat
  | .groups => 0 | .tending => 1 | .guests => 2 | .tags => 3 | .subs => 4 | .functions => 5 | .units => 6
  | .faultLog => 7 | .measurements => 8 | .sensors => 9 | .routes => 10 | .lastShot => 11 | .fuses => 12 | .misc => 13 | .poison => 14

def tblKey (t : Table) (i : Nat) : Nat := t.number * 2 ^ 44 + i

/-- A word of a table. -/
def State.word (s : State) (t : Table) (i : Nat) : Nat := Store.get 0 s.tbl (tblKey t i)

/-- Write a word of a table. -/
def setWord (t : Table) (i v : Nat) : Act := fun _ => [.tbl (tblKey t i) (v % 2 ^ 32)]

/-! Byte memories -/

/-- The byte at an address; an unlisted byte reads 0, as a wipe leaves it (R308). -/
def State.byte (s : State) (a : Nat) : Byte := Store.get 0 s.mem a

/-- `n` bytes from an address as one number, little-endian. -/
def State.bytes (s : State) (a : Nat) : Nat → Nat
  | 0 => 0
  | n + 1 => (s.byte a).toNat + 256 * State.bytes s (a + 1) n

/-- `n` bytes from an address as a list. -/
def State.byteList (s : State) (a : Nat) : Nat → List Byte
  | 0 => []
  | n + 1 => s.byte a :: State.byteList s (a + 1) n

/-- Write `n` bytes of a number at an address, little-endian. -/
def writeBytes (a v : Nat) : Nat → List Eff
  | 0 => []
  | n + 1 => .mem a (BitVec.ofNat 8 v) :: writeBytes (a + 1) (v / 256) n

/-- The word that says whether a 4 KiB page of the HBM is held poisoned (R306). -/
def pagePoison (a : Nat) : Nat := 2 ^ 40 + a / 4096

/-- The 64-bit ECC word that holds an address reads as uncorrectable: poisoned (mark 1, R306), holding an injected
double-bit error (mark 2, R312), or in an HBM page held poisoned. -/
def State.poisoned (s : State) (a : Nat) : Bool :=
  s.word .poison (a / 8) = 1 || s.word .poison (a / 8) = 2 || s.word .poison (pagePoison a) = 1

/-- The mark of word `w` of a store whose words have no mark by address: of the control store or the program memory of block `k`, and of the
ledger buffer or the capture queue of region `k` (R305, R306). -/
def csMark (k w : Nat) : Nat := 2 ^ 41 + 8192 * k + w
def pmemMark (k w : Nat) : Nat := 2 ^ 42 + 8192 * k + w
def ledgerMark (n w : Nat) : Nat := 2 ^ 43 + 524288 * n + w
def captureMark (n w : Nat) : Nat := 2 ^ 43 + 2 ^ 42 + 524288 * n + w

/-- Poison the ECC word that holds an address, or clear it. -/
def setPoison (a : Nat) (on : Bool) : Act := setWord .poison (a / 8) (b2n on)

/-- A write of `n` bytes clears the poison of every word it touches (R306). -/
def clearPoison (a n : Nat) : List Eff :=
  (List.range ((a + n + 7) / 8 - a / 8)).map fun i => .tbl (tblKey .poison (a / 8 + i)) 0

/-- The act of writing `n` bytes of a number. -/
def storeBytes (a v n : Nat) : Act := fun _ => writeBytes a v n ++ clearPoison a n

/-- Write a list of bytes at an address. -/
def writeList : Nat → List Byte → List Eff
  | _, [] => []
  | a, b :: bs => .mem a b :: writeList (a + 1) bs

/-- The act of writing a list of bytes. -/
def storeList (a : Nat) (bs : List Byte) : Act := fun _ => writeList a bs ++ clearPoison a bs.length


/-! The memories' places: those with a window at their BAR2 offsets (R297), the others above 2^40 -/

/-- Byte of context `i` of region `n` (R108, R297). -/
def ctxAddr (n i : Nat) : Nat := 0x6_0000_0000 + n * 0x400_0000 + 64 * i
/-- Byte of weight `i` of region `n` (R297). -/
def weightAddr (n i : Nat) : Nat := 0x6_0080_0000 + n * 0x400_0000 + 4 * i
/-- Byte of bank word `w` of block `k` (R297). -/
def bankAddr (k w : Nat) : Nat := 0x7_0000_0000 + k * 0x40_0000 + 8 * w
/-- Byte `b` of the scratchpad of engine `e` (R85, R297). -/
def spadAddr (e b : Nat) : Nat := 0x7_0020_0000 + e / 16 * 0x40_0000 + e % 16 * 0x1_0000 + b
/-- Byte of local word `i` of engine `e` (R85). -/
def localAddr (e i : Nat) : Nat := spadAddr e (0x8000 + 4 * (i % 8192))
/-- Byte of control-store word `w` of block `k` (R132). -/
def csAddr (k w : Nat) : Nat := 0x100_0000_0000 + k * 0x1_0000 + 4 * w
/-- Byte of program-memory word `w` of the processor of block `k` (R266). -/
def pmemAddr (k w : Nat) : Nat := 0x101_0000_0000 + k * 0x1_0000 + 4 * w
/-- Byte `b` of the spare's scratchpad in block `k` (R342). -/
def spareAddr (k b : Nat) : Nat := 0x102_0000_0000 + k * 0x1_0000 + b
/-- Byte `b` of the copy the loader keeps of engine `e`'s program (R343). -/
def keptProgAddr (e b : Nat) : Nat := 0x103_0000_0000 + e * 0x1_0000 + b
/-- Byte `b` of the innkeeper's NVM store `i` (R157, R470, R493). -/
def nvmAddr (i b : Nat) : Nat := 0x104_0000_0000 + i * 0x1000_0000 + b

/-- Byte `b` of the strongroom: the sealing key from 0, the unsealed private key from 64 (R473, R474). -/
def strongAddr (b : Nat) : Nat := 0x105_0000_0000 + b

/-- Copy the cells of `n` bytes; what the source does not list reads 0 in the copy. -/
def copyCells (src dst n : Nat) : Act := look fun s =>
  acts [clear .mem dst (dst + n),
    fun _ => (s.mem.filter fun c => src ≤ c.1 && c.1 < src + n).map fun c => .mem (dst + (c.1 - src)) c.2]

/-- Copy `n` bytes, the source read whole before any write (R301). -/
def copyBytes (src dst n : Nat) : Act := look fun s => storeList dst (s.byteList src n)

/-! Indices (R4, R6) -/

/-- The block of an engine. -/
def blockOf (e : Nat) : Nat := e / 16
/-- The cell of an engine in its block. -/
def cellOf (e : Nat) : Nat := e % 16
/-- The region of an engine. -/
def regionOf (e : Nat) : Nat := e / 128
/-- The region of a block. -/
def regionOfBlock (k : Nat) : Nat := k / 8

/-- The cell page of an engine number. -/
def cellPage (e : Nat) : Page := .cell (Fin.ofNat 1024 e)
def blockPage (k : Nat) : Page := .block (Fin.ofNat 64 k)
def regionPage (n : Nat) : Page := .region (Fin.ofNat 8 n)
def drivePage (d : Nat) : Page := .drive (Fin.ofNat 128 d)
def fluxPage (f : Nat) : Page := .flux (Fin.ofNat 128 f)
def rxPage (t : Nat) : Page := .transceiver (Fin.ofNat 32 t)
def dspPage (k : Nat) : Page := .dsp (Fin.ofNat 64 k)
def bankPage (k : Nat) : Page := .bank (Fin.ofNat 64 k)
def decPage (n : Nat) : Page := .decision (Fin.ofNat 8 n)
def acqPage (n : Nat) : Page := .acquisition (Fin.ofNat 8 n)
def porterPage (n : Nat) : Page := .porter (Fin.ofNat 8 n)
def portPage (p : Nat) : Page := .port (Fin.ofNat 4 p)

/-- The numbers below `n`. -/
def upTo (n : Nat) : List Nat := List.range n

/-- The engines of a block. -/
def enginesOfBlock (k : Nat) : List Nat := (upTo 16).map (16 * k + ·)
/-- The engines of a region. -/
def enginesOfRegion (n : Nat) : List Nat := (upTo 128).map (128 * n + ·)

/-! Page state (R503, R504) -/

/-- PAGE_STATE.STATE. -/
inductive PState where
  | off | starting | ready | draining | quarantined
deriving DecidableEq, Repr

def PState.code : PState → Nat
  | .off => 0 | .starting => 1 | .ready => 2 | .draining => 3 | .quarantined => 4

/-- Whether a page's PAGE_STATE holds a state. -/
def State.pageIs (s : State) (p : Page) (x : PState) : Bool := s.get p ALL.PAGE_STATE_STATE = x.code

def setPage (p : Page) (x : PState) : Act := setF p ALL.PAGE_STATE_STATE x.code

/-! Engine state (R131) -/

/-- CELL.STATUS.STATE. -/
inductive EngState where
  | stopped | running | waitTT | waitLease | waitDecision | waitST | curfew | watch | stopover | faulted
deriving DecidableEq, Repr

def EngState.code : EngState → Nat
  | .stopped => 0 | .running => 1 | .waitTT => 2 | .waitLease => 3 | .waitDecision => 4 | .waitST => 5
  | .curfew => 6 | .watch => 7 | .stopover => 8 | .faulted => 9

/-- Whether an engine is in a state. -/
def State.engIs (s : State) (e : Nat) (x : EngState) : Bool := s.get (cellPage e) CELL.STATUS_STATE = x.code

/-- STOPPED or FAULTED: an engine that counts as stopped (R547). -/
def State.engStopped (s : State) (e : Nat) : Bool := s.engIs e .stopped || s.engIs e .faulted

def setEng (e : Nat) (x : EngState) : Act := setF (cellPage e) CELL.STATUS_STATE x.code

/-- Some engine of the device runs. -/
def State.anyRunning (s : State) : Bool :=
  s.regs.any fun kv => kv.1 % 32 = 0 && kv.1 / 32 % 4096 = 0x044 && kv.1 / 32 ≥ 0x100_0000 && kv.1 / 32 / 0x1_0000 % 2 = 1
    && kv.2 ≠ EngState.faulted.code

end Sys2Proof.Machine
end

