-- ==== Sys2Proof/Machine/Flags.lean ====
section
/-! DEFINITION. The engine's arithmetic and its condition flags (R106, R131), and the micro-flags MF (R133). -/

namespace Sys2Proof.Machine

/-- The result of FN on two words (R106): shifts use the amount modulo 32, MUL keeps the low 32 bits, MIN and MAX are
signed. -/
def aluValue (f : AluFn) (a b : Word) : Word :=
  match f with
  | .add => a + b
  | .sub => a - b
  | .and => a &&& b
  | .or => a ||| b
  | .xor => a ^^^ b
  | .shl => a <<< (b.toNat % 32)
  | .shr => a >>> (b.toNat % 32)
  | .sar => a.sshiftRight (b.toNat % 32)
  | .mul => a * b
  | .min => if a.toInt ≤ b.toInt then a else b
  | .max => if b.toInt ≤ a.toInt then a else b

/-- C of an ADD or SUB: carry out, or no borrow (R131). -/
def carryOf (f : AluFn) (a b : Word) : Bool :=
  match f with
  | .add => a.toNat + b.toNat ≥ 2 ^ 32
  | _ => b.toNat ≤ a.toNat

/-- V of an ADD or SUB: signed overflow (R131). -/
def overflowOf (f : AluFn) (a b : Word) : Bool :=
  match f with
  | .add => (a + b).toInt ≠ a.toInt + b.toInt
  | _ => (a - b).toInt ≠ a.toInt - b.toInt

/-- Whether FN sets C and V (R106). -/
def setsCarry : AluFn → Bool
  | .add | .sub => true
  | _ => false

/-- Z and N of a result. -/
def zeroOf (r : Word) : Bool := r = 0
def negOf (r : Word) : Bool := r.msb

/-- Set CW.Z and CW.N from a result (R106). -/
def setZN (e : EngineId) (r : Word) : Act :=
  acts [setB (.cell e) CELL.CW_Z (zeroOf r), setB (.cell e) CELL.CW_N (negOf r)]

/-- Set CW.C and CW.V from the operands of an ADD or SUB (R106). -/
def setCV (e : EngineId) (f : AluFn) (a b : Word) : Act :=
  acts [setB (.cell e) CELL.CW_C (carryOf f a b), setB (.cell e) CELL.CW_V (overflowOf f a b)]

/-- The flags of FN: Z and N, and C and V for ADD and SUB only (R106). -/
def setFlags (e : EngineId) (f : AluFn) (a b : Word) : Act :=
  acts [setZN e (aluValue f a b), if setsCarry f then setCV e f a b else skip]

/-- MF after FN: bits Z, N, C, V (R133, R136); C and V keep their values where FN does not set them (R106). -/
def microFlags (mf : Nat) (f : AluFn) (a b : Word) : Nat :=
  let r := aluValue f a b
  let cv := if setsCarry f then 4 * b2n (carryOf f a b) + 8 * b2n (overflowOf f a b) else mf / 4 % 4 * 4
  b2n (zeroOf r) + 2 * b2n (negOf r) + cv

/-! Angles (R234) -/

/-- The first `n` binary digits of the angle of `x + jy` in turns: a digit is 1 in the lower half plane, and squaring the number
doubles its angle. -/
def turnDigits : Nat → Int → Int → Nat
  | 0, _, _ => 0
  | n + 1, x, y => (if y < 0 || (y = 0 && x < 0) then 2 ^ n else 0) + turnDigits n (x * x - y * y) (2 * x * y)

/-- atan2(Q, I) in units of 1/65,536 turn, rounded, from −32,768 to 32,767 (R234). -/
def atan2Turn (q i : Int) : Int :=
  if q = 0 && i = 0 then Config.zeroPhase else toSigned 16 ((turnDigits 17 i q + 1) / 2)

end Sys2Proof.Machine
end

