-- ==== Sys2Proof/Machine/Operands.lean ====
section
/-! DEFINITION. Operands: the engine registers, the fields of a pulse context (R107), the layout of a timetable entry
(R61), tone ownership and routes (R6, R30 to R34), and the context ranges an engine may name (R109). -/

namespace Sys2Proof.Machine

/-! Engine registers (R84, R131) -/

/-- G[i] of an engine. -/
def State.greg (s : State) (e : Nat) (i : Nat) : Word := BitVec.ofNat 32 (s.get (cellPage e) (CELL.G_VALUE (i % 16)))
/-- T[i] of an engine. -/
def State.treg (s : State) (e : Nat) (i : Nat) : Stamp :=
  BitVec.ofNat 64 (s.pair (cellPage e) (CELL.T_LO (i % 4)) (CELL.T_HI (i % 4)))
/-- L[i] of an engine. -/
def State.lreg (s : State) (e : Nat) (i : Nat) : Word := BitVec.ofNat 32 (s.get (cellPage e) (CELL.L_VALUE (i % 4)))
/-- PC of an engine. -/
def State.pc (s : State) (e : Nat) : Nat := s.get (cellPage e) CELL.STATUS_PC

def setG (e i : Nat) (v : Word) : Act := setF (cellPage e) (CELL.G_VALUE (i % 16)) v.toNat
def setT (e i : Nat) (v : Stamp) : Act := setPair (cellPage e) (CELL.T_LO (i % 4)) (CELL.T_HI (i % 4)) v.toNat
def setL (e i : Nat) (v : Word) : Act := setF (cellPage e) (CELL.L_VALUE (i % 4)) v.toNat
def setPC (e pc : Nat) : Act := setF (cellPage e) CELL.STATUS_PC pc

/-- PC := PC + 1. -/
def nextPC (e : Nat) : Act := look fun s => setPC e (s.pc e + 1)

/-- The condition word as its 12 bits (R131). -/
def State.cw (s : State) (e : Nat) : Nat :=
  let p := cellPage e
  s.get p CELL.CW_Z + 2 * s.get p CELL.CW_N + 4 * s.get p CELL.CW_C + 8 * s.get p CELL.CW_V + 16 * s.get p CELL.CW_BT
    + 32 * s.get p CELL.CW_LR + 64 * s.get p CELL.CW_SP + 128 * s.get p CELL.CW_RP + 256 * s.get p CELL.CW_ATT

def setCW (e v : Nat) : Act :=
  let p := cellPage e
  acts [setF p CELL.CW_Z (bitOf v 0), setF p CELL.CW_N (bitOf v 1), setF p CELL.CW_C (bitOf v 2), setF p CELL.CW_V (bitOf v 3),
    setF p CELL.CW_BT (bitOf v 4), setF p CELL.CW_LR (bitOf v 5), setF p CELL.CW_SP (bitOf v 6), setF p CELL.CW_RP (bitOf v 7),
    setF p CELL.CW_ATT (bitsOf v 11 8)]

/-- The second operand of CMP, TSET and TNOW. -/
def State.regOrImm (s : State) (e : Nat) : RegOrImm → Word
  | .reg i => s.greg e i.val
  | .imm v => v

/-- A word sign-extended to 64 bits (R106). -/
def sext64 (v : Word) : Stamp := v.signExtend 64

/-! Pulse contexts (R107) -/

/-- Bits of a context. -/
def ctxBits (c : BitVec 512) (lo width : Nat) : Nat := (c.toNat >>> lo) % 2 ^ width

namespace Ctx
def cls (c : BitVec 512) : Nat := ctxBits c 0 3
def j (c : BitVec 512) : Nat := ctxBits c 3 1
def feed (c : BitVec 512) : Nat := ctxBits c 4 2
def slot (c : BitVec 512) : Nat := ctxBits c 6 5
def probe (c : BitVec 512) : Bool := ctxBits c 11 1 = 1
def streamed (c : BitVec 512) : Bool := ctxBits c 12 1 = 1
def wlock (c : BitVec 512) : Bool := ctxBits c 13 1 = 1
def version (c : BitVec 512) : Nat := ctxBits c 16 16
def df (c : BitVec 512) : Freq := BitVec.ofNat 48 (ctxBits c 32 48)
def dp (c : BitVec 512) : Word := BitVec.ofNat 32 (ctxBits c 96 32)
def amp (c : BitVec 512) : Nat := ctxBits c 128 16
def envAddr (c : BitVec 512) : Nat := ctxBits c 160 32
def envLen (c : BitVec 512) : Nat := ctxBits c 192 24
def rate (c : BitVec 512) : Nat := ctxBits c 224 32
def corrQ (c : BitVec 512) : Nat := ctxBits c 256 16
def corrD (c : BitVec 512) : Nat := ctxBits c 272 16
def duration (c : BitVec 512) : Nat := ctxBits c 288 32
def wlen (c : BitVec 512) : Nat := ctxBits c 320 13
def wdelay (c : BitVec 512) : Nat := ctxBits c 336 16
def wptr (c : BitVec 512) : Nat := ctxBits c 352 19
def disc (c : BitVec 512) : Nat := ctxBits c 384 96
end Ctx

/-- Context `i` of region `n` as the store holds it (R108). -/
def State.context (s : State) (n i : Nat) : BitVec 512 := BitVec.ofNat 512 (s.bytes (ctxAddr n i) 64)

/-- The context index of a timed instruction (R93). -/
def State.ctxIndex (s : State) (e : Nat) : CtxRef → Nat
  | .imm i => i.toNat
  | .reg g => (s.greg e g.val).toNat % 2 ^ 17

/-! Routes and ownership (R6, R30 to R34) -/

/-- The drive tone an engine owns, as the tone number 8d + slot (R6, R32). -/
def State.driveTone (s : State) (e : Nat) : Option Nat :=
  let p := blockPage (blockOf e)
  let c := cellOf e
  if s.get p (BLOCK.CELL_ROUTE_EN c) = 1 then
    if s.get p (BLOCK.CELL_ROUTE_NONE c) = 1 then none
    else some (8 * (2 * blockOf e + s.get p (BLOCK.CELL_ROUTE_J c)) + s.get p (BLOCK.CELL_ROUTE_SLOT c))
  else some (8 * (2 * blockOf e + c / 8) + c % 8)

/-- The readout tone u = 32t + slot an engine owns (R6, R34). -/
def State.readTone (s : State) (e : Nat) : Option Nat :=
  let p := regionPage (regionOf e)
  let i := e % 128
  if s.get p (REGION.READ_ROUTE_EN i) = 1 then
    if s.get p (REGION.READ_ROUTE_NONE i) = 1 then none
    else some (32 * (4 * regionOf e + s.get p (REGION.READ_ROUTE_FEED i)) + s.get p (REGION.READ_ROUTE_SLOT i))
  else some e

/-- The tone numbers of the store of tones: drive 8d + slot, probe 1,024 + u, receive 2,048 + u. -/
def probeTone (u : Nat) : Nat := 1024 + u
def rxTone (u : Nat) : Nat := 2048 + u

/-- The tones an engine owns, as tone numbers. -/
def State.ownedTones (s : State) (e : Nat) : List Nat :=
  (match s.driveTone e with | some d => [d] | none => [])
    ++ (match s.readTone e with | some u => [probeTone u, rxTone u] | none => [])

/-- The readout tone a context's route names, from region `n`. -/
def ctxReadTone (n : Nat) (c : BitVec 512) : Nat := 32 * (4 * n + Ctx.feed c) + Ctx.slot c

/-- Whether the route of a context names a tone the engine owns (R29); for a flux context, whether the engine holds the
lease of its output (R96). -/
def State.routeOk (s : State) (e : Nat) (c : BitVec 512) : Bool :=
  match Ctx.cls c with
  | 0 => s.driveTone e = some (8 * (2 * blockOf e + Ctx.j c) + Ctx.slot c) && Ctx.slot c < 8
  | 1 => s.readTone e = some (ctxReadTone (regionOf e) c)
  | 2 => s.readTone e = some (ctxReadTone (regionOf e) c)
  | 3 =>
    let p := fluxPage (2 * blockOf e + Ctx.j c)
    s.get p FLUX.LEASE_HELD = 1 && s.get p FLUX.LEASE_HOLDER = e
  | _ => false

/-- The tone a frame instruction names, as a tone number; none where the index names none (R61, R98). -/
def frameTone (e : Nat) (tgt : FrameTarget) : Option Nat :=
  let i := tgt.idx.toNat
  match tgt.cls.val with
  | 0 => if i < 16 then some (8 * (2 * blockOf e + i / 8) + i % 8) else none
  | 1 => if i < 128 then some (probeTone (128 * regionOf e + i)) else none
  | _ => if i < 128 then some (rxTone (128 * regionOf e + i)) else none

/-- Whether an engine owns a tone number. -/
def State.owns (s : State) (e : Nat) (tone : Option Nat) : Bool :=
  match tone with
  | some k => (s.ownedTones e).contains k
  | none => false

/-- The output a tone number plays on, and its slot there. -/
def toneOutput (k : Nat) : OutputId × Nat :=
  if k < 1024 then (.drive (Fin.ofNat 128 (k / 8)), k % 8)
  else (.probe (Fin.ofNat 32 (k % 1024 / 32)), k % 32)

/-- The tone number of a slot of an output. -/
def outputTone : OutputId → Nat → Nat
  | .drive d, s => 8 * d.val + s % 8
  | .probe t, s => 1024 + 32 * t.val + s % 32
  | .flux f, _ => 8 * f.val

/-- The page and the store number of an output. -/
def outputPage : OutputId → Page
  | .drive d => .drive d
  | .probe t => .transceiver t
  | .flux f => .flux f

def outputNo : OutputId → Nat
  | .drive d => d.val
  | .probe t => 128 + t.val
  | .flux f => 160 + f.val

/-! Timetable entries (R61, R62) -/

def EntryKind.code : EntryKind → Nat
  | .toneStart => 0 | .windowOpen => 1 | .freqSet => 2 | .phaseAdd => 3 | .phaseSet => 4 | .mark => 5
  | .streamStart => 6 | .fluxPulse => 7

def EntryKind.ofCode : Nat → Option EntryKind
  | 0 => some .toneStart | 1 => some .windowOpen | 2 => some .freqSet | 3 => some .phaseAdd | 4 => some .phaseSet
  | 5 => some .mark | 6 => some .streamStart | 7 => some .fluxPulse | _ => none

def TargetClass.code : TargetClass → Nat
  | .drive => 0 | .probe => 1 | .receive => 2 | .flux => 3 | .marker => 4

def TargetClass.ofCode : Nat → TargetClass
  | 0 => .drive | 1 => .probe | 2 => .receive | 3 => .flux | _ => .marker

/-- The 128 bits of an entry (R61). -/
def Entry.layout (x : Entry) : Nat :=
  x.operand.toNat + x.index % 512 * 2 ^ 48 + x.cls.code * 2 ^ 57 + x.kind.code * 2 ^ 60 + x.stamp.toNat * 2 ^ 64

/-- Whether a kind captures a context (R62, R63). -/
def EntryKind.usesCtx : EntryKind → Bool
  | .toneStart | .windowOpen | .streamStart | .fluxPulse => true
  | _ => false

/-- An entry that names context `i`, with its captured contents (R63). -/
def ctxEntry (kind : EntryKind) (cls : TargetClass) (index : Nat) (stamp : Stamp) (i : Nat) (c : BitVec 512) : Entry :=
  ⟨stamp, kind, cls, index, BitVec.ofNat 48 i, c, none, false, false⟩

/-- The target class and index of the tone a context plays on (R61): drive 8j + slot, probe 32 FEED + slot, flux j. -/
def ctxTarget (c : BitVec 512) : TargetClass × Nat :=
  match Ctx.cls c with
  | 0 => (.drive, 8 * Ctx.j c + Ctx.slot c)
  | 3 => (.flux, Ctx.j c)
  | _ => (.probe, 32 * Ctx.feed c + Ctx.slot c)

/-- The tone number an entry of engine `e` acts on. -/
def entryTone (e : Nat) (x : Entry) : Nat :=
  match x.cls with
  | .drive => 8 * (2 * blockOf e + x.index / 8 % 2) + x.index % 8
  | .probe => probeTone (128 * regionOf e + x.index % 128)
  | _ => rxTone (128 * regionOf e + x.index % 128)

/-- The window a readout context opens for a stamp S of its ACQUIRE: from g to W (R97). -/
def windowOpenAt (s : Stamp) (c : BitVec 512) : Stamp := Stamp.gridUp 5 (s + BitVec.ofNat 64 (32 * Ctx.wdelay c))
def windowEnd (s : Stamp) (c : BitVec 512) : Stamp := windowOpenAt s c + BitVec.ofNat 64 (32 * Ctx.wlen c)

/-! Guests and context ranges (R109, R410 to R412) -/

/-- The guest an engine is leased to: 0 none (R512). -/
def State.guestOf (s : State) (e : Nat) : Nat := s.get (cellPage e) ALL.GUEST_OWNER_GUEST

end Sys2Proof.Machine
end

