-- ==== Sys2Proof/Machine/Shared.lean ====
section
/-! DEFINITION. Operations that many commands share: interrupts, FAULT bits and their records (R509, R510), output
conditions (R36 to R40), leases, engine stops (R91), shot groups and voids (R315 to R334), cell faults (R21, R153) and
quarantine (R22). -/

namespace Sys2Proof.Machine

/-! Interrupts (R407, R408) -/

/-- The physical function's vector for a page's fault interrupt. -/
def pageVector : Page → Option Nat
  | .chip | .power | .feed _ | .thermal | .security => some 0
  | .timebase => some 1
  | .fabric | .port _ => some 2
  | .ledger | .watch | .host | .guests | .hbm | .nvm => some 5
  | .region n | .decision n | .acquisition n | .porter n => some (8 + n.val)
  | .transceiver t => some (8 + t.val / 4)
  | .block k | .dsp k | .bank k => some (32 + k.val)
  | .drive d => some (32 + d.val / 2)
  | .flux f => some (32 + f.val / 2)
  | .cell e => some (32 + e.val / 16)
  | .fence _ | .session _ => none

/-- The page's fault interrupt: the physical function's vector, and vector 18 of the guest that owns the page. -/
def faultIrq (p : Page) : Act := look fun s =>
  acts [match pageVector p with | some v => emit (.msix 0 v) | none => skip,
    let g := s.get p ALL.GUEST_OWNER_GUEST
    if g = 0 then skip else emit (.msix g 18)]

/-! FAULT bits (R509 to R511) -/

/-- The unmasked FAULT bits of a page (R510). -/
def State.unmasked (s : State) (p : Page) : Nat :=
  s.get p ALL.FAULT_BITS &&& (2 ^ 32 - 1 - s.get p ALL.FAULT_MASK_BITS)

/-- Pages whose EVENT_COUNT counts something other than FAULT bits (R456, R516). -/
def countsFaults : Page → Bool
  | .timebase | .thermal => false
  | _ => true

/-- Record the first fault of a page unless a record is held (R510): FAULT_FIRST and FAULT_ST. -/
def recordFirst (p : Page) (index : Nat) : Act := look fun s =>
  if s.get p ALL.FAULT_FIRST_VALID = 1 then skip
  else acts [setF p ALL.FAULT_FIRST_INDEX index, setF p ALL.FAULT_FIRST_VALID 1,
    setPair p ALL.FAULT_ST_LO ALL.FAULT_ST_HI s.st.toNat]

/-- Set a FAULT bit: the first-fault record when FAULT was 0x0, the event count, and the fault interrupt when the page
had no unmasked bit before and has one now (R407, R510, R511). -/
def setFaultBit (p : Page) (bit : Nat) : Act := look fun s =>
  let old := s.get p ALL.FAULT_BITS
  acts [setF p ALL.FAULT_BITS (old ||| 2 ^ bit),
    if old = 0 then recordFirst p bit else skip,
    if countsFaults p then wrapF p ALL.EVENT_COUNT_COUNT else skip,
    if s.unmasked p = 0 && !Nat.testBit (s.get p ALL.FAULT_MASK_BITS) bit then faultIrq p else skip]

/-- Whether setting a bit draws FAULT_STOP_EN: the bit is unmasked and FAULT_STOP_EN = 1 (R509, R510). -/
def State.stopsOn (s : State) (p : Page) (bit : Nat) : Bool :=
  s.get p ALL.PAGE_CTRL_FAULT_STOP_EN = 1 && !Nat.testBit (s.get p ALL.FAULT_MASK_BITS) bit

/-! The fault log (R24, R518) -/

/-- Write an entry of 16 words into the NVM fault log; a full log loses its oldest entry and sets LOG_WRAP. -/
def logFault (kind typ inst : Nat) (detail : List Nat) : Act := look fun s =>
  let next := s.word .misc 0
  let words := (kind + typ * 2 ^ 8 + inst * 2 ^ 16) :: s.get .chip CHIP.BOOT_COUNT_COUNT
    :: (s.st.toNat % 2 ^ 32) :: (s.st.toNat / 2 ^ 32) :: detail
  acts [forEach (upTo 16) fun i => setWord .faultLog (16 * (next % 4096) + i) (words.getD i 0),
    setWord .misc 0 (next + 1),
    if s.get .nvm NVM.LOG_COUNT_HELD < 4096 then wrapF .nvm NVM.LOG_COUNT_HELD
    else acts [countF .nvm NVM.LOG_COUNT_OVERWRITTEN, setFaultBit .nvm 0]]

/-! Output conditions (R36 to R40) -/

/-- The conditions of R36. -/
inductive Cond where
  | inert | muted | hold | live
deriving DecidableEq, Repr

def Cond.code : Cond → Nat
  | .inert => 0 | .muted => 1 | .hold => 2 | .live => 3

/-- The field that shows a DAC output's condition. -/
def condField : OutputId → Page × Field
  | .drive d => (.drive d, OUTP.OUT_STATUS_COND)
  | .probe t => (.transceiver t, OUTP.OUT_STATUS_COND)
  | .flux f => (.flux f, FLUX.OUT_STATUS_COND)

/-- The field that shows marker output m's condition (R545). -/
def markCond (m : Nat) : Page × Field :=
  (acqPage (m / 2), if m % 2 = 0 then ACQUISITION.MARK_STATUS_COND0 else ACQUISITION.MARK_STATUS_COND1)

def State.cond (s : State) (o : OutputId) : Nat := s.get (condField o).1 (condField o).2
def State.markerCond (s : State) (m : Nat) : Nat := s.get (markCond m).1 (markCond m).2

def setCond (o : OutputId) (c : Cond) : Act := setF (condField o).1 (condField o).2 c.code
def setMarkCond (m : Nat) (c : Cond) : Act := setF (markCond m).1 (markCond m).2 c.code

/-- The number of marker output m in the store of outputs. -/
def markerNo (m : Nat) : Nat := 288 + m

/-- Set the level at a marker. -/
def setLevel (m : Nat) (b : Bool) : Act := updOutput (markerNo m) fun r => { r with level := b }

/-- Clear a waiting or powering ENABLE of an output. -/
def dropEnable (o : OutputId) : Act :=
  acts [updOutput (outputNo o) fun r => { r with enableWaits := false, powering := false },
    match o with | .flux _ => skip | _ => setF (outputPage o) OUTP.OUT_STATUS_POWERING 0]

/-- The device mutes an output (R38, R39): LIVE and HOLD become MUTED; an INERT output is the higher condition and stays. -/
def forceMute (o : OutputId) : Act := look fun s =>
  acts [dropEnable o, if s.cond o = Cond.inert.code then skip else setCond o .muted]

/-- The device mutes a marker output: it goes low. -/
def forceMarkMute (m : Nat) : Act := look fun s =>
  acts [if s.markerCond m = Cond.inert.code then skip else setMarkCond m .muted, setLevel m false]

/-- An output to INERT; a flux output's correction stages are held at 0 (R188). -/
def forceInert (o : OutputId) : Act :=
  acts [dropEnable o, setCond o .inert, updOutput (outputNo o) fun r => { r with lp := [0, 0, 0, 0] }]

def forceMarkInert (m : Nat) : Act := acts [setMarkCond m .inert, setLevel m false]

def outputsOfBlock (k : Nat) : List OutputId :=
  [.drive (Fin.ofNat 128 (2 * k)), .drive (Fin.ofNat 128 (2 * k + 1)), .flux (Fin.ofNat 128 (2 * k)), .flux (Fin.ofNat 128 (2 * k + 1))]

def probesOfRegion (n : Nat) : List OutputId := (upTo 4).map fun q => .probe (Fin.ofNat 32 (4 * n + q))

def outputsOfRegion (n : Nat) : List OutputId :=
  probesOfRegion n ++ (upTo 8).flatMap fun b => outputsOfBlock (8 * n + b)

def allOutputs : List OutputId := (upTo 8).flatMap outputsOfRegion

/-- Mute every output of the device, markers included. -/
def muteAll : Act := acts [forEach allOutputs forceMute, forEach (upTo 16) forceMarkMute]

/-- A thermal state at or above CRIT is in force (R40, R457). -/
def State.crit (s : State) : Bool := 3 ≤ s.get .thermal THERMAL.TSTATE_STATE

/-! Stream slots and tones -/

/-- Free a stream slot of a block and keep STREAM_STATUS.USED (R181, R196). -/
def freeSlot (k : Nat) (slot : Option Nat) : Act := look fun s =>
  match slot with
  | none => skip
  | some i =>
    let rest := (s.blk k).slots.filter fun x => x.1 ≠ i
    acts [updBlk k fun b => { b with slots := rest, primed := b.primed.filter fun x => x.1 ≠ i }, setF (blockPage k) BLOCK.STREAM_STATUS_USED rest.length]

/-- Show on TONE_STATUS what plays on a tone (R194). -/
def showTone (key : Nat) : Act := look fun s =>
  if key ≥ 2048 then skip else
  let (o, slot) := toneOutput key
  let p := outputPage o
  let t := s.tone key
  acts [setB p (OUTP.TONE_STATUS_PLAYING slot) (t.pulse.isSome || t.stream.isSome),
    setB p (OUTP.TONE_STATUS_STREAMING slot) t.stream.isSome,
    match t.stream with
    | some x => acts [setB p (OUTP.TONE_STATUS_JUMP_HELD slot) x.jump.isSome, setF p (OUTP.TONE_STATUS_SLOT slot) x.slot,
        setF p (OUTP.TONE_SEG_ADDR slot) x.seg]
    | none => acts [setF p (OUTP.TONE_STATUS_JUMP_HELD slot) 0, setF p (OUTP.TONE_STATUS_SLOT slot) 0]]

/-- End the stream on a tone: its slot and the slot of its held jump request are freed (R180, R181). -/
def endStream (key : Nat) : Act := look fun s =>
  match (s.tone key).stream with
  | none => skip
  | some x =>
    acts [freeSlot (blockOf x.engine) (some x.slot),
      match x.jump with | some j => freeSlot (blockOf x.engine) j.slot | none => skip,
      updTone key fun t => { t with stream := none }, showTone key]

/-- The later of two stamps. -/
def Stamp.later (a b : Stamp) : Stamp := if Stamp.atOrAfter a b then a else b

/-- The earlier of two stamps. -/
def Stamp.earlier (a b : Stamp) : Stamp := if Stamp.atOrAfter a b then b else a

/-- A tone's stream stops at the first word formed at or after now, 256 ST before it leaves the balls (R67, R186); its held
jump request is discarded at once. -/
def cutStream (key : Nat) : Act := look fun s =>
  match (s.tone key).stream with
  | none => skip
  | some x =>
    acts [match x.jump with | some j => freeSlot (blockOf x.engine) j.slot | none => skip,
      updTone key fun t => { t with stream := some { x with jump := none, coming := [],
                                                            stop := Stamp.earlier x.stop (Stamp.gridUp 5 s.st + 256) } },
      showTone key]

/-- End whatever pulse or stream plays on a tone. -/
def endTone (key : Nat) : Act :=
  acts [endStream key, updTone key fun t => { t with pulse := none }, showTone key]

/-! Timetables and leases -/

/-- Discard every unreleased entry of an engine and free the stream slots they hold (R73, R91); stamp order (R65) is then
measured from the last released entry. -/
def discardEntries (e : Nat) : Act := look fun s =>
  acts [forEach (s.eng e).timetable fun x => freeSlot (blockOf e) x.slot, updEng e fun r => { r with timetable := [], lastStamp := r.released }]

/-- The flux outputs of an engine's block. -/
def fluxOf (e j : Nat) : Nat := 2 * blockOf e + j % 2

/-- Whether an engine holds the lease of a flux output. -/
def State.holds (s : State) (e f : Nat) : Bool :=
  s.get (fluxPage f) FLUX.LEASE_HELD = 1 && s.get (fluxPage f) FLUX.LEASE_HOLDER = e

/-- Keep LEASE.WAITERS at the number of waiting engines, 0 to 15 (R195). -/
def setWaiters (f : Nat) (l : List Nat) : Act :=
  acts [updOutput (160 + f) fun r => { r with waiters := l }, setF (fluxPage f) FLUX.LEASE_WAITERS (min l.length 15)]

/-- Release a flux output if the engine holds it. -/
def releaseLease (e f : Nat) : Act := look fun s =>
  if s.holds e f then acts [setF (fluxPage f) FLUX.LEASE_HELD 0, setF (fluxPage f) FLUX.LEASE_HOLDER 0] else skip

/-- Release every lease of an engine and withdraw its waiting requests (R91, R121, R323). -/
def releaseLeases (e : Nat) : Act :=
  forEach [0, 1] fun j => acts [releaseLease e (fluxOf e j),
    look fun s => setWaiters (fluxOf e j) ((s.output (160 + fluxOf e j)).waiters.filter (· ≠ e))]

/-- `n` bytes of a number, little-endian. -/
def leBytes (v : Nat) : Nat → List Byte
  | 0 => []
  | n + 1 => BitVec.ofNat 8 v :: leBytes (v / 256) n

/-! Shot groups (R315 to R318) -/

/-- Word `w` of group entry `g` (R355). -/
def State.grpWord (s : State) (g w : Nat) : Nat := s.word .groups (64 * g + w)

/-- Group entry `g` is enabled. -/
def State.grpEnabled (s : State) (g : Nat) : Bool := s.grpWord g 0 % 2 = 1

/-- The enabled group entry an engine is a member of (R315). -/
def State.entryOf (s : State) (e : Nat) : Option Nat :=
  (s.tbl.find? fun kv => kv.1 < 2 ^ 14 && kv.1 % 64 = 16 + e / 32 && Nat.testBit kv.2 (e % 32) && s.grpEnabled (kv.1 / 64)).map
    (·.1 / 64)

/-- The group of an engine: its entry, or its group of one at 256 + e (R316). -/
def State.groupOf (s : State) (e : Nat) : Nat := (s.entryOf e).getD (256 + e)

/-- The engines of a group on this device. -/
def State.members (s : State) (g : Nat) : List Nat :=
  if g ≥ 256 then [g - 256]
  else (upTo 32).flatMap fun w =>
    let v := s.grpWord g (16 + w)
    if v = 0 then [] else ((upTo 32).filter fun i => Nat.testBit v i).map (32 * w + ·)

/-- MAX_ATTEMPTS, GRID and REPLAY_GAP of a group with the page defaults and limits (R316, R354, R355). -/
def State.maxAttempts (s : State) (g : Nat) : Nat :=
  let v := if g ≥ 256 then 0 else bitsOf (s.grpWord g 0) 7 4
  max 1 (if v = 0 then s.get .ledger LEDGER.DEFAULTS_MAX_ATT else v)

def State.gridOf (s : State) (g : Nat) : Nat :=
  let v := if g ≥ 256 then 0 else bitsOf (s.grpWord g 0) 20 16
  max 5 (min 24 (if v = 0 then s.get .ledger LEDGER.DEFAULTS_GRID else v))

def State.replayGap (s : State) (g : Nat) : Nat :=
  let v := if g ≥ 256 then 0 else s.grpWord g 2 % 2 ^ 24
  if v = 0 then s.get .ledger LEDGER.REPLAY_GAP_GAP else v

/-- GROUP_ID: 0xFFFF for a group of one (R316). -/
def State.groupId (s : State) (g : Nat) : Nat := if g ≥ 256 then 0xFFFF else s.grpWord g 1 % 2 ^ 16

/-- The group entry with a GROUP_ID on this device. -/
def State.groupById (s : State) (id : Nat) : Option Nat :=
  (upTo 256).find? fun g => s.grpEnabled g && s.groupId g = id

/-- The owner of a group: 0 the physical function (R315, R316). -/
def State.groupGuest (s : State) (g : Nat) : Nat := if g ≥ 256 then s.guestOf (g - 256) else bitsOf (s.grpWord g 0) 14 8

/-- This device's fabric ID, 0 outside a fabric. -/
def State.fabricId (s : State) : Nat := s.get .fabric FABRIC.FSTATUS_FABRIC_ID

/-- The devices that take part in a group, as fabric IDs; this device only where DEVICES is all zero (R355). -/
def State.devices (s : State) (g : Nat) : List Nat :=
  if g ≥ 256 then [s.fabricId] else
  let l := (upTo 64).filter fun i => Nat.testBit (s.grpWord g (5 + i / 32)) (i % 32)
  if l = [] then [s.fabricId] else l

/-- The other devices of a group. -/
def State.otherDevices (s : State) (g : Nat) : List Nat := (s.devices g).filter (· ≠ s.fabricId)

/-- This device leads the group: it has the lowest fabric ID (R317). -/
def State.leads (s : State) (g : Nat) : Bool := (s.devices g).all (s.fabricId ≤ ·)

/-- The lead engine: the lowest-numbered member (R317). -/
def State.leadEngine (s : State) (g : Nat) : Nat := (s.members g).headD 0

/-- STATE, ATTEMPT, LEAD, SHOT_NOW and NEW_START of a group entry, kept in words 7 to 11 (R355). -/
def showGroup (g : Nat) : Act := look fun s =>
  if g ≥ 256 then skip else
  let r := s.group g
  let st := if r.stopped then 3 else if r.voidedNow then 2 else if r.open' then 1 else 0
  acts [setWord .groups (64 * g + 7) (st + r.attempt * 16 + b2n (s.leads g) * 256),
    setWord .groups (64 * g + 8) r.shot, setWord .groups (64 * g + 9) (r.shot / 2 ^ 32),
    setWord .groups (64 * g + 10) r.newStart.toNat, setWord .groups (64 * g + 11) (r.newStart.toNat / 2 ^ 32)]

/-- The route byte of a destination device (R393). -/
def State.route (s : State) (dest : Nat) : Nat := s.word .routes dest

/-- Fabric hops to a device: 3 for three or more (R393). -/
def State.hopsTo (s : State) (dest : Nat) : Nat := if dest = s.fabricId then 0 else bitsOf (s.route dest) 7 6

/-- The port a frame for a destination leaves by: PORT, or ALT while that port is DOWN (R393). -/
def State.routePort (s : State) (dest : Nat) : Nat :=
  let r := s.route dest
  let up (p : Nat) : Bool := s.get (portPage p) PORT.PSTATUS_STATE ≠ 0
  if up (r % 4) then r % 4 else if bitOf r 4 = 1 then bitsOf r 3 2 else r % 4

/-! Measurements (R475) -/

/-- The 64 bytes of a measurement register as a number. -/
def State.measurement (s : State) (i : Nat) : Nat :=
  (upTo 16).foldl (fun a w => a + s.word .measurements (16 * i + w) * 2 ^ (32 * w)) 0

/-- M_i := SHAKE256(M_i ‖ SHAKE256(bytes) ‖ c). -/
def extendMeasure (i : Nat) (bytes : List Byte) (c : Nat) : Act := look fun s =>
  let d := Config.shake256 bytes
  let v := (Config.shake256 (leBytes (s.measurement i) 64 ++ leBytes d.toNat 64 ++ leBytes c 8)).toNat
  forEach (upTo 16) fun w => setWord .measurements (16 * i + w) (v / 2 ^ (32 * w))

/-- Send a frame into the fabric. -/
def sendFrame (f : Frame) : Act := updFab fun r => { r with sendq := r.sendq ++ [f] }

/-- Send a ledger frame of a group to every other member device (R331). -/
def sendLedger (g : Nat) (kind : FrameKind) (words : List Nat) : Act := look fun s =>
  forEach (s.otherDevices g) fun d => sendFrame ⟨kind, d, s.fabricId, none, s.groupId g, words, none, none⟩

/-! Shot records (R335 to R337) -/

/-- The 64 bits of a decision entry (R337). -/
def decBits (start : Stamp) (d : DecEntry) : Nat :=
  let q := (d.w - start).toNat / 32
  let wrel := if !Stamp.future d.w start || q > 0xFFFFFE then 0xFFFFFF else q
  d.state % 4 + d.flags % 128 * 2 ^ 2 + d.conf % 256 * 2 ^ 16 + d.tone % 1024 * 2 ^ 24 + wrel * 2 ^ 40

/-- Decision entries are ordered by engine and, within an engine, by window end (R337). -/
def decBefore (a b : DecEntry) : Bool :=
  a.engine < b.engine || (a.engine = b.engine && Stamp.future b.w a.w)

def insertDec (x : DecEntry) : List DecEntry → List DecEntry
  | [] => [x]
  | y :: ys => if decBefore x y then x :: y :: ys else y :: insertDec x ys

/-- Pad a byte list with zeros to a multiple of 64. -/
def pad64 (l : List Byte) : List Byte := l ++ List.replicate ((64 - l.length % 64) % 64) 0

/-- The bytes of a group's shot record, without SEQ, which the ring's writer fills in (R336). -/
def State.shotRecord (s : State) (g flags : Nat) : List Byte :=
  let r := s.group g
  let es := r.entries.take 4096
  let fl := flags ||| (if r.attempt > 1 then 2 else 0) ||| (if r.entries.length > 4096 then 4 else 0)
    ||| (if es.any fun d => Nat.testBit d.flags 1 || Nat.testBit d.flags 2 then 8 else 0)
  pad64 (leBytes (s.groupId g * 2 ^ 16) 4 ++ leBytes (s.groupGuest g + s.fabricId * 2 ^ 8 + r.attempt * 2 ^ 14) 4
    ++ leBytes r.shot 6 ++ leBytes fl 2 ++ leBytes r.begun.toNat 8 ++ leBytes r.causesAll 4 ++ leBytes r.causesNow 4
    ++ leBytes r.vset 4 ++ leBytes es.length 4 ++ leBytes 0 24 ++ es.flatMap fun d => leBytes (decBits r.begun d) 8)

/-- Deliver the record of a group's shot into the ledger buffer, count it, and keep the group's last delivered shot in
the always-on fault record (R325, R335, R354). -/
def deliverRecord (g flags : Nat) : Act := look fun s =>
  acts [updLed fun l => { l with waiting := l.waiting ++ [⟨regionOf (s.leadEngine g), s.groupGuest g, s.shotRecord g flags, none⟩] },
    countF .ledger LEDGER.DELIVERED_COUNT,
    if Nat.testBit flags 0 then countF .ledger LEDGER.UNRECOVERED_COUNT else skip,
    if g ≥ 256 then skip else acts [setWord .lastShot (4 * g) 1, setWord .lastShot (4 * g + 1) (s.groupId g),
      setWord .lastShot (4 * g + 2) (s.group g).shot, setWord .lastShot (4 * g + 3) ((s.group g).shot / 2 ^ 32)]]

/-! Engine stops (R91) -/

/-- The VSET count of an owner: the physical function's register, or a guest's own count (R352). -/
def State.vset (s : State) (g : Nat) : Nat :=
  if g = 0 then s.get .watch WATCH.VSET_COUNT else s.word .misc (0x100 + g)

/-- VSET rises by 1. -/
def riseVset (g : Nat) : Act := look fun s =>
  if g = 0 then wrapF .watch WATCH.VSET_COUNT else setWord .misc (0x100 + g) (s.word .misc (0x100 + g) + 1)

/-- Write the W fields of a pending update and raise VERSION, or discard it as stale (R351). -/
def applyUpdate (u : Update) : Act := look fun s =>
  let a := ctxAddr u.region u.index
  if Ctx.version (s.context u.region u.index) ≠ u.version then countF .watch WATCH.REJ_STALE_COUNT
  else acts [match u.df with | some v => storeBytes (a + 4) v 6 | none => skip,
    match u.disc with | some v => storeBytes (a + 0x30) v 12 | none => skip,
    storeBytes (a + 2) (u.version + 1) 2, countF .watch WATCH.APPLIED_COUNT]

/-- Apply together the pending updates of the engines that `p` picks (R126, R351); a release that applies one raises VSET (R352). -/
def applyUpdates (release : Bool) (p : Nat → Bool) : Act := look fun s =>
  let mine := s.tend.pending.filter fun u => p u.engine
  let good := mine.filter fun u => Ctx.version (s.context u.region u.index) = u.version
  acts [forEach mine applyUpdate,
    updTend fun w => { w with pending := w.pending.filter fun u => !p u.engine },
    look fun s => setF .watch WATCH.PENDING_COUNT s.tend.pending.length,
    if release then forEach ((good.map fun u => s.guestOf u.engine).eraseDups) riseVset else skip]

/-- CURFEW_STATUS of an engine that waits at no curfew. -/
def clearCurfew (e : Nat) : Act :=
  acts [setF (cellPage e) CELL.CURFEW_STATUS_WAITING 0, setF (cellPage e) CELL.CURFEW_STATUS_TAG 0, setF (cellPage e) CELL.CURFEW_STATUS_SCOPE 0]

/-- An engine waits for nothing: its curfew registers and its armed branch are cleared. -/
def clearWait (e : Nat) : Act :=
  acts [clearCurfew e, updEng e fun r => { r with wait := .none, branch := none, tail := none, missDue := false,
                                                  micro := { r.micro with reqWait := false, parked := false, csHeld := false } }]

/-- An engine that stops leaves the curfew it waits at (R124). -/
def leaveCurfew (e : Nat) : Act := look fun s =>
  match (s.eng e).wait with
  | .curfew .. => acts [clearCurfew e, updEng e fun r => { r with wait := .none, byMicro := false, micro := { r.micro with reqWait := false, parked := false } }]
  | _ => skip

/-- The spare leaves lockstep as its cell's shot ends: its record keeps what it held (R14, R26, R342). -/
def leaveLockstep (e : Nat) : Act := look fun s =>
  let b := s.blk (blockOf e)
  if b.running && b.shadow = cellOf e then updEng (1024 + blockOf e) fun _ => s.eng e else skip

/-- One engine's own stop (R91): its state, START_PENDING, entries, leases, stopovers and shot state. `st` is the state
it comes to rest in: STOPPED, or FAULTED for an engine that stays FAULTED (R509, R547). -/
def haltCell (e : Nat) (st : EngState) : Act :=
  acts [look fun s => if s.get (cellPage e) CELL.STATUS_IN_SHOT = 1 then
        updEng e fun r => { r with openTime := r.openTime + (s.st - r.shotOpenedAt).toNat } else skip,
    leaveLockstep e, setEng e st, setF (cellPage e) CELL.STATUS_START_PENDING 0, discardEntries e, releaseLeases e, clearWait e,
    setF (cellPage e) CELL.SO_STATUS_PEND 0, setF (cellPage e) CELL.SO_STATUS_LEVEL 0,
    setF (cellPage e) CELL.STATUS_IN_SHOT 0, setF (cellPage e) CELL.STATUS_ATTEMPT 0,
    updEng e fun r => { r with ckpt := none, closed := false, voided := false, restored := false,
                               micro := { r.micro with holdoff := 0, inFaultTrap := false } },
    look fun s => if (s.entryOf e).isNone then updGroup (256 + e) fun _ => .init else skip,
    if st = .stopped then applyUpdates false (· = e) else skip]

/-- An engine's state as haltCell leaves it: FAULTED engines stay FAULTED. -/
def haltKeep (e : Nat) : Act := look fun s => haltCell e (if s.engIs e .faulted then .faulted else .stopped)

/-- Void causes (R321). -/
inductive Cause where
  | late | underrun | dlMiss | ecc | cellFault | feed | ovr | expired | thermal | devLost | timebase | stopped
deriving DecidableEq, Repr

def Cause.code : Cause → Nat
  | .late => 0 | .underrun => 1 | .dlMiss => 2 | .ecc => 3 | .cellFault => 4 | .feed => 5 | .ovr => 6 | .expired => 7
  | .thermal => 8 | .devLost => 9 | .timebase => 10 | .stopped => 11

/-- The OR of the bits of several causes. -/
def causeBits (cs : List Cause) : Nat := cs.foldl (fun a c => a ||| 2 ^ c.code) 0

/-- MARK_ATT names this group and is enabled; the marker it names (R330). -/
def State.markAtt (s : State) (g : Nat) : Option Nat :=
  if s.get .ledger LEDGER.MARK_ATT_EN = 1 && s.get .ledger LEDGER.MARK_ATT_GROUP = g then
    some (s.get .ledger LEDGER.MARK_ATT_MARKER) else none

/-- The ledger's level at its MARK_ATTEMPT marker; a marker that is not LIVE stays low (R330). -/
def driveMarkAtt (g : Nat) (level : Bool) : Act := look fun s =>
  match s.markAtt g with
  | some m => if s.markerCond m = Cond.live.code then setLevel m level else skip
  | none => skip

/-- Count a voided attempt with its causes (R328, R354). -/
def countVoid (causes : Nat) : Act :=
  acts [countF .ledger LEDGER.VOIDED_COUNT,
    forEach ((upTo 12).filter fun i => Nat.testBit causes i) fun i => countF .ledger (LEDGER.VOID_CAUSE_COUNT i)]

/-- A group stops at once on this device (R324): its open shot's attempt counts as voided unless it is void already (R321, R328, log entry
124), the shot's record is delivered with the flags (1 UNRECOVERED, 16 STOPPED, 32 LOST_DEV), every member stops as under R91, its
MARK_ATTEMPT marker falls (R330), and the entry reads STOPPED. A group of one ends (R316). -/
def stopGroupHere (g : Nat) (causes flags : Nat) : Act := look fun s =>
  acts [
    if (s.group g).open' then
      acts [updGroup g fun r => { r with causesNow := r.causesNow ||| causes, causesAll := r.causesAll ||| causes },
        if (s.group g).voidedNow then skip else countVoid causes, deliverRecord g flags]
    else skip,
    updGroup g fun r => { r with open' := false, voidedNow := false, stopped := true },
    forEach (s.members g) haltKeep, driveMarkAtt g false,
    if g ≥ 256 then updGroup g fun _ => .init else showGroup g]

/-- The same, with the VOID frames that tell the other member devices of the cause (R331). -/
def stopGroup (g : Nat) (causes flags : Nat) : Act := look fun s =>
  acts [if (s.group g).open' then sendLedger g .void [(s.group g).attempt, (s.group g).shot, causes, 0] else skip,
    stopGroupHere g causes flags]

/-- Under CRIT a void attempt is not replayed (R325): the record is delivered UNRECOVERED with THERMAL, and the members stop. -/
def endByCrit (g causes : Nat) : Act :=
  acts [stopGroup g (causes ||| causeBits [.thermal]) 1, updGroup g fun r => { r with stopped := false }, showGroup g]

/-- An engine stops as under R91: with a shot open its whole group stops with cause STOPPED (R324). -/
def stopEngine (e : Nat) (st : EngState) : Act := look fun s =>
  let g := s.groupOf e
  acts [if s.get (cellPage e) CELL.STATUS_IN_SHOT = 1 && (s.group g).open' then stopGroup g (causeBits [.stopped]) 17 else skip,
    haltCell e st]

/-- The FAULT_STOP_EN effect on a page (R509). -/
def faultStop (p : Page) : Act :=
  match p with
  | .cell e => look fun s => stopEngine e.val (if s.engIs e.val .faulted then .faulted else .stopped)
  | .drive d => forceMute (.drive d)
  | .flux f => forceMute (.flux f)
  | .transceiver t => forceMute (.probe t)
  | .block k => acts [forEach (enginesOfBlock k.val) fun e => look fun s =>
      if s.engStopped e then skip else stopEngine e .stopped, forEach (outputsOfBlock k.val) forceMute]
  | .region n => acts [forEach (enginesOfRegion n.val) fun e => look fun s =>
      if s.engStopped e then skip else stopEngine e .stopped, forEach (outputsOfRegion n.val) forceMute,
      forEach [2 * n.val, 2 * n.val + 1] forceMarkMute]
  | _ => skip

/-- Set a FAULT bit with everything R509 to R511 attach to it. -/
def raiseFault (p : Page) (bit : Nat) : Act := look fun s =>
  acts [setFaultBit p bit, if s.stopsOn p bit then faultStop p else skip]

/-! Voids (R321 to R325) -/

/-- Whether an engine has a shot open. -/
def State.inShot (s : State) (e : Nat) : Bool := s.get (cellPage e) CELL.STATUS_IN_SHOT = 1

/-- Every member of the group's void on this device is restored, and no takeover of one is under way (R327). -/
def State.readyHere (s : State) (g : Nat) : Bool :=
  (s.members g).all fun e => (!s.inShot e || ((s.eng e).voided && (s.eng e).restored))
    && (s.blk (blockOf e)).takeover ≠ some (cellOf e)

/-- A device that does not lead tells the lead once it is ready (R331); after a further void cause of its own it tells again. -/
def tellReady (g : Nat) : Act := look fun s =>
  let r := s.group g
  if r.open' && r.voidedNow && s.readyHere g && !s.leads g && !r.readyDevs.contains s.fabricId then
    acts [updGroup g fun r => { r with readyDevs := s.fabricId :: r.readyDevs },
      sendFrame ⟨.ready, (s.devices g).headD 0, s.fabricId, none, s.groupId g, [r.attempt, r.shot, 0, 0], none, none⟩]
  else skip

/-- The attempt of a group is void, or on its final attempt is marked (R322, R324, R325, R328), under CRIT with THERMAL too. `tell` sends
the VOID frames of R331. A cause that strikes a void attempt makes the new start be computed again. -/
def voidGroup (g causes : Nat) (tell : Bool) : Act := look fun s =>
  let r := s.group g
  let say := if tell then sendLedger g .void [r.attempt, r.shot, causes, 0] else skip
  if !r.open' then skip
  else if r.voidedNow then
    acts [updGroup g fun r => { r with causesAll := r.causesAll ||| causes, startSet := false,
                                       readyDevs := if tell then r.readyDevs.filter (· ≠ s.fabricId) else r.readyDevs },
      say, if tell then tellReady g else skip]
  else if r.attempt ≥ s.maxAttempts g then
    acts [updGroup g fun r => { r with causesNow := r.causesNow ||| causes ||| (if s.crit then causeBits [.thermal] else 0), unrecovered := true },
      say]
  else if s.crit then endByCrit g causes
  else
    acts [updGroup g fun r => { r with voidedNow := true, causesAll := r.causesAll ||| causes, causesNow := r.causesNow ||| causes,
                                       windows := 0, entries := [], readyDevs := [], settledDevs := [], startSet := false },
      countVoid causes, say, showGroup g]

/-- A void cause strikes the shot an engine has open; outside a shot nothing is voided (R118, R184). -/
def voidShot (e : Nat) (cs : List Cause) : Act := look fun s =>
  if s.inShot e then voidGroup (s.groupOf e) (causeBits cs) true else skip

/-- A cause of R324 that stops the group at once, or nothing where the group has no open shot. -/
def strikeGroup (g : Nat) (cs : List Cause) (flags : Nat) : Act := look fun s =>
  if (s.group g).open' then stopGroup g (causeBits cs) flags else skip

/-- The groups with a shot open on this device. -/
def State.openGroups (s : State) : List Nat := (s.groups.filter fun kv => kv.2.open').map (·.1)

/-! Faults of cells (R21, R153, R340 to R344) -/

/-- Mute the tones an engine owns from the first word formed after the fault, which leaves 256 ST later; their streams stop. The words
already formed leave the balls as formed (R21, R192). -/
def muteTones (e : Nat) : Act := look fun s =>
  forEach ((s.ownedTones e).filter (· < 2048)) fun k =>
    acts [cutStream k, updTone k fun t => { t with muteFrom := Stamp.gridUp 5 s.st + 256 }, let (o, slot) := toneOutput k; setF (outputPage o) (OUTP.TONE_STATUS_FAULT_MUTED slot) 1]

/-- End the muting of an engine's tones (R192). -/
def unmuteTones (e : Nat) : Act := look fun s =>
  forEach ((s.ownedTones e).filter (· < 2048)) fun k =>
    let (o, slot) := toneOutput k; setF (outputPage o) (OUTP.TONE_STATUS_FAULT_MUTED slot) 0

/-- The pages of a block, and of a region. -/
def pagesOfBlock (k : Nat) : List Page :=
  [blockPage k, drivePage (2 * k), drivePage (2 * k + 1), fluxPage (2 * k), fluxPage (2 * k + 1), dspPage k, bankPage k]
    ++ (enginesOfBlock k).map cellPage

def pagesOfRegion (n : Nat) : List Page :=
  [regionPage n, decPage n, acqPage n, porterPage n] ++ (upTo 4).map (fun q => rxPage (4 * n + q))
    ++ (upTo 8).flatMap fun b => pagesOfBlock (8 * n + b)

/-- Steps 1 and 3 of R22 for a set of engines: every engine stops, and every group that includes one of them is
delivered UNRECOVERED and stops. -/
def quarantineEngines (es : List Nat) : Act :=
  acts [look fun s => forEach (es.map s.groupOf).eraseDups fun g => stopGroup g (causeBits [.stopped]) 17,
    forEach es fun e => look fun s => if s.engStopped e then skip else haltCell e .stopped]

/-- Steps 4 to 6 of R22 for a page, with the fault log's entry (R24). -/
def quarantinePage (p : Page) : Act := look fun s =>
  acts [recordFirst p 32, faultIrq p,
    logFault 1 (pageIdent p).1 (pageIdent p).2 [if s.get p ALL.FAULT_FIRST_VALID = 1 then s.get p ALL.FAULT_FIRST_INDEX else 32,
      s.get p ALL.FAULT_BITS]]

/-- Quarantine a cell (R22, R344). -/
def quarantineCell (e : Nat) : Act :=
  acts [quarantineEngines [e], setPage (cellPage e) .quarantined, quarantinePage (cellPage e), muteTones e]

/-- Quarantine a region (R22): its engines, its outputs and markers, and every page it encloses (R504). -/
def quarantineRegion (n : Nat) : Act := look fun s =>
  if s.pageIs (regionPage n) .quarantined then skip else
  acts [quarantineEngines (enginesOfRegion n), forEach (outputsOfRegion n) forceMute,
    forEach [2 * n, 2 * n + 1] forceMarkMute,
    forEach (pagesOfRegion n) fun p => setPage p .quarantined, quarantinePage (regionPage n)]

/-- Quarantine a block (R22); five quarantined blocks of a region quarantine the region (R21). -/
def quarantineBlock (k : Nat) : Act := look fun s =>
  if s.pageIs (blockPage k) .quarantined then skip else
  acts [quarantineEngines (enginesOfBlock k), forEach (outputsOfBlock k) forceMute,
    forEach (pagesOfBlock k) fun p => setPage p .quarantined, quarantinePage (blockPage k),
    look fun s =>
      let n := regionOfBlock k
      if 5 ≤ ((upTo 8).filter fun b => s.pageIs (blockPage (8 * n + b)) .quarantined).length then quarantineRegion n else skip]

/-- CELL.FAULT bits (R131). -/
inductive CellFaultBit where
  | ecc | illegal | route | cls | stack
deriving DecidableEq, Repr

def CellFaultBit.code : CellFaultBit → Nat
  | .ecc => 0 | .illegal => 1 | .route => 2 | .cls => 3 | .stack => 4

/-- The vector of a stopover source, and its number 0 to 5 (R149). -/
def vectorOf (i : Nat) : Nat := 0x40 + i

/-- Enter a stopover: save the micro-state, set the level and STATE, jump to the vector (R151). -/
def enterStopover (e i : Nat) : Act := look fun s =>
  let p := cellPage e
  let lvl := s.get p CELL.SO_STATUS_LEVEL
  let m := (s.eng e).micro
  acts [updEng e fun r => { r with micro := { r.micro with
          slots := r.micro.slots.set lvl ⟨m.upc, m.u, m.mf, m.rc, i⟩, upc := vectorOf i, parked := false } },
    if lvl = 0 then setF p CELL.SO_SAVE_UPC_UPC m.upc else skip,
    modF p CELL.SO_STATUS_PEND (fun v => v &&& (63 - 2 ^ i)),
    setEng e .stopover, setF p CELL.SO_STATUS_LEVEL (lvl + 1), countF p CELL.SO_COUNT_TAKEN]

/-- A source becomes pending if it is enabled (R149). -/
def raiseStopover (e i : Nat) (enabled : Bool) : Act :=
  if enabled then modF (cellPage e) CELL.SO_STATUS_PEND (fun v => v ||| 2 ^ i) else skip

/-- The takeover of a cell by the block's spare begins (R343); the new start of a void attempt waits for it (R327). -/
def takeoverStart (e : Nat) : Act := updBlk (blockOf e) fun b => { b with takeover := some (cellOf e) }

/-- A cell fault with a CELL.FAULT bit (R21, R153): the tones mute, the shot is voided or its group stops, the address
of the faulting word is kept, and the fault trap routine runs or the cell is FAULTED. A curable fault (ECC) is taken
over by the spare, or quarantines the cell of a block that has none left (R340 to R344). -/
def cellFaultEffects (e : Nat) (curable : Bool) : Act := look fun s =>
  let p := cellPage e
  let lvl := s.get p CELL.SO_STATUS_LEVEL
  let trap := s.get p CELL.SO_CTRL_FLT_EN = 1 && lvl < 2
  let spare := !(s.blk (blockOf e)).spareUsed && (s.blk (blockOf e)).takeover.isNone
  acts [muteTones e, setF p CELL.SO_FAULT_UPC_UPC (s.eng e).micro.upc,
    if curable then
      (if spare then acts [takeoverStart e,
          if s.inShot e || (s.group (s.groupOf e)).voidedNow then voidGroup (s.groupOf e) (causeBits [.cellFault]) true else skip,
          leaveCurfew e, setEng e .faulted]
        else quarantineCell e)
    else
      acts [setEng e .faulted, stopGroup (s.groupOf e) (causeBits [.cellFault, .stopped]) 17],
    if trap && !(curable && !spare) then
      acts [setF p CELL.SO_STATUS_LEVEL lvl, enterStopover e 0, updEng e fun r => { r with micro := { r.micro with inFaultTrap := true } }]
    else skip]

/-- Raise a cell fault. -/
def cellFault (e : Nat) (b : CellFaultBit) : Act := look fun s =>
  let p := cellPage e
  acts [setFaultBit p b.code, cellFaultEffects e (b = .ecc),
    if s.stopsOn p b.code then look fun s => stopEngine e (if s.engIs e .faulted then .faulted else .stopped) else skip]

end Sys2Proof.Machine
end

