-- ==== Sys2Proof/Machine/Timetable.lean ====
section
/-! DEFINITION. The timetable: enqueue with the late, order and full rules (R65, R69, R71), slack and voltage scaling
(R74 to R80), what waits for room (R71, R181), and the functions' views that they need. -/

namespace Sys2Proof.Machine

/-! Views of a function (R406, R521) -/

/-- Word `w` of guest g's lease words (R423). -/
def State.guestWord (s : State) (g w : Nat) : Nat := s.word .guests (128 * g + w)

/-- Guest g is READY, so its views are open (R410). -/
def State.guestReady (s : State) (g : Nat) : Bool := s.guestWord g 1 % 8 = 2

/-- A function reaches a CELL page: the physical function, or the READY guest that leases the engine (R406, R521). -/
def State.reachesCell (s : State) (fn : FuncId) (e : Nat) : Bool :=
  fn.val = 0 || (s.guestReady fn.val && s.guestOf e = fn.val)

/-- A host command on a CELL page acts only for a function that reaches the page. -/
def forCell (fn : FuncId) (e : Nat) (a : Act) : Act := look fun s => if s.reachesCell fn e then a else skip

/-! HBM (R544) -/

/-- The end of the usable HBM. -/
def hbmEnd : Nat := 0x5_C000_0000

/-- A range of HBM bytes lies in the usable HBM. -/
def hbmRange (a n : Nat) : Bool := a + n ≤ hbmEnd

/-- A range lies in a guest's memory range (R412, R423); the physical function may use all usable HBM. -/
def State.memRange (s : State) (g a n : Nat) : Bool :=
  hbmRange a n && (g = 0 ||
    (s.guestWord g 76 % 2 ^ 15 * 2 ^ 20 ≤ a && a + n ≤ (s.guestWord g 76 % 2 ^ 15 + s.guestWord g 77 % 2 ^ 15) * 2 ^ 20))

/-- The HBM a function may use through a window, a porter or a stream: all usable HBM, or a guest's memory and capture ranges
(R299, R412, R423). -/
def State.hbmView (s : State) (g a n : Nat) : Bool :=
  let b := s.guestWord g 74 % 2 ^ 15 * 2 ^ 20
  s.memRange g a n || (hbmRange a n && b ≤ a && a + n ≤ b + s.guestWord g 75 % 2 ^ 15 * 2 ^ 20)

/-! Slack and voltage scaling (R74 to R80) -/

/-- Thermal SHED is in force (R456). -/
def State.shed (s : State) : Bool := 2 ≤ s.get .thermal THERMAL.TSTATE_STATE

/-- The timebase event interrupt, counted in EVENT_COUNT (R79, R407, R516). -/
def timebaseEvent : Act := acts [wrapF .timebase ALL.EVENT_COUNT_COUNT, emit (.msix 0 1)]

/-- SLACK_LOW is set; under SHED the porters are throttled further (R77, R456). -/
def setSlackLow : Act := look fun s =>
  acts [setF .timebase TIMEBASE.TB_STATUS_SLACK_LOW 1,
    if s.shed then setF .thermal THERMAL.TSTATE_SLACK_THROTTLE 1 else skip]

/-- A slack sample below GUARD raises VCP by four steps, no sooner than 10 µs after the last raise; at step 0 it raises
the event interrupt (R77, R79). -/
def slackBelowGuard : Act := look fun s =>
  let step := s.get .timebase TIMEBASE.VCP_STATE_STEP
  let recent : Bool := match s.time.lastRaise with
    | some t => (s.st - t).toNat < 200000
    | none => false
  if step = 0 then acts [setSlackLow, updTime fun x => { x with raised := true }, timebaseEvent]
  else if recent then skip
  else acts [setF .timebase TIMEBASE.VCP_STATE_STEP (step - 4), setSlackLow,
    updTime fun x => { x with raised := true, lastRaise := some s.st }]

/-- The statistics of one slack sample (R75), and what voltage scaling makes of it (R77). With AVS_EN = 0, which holds VCP at step 0, neither
SLACK_LOW nor the event of R79 arises (DESIGN CHOICE, log entry 94). -/
def slackSample (e : Nat) (slack : Int) : Act := look fun s =>
  let p := cellPage e
  let v := satSigned 32 slack
  acts [setF p CELL.SLACK_LAST (ofSigned 32 v),
    if v < toSigned 32 (s.get p CELL.SLACK_MIN) then setF p CELL.SLACK_MIN (ofSigned 32 v) else skip,
    if s.get p CELL.TT_CTRL_AVS_EXCL = 1 then skip else
    acts [updTime fun x => { x with minSlack := match x.minSlack with
            | some (m, e') => if v < m then some (v, e) else some (m, e')
            | none => some (v, e) },
      if s.get .timebase TIMEBASE.TB_CTRL_AVS_EN = 1 && v < s.get .timebase TIMEBASE.SLACK_GUARD_GUARD
      then slackBelowGuard else skip]]

/-! Entries never played -/

/-- An entry is never played under R65, R68 or R69: it is counted and flagged, its stream slot is freed and its shot is
voided with LATE (R321). An entry of the watch voids nothing (R347). LATE_TOTAL counts every entry that LATE_COUNT counts, those dropped
under R65, R68 and R70 too, and no clear lowers it (DESIGN CHOICE, log entry 95). -/
def neverPlayed (e : Nat) (x : Entry) (flags : List Field) : Act :=
  acts [countF (cellPage e) CELL.LATE_COUNT_COUNT, countF .timebase TIMEBASE.LATE_TOTAL_COUNT,
    forEach flags fun f => setF (cellPage e) f 1, freeSlot (blockOf e) x.slot,
    if x.watch then skip else voidShot e [.late]]

/-- A late entry under R69 sets VCP to step 0 and blocks lowering for 16 intervals (R77). -/
def lateVoltage : Act :=
  acts [setF .timebase TIMEBASE.VCP_STATE_STEP 0, updTime fun x => { x with lateSeen := true, noLower := 16 }]

/-- GATE_LEAD: a word is formed 256 ST before it leaves the balls (R67). -/
def gateLead : Stamp := 256

/-- The slack of an entry enqueued now (R69, R74): stamp − GATE_LEAD − ST_enq, where ST_enq is the first word boundary
at or after ST. -/
def State.slackOf (s : State) (stamp : Stamp) : Int := Stamp.ahead stamp (Stamp.gridUp 5 s.st) - 256

/-- An entry whose stamp breaks the engine's stamp order (R65). -/
def State.outOfOrder (s : State) (e : Nat) (stamp : Stamp) : Bool :=
  match (s.eng e).lastStamp with
  | some l => !Stamp.future stamp l
  | none => false

/-- DEPTH of an engine's timetable (R82). -/
def State.depth (s : State) (e : Nat) : Nat := (s.eng e).timetable.length

/-- Enqueue an entry now, with space in the timetable (R65, R69, R74). An entry refused as late or out of order is not "the entry enqueued
before" the next one: it leaves the last stamp as it was (DESIGN CHOICE, log entry 93). -/
def enqueueNow (e : Nat) (x : Entry) : Act := look fun s =>
  let slack := s.slackOf x.stamp
  let late := slack < 0
  let order := s.outOfOrder e x.stamp
  acts [slackSample e slack,
    if late || order then
      acts [neverPlayed e x ((if late then [CELL.TT_STATUS_LATE] else []) ++ (if order then [CELL.TT_STATUS_ORDER] else [])),
        if late then lateVoltage else skip]
    else updEng e fun r => { r with timetable := r.timetable ++ [x], lastStamp := some x.stamp }]

/-- The STATE an engine shows for what it waits for (R131); a SENDM that waits has no state of its own. -/
def Wait.state : Wait → EngState
  | .none | .send .. => .running
  | .space .. | .streamSlot .. => .waitTT
  | .lease _ => .waitLease
  | .until _ | .newStart => .waitST
  | .settle _ | .curfew .. => .curfew
  | .grant .. => .watch
  | .branch => .waitDecision

/-- Show STATUS.STATE of an engine that is not stopped: STOPOVER inside a trap routine, WAIT_TT while its branch unit waits for room (R71),
else by what it waits for. -/
def showState (e : Nat) : Act := look fun s =>
  if s.engStopped e then skip
  else setEng e (if s.get (cellPage e) CELL.SO_STATUS_LEVEL ≠ 0 then .stopover
    else if (s.eng e).wait = .branch && (s.eng e).tail.isSome then .waitTT else (s.eng e).wait.state)

/-- The engine waits, or waits no more. -/
def setWait (e : Nat) (w : Wait) : Act := acts [updEng e fun r => { r with wait := w }, showState e]

/-- The engine executes instructions: RUNNING, nothing waited for, and the control plane not paused (R438, R547). -/
def State.executes (s : State) (e : Nat) : Bool :=
  s.engIs e .running && (s.eng e).wait = .none && !s.time.frozen

/-- An instruction acts only in an engine that executes. -/
def whenRunning (e : Nat) (a : Act) : Act := onlyIf (fun s => s.executes e) a

/-- An armed branch, or one whose unit has not finished. -/
def Engine.branching (r : Engine) : Bool := r.branch.isSome || r.tail.isSome

/-- An instruction completes: PC := PC + 1, or UDONE and UOK for the request of a microword (R140), beside which a branch may stay armed. -/
def finishAs (e : Nat) (ok : Bool) : Act := look fun s =>
  if (s.eng e).byMicro then
    acts [updEng e fun r => { r with byMicro := false, micro := { r.micro with udone := true, uok := ok } },
      if (s.eng e).branching && (s.eng e).wait = .none then setWait e .branch else skip]
  else nextPC e

def finish (e : Nat) : Act := finishAs e true

/-- A timed instruction's enqueues are done: its T[TD] write, then the next instruction (R94). -/
def finishTimed (e : Nat) (td : Option (Nat × Stamp)) : Act :=
  acts [match td with | some (i, v) => setT e i v | none => skip, setWait e .none, finish e]

/-- Enqueue an instruction's entries in order; on a full timetable the engine waits in WAIT_TT and the enqueue is
counted in STALL_COUNT (R71). -/
def enqueueAll (e : Nat) : List Entry → Option (Nat × Stamp) → Act
  | [], td => finishTimed e td
  | x :: xs, td => look fun s =>
    if s.depth e < 64 then acts [enqueueNow e x, enqueueAll e xs td]
    else acts [countF (cellPage e) CELL.STALL_COUNT_COUNT, setWait e (.space (x :: xs) td)]

/-- A stream slot is taken, and STREAM_STATUS.USED shows it (R181, R196). -/
def takeSlot (k i e : Nat) : Act :=
  acts [updBlk k fun b => { b with slots := (i, e) :: b.slots }, look fun s => setF (blockPage k) BLOCK.STREAM_STATUS_USED (s.blk k).slots.length]

/-- The branch unit has done what R141 asks of it: the T[TD] write, PC past the instruction, then DRES and DTAKEN. -/
def endBranch (e : Nat) (x : BranchTail) : Act :=
  acts [match x.tWrite with | some (i, v) => setT e i v | none => skip, setPC e x.pc,
    updEng e fun r => { r with tail := none, wait := if r.wait = .branch then .none else r.wait,
                               micro := { r.micro with branchDone := true, branchTaken := x.taken } },
    showState e]

/-- The branch unit waits for room or for a stream slot with what is left. -/
def holdBranch (e : Nat) (x : BranchTail) : Act := acts [updEng e fun r => { r with tail := some x }, showState e]

/-- The lowest free stream slot of a block (R181). -/
def State.freeStreamSlot (s : State) (k : Nat) : Option Nat :=
  (upTo 8).find? fun i => !(s.blk k).slots.any fun x => x.1 = i

/-- The steps of R141 at D: the staged entries are enqueued, one after another, under R71 and R181, and then the rest follows. -/
def branchSteps (e : Nat) (x : BranchTail) : List Entry → Act
  | [] => endBranch e { x with rest := [] }
  | y :: ys => look fun s =>
    let k := blockOf e
    if 64 ≤ s.depth e then acts [countF (cellPage e) CELL.STALL_COUNT_COUNT, holdBranch e { x with rest := y :: ys }]
    else if y.kind = .streamStart then
      match s.freeStreamSlot k with
      | none => acts [countF (blockPage k) BLOCK.STREAM_STATUS_STALLS, holdBranch e { x with rest := y :: ys }]
      | some i => acts [takeSlot k i e, enqueueNow e { y with slot := some i }, branchSteps e x ys]
    else acts [enqueueNow e y, branchSteps e x ys]

/-- A branch unit that waits goes on once there is room for its next entry. -/
def resumeBranch (e : Nat) : Act := look fun s =>
  match (s.eng e).tail with
  | none => skip
  | some x =>
    let room : Bool := match x.rest with
      | y :: _ => s.depth e < 64 && (y.kind ≠ .streamStart || (s.freeStreamSlot (blockOf e)).isSome)
      | [] => true
    if room then acts [updEng e fun r => { r with tail := none }, branchSteps e x x.rest] else skip

/-- A waiting enqueue completes when the timetable has space (R71). -/
def resumeStalled (e : Nat) : Act := look fun s =>
  acts [match (s.eng e).wait with
    | .space xs td => if s.depth e < 64 then enqueueAll e xs td else skip
    | _ => skip,
    resumeBranch e]

/-- The grid of a target class, as a power of two (R64). -/
def gridOfClass : TargetClass → Nat
  | .receive => 5 | .flux => 3 | .marker => 2 | _ => 0

/-- The ST at which an entry acts: the first sample of its target's grid at or after its stamp (R64). -/
def actsAt (x : Entry) : Stamp := Stamp.gridUp (gridOfClass x.cls) x.stamp

/-- Take a stream slot and enqueue a STREAM_START, or wait for a slot (R181). -/
def streamWithSlot (e : Nat) (xs : List Entry) (td : Option (Nat × Stamp)) : Act := look fun s =>
  let k := blockOf e
  match s.freeStreamSlot k with
  | some i => acts [takeSlot k i e,
      updEng e fun r => { r with wait := .none },
      enqueueAll e (xs.map fun x => { x with slot := some i }) td]
  | none => setWait e (.streamSlot xs td)

/-- Waiting STREAM enqueues of a block go on once a slot is free (R181). -/
def resumeSlots (k : Nat) : Act := forEach (enginesOfBlock k) fun e => look fun s =>
  acts [match (s.eng e).wait with
    | .streamSlot xs td => if (s.freeStreamSlot k).isSome then streamWithSlot e xs td else skip
    | _ => skip,
    resumeBranch e]

end Sys2Proof.Machine
end

