-- ==== Sys2Proof/Machine/Play.lean ====
section
/-! DEFINITION. What leaves the outputs as time passes: stream descriptors and jump requests (R175 to R180), the windows of streams
(R182), the samples of pulses and streams and the codes of the DACs (R55, R59, R162, R167 to R170, R176, R187, R188), the balls (R36), the
counts of limited samples, what is over at an ST, and the passing of ST itself (R42, R43). -/

namespace Sys2Proof.Machine

/-! Rates and leads (R170, R182, R187) -/

/-- RATE as the output plays it (R170, R187). -/
def playedRate (flux : Bool) (c : BitVec 512) : Nat := max (2 ^ 20) (min (if flux then 2 ^ 29 else 2 ^ 30) (Ctx.rate c))

/-- LEAD_MAX (R182). -/
def leadMax (c : BitVec 512) : Nat := min (2720 * 2 ^ 32 / playedRate false c) 1048575

/-! What plays, and when it is over -/

/-- A pulse or stream that ends at `stop` is over at ST `t`. -/
def overAt (stop t : Stamp) : Bool := Stamp.atOrAfter t stop

/-! Descriptors (R175 to R177) -/

/-- `n` HBM bytes as a number; past the usable HBM there is none (R297). -/
def State.hbmBytes (s : State) (a n : Nat) : Nat := if hbmRange a n then s.bytes a n else 0

/-- The 64 bytes of the descriptor at a 64-byte unit of the HBM. -/
def State.segDesc (s : State) (a : Nat) : Nat := s.hbmBytes (64 * a) 64

namespace Seg
def addr (d : Nat) : Nat := bitsOf d 31 0
def len (d : Nat) : Nat := bitsOf d 55 32
def rep (d : Nat) : Nat := bitsOf d 79 64
def next (d : Nat) : Nat := bitsOf d 127 96
def jump (d : Nat) : Nat := bitsOf d 159 128
def jsrc (d : Nat) : Nat := bitsOf d 161 160
def junit (d : Nat) : Nat := bitsOf d 173 164
/-- Every reserved bit is 0. -/
def clean (d : Nat) : Bool := bitsOf d 63 56 = 0 && bitsOf d 95 80 = 0 && bitsOf d 163 162 = 0 && d >>> 174 = 0
end Seg

/-- The address that ends a stream. -/
def segEnd : Nat := 0xFFFFFFFF

/-- N: the output samples of one repetition (R176). -/
def segSamples (d : Nat) (c : BitVec 512) : Nat := (Seg.len d * 2 ^ 32 + (playedRate false c - 1)) / playedRate false c

/-- The trigger source of a segment (R175); none where JSRC is 0 or names nothing. -/
def segSource (d : Nat) : Option TriggerId :=
  let u := Seg.junit d
  match Seg.jsrc d with
  | 1 => if h : u < 1024 then some (.tone ⟨u, h⟩) else none
  | 2 => if h : u < 32 then some (.raw ⟨u, h⟩) else none
  | 3 => if h : u < 16 then some (.ext ⟨u, h⟩) else none
  | _ => none

/-- A descriptor is valid (R177, R412). -/
def State.segValid (s : State) (e a : Nat) (c : BitVec 512) : Bool :=
  let d := s.segDesc a
  Seg.clean d && 16 ≤ Seg.len d && Seg.len d % 16 = 0 && 512 ≤ segSamples d c
    && (Seg.jsrc d = 0 || (segSource d).isSome)
    && s.hbmView (s.guestOf e) (64 * a) 64 && s.hbmView (s.guestOf e) (64 * Seg.addr d) (4 * Seg.len d)

/-! Segments and jump requests (R176 to R181) -/

/-- L: the last sample of the current repetition. -/
def State.segLast (s : State) (x : Streaming) : Stamp := x.segStart + BitVec.ofNat 64 (segSamples (s.segDesc x.seg) x.ctx) - 1

/-- Whether a request is too late for the boundary with last sample L; none where it arrives after L (R179). -/
def lateFor (lead : Nat) (a l : Stamp) : Option Bool :=
  if !Stamp.atOrAfter l a then none else some (!Stamp.atOrAfter (l - BitVec.ofNat 64 lead) a)

/-- The output page and slot of a tone. -/
def tonePage (key : Nat) : Page := outputPage (toneOutput key).1
def toneSlot (key : Nat) : Nat := (toneOutput key).2

/-- JUMP_LEAD of a tone's output. -/
def State.jumpLead (s : State) (key : Nat) : Nat := s.get (tonePage key) OUTP.JUMP_LEAD_LEAD

/-- Decide whether the held request is in time for the coming boundary, once; a late one is counted (R179). -/
def judgeJump (key : Nat) : Act := look fun s =>
  match (s.tone key).stream with
  | none => skip
  | some x => match x.jump with
    | none => skip
    | some j =>
      if j.verdict.isSome then skip else
      match lateFor (s.jumpLead key) j.arrival (s.segLast x) with
      | none => skip
      | some late =>
        acts [if late then countF (tonePage key) (OUTP.TONE_COUNT_LATE_JUMP (toneSlot key)) else skip,
          updTone key fun t => { t with stream := some { x with jump := some { j with verdict := some late } } }]

/-- The held request of a stream becomes `j`. -/
def setJump (key : Nat) (x : Streaming) (j : JumpReq) : Act :=
  updTone key fun t => { t with stream := some { x with jump := some j } }

/-- A jump request arrives at a streaming tone: it is held in place of an earlier one, whose slot goes free; of two with one arrival
time the engine's is held (R178, R180). -/
def holdJump (key : Nat) (j : JumpReq) : Act := look fun s =>
  match (s.tone key).stream with
  | none => skip
  | some x =>
    let k := blockOf x.engine
    acts [match x.jump with
      | none => setJump key x j
      | some old =>
        let keep := (old.fromEngine && !j.fromEngine && old.arrival = j.arrival) || !Stamp.atOrAfter j.arrival old.arrival
        acts [setF (tonePage key) (OUTP.TONE_STATUS_REPLACED (toneSlot key)) 1,
          if keep then freeSlot k j.slot else acts [freeSlot k old.slot, setJump key x j]],
      judgeJump key, showTone key]

/-- The trigger requests of a stream that have arrived by the present ST are held (R178, R180). -/
def arriveJumps (key : Nat) : Act := look fun s =>
  match (s.tone key).stream with
  | none => skip
  | some x =>
    forEach (x.coming.filter fun j => Stamp.atOrAfter s.st j.arrival) fun j =>
      acts [updTone key fun t => { t with stream := t.stream.map fun y => { y with coming := y.coming.filter (· ≠ j) } }, holdJump key j]

/-- The request a stream takes at its coming boundary: a held one that is in time (R179). -/
def Streaming.taken (x : Streaming) : Option JumpReq := x.jump.filter fun j => j.verdict = some false

/-- The descriptor that follows the current repetition; none where the segment is repeated (R175, R179). -/
def State.onward (s : State) (x : Streaming) : Option Nat :=
  match x.taken with
  | some j => some j.target
  | none => if x.rep < Seg.rep (s.segDesc x.seg) then none else some (Seg.next (s.segDesc x.seg))

/-- The opening data a window holds for what follows the current repetition: none where they have not come, else whether they are
uncorrectable (R182). A jump's own slot fetches its target (R181). -/
def State.opening (s : State) (x : Streaming) : Option Bool :=
  match x.taken with
  | some j => match j.slot with
    | some i => ((s.blk (blockOf x.engine)).primed.find? fun y => y.1 = i).map (·.2)
    | none => x.openJump
  | none => x.openNext

/-- Where a stream that enters descriptor `a` at `t` ends by its segments, at most `n` of them (R176, R177). -/
def State.chain (s : State) (e : Nat) (c : BitVec 512) : (n : Nat) → (a : Nat) → Stamp → Stamp
  | 0, _, t => t
  | n + 1, a, t =>
    let d := s.segDesc a
    if a = segEnd || !s.segValid e a c then t
    else State.chain s e c n (Seg.next d) (t + BitVec.ofNat 64 (segSamples d c * (Seg.rep d + 1)))

/-- Where a stream that enters descriptor `a` at `t` ends by its segments, as far as its DURATION reaches: a segment takes 512 samples
or more (R177). -/
def State.chainEnd (s : State) (e : Nat) (c : BitVec 512) (a : Nat) (t : Stamp) : Stamp :=
  s.chain e c (Ctx.duration c / 512 + 1) a t

/-- The first sample after a stream, as its segments stand and with the jump it holds: S + DURATION, or the end of its last segment where
that is earlier (R174). A late jump is taken one boundary later (R179). -/
def State.streamStop (s : State) (x : Streaming) : Stamp :=
  let d := s.segDesc x.seg
  let t := s.segLast x + 1
  Stamp.earlier x.stop <| match x.jump with
    | some j =>
      if j.verdict = some false then s.chainEnd x.engine x.ctx j.target t
      else
        let a := if x.rep < Seg.rep d then x.seg else Seg.next d
        if a = segEnd || !s.segValid x.engine a x.ctx then t
        else s.chainEnd x.engine x.ctx j.target (t + BitVec.ofNat 64 (segSamples (s.segDesc a) x.ctx))
    | none => s.chainEnd x.engine x.ctx (Seg.next d) (t + BitVec.ofNat 64 (segSamples d x.ctx * (Seg.rep d - x.rep)))

/-- The data of a stream's sample `n` are not in the window, or are uncorrectable (R184, R307). -/
def State.lacks (s : State) (x : Streaming) (n : Stamp) : Bool :=
  if overAt (s.streamStop x) n || !Stamp.atOrAfter n x.start then false
  else if Stamp.atOrAfter (s.segLast x) n || (s.onward x).isNone then
    Stamp.atOrAfter n x.upTo || x.rotten.any fun r => Stamp.atOrAfter n r.1 && !Stamp.atOrAfter n r.2
  else (s.opening x).getD true

/-- The data of sample `n` are in the window, but uncorrectable. -/
def State.spoilt (s : State) (x : Streaming) (n : Stamp) : Bool :=
  s.lacks x n && (if Stamp.atOrAfter (s.segLast x) n || (s.onward x).isNone then !Stamp.atOrAfter n x.upTo else (s.opening x).isSome)

/-! Envelopes and the resampler (R168, R169, R176) -/

/-- The I and Q parts of an envelope sample, in units of 2^−15. -/
def iqOf (v : Nat) : Int × Int := (toSigned 16 v, toSigned 16 (v / 2 ^ 16))

/-- Envelope sample `m` of a context in the bank of block `k`: 0 before the envelope, its last sample held after it (R168); a bank word
that reads as uncorrectable plays as zero (R307). -/
def State.bankSample (s : State) (k : Nat) (c : BitVec 512) (m : Int) : Int × Int :=
  if m < 0 || Ctx.envLen c = 0 then (0, 0) else
  let i := min m.toNat (Ctx.envLen c - 1)
  let a := bankAddr k ((Ctx.envAddr c + i / 2) % 262144)
  if s.poisoned a then (0, 0) else iqOf (s.bytes (a + if i % 2 = 1 then 4 else 0) 4)

/-- Envelope sample `m` of a segment: its first sample before it, its last after it (R176). -/
def State.segSample (s : State) (d : Nat) (m : Int) : Int × Int :=
  iqOf (s.hbmBytes (64 * Seg.addr d + 4 * min m.toNat (Seg.len d - 1)) 4)

/-- The envelope position of the `n`-th output sample, quantised downward, in units of 1/1,024 sample (R167, R169). -/
def envPosition (rate : Nat) (n : Int) : Int := n * rate / 2 ^ 22

/-- e(p): the 32 taps of the filter's phase on the envelope (R169). -/
def resample (e : Int → Int × Int) (p : Int) : Rat × Rat :=
  let tap (i : Nat) : Rat := Config.resamplerTap (p % 1024).toNat i
  let at' (i : Nat) : Int × Int := e (p / 1024 + Config.firstTap + i)
  (((upTo 32).map fun i => tap i * ((at' i).1 : Rat) / 2 ^ 15).sum, ((upTo 32).map fun i => tap i * ((at' i).2 : Rat) / 2 ^ 15).sum)

/-- u(p) of the `n`-th output sample: e(p) with CORR_Q and with CORR_D on its derivative per nanosecond (R167). -/
def corrected (c : BitVec 512) (e : Int → Int × Int) (rate : Nat) (n : Int) : Rat × Rat :=
  let at' (i : Int) := resample e (envPosition rate i)
  let d : Rat × Rat := (10 * ((at' (n + 1)).1 - (at' (n - 1)).1), 10 * ((at' (n + 1)).2 - (at' (n - 1)).2))
  let cq : Rat := (toSigned 16 (Ctx.corrQ c) : Rat) / 2 ^ 15
  let cd : Rat := (toSigned 16 (Ctx.corrD c) : Rat) / 2 ^ 14
  ((at' n).1 - cd * d.2, (at' n).2 + cq * (at' n).1 + cd * d.1)

/-- AMP (Q1.15). -/
def ampOf (c : BitVec 512) : Rat := (toSigned 16 (Ctx.amp c) : Rat) / 2 ^ 15

/-- c(n) = Re{AMP × u(p) × exp(j2πφ)} (R167). -/
def toneValue (c : BitVec 512) (u : Rat × Rat) (phase : Nat) : Rat :=
  ampOf c * (u.1 * (Config.oscillator phase).1 - u.2 * (Config.oscillator phase).2)

/-! Codes of the drive and probe outputs (R55, R59, R162) -/

/-- The 20 most significant bits of a frame's phase at ST, rounded, with DF and DP added (R55, R59). -/
def framePhase (f : Freq) (p : Word) (df : Freq) (dp : Word) (t : Stamp) : Nat :=
  let v := ((f + df).toNat * t.toNat + (p + dp).toNat * 2 ^ 16) % 2 ^ 48
  (v + 2 ^ 27) / 2 ^ 28 % 2 ^ 20

/-- The first sample of the word of 32 samples that holds an ST (R17). -/
def wordStart (t : Stamp) : Stamp := (t >>> 5) <<< 5

/-- The contribution of a tone at output sample `n` (R162, R167, R173, R176, R184, R192): 0 where the tone is muted by a cell fault,
where what it plays has not begun or is over, where it plays silent, and in a word formed without its stream data. -/
def State.contribution (s : State) (key : Nat) (n : Stamp) : Rat :=
  let t := s.tone key
  let (o, slot) := toneOutput key
  let phase (c : BitVec 512) : Nat := framePhase t.f t.p (Ctx.df c) (Ctx.dp c) n
  if s.get (outputPage o) (OUTP.TONE_STATUS_FAULT_MUTED slot) = 1 && Stamp.atOrAfter n t.muteFrom then 0 else
  match t.stream, t.pulse with
  | some x, _ =>
    if x.silent || x.zero.contains (wordStart n) || overAt (s.streamStop x) n || !Stamp.atOrAfter n x.start then 0
    else toneValue x.ctx (corrected x.ctx (s.segSample (s.segDesc x.seg)) (playedRate false x.ctx) (n - x.segStart).toNat) (phase x.ctx)
  | none, some x =>
    if x.silent || overAt x.stop n || !Stamp.atOrAfter n x.start then 0
    else toneValue x.ctx (corrected x.ctx (s.bankSample (blockOf x.engine) x.ctx) (playedRate false x.ctx) (n - x.start).toNat) (phase x.ctx)
  | none, none => 0

/-- A rational rounded to the nearest integer, ties away from zero (R162). -/
def roundAway (q : Rat) : Int := if q < 0 then -((-q + 1 / 2).floor) else (q + 1 / 2).floor

/-- The slots of an output with tones. -/
def slotsOf : OutputId → Nat
  | .drive _ => 8 | .probe _ => 32 | .flux _ => 0

/-- The unlimited code of a drive or probe output at sample `n`. -/
def State.rawCode (s : State) (o : OutputId) (n : Stamp) : Int :=
  let sum := ((upTo (slotsOf o)).map fun i => s.contribution (outputTone o i) n).sum
  roundAway (8192 * sum * (s.get (outputPage o) OUTP.OUT_GAIN_GAIN : Rat) / 2 ^ 15)

/-- The DAC code of a drive or probe output at sample `n`: limited to 14 bits. -/
def State.dacCode (s : State) (o : OutputId) (n : Stamp) : Int := satSigned 14 (s.rawCode o n)

/-! Flux outputs (R187, R188) -/

/-- One correction stage on a flux sample: its new lp and its output (R188). -/
def pdStage (on : Bool) (a : Int) (tau : Nat) (lp x : Rat) : Rat × Rat :=
  if on && tau ≠ 0 then
    let l := lp + (x - lp) / tau
    (l, x + (a : Rat) / 2 ^ 15 * (x - l))
  else (lp, x)

/-- A stage of an INERT output: its register stays 0 and does not track (R188). -/
def pdHeld (on : Bool) (a : Int) (tau : Nat) (x : Rat) : Rat × Rat :=
  if on && tau ≠ 0 then (0, x + (a : Rat) / 2 ^ 15 * x) else (0, x)

/-- The cascade over the four stages: the new stage registers and the output. -/
def State.pdCascade (s : State) (f : Nat) (inert : Bool) : Nat → List Rat → Rat → List Rat × Rat
  | _, [], x => ([], x)
  | k, lp :: rest, x =>
    let p := fluxPage f
    let on := Nat.testBit (s.get p FLUX.PD_CTRL_EN) k
    let a := toSigned 16 (s.get p (FLUX.PD_A k))
    let tau := s.get p (FLUX.PD_TAU k)
    let (l, y) := if inert then pdHeld on a tau x else pdStage on a tau lp x
    let (ls, z) := State.pdCascade s f inert (k + 1) rest y
    (l :: ls, z)

/-- pulse(n) = round(32,768 × AMP × Re e(p)) (R187). -/
def State.fluxPulseAt (s : State) (p : Pulse) (n : Stamp) : Int :=
  if p.silent || overAt p.stop n || !Stamp.atOrAfter n p.start then 0
  else roundAway (32768 * ampOf p.ctx
    * (resample (s.bankSample (blockOf p.engine) p.ctx) (envPosition (playedRate true p.ctx) (n - p.start).toNat)).1)

/-- BIAS plus the pulse at a flux sample, unlimited (R187). -/
def State.fluxInput (s : State) (f : Nat) (n : Stamp) : Rat :=
  let bias := toSigned 16 (s.get (fluxPage f) FLUX.BIAS_CODE)
  let pulse : Int := match (s.output (160 + f)).pulse with
    | some p => s.fluxPulseAt p n
    | none => 0
  ((bias + pulse : Int) : Rat)

/-- The stage registers after flux sample `n`, and PD of the sample, unlimited. -/
def State.fluxStep (s : State) (f : Nat) (n : Stamp) : List Rat × Rat :=
  let inert : Bool := s.cond (.flux (Fin.ofNat 128 f)) = Cond.inert.code
  s.pdCascade f inert 0 (s.output (160 + f)).lp (s.fluxInput f n)

/-- v limited to 16 bits (R187). -/
def sat16 (y : Rat) : Rat := max (-32768) (min 32767 y)

/-! The balls (R36, R187) -/

/-- What output sample `n` gives the ball: nothing while INERT or MUTED, the frozen sample in HOLD, else the code of the DAC. -/
def State.ball (s : State) (o : OutputId) (n : Stamp) : Rat :=
  if s.cond o ≤ Cond.muted.code then 0
  else if s.cond o = Cond.hold.code then (s.output (outputNo o)).held
  else match o with
    | .flux f => sat16 (s.fluxStep f n).2
    | _ => s.dacCode o n

/-- The sample an output holds through a gap: the last one before the present ST (R36, R193). -/
def State.lastSample (s : State) (o : OutputId) : Rat :=
  match o with
  | .flux f =>
    if (s.output (160 + f)).pulse.isSome || s.get (fluxPage f) FLUX.PD_CTRL_EN ≠ 0 then (s.output (160 + f)).held
    else sat16 (s.fluxInput f (((s.st - 1) >>> 3) <<< 3))
  | _ => s.dacCode o (s.st - 1)

/-! Samples leave the outputs -/

/-- A word of 32 samples holds a limited sample among the `n` samples from `a` (R162). -/
def State.wordClips (s : State) (o : OutputId) (w a : Stamp) (n : Nat) : Bool :=
  (upTo 32).any fun i =>
    let t := w + BitVec.ofNat 64 i
    (t - a).toNat < n && s.dacCode o t ≠ s.rawCode o t

/-- The words that hold the `n` samples from `a`. -/
def wordsOf (a : Stamp) (n : Nat) : List Stamp :=
  (upTo (((a - wordStart a).toNat + n + 31) / 32)).map fun i => wordStart a + BitVec.ofNat 64 (32 * i)

/-- The words of a drive or probe output with a limited sample among the `n` samples from `a`: each counts once (R162). -/
def countClips (o : OutputId) (a : Stamp) (n : Nat) : Act := forEach (wordsOf a n) fun w => look fun s =>
  if (s.output (outputNo o)).clipped ≠ some w && s.wordClips o w a n then
    acts [countF (outputPage o) OUTP.CLIP_COUNT_COUNT, updOutput (outputNo o) fun r => { r with clipped := some w }]
  else skip

/-- The multiples of 2^`k` from `a` to below `a + n`. -/
def gridPoints (k : Nat) (a : Stamp) (n : Nat) : List Stamp :=
  ((upTo (n / 2 ^ k + 1)).map fun i => Stamp.gridUp k a + BitVec.ofNat 64 (i * 2 ^ k)).filter fun t => (t - a).toNat < n

/-- One flux sample: the stage registers move on, and a limited sample counts (R187, R188). The record keeps its value, which a HOLD
would freeze. -/
def fluxSample (f : Nat) (n : Stamp) : Act := look fun s =>
  let (lp, y) := s.fluxStep f n
  acts [updOutput (160 + f) fun x => { x with lp := lp, held := sat16 y },
    if y < -32768 || 32767 < y then countF (fluxPage f) FLUX.CLIP_COUNT_COUNT else skip]

/-- The flux outputs whose correction runs or that play. -/
def State.busyFlux (s : State) : List Nat :=
  (upTo 128).filter fun f => (s.output (160 + f)).pulse.isSome || s.get (fluxPage f) FLUX.PD_CTRL_EN ≠ 0

/-- The drive and probe outputs with a tone that plays. -/
def State.busyOutputs (s : State) : List OutputId :=
  (((s.tones.filter fun kv => kv.1 < 2048 && (kv.2.pulse.isSome || kv.2.stream.isSome)).map fun kv =>
    (toneOutput kv.1).1)).eraseDups

/-- The samples from `a` to below `a + n` leave the outputs. -/
def playSamples (a : Stamp) (n : Nat) : Act := look fun s =>
  acts [forEach s.busyOutputs fun o => countClips o a n,
    forEach s.busyFlux fun f => forEach (gridPoints 3 a n) fun t => fluxSample f t]

/-! What is over, and the passing of ST -/

/-- A tone plays at ST `t`. -/
def Tone.playsAt (x : Tone) (t : Stamp) : Bool :=
  (match x.pulse with | some p => !overAt p.stop t | none => false)
    || (match x.stream with | some p => !overAt p.stop t | none => false)

/-- A stream runs on a tone at ST `t`. -/
def Tone.streamsAt (x : Tone) (t : Stamp) : Bool :=
  match x.stream with | some p => !overAt p.stop t | none => false

/-- Show FLUX_STATUS.PLAYING. -/
def showFlux (f : Nat) : Act := look fun s => setB (fluxPage f) FLUX.FLUX_STATUS_PLAYING (s.output (160 + f)).pulse.isSome

/-- The tones on which something plays, and the flux outputs with a pulse. -/
def State.playingTones (s : State) : List Nat := (s.tones.filter fun kv => kv.2.pulse.isSome || kv.2.stream.isSome).map (·.1)
def State.pulsedFlux (s : State) : List Nat := (s.outputs.filter fun kv => kv.2.pulse.isSome).map (·.1 - 160)

/-- A tone's jump requests arrive, and its pulse or stream ends where it is over at the present ST; the slot of a stream goes free. -/
def sweepTone (k : Nat) : Act :=
  acts [arriveJumps k,
    look fun s => match (s.tone k).pulse with
      | some p => if overAt p.stop s.st then updTone k fun t => { t with pulse := none } else skip
      | none => skip,
    look fun s => match (s.tone k).stream with
      | some x => if overAt x.stop s.st then endStream k else skip
      | none => skip,
    showTone k]

/-- A flux output's pulse ends where it is over at the present ST. -/
def sweepFlux (f : Nat) : Act := look fun s =>
  match (s.output (160 + f)).pulse with
  | some p => if overAt p.stop s.st then acts [updOutput (160 + f) fun r => { r with pulse := none }, showFlux f] else skip
  | none => skip

/-- What is over at the present ST ends. -/
def sweepOver : Act := acts [look fun s => forEach s.playingTones sweepTone, look fun s => forEach s.pulsedFlux sweepFlux]

/-- Samples are formed: not while the sample domain is frozen, nor for the first 256 ST after a gap (R70, R193, R438). -/
def State.forms (s : State) : Bool := s.time.counting && !s.time.frozen && s.time.liveAt.isNone

/-- ST passes to a later `t`: the samples before it leave the outputs, and what is over at it ends. -/
def passBy (t : Stamp) : Act := look fun s =>
  acts [if s.forms then playSamples s.st (t - s.st).toNat else skip, advanceTo t, if s.time.frozen then skip else sweepOver]

/-- The outputs and markers leave HOLD for LIVE (R193, R438). -/
def leaveHold : Act := acts [updTime fun x => { x with liveAt := none },
  forEach allOutputs fun o => look fun s => if s.cond o = Cond.hold.code then setCond o .live else skip,
  forEach (upTo 16) fun m => look fun s => if s.markerCond m = Cond.hold.code then setMarkCond m .live else skip]

/-- ST passes to `t`; it never runs back. On the way the outputs leave HOLD, 256 ST after the gates have resumed (R438). -/
def passTo (t : Stamp) : Act := look fun s =>
  if Stamp.future t s.st && t ≠ s.st then
    match s.time.liveAt with
    | some a => if Stamp.atOrAfter t a then acts [passBy a, leaveHold, passBy t] else passBy t
    | none => passBy t
  else skip

end Sys2Proof.Machine
end

