-- ==== Sys2Proof/Machine/Release.lean ====
section
/-! DEFINITION. The release gate (R67, R68, R72) with the envelope budget (R173), the frame and marker events at their stamps (R57,
R58, R60, R62), the timetable registers a host reads and clears (R82), and the evaluation interval of voltage scaling (R75, R77). -/

namespace Sys2Proof.Machine

/-! The envelope budget (R173) -/

/-- Whether an entry starts something that counts in the envelope budget. -/
def countsInBudget (x : Entry) : Bool :=
  match x.kind with
  | .toneStart | .streamStart | .fluxPulse => true
  | _ => false

/-- A pulse or stream with start and stop covers an ST. -/
def covers (start stop at' : Stamp) : Bool := Stamp.future at' start && (stop - at').toNat < 2 ^ 63 && stop ≠ at'

/-- The target of an entry: a tone number, a flux output at 4,096 + f, a marker at 8,192 + m. -/
def entryTarget (e : Nat) (x : Entry) : Nat :=
  match x.cls with
  | .flux => 4096 + fluxOf e x.index
  | .marker => 8192 + x.index % 16
  | _ => entryTone e x

/-- What occupies a tone or flux output: from, to, its RATE in the budget (0 when it plays silent), and whether it streams. -/
abbrev Occupant := Stamp × Stamp × Nat × Bool

/-- The stamp after the last sample of an entry's play. -/
def Entry.stop (x : Entry) : Stamp := x.stamp + BitVec.ofNat 64 (Ctx.duration x.ctx)

/-- What a pulse, a stream and a released entry occupy. -/
def Pulse.occupant (flux : Bool) (p : Pulse) : Occupant := (p.start, p.stop, if p.silent then 0 else playedRate flux p.ctx, false)
def State.streamOccupant (s : State) (p : Streaming) : Occupant :=
  (p.start, s.streamStop p, if p.silent then 0 else playedRate false p.ctx, true)
def State.entryOccupant (s : State) (e : Nat) (x : Entry) : Occupant :=
  (x.stamp, if x.kind = .streamStart then Stamp.earlier x.stop (s.chainEnd e x.ctx (Ctx.envAddr x.ctx) x.stamp) else x.stop,
    if x.silent then 0 else playedRate (x.kind = .fluxPulse) x.ctx, x.kind = .streamStart)

/-- What occupies a tone of engine `e` at a stamp: what plays now, followed by what is released, each cutting the one before
(R171); a STREAM_START on a tone that streams is a jump request and occupies nothing new (R178). -/
def State.toneOccupant (s : State) (e key : Nat) (at' : Stamp) : Option Occupant :=
  let now := match (s.tone key).stream with
    | some p => some (s.streamOccupant p)
    | none => (s.tone key).pulse.map (Pulse.occupant false)
  ((s.eng e).due.filter fun y => countsInBudget y && entryTarget e y = key && Stamp.atOrAfter at' y.stamp).foldl (fun o y =>
    match o with
    | some (a, b, r, true) => if y.kind = .streamStart && covers a b y.stamp then some (a, b, r, true) else some (s.entryOccupant e y)
    | _ => some (s.entryOccupant e y)) now

/-- What occupies a flux output of block `k` at a stamp: the pulse of the latest start, of two the higher engine's (R190). -/
def State.fluxOccupant (s : State) (k f : Nat) (at' : Stamp) : Option Occupant :=
  let now := (s.output (160 + f)).pulse.map (Pulse.occupant true)
  (enginesOfBlock k).foldl (fun o e =>
    ((s.eng e).due.filter fun y => entryTarget e y = 4096 + f && Stamp.atOrAfter at' y.stamp).foldl (fun o y =>
      match o with
      | some x => if Stamp.atOrAfter (actsAt y) x.1 then some (s.entryOccupant e y) else some x
      | none => some (s.entryOccupant e y)) o) now

/-- The tones an engine plays or has released entries for. -/
def State.tonesInUse (s : State) (e : Nat) : List Nat :=
  (((s.tones.filter fun kv => (match kv.2.pulse with | some p => p.engine = e | none => false)
        || (match kv.2.stream with | some p => p.engine = e | none => false)).map (·.1))
    ++ ((s.eng e).due.filter fun y => countsInBudget y && y.kind ≠ .fluxPulse).map (entryTarget e)).eraseDups

/-- The RATE an occupant adds at a stamp. -/
def rateAt (at' : Stamp) : Option Occupant → Nat
  | some (a, b, r, _) => if covers a b at' then r else 0
  | none => 0

/-- The sum of RATE at a stamp over what the block's engines have playing or released, but for what occupies the target
`tgt`, which the new entry cuts (R173). -/
def State.rateSum (s : State) (k tgt : Nat) (at' : Stamp) : Nat :=
  ((enginesOfBlock k).map fun e =>
    (((s.tonesInUse e).filter (· ≠ tgt)).map fun key => rateAt at' (s.toneOccupant e key at')).sum).sum
  + (([2 * k, 2 * k + 1].filter fun f => 4096 + f ≠ tgt).map fun f => rateAt at' (s.fluxOccupant k f at')).sum

/-- A STREAM_START on a tone that streams at its stamp is a jump request and plays nothing new (R178). -/
def State.isJump (s : State) (e : Nat) (x : Entry) : Bool :=
  x.kind = .streamStart && (match s.toneOccupant e (entryTone e x) x.stamp with
    | some (a, b, _, true) => covers a b x.stamp
    | _ => false)

/-- The check of R173 at release: an entry beyond the budget plays silent, is counted and voids the shot. A DURATION of 0 plays
nothing. -/
def budgetCheck (e : Nat) (x : Entry) : State → Bool := fun s =>
  countsInBudget x && Ctx.duration x.ctx ≠ 0 && !s.isJump e x
    && 2 ^ 33 < s.rateSum (blockOf e) (entryTarget e x) x.stamp + playedRate (x.kind = .fluxPulse) x.ctx

/-! Release (R67, R68, R72) -/

/-- The low-water stopover when DEPTH falls from above LOWWATER to it (R72). -/
def lowWater (e before : Nat) : Act := look fun s =>
  let p := cellPage e
  let lw := s.get p CELL.TT_CTRL_LOWWATER
  raiseStopover e 3 (s.get p CELL.TT_CTRL_LW_EN = 1 && !s.engStopped e && lw < before && s.depth e ≤ lw)

/-- A bank word of a pulse's envelope reads as uncorrectable (R307). -/
def State.envelopeBad (s : State) (e : Nat) (x : Entry) : Bool :=
  (x.kind = .toneStart || x.kind = .fluxPulse) && Ctx.envLen x.ctx ≠ 0 && s.tbl.any fun kv =>
    kv.1 / 2 ^ 44 = Table.poison.number && kv.1 % 2 ^ 44 < 2 ^ 40 && (kv.2 = 1 || kv.2 = 2)
      && (let w := kv.1 % 2 ^ 44 * 8
          bankAddr (blockOf e) 0 ≤ w && w < bankAddr (blockOf e) 262144
            && ((w - bankAddr (blockOf e) 0) / 8 + 262144 - Ctx.envAddr x.ctx % 262144) % 262144 ≤ (Ctx.envLen x.ctx - 1) / 2)

/-- The gate commits the head entry when it forms the word that holds its stamp, 256 ST before that word leaves the balls (R67), at most
8 of one engine into one word (R68); an uncorrectable timetable entry is a cell fault, uncorrectable envelope data voids the shot (R21,
R307). -/
def actRelease (e : EngineId) (err : GateError) : Act := look fun s =>
  match (s.eng e).timetable with
  | [] => skip
  | x :: rest =>
    if s.time.frozen then skip else
    let w := (x.stamp >>> 5) <<< 5
    let before := s.depth e
    let n := if (s.eng e).word = w then (s.eng e).inWord else 0
    acts [passTo (w - gateLead),
      updEng e fun r => { r with timetable := rest },
      if err = .entry then acts [freeSlot (blockOf e) x.slot, cellFault e .ecc]
      else if n ≥ 8 then neverPlayed e x [CELL.TT_STATUS_BURST]
      else look fun s =>
        let past := budgetCheck e x s
        acts [updEng e fun r => { r with due := r.due ++ [{ x with silent := past }], word := w, inWord := n + 1,
                                         released := some x.stamp },
          if past then acts [countF (blockPage (blockOf e)) BLOCK.ENV_OVER_COUNT, voidShot e [.underrun]] else skip,
          if err = .envelope || s.envelopeBad e x then voidShot e [.ecc] else skip],
      lowWater e before, resumeStalled e, resumeSlots (blockOf e)]

def execRelease (e : EngineId) (err : GateError) (s : State) : Res := done (actRelease e err) s

/-! Events at their stamps -/

/-- The rank of R66 among entries of one stamp and target. -/
def actRank : EntryKind → Nat
  | .freqSet => 0 | .phaseSet => 1 | .phaseAdd => 2 | _ => 3

/-- Whether `y` acts before `x`: at an earlier sample, or, on one target at one sample, by stamp and then by R66. -/
def actsBefore (e : Nat) (y x : Entry) : Bool :=
  !Stamp.future (actsAt y) (actsAt x)
    || (actsAt y = actsAt x && entryTarget e y = entryTarget e x
        && (!Stamp.future y.stamp x.stamp || (y.stamp = x.stamp && actRank y.kind < actRank x.kind)))

/-- A pulse of another engine of the block comes before one of engine `e` on the same flux output: its g is earlier (R190). -/
def State.earlierFlux (s : State) (e : Nat) (x : Entry) : Bool :=
  x.kind = .fluxPulse && (enginesOfBlock (blockOf e)).any fun i => i ≠ e
    && ((s.eng i).due ++ (s.eng i).timetable).any fun y =>
      y.kind = .fluxPulse && entryTarget i y = entryTarget e x && !Stamp.future (actsAt y) (actsAt x)

/-- The committed entry of a kind that acts next: the first of that kind with none before it. -/
def State.nextDue (s : State) (e : Nat) (k : EntryKind) : Option Entry :=
  (s.eng e).due.find? fun x => x.kind = k && !((s.eng e).due.any fun y => actsBefore e y x) && !s.earlierFlux e x

/-- Remove the first equal element. -/
def dropFirst (x : Entry) : List Entry → List Entry
  | [] => []
  | y :: ys => if y = x then ys else y :: dropFirst x ys

/-- A committed entry of a kind acts at the first sample of its target's grid at or after its stamp (R64). -/
def atStamp (e : Nat) (k : EntryKind) (f : Entry → Act) : Act := look fun s =>
  match s.nextDue e k with
  | none => skip
  | some x => acts [passTo (actsAt x), updEng e fun r => { r with due := dropFirst x r.due }, f x]

/-- The frames of an engine's tones as they stand. -/
def State.framesOf (s : State) (e : Nat) : List (Nat × PhaseFrame) :=
  (s.ownedTones e).map fun k => (k, ⟨(s.tone k).f, (s.tone k).p⟩)

/-- Latch an engine's frames into its checkpoint, unless they are latched already (R60). -/
def latchFrames (e : Nat) : Act := look fun s =>
  updEng e fun x => { x with ckpt := x.ckpt.map fun c => if c.latched then c else { c with frames := s.framesOf e, latched := true } }

/-- The frame of a tone becomes `g` at `at'`. A receive tone keeps the earlier one as long as a record can reach back to its samples
(R54, R209). -/
def setFrame (key : Nat) (at' : Stamp) (g : PhaseFrame) : Act := updTone key fun t =>
  { t with f := g.f, p := g.p,
           frames := if key < 2048 then [] else (at', ⟨t.f, t.p⟩) :: t.frames.filter fun x => (at' - x.1).toNat < 2 ^ 31 }

/-- A frame change acts. One stamped at or after the anchor of the engine's shot comes after the frames are latched (R60). -/
def frameChange (e : Nat) (x : Entry) (f : PhaseFrame → PhaseFrame) : Act := look fun s =>
  let r := s.group (s.groupOf e)
  let t := s.tone (entryTone e x)
  acts [if s.inShot e && r.open' && !r.voidedNow && Stamp.atOrAfter x.stamp r.begun then latchFrames e else skip,
    setFrame (entryTone e x) (actsAt x) (f ⟨t.f, t.p⟩)]

/-- FREQ_SET: the new F (R57). -/
def actFreqSet (e : EngineId) : Act := atStamp e .freqSet fun x => frameChange e x fun g => { g with f := x.operand }
def execFreqSet (e : EngineId) (s : State) : Res := done (actFreqSet e) s

/-- PHASE_ADD: the operand added to P (R58). -/
def actPhaseAdd (e : EngineId) : Act :=
  atStamp e .phaseAdd fun x => frameChange e x fun g => { g with p := g.p + x.operand.truncate 32 }
def execPhaseAdd (e : EngineId) (s : State) : Res := done (actPhaseAdd e) s

/-- PHASE_SET: the new P (R58). -/
def actPhaseSet (e : EngineId) : Act :=
  atStamp e .phaseSet fun x => frameChange e x fun g => { g with p := x.operand.truncate 32 }
def execPhaseSet (e : EngineId) (s : State) : Res := done (actPhaseSet e) s

/-- MARK: the marker takes the level; while it is not LIVE the ball stays low (R62, R545). -/
def actMark (e : EngineId) : Act := atStamp e .mark fun x => look fun s =>
  let m := x.index % 16
  if s.markerCond m = Cond.live.code then setLevel m (x.operand.toNat % 2 = 1) else skip
def execMark (e : EngineId) (s : State) : Res := done (actMark e) s

/-! Registers a host reads and clears (R82) -/

/-- A read of TT_PEEK_0 returns the head entry's low word and latches the other three; all read 0x0 when DEPTH = 0. -/
def actTtPeekRead (fn : FuncId) (e : EngineId) : Act := look fun s =>
  if !s.reachesCell fn e then setRdata 0 else
  let v := match (s.eng e).timetable with | x :: _ => x.layout | [] => 0
  acts [forEach [0, 1, 2, 3] fun i => setF (.cell e) (CELL.TT_PEEK_WORD i) (v / 2 ^ (32 * i)), setRdata (v % 2 ^ 32)]
def execTtPeekRead (fn : FuncId) (e : EngineId) (s : State) : Res := done (actTtPeekRead fn e) s

/-- TT_CLEAR.SLACK: SLACK_MIN := 0x7FFF_FFFF. -/
def actTtClearSlack (fn : FuncId) (e : EngineId) : Act := forCell fn e (setF (.cell e) CELL.SLACK_MIN 0x7FFFFFFF)
def execTtClearSlack (fn : FuncId) (e : EngineId) (s : State) : Res := done (actTtClearSlack fn e) s

/-- TT_CLEAR.COUNTS: LATE_COUNT and STALL_COUNT := 0x0. -/
def actTtClearCounts (fn : FuncId) (e : EngineId) : Act :=
  forCell fn e (acts [setF (.cell e) CELL.LATE_COUNT_COUNT 0, setF (.cell e) CELL.STALL_COUNT_COUNT 0])
def execTtClearCounts (fn : FuncId) (e : EngineId) (s : State) : Res := done (actTtClearCounts fn e) s

/-- TT_CLEAR.FLAGS: LATE, ORDER and BURST := 0x0. -/
def actTtClearFlags (fn : FuncId) (e : EngineId) : Act :=
  forCell fn e (acts [setF (.cell e) CELL.TT_STATUS_LATE 0, setF (.cell e) CELL.TT_STATUS_ORDER 0,
    setF (.cell e) CELL.TT_STATUS_BURST 0])
def execTtClearFlags (fn : FuncId) (e : EngineId) (s : State) : Res := done (actTtClearFlags fn e) s

/-! The evaluation interval (R75, R77, R516) -/

/-- An evaluation interval: one fabric epoch, or 2^20 ST in SHED, as a power of two (R77). -/
def State.avsBits (s : State) : Nat := if s.shed then 20 else 24

/-- The end of the evaluation interval under way: the next multiple of its length after its start. -/
def State.avsEnd (s : State) : Stamp := Stamp.gridUp s.avsBits (s.time.avsFrom + 1)

/-- The end of an evaluation interval: the interval's minimum is shown, VCP is lowered one step when every condition of
R77 holds, raised to a new floor, and SLACK_LOW clears after a full interval with no raise. -/
def actAvsIntervalEnd : Act := look fun s =>
  let step := s.get .timebase TIMEBASE.VCP_STATE_STEP
  let floor := s.get .timebase TIMEBASE.VCP_STATE_VCP_FLOOR
  let m : Int := match s.time.minSlack with | some (v, _) => v | none => 0x7FFFFFFF
  let hyst := if s.shed then 0 else s.get .timebase TIMEBASE.SLACK_GUARD_HYST
  let lower := s.get .timebase TIMEBASE.TB_CTRL_AVS_EN = 1 && ((s.get .timebase TIMEBASE.SLACK_GUARD_GUARD + hyst : Nat) : Int) ≤ m
    && !s.time.raised && !s.time.lateSeen && s.time.noLower = 0 && step < floor
  acts [passTo s.avsEnd, setF .timebase TIMEBASE.SLACK_MIN_INTERVAL_SLACK (ofSigned 32 m),
    match s.time.minSlack with | some (_, e) => setF .timebase TIMEBASE.SLACK_MIN_ENGINE_ENGINE e | none => skip,
    if lower then setF .timebase TIMEBASE.VCP_STATE_STEP (step + 1)
    else if floor < step then setF .timebase TIMEBASE.VCP_STATE_STEP floor else skip,
    if s.time.raised then skip
    else acts [setF .timebase TIMEBASE.TB_STATUS_SLACK_LOW 0, setF .thermal THERMAL.TSTATE_SLACK_THROTTLE 0],
    look fun s => updTime fun x => { x with minSlack := none, raised := false, lateSeen := false, noLower := x.noLower - 1, avsFrom := s.st }]
def execAvsIntervalEnd (s : State) : Res := done actAvsIntervalEnd s

end Sys2Proof.Machine
end

