-- ==== Sys2Proof/Machine/Banks.lean ====
section
/-! DEFINITION. Reads and writes of scratchpads and block banks with their ECC consequences (R85, R86, R305 to R307, R312,
R342). -/

namespace Sys2Proof.Machine

/-! Scratchpads -/

/-! What engines see of host writes (R127, R298, R304) -/

/-- The byte engines of block `k` see at an address of its bank or scratchpads: what stood there before the oldest host write that no
completed fence covers. -/
def State.seenByte (s : State) (k a : Nat) : Byte :=
  match (s.blk k).unseen.find? fun u => u.addr = a with
  | some u => u.old
  | none => s.byte a

/-- `n` bytes from an address as engines of block `k` see them, little-endian. -/
def State.seen (s : State) (k a : Nat) : Nat → Nat
  | 0 => 0
  | n + 1 => (s.seenByte k a).toNat + 256 * State.seen s k (a + 1) n

/-- Engines of block `k` see bytes as they now stand: another writer than host software has stored them, or they are wiped. -/
def showBytes (k a n : Nat) : Act := look fun s =>
  if (s.blk k).unseen.any fun u => a ≤ u.addr && u.addr < a + n
  then updBlk k fun b => { b with unseen := b.unseen.filter fun u => u.addr < a || a + n ≤ u.addr } else skip

/-- Engines of block `k` go on seeing `n` bytes as they did when host software of function `fn` writes there. -/
def hideBytes (k fn a n : Nat) : Act := look fun s =>
  updBlk k fun b => { b with unseen := b.unseen ++ (upTo n).map fun i => ⟨fn, none, a + i, s.byte (a + i)⟩ }

/-- The host writes left unseen once those that `p` picks are visible: an earlier write to the same byte is overwritten. -/
def unseenAfter (p : Unseen → Bool) : List Unseen → List Unseen
  | [] => []
  | u :: us => if p u || us.any fun v => p v && v.addr = u.addr then unseenAfter p us else u :: unseenAfter p us

/-! Scratchpad writes -/

/-- Write bytes into an engine's scratchpad; the block mirrors them into the spare that shadows the cell (R342). -/
def spadWrite (e b v n : Nat) : Act := look fun s =>
  let k := blockOf e
  let m := s.blk k
  acts [storeBytes (spadAddr e b) v n,
    if m.copied && m.shadow = cellOf e && !m.spareUsed then storeBytes (spareAddr k b) v n else skip]

/-- An engine's write into its scratchpad. -/
def spadStore (e b v n : Nat) : Act := acts [spadWrite e b v n, showBytes (blockOf e) (spadAddr e b) n]

/-- Local word `i` of an engine (R85); the checkpoint area holds what SHOT wrote there, in a layout the spec does not state. -/
def State.localWord (s : State) (e i : Nat) : Word :=
  let i := i % 8192
  match (s.eng e).ckptNo with
  | some n => if i < 8128 then BitVec.ofNat 32 (s.seen (blockOf e) (localAddr e i) 4) else Config.checkpointWord n (i - 8128)
  | none => BitVec.ofNat 32 (s.seen (blockOf e) (localAddr e i) 4)

/-- Store a local word; a word of the checkpoint area is not written and sets CKPT_WR (R86). -/
def storeLocal (e i : Nat) (v : Word) : Act :=
  if i % 8192 ≥ 8128 then raiseFault (cellPage e) 5 else spadStore e (0x8000 + 4 * (i % 8192)) v.toNat 4

/-- Whether a local read finds an uncorrectable word. -/
def State.localBad (s : State) (e i : Nat) (ue : Bool) : Bool := ue || s.poisoned (localAddr e i)

/-- A scratchpad read of a word that scrub has corrected and not written back is corrected again, and counted (R305, R312). -/
def noteSpadRead (e a : Nat) : Act := look fun s =>
  if s.word .poison (a / 8) = 3 then countF (bankPage (blockOf e)) BANK.SPAD_ECC_CORRECTED else skip

/-! Banks -/

/-- The reader codes of BANK.UE_ADDR (R312). -/
inductive BankReader where
  | engine | dsp | synthesis | porter | window | scrub
deriving DecidableEq, Repr

def BankReader.code : BankReader → Nat
  | .engine => 0 | .dsp => 1 | .synthesis => 2 | .porter => 3 | .window => 4 | .scrub => 5

/-- Whether a bank read finds an uncorrectable word. -/
def State.bankBad (s : State) (k w : Nat) (ue : Bool) : Bool := ue || s.poisoned (bankAddr k w)

/-- The bank's counters and UE at a read of a word (R305, R312). -/
def noteBankRead (k w : Nat) (reader : BankReader) (ue : Bool) : Act := look fun s =>
  if s.bankBad k w ue then
    acts [countF (bankPage k) BANK.ECC_UNCORRECTED, setF (bankPage k) BANK.UE_ADDR_WORD w,
      setF (bankPage k) BANK.UE_ADDR_READER reader.code, raiseFault (bankPage k) 0]
  else if s.word .poison (bankAddr k w / 8) = 3 then countF (bankPage k) BANK.ECC_CORRECTED
  else skip

/-- POISON.COUNT follows the marks of a bank: a write to a poisoned word takes one off. -/
def countPoison (k : Nat) (g : Nat → Nat) : Act := modF (bankPage k) BANK.POISON_COUNT g

/-- Write bytes inside one bank word: the poison clears, and an armed injection stores its error (R306, R312). -/
def bankWrite (k w off v n : Nat) : Act := look fun s =>
  let p := bankPage k
  let hit := s.get p BANK.INJECT_ARM = 1 && s.get p BANK.INJECT_WORD = w
  let kind := s.get p BANK.INJECT_KIND
  acts [if s.word .poison (bankAddr k w / 8) = 1 then countPoison k (· - 1) else skip,
    storeBytes (bankAddr k w + off) v n,
    if hit then acts [setF p BANK.INJECT_ARM 0,
        setWord .poison (bankAddr k w / 8) (if kind = 1 then 3 else if kind = 2 then 2 else 0)]
    else skip]

/-- A write of a bank word by an engine, the block's processor or a loader. -/
def bankStore (k w off v n : Nat) : Act := acts [bankWrite k w off v n, showBytes k (bankAddr k w + off) n]

/-- Half `hi` of a bank word as an engine reads it: an uncorrectable word reads 0x0 (R307). -/
def State.engineHalf (s : State) (k w : Nat) (hi ue : Bool) : Word :=
  if s.bankBad k w ue then 0 else BitVec.ofNat 32 (s.seen k (bankAddr k w + if hi then 4 else 0) 4)

/-- Half `hi` of a bank word as the block's processor reads it: an uncorrectable word reads 0x0 (R307). -/
def State.bankHalf (s : State) (k w : Nat) (hi ue : Bool) : Word :=
  if s.bankBad k w ue then 0 else BitVec.ofNat 32 (s.bytes (bankAddr k w + if hi then 4 else 0) 4)

/-- An engine's read of a bank word: the counters, and the void of its open shot on an uncorrectable word (R21, R307). -/
def engineBankRead (e w : Nat) (ue : Bool) : Act := look fun s =>
  acts [noteBankRead (blockOf e) w .engine ue,
    if s.bankBad (blockOf e) w ue then voidShot e [.ecc] else skip]

/-! Instructions in memory (R85, R87) -/

/-- The engine's present source: none for the program area, or a library page. -/
def State.page (s : State) (e : Nat) : Option Nat :=
  if s.get (cellPage e) CELL.STATUS_LIB = 1 then some (s.eng e).page else none

/-- The instruction word at an index of the program area or of a library page. -/
def State.instrAt (s : State) (e : Nat) (page : Option Nat) (pc : Nat) : DWord :=
  match page with
  | none => BitVec.ofNat 64 (s.bytes (spadAddr e (8 * (pc % 4096))) 8)
  | some p => BitVec.ofNat 64 (s.seen (blockOf e) (bankAddr (blockOf e) (4096 * p + pc % 4096)) 8)

/-- Execution goes to a return point: its PC and source. -/
def goTo (e : Nat) (r : ReturnPoint) : Act :=
  acts [setPC e r.pc, setB (cellPage e) CELL.STATUS_LIB r.page.isSome,
    match r.page with | some p => updEng e fun x => { x with page := p } | none => skip]

/-- Dispatch the instruction at PC: IR is loaded and µPC enters its routine; a reserved opcode is the fault of R92 (R136, R155). -/
def dispatchHere (e : Nat) : Act := look fun s =>
  let w := s.instrAt e (s.page e) (s.pc e)
  if opListed (w.toNat / 2 ^ 56) then updEng e fun r => { r with micro := { r.micro with ir := w, upc := w.toNat / 2 ^ 56 } }
  else cellFault e .illegal

/-! The spare in lockstep (R26, R342) -/

/-- The spare runs in lockstep with an engine's cell. -/
def State.shadowed (s : State) (e : Nat) : Bool :=
  let b := s.blk (blockOf e)
  b.running && b.shadow = cellOf e && s.inShot e

/-- The record of block k's spare: that of the cell it runs in lockstep with, else what it held last (R14). -/
def State.spare (s : State) (k : Nat) : Engine :=
  let e := 16 * k + (s.blk k).shadow
  if s.shadowed e then s.eng e else s.eng (1024 + k)

/-- The spare's output differs from the cell it shadows (R26, R342): counted, and a fault that a takeover cures (R340). -/
def shadowMismatch (e : Nat) : Act := acts [countF .ledger LEDGER.MISMATCH_COUNT, cellFaultEffects e true]

/-- A timetable entry, a bank write or a decision request of a cell, compared with the spare's (R26): where they differ it does not act. -/
def compared (e : Nat) (mismatch : Bool) (a : Act) : Act := look fun s => if mismatch && s.shadowed e then shadowMismatch e else a

end Sys2Proof.Machine
end

