-- ==== Sys2Proof/Machine/Starts.lean ====
section
/-! DEFINITION. Starting and stopping engines (R88 to R91, R145, R347, R457, R507, R508, R547). -/

namespace Sys2Proof.Machine

/-- QUIESCE_REQ is set on the engine's CELL page or on a page that encloses it (R508). -/
def State.quiesced (s : State) (e : Nat) : Bool :=
  [cellPage e, blockPage (blockOf e), regionPage (regionOf e)].any fun p => s.get p ALL.PAGE_CTRL_QUIESCE_REQ = 1

/-- PF_LEAD of a tone's output (R185). -/
def State.pfLead (s : State) (key : Nat) : Nat := max 1024 (s.get (outputPage (toneOutput key).1) OUTP.PF_LEAD_LEAD)

/-- The LEAD_CUR of an engine's tones returns to PF_LEAD (R185). -/
def resetLeads (e : Nat) : Act := look fun s =>
  forEach ((s.ownedTones e).filter (· < 2048)) fun k =>
    let (o, slot) := toneOutput k
    setF (outputPage o) (OUTP.TONE_LEAD_LEAD_CUR slot) (s.pfLead k)

/-- Execution begins at START_PC (R88): `held` for a start from a held request, `t0` the ST of a trigger start. -/
def launch (e : Nat) (held : Bool) (t0 : Option Stamp) : Act := look fun s =>
  let p := cellPage e
  acts [setF p CELL.STATUS_PC (s.get p CELL.START_PC_PC), setF p CELL.STATUS_LIB 0,
    updEng e fun r => { r with stack := [], stagedLow := [none, none, none, none], wait := .none, branch := none,
                               tending := false, byMicro := false, streamsEnd := none, micro := { r.micro with udone := false } },
    setCW e (if held then 64 else 0),
    match t0 with | some v => setT e 0 v | none => skip,
    unmuteTones e, resetLeads e, setEng e .running, dispatchHere e]

/-- A start request is held, or counted where one is held already (R89). -/
def holdStart (e : Nat) : Act := look fun s =>
  let p := cellPage e
  if s.get p CELL.STATUS_START_PENDING = 1 then countF p CELL.START_OVERRUN_COUNT else setF p CELL.STATUS_START_PENDING 1

/-- A load of the engine's program or of its block's microcode is in progress (R89). -/
def State.loading (s : State) (e : Nat) : Bool :=
  s.get (cellPage e) CELL.LOAD_STATUS_BUSY = 1 || s.get (blockPage (blockOf e)) BLOCK.UC_STATUS_BUSY = 1

/-- The device joins a fabric and its ALIGN_OFFSET has not been added yet: no engine starts (R51). -/
def State.aligning (s : State) : Bool :=
  s.get .timebase TIMEBASE.TB_STATUS_ALIGN_PENDING = 1
    || (s.get .fabric FABRIC.FSTATUS_STATE = 1 && s.fab.offered.isNone && !s.fab.rejoin)

/-- A page on which a start request is discarded (R507). -/
def State.startBarred (s : State) (e : Nat) : Bool :=
  let p := cellPage e
  s.pageIs p .off || s.pageIs p .draining || s.pageIs p .quarantined || s.quiesced e

/-- A start request reaches an engine (R88, R89, R457, R507, R508); one in idle tending first loses the watch's entries
(R347). A joiner that is not aligned yet holds it (R51; log entry 92). -/
def startRequest (e : Nat) (t0 : Option Stamp) : Act := look fun s =>
  if s.crit then countF .thermal THERMAL.REFUSED_STARTS_COUNT
  else if s.startBarred e then skip
  else if s.pageIs (cellPage e) .starting || s.loading e || s.aligning || !s.engIs e .stopped then holdStart e
  else acts [if (s.eng e).tending then discardEntries e else skip, launch e false t0]

/-- A held request acts on an engine that is not running once what held it is over (R89). -/
def actHeld (e : Nat) : Act := look fun s =>
  let p := cellPage e
  if s.get p CELL.STATUS_START_PENDING = 1 && s.engIs e .stopped && !s.loading e && !s.aligning && s.pageIs p .ready then
    (if s.crit then acts [setF p CELL.STATUS_START_PENDING 0, countF .thermal THERMAL.REFUSED_STARTS_COUNT]
     else acts [setF p CELL.STATUS_START_PENDING 0, if (s.eng e).tending then discardEntries e else skip, launch e true none])
  else skip

/-- HALT with no shot open (R90): leases end, and the engine stops, or restarts from a held request unless it is quiesced
(R508). A HALTW's routine goes on at its NEXT, which µPC holds (R136). -/
def haltNow (e : Nat) : Act := look fun s =>
  let p := cellPage e
  let m := s.eng e
  acts [releaseLeases e,
    if s.get p CELL.STATUS_START_PENDING = 1 && !s.quiesced e then
      acts [setF p CELL.STATUS_START_PENDING 0, launch e true none,
        if m.byMicro then updEng e fun r => { r with micro := { r.micro with upc := m.micro.upc } } else skip]
    else
      acts [setF p CELL.STATUS_START_PENDING 0, setF p CELL.SO_STATUS_LEVEL 0, clearWait e,
        setEng e .stopped,
        look fun s => if (s.entryOf e).isNone then updGroup (256 + e) fun _ => .init else skip,
        applyUpdates false (· = e)]]

/-! Commands on CELL.CTRL (R88 to R91, R131) -/

/-- CTRL.START. -/
def actStart (fn : FuncId) (e : EngineId) : Act := forCell fn e (startRequest e none)
def execStart (fn : FuncId) (e : EngineId) (s : State) : Res := done (actStart fn e) s

/-- CTRL.STOP (R91): a FAULTED engine moves to STOPPED too (R547). -/
def actStop (fn : FuncId) (e : EngineId) : Act := forCell fn e (stopEngine e .stopped)
def execStop (fn : FuncId) (e : EngineId) (s : State) : Res := done (actStop fn e) s

/-- CTRL.CLR_PENDING: START_PENDING := 0. -/
def actClrPending (fn : FuncId) (e : EngineId) : Act := forCell fn e (setF (.cell e) CELL.STATUS_START_PENDING 0)
def execClrPending (fn : FuncId) (e : EngineId) (s : State) : Res := done (actClrPending fn e) s

end Sys2Proof.Machine
end

