-- ==== Sys2Proof/Machine/Engine.lean ====
section
/-! DEFINITION. The engine's instructions but for branches, shots and curfews (R92 to R109, R123). -/

namespace Sys2Proof.Machine

/-! Arithmetic and memory (R106) -/

/-- NOP. -/
def actNop (e : EngineId) : Act := whenRunning e (finish e)
def execNop (e : EngineId) (s : State) : Res := done (actNop e) s

/-- G[A] := v with Z and N. -/
def resultTo (e : EngineId) (a : Fin 16) (v : Word) : Act := acts [setG e a v, setZN e v]

/-- MOVI. -/
def actMovi (e : EngineId) (a : Fin 16) (imm : Word) : Act := whenRunning e (acts [resultTo e a imm, finish e])
def execMovi (e : EngineId) (a : Fin 16) (imm : Word) (s : State) : Res := done (actMovi e a imm) s

/-- FN on two words, into G[A], with its flags. -/
def aluTo (e : EngineId) (f : AluFn) (a : Fin 16) (x y : Word) : Act :=
  acts [setG e a (aluValue f x y), setFlags e f x y, finish e]

/-- ALU. -/
def actAlu (e : EngineId) (f : AluFn) (a b c : Fin 16) : Act :=
  whenRunning e (look fun s => aluTo e f a (s.greg e b) (s.greg e c))
def execAlu (e : EngineId) (f : AluFn) (a b c : Fin 16) (s : State) : Res := done (actAlu e f a b c) s

/-- ALUI. -/
def actAlui (e : EngineId) (f : AluFn) (a b : Fin 16) (imm : Word) : Act :=
  whenRunning e (look fun s => aluTo e f a (s.greg e b) imm)
def execAlui (e : EngineId) (f : AluFn) (a b : Fin 16) (imm : Word) (s : State) : Res := done (actAlui e f a b imm) s

/-- CMP. -/
def actCmp (e : EngineId) (b : Fin 16) (x : RegOrImm) : Act :=
  whenRunning e (look fun s => acts [setFlags e .sub (s.greg e b) (s.regOrImm e x), finish e])
def execCmp (e : EngineId) (b : Fin 16) (x : RegOrImm) (s : State) : Res := done (actCmp e b x) s

/-- The local word index of LDL and STL. -/
def State.localIndex (s : State) (e : Nat) (b : Fin 16) (imm : Word) : Nat := (s.greg e b + imm).toNat % 8192

/-- LDL; an uncorrectable word is a cell fault (R21, R307). -/
def actLdl (e : EngineId) (a b : Fin 16) (imm : Word) (ue : Bool) : Act :=
  whenRunning e (look fun s =>
    let i := s.localIndex e b imm
    if s.localBad e i ue then cellFault e .ecc else acts [setG e a (s.localWord e i), noteSpadRead e (localAddr e i), finish e])
def execLdl (e : EngineId) (a b : Fin 16) (imm : Word) (ue : Bool) (s : State) : Res := done (actLdl e a b imm ue) s

/-- STL (R86). -/
def actStl (e : EngineId) (a b : Fin 16) (imm : Word) : Act :=
  whenRunning e (look fun s => acts [storeLocal e (s.localIndex e b imm) (s.greg e a), finish e])
def execStl (e : EngineId) (a b : Fin 16) (imm : Word) (s : State) : Res := done (actStl e a b imm) s

/-- The bank word index of LDB and STB. -/
def State.bankIndex (s : State) (e : Nat) (b : Fin 16) (imm : Word) : Nat := (s.greg e b + imm).toNat % 2 ^ 18

/-- LDB. -/
def actLdb (e : EngineId) (a b : Fin 16) (hi : Bool) (imm : Word) (ue : Bool) : Act :=
  whenRunning e (look fun s =>
    let w := s.bankIndex e b imm
    acts [setG e a (s.engineHalf (blockOf e) w hi ue), engineBankRead e w ue, finish e])
def execLdb (e : EngineId) (a b : Fin 16) (hi : Bool) (imm : Word) (ue : Bool) (s : State) : Res :=
  done (actLdb e a b hi imm ue) s

/-- STB. -/
def actStb (e : EngineId) (a b : Fin 16) (hi : Bool) (imm : Word) (mismatch : Bool) : Act :=
  whenRunning e (compared e mismatch (look fun s =>
    acts [bankStore (blockOf e) (s.bankIndex e b imm) (if hi then 4 else 0) (s.greg e a).toNat 4, finish e]))
def execStb (e : EngineId) (a b : Fin 16) (hi : Bool) (imm : Word) (mismatch : Bool) (s : State) : Res :=
  done (actStb e a b hi imm mismatch) s

/-- TSET. -/
def actTset (e : EngineId) (td ts : Fin 4) (x : RegOrImm) : Act :=
  whenRunning e (look fun s => acts [setT e td (s.treg e ts + sext64 (s.regOrImm e x)), finish e])
def execTset (e : EngineId) (td ts : Fin 4) (x : RegOrImm) (s : State) : Res := done (actTset e td ts x) s

/-- TNOW: from the first multiple of 32 at or after ST. -/
def actTnow (e : EngineId) (td : Fin 4) (x : RegOrImm) : Act :=
  whenRunning e (look fun s => acts [setT e td (Stamp.gridUp 5 s.st + sext64 (s.regOrImm e x)), finish e])
def execTnow (e : EngineId) (td : Fin 4) (x : RegOrImm) (s : State) : Res := done (actTnow e td x) s

/-! Flow (R104, R105, R120) -/

/-- JUMP. -/
def actJump (e : EngineId) (target : BitVec 12) : Act := whenRunning e (setPC e target.toNat)
def execJump (e : EngineId) (target : BitVec 12) (s : State) : Res := done (actJump e target) s

/-- Push a return point and go to another; at depth 8 a cell fault (R105). -/
def callTo (e : Nat) (ret dest : ReturnPoint) : Act := look fun s =>
  if (s.eng e).stack.length ≥ 8 then cellFault e .stack
  else acts [updEng e fun r => { r with stack := ret :: r.stack }, goTo e dest]

/-- The instruction after the present one, as a return point. -/
def State.after (s : State) (e : Nat) : ReturnPoint := ⟨(s.pc e + 1) % 4096, s.page e⟩

/-- CALL. -/
def actCall (e : EngineId) (t : CallTarget) : Act :=
  whenRunning e (look fun s => callTo e (s.after e) (match t with
    | .program i => ⟨i.toNat, none⟩
    | .library w => ⟨w.toNat % 4096, some (w.toNat / 4096)⟩))
def execCall (e : EngineId) (t : CallTarget) (s : State) : Res := done (actCall e t) s

/-- RET. -/
def actRet (e : EngineId) : Act :=
  whenRunning e (look fun s => match (s.eng e).stack with
    | [] => cellFault e .stack
    | r :: rest => acts [updEng e fun x => { x with stack := rest }, goTo e r])
def execRet (e : EngineId) (s : State) : Res := done (actRet e) s

/-- LOOP. -/
def actLoop (e : EngineId) (l : Fin 4) (form : LoopForm) : Act :=
  whenRunning e (look fun s => match form with
    | .init n => acts [setL e l n, finish e]
    | .back t =>
      let v := s.lreg e l - 1
      acts [setL e l v, if v ≠ 0 then setPC e t.toNat else finish e])
def execLoop (e : EngineId) (l : Fin 4) (form : LoopForm) (s : State) : Res := done (actLoop e l form) s

/-- BRC. -/
def actBrc (e : EngineId) (cbit : Fin 16) (sense : Bool) (target : BitVec 12) : Act :=
  whenRunning e (look fun s =>
    if (bitOf (s.cw e) cbit = 1) = sense then setPC e target.toNat else finish e)
def execBrc (e : EngineId) (cbit : Fin 16) (sense : Bool) (target : BitVec 12) (s : State) : Res :=
  done (actBrc e cbit sense target) s

/-! Timed instructions (R93 to R97, R109, R181) -/

/-- Context `i` of region `n` lies in a guest's leased ranges (R109, R423). -/
def State.ctxView (s : State) (g n i : Nat) : Bool :=
  g = 0 || (upTo 4).any fun r =>
    let w := s.guestWord g (34 + 4 * n + r)
    64 * bitsOf w 10 0 ≤ i && i < 64 * (bitsOf w 10 0 + bitsOf w 26 16)

/-- A context index lies in the ranges leased to an engine's guest. -/
def State.ctxLeased (s : State) (e i : Nat) : Bool := s.ctxView (s.guestOf e) (regionOf e) i

/-- The 64-bit word of a context that an engine's capture finds uncorrectable: the one this read meets, else the first marked one. -/
def State.ctxBadWord (s : State) (e i : Nat) (ue : Option (Fin 8)) : Option Nat :=
  match ue with
  | some j => some j.val
  | none => (upTo 8).find? fun j => s.poisoned (ctxAddr (regionOf e) i + 8 * j)

def State.ctxBad (s : State) (e i : Nat) (ue : Option (Fin 8)) : Bool := (s.ctxBadWord e i ue).isSome

/-- The context an engine's capture reads: 0 where it is uncorrectable (R307). -/
def State.captured (s : State) (e i : Nat) (ue : Option (Fin 8)) : BitVec 512 :=
  if s.ctxBad e i ue then 0 else s.context (regionOf e) i

/-- The region's counters at an uncorrectable read of context word `j`, and its byte offset in the store (R313). -/
def noteCtxUe (n i j : Nat) : Act :=
  acts [countF (porterPage n) PORTER.CTX_ECC_UNCORRECTED, setF (porterPage n) PORTER.UE_ADDR_OFFSET (64 * i + 8 * j),
    setF (porterPage n) PORTER.UE_ADDR_STORE 0, raiseFault (porterPage n) 1]

/-- An engine's read of a context, as far as the region's counters go. -/
def noteCtxRead (e i : Nat) (ue : Option (Fin 8)) : Act := look fun s =>
  match s.ctxBadWord e i ue with
  | some j => noteCtxUe (regionOf e) i j
  | none =>
    if (upTo 8).any fun j => s.word .poison (ctxAddr (regionOf e) i / 8 + j) = 3 then countF (porterPage (regionOf e)) PORTER.CTX_ECC_CORRECTED
    else skip

/-- The timed instructions. -/
inductive TimedOp where
  | play | acquire | stream
deriving DecidableEq, Repr

/-- The class checks of R95. -/
def classOk (op : TimedOp) (c : BitVec 512) : Bool :=
  match op with
  | .play => (Ctx.cls c = 0 || Ctx.cls c = 1 || Ctx.cls c = 3) && !Ctx.streamed c
  | .stream => (Ctx.cls c = 0 || Ctx.cls c = 1) && Ctx.streamed c
  | .acquire => Ctx.cls c = 2 && !Ctx.streamed c && 1 ≤ Ctx.wlen c && Ctx.wlen c ≤ 4096

/-- The entries of a timed instruction at stamp S, in order (R95, R97). -/
def timedEntries (op : TimedOp) (stamp : Stamp) (i : Nat) (c : BitVec 512) : List Entry :=
  let (cls, index) := ctxTarget c
  match op with
  | .play => [ctxEntry (if Ctx.cls c = 3 then .fluxPulse else .toneStart) cls index stamp i c]
  | .stream => [ctxEntry .streamStart cls index stamp i c]
  | .acquire =>
    (if Ctx.probe c then [ctxEntry .toneStart .probe index stamp i c] else [])
      ++ [ctxEntry .windowOpen .receive index (stamp + BitVec.ofNat 64 (32 * Ctx.wdelay c)) i c]

/-- What a timed instruction writes to T[TD] (R94). -/
def timedWrite (op : TimedOp) (i : Timed) (stamp : Stamp) (c : BitVec 512) : Option (Nat × Stamp) :=
  if i.tadv then
    some (i.td.val, match op with | .acquire => windowEnd stamp c | _ => stamp + BitVec.ofNat 64 (Ctx.duration c))
  else none

/-- A timed instruction: the range, class and route checks, then its entries (R29, R93 to R97, R109, R307). -/
def timedAct (op : TimedOp) (e : EngineId) (i : Timed) (ue : Option (Fin 8)) : Act := look fun s =>
  let idx := s.ctxIndex e i.ctx
  let stamp := s.treg e i.ts + BitVec.ofNat 64 i.toff.toNat
  let bad := s.ctxBad e idx ue
  let c := s.captured e idx ue
  if !s.ctxLeased e idx then cellFault e .route
  else if bad && s.inShot e then acts [noteCtxRead e idx ue, voidShot e [.ecc], finish e]
  else acts [noteCtxRead e idx ue,
    if !classOk op c then cellFault e .cls
    else if !s.routeOk e c then cellFault e .route
    else
      let xs := timedEntries op stamp idx c
      let td := timedWrite op i stamp c
      if op = .stream then
        acts [if (s.freeStreamSlot (blockOf e)).isNone then countF (blockPage (blockOf e)) BLOCK.STREAM_STATUS_STALLS else skip,
          streamWithSlot e xs td]
      else enqueueAll e xs td]

/-- PLAY. -/
def actPlay (e : EngineId) (i : Timed) (ue : Option (Fin 8)) (mismatch : Bool) : Act :=
  whenRunning e (compared e mismatch (timedAct .play e i ue))
def execPlay (e : EngineId) (i : Timed) (ue : Option (Fin 8)) (mismatch : Bool) (s : State) : Res :=
  done (actPlay e i ue mismatch) s

/-- ACQUIRE. -/
def actAcquire (e : EngineId) (i : Timed) (ue : Option (Fin 8)) (mismatch : Bool) : Act :=
  whenRunning e (compared e mismatch (timedAct .acquire e i ue))
def execAcquire (e : EngineId) (i : Timed) (ue : Option (Fin 8)) (mismatch : Bool) (s : State) : Res :=
  done (actAcquire e i ue mismatch) s

/-- STREAM. -/
def actStream (e : EngineId) (i : Timed) (ue : Option (Fin 8)) (mismatch : Bool) : Act :=
  whenRunning e (compared e mismatch (timedAct .stream e i ue))
def execStream (e : EngineId) (i : Timed) (ue : Option (Fin 8)) (mismatch : Bool) (s : State) : Res :=
  done (actStream e i ue mismatch) s

/-! Frames and markers (R98, R99) -/

def FrameTarget.entryClass (t : FrameTarget) : TargetClass := TargetClass.ofCode t.cls.val

/-- An entry that names no context. -/
def plainEntry (kind : EntryKind) (cls : TargetClass) (index : Nat) (stamp : Stamp) (operand : BitVec 48) : Entry :=
  ⟨stamp, kind, cls, index, operand, 0, none, false, false⟩

/-- A frame instruction: the tone must be owned (R29, R98). -/
def frameAct (e : EngineId) (tgt : FrameTarget) (x : Entry) : Act := look fun s =>
  if s.owns e (frameTone e tgt) then enqueueAll e [x] none else cellFault e .route

/-- SETFRQ. -/
def actSetfrq (e : EngineId) (ts : Fin 4) (tgt : FrameTarget) (a b : Fin 16) (toff : Word) (mismatch : Bool) : Act :=
  whenRunning e (compared e mismatch (look fun s =>
    frameAct e tgt (plainEntry .freqSet (FrameTarget.entryClass tgt) tgt.idx.toNat (s.treg e ts + BitVec.ofNat 64 toff.toNat)
      (BitVec.ofNat 48 ((s.greg e a).toNat % 2 ^ 16 * 2 ^ 32 + (s.greg e b).toNat)))))
def execSetfrq (e : EngineId) (ts : Fin 4) (tgt : FrameTarget) (a b : Fin 16) (toff : Word) (mismatch : Bool) (s : State) : Res :=
  done (actSetfrq e ts tgt a b toff mismatch) s

/-- The value of SHIFTPH. -/
def State.phaseValue (s : State) (e : Nat) : PhaseValue → Word
  | .ph v => BitVec.ofNat 32 (v.toNat * 2 ^ 16)
  | .reg a => s.greg e a

/-- SHIFTPH. -/
def actShiftph (e : EngineId) (ts : Fin 4) (set : Bool) (tgt : FrameTarget) (v : PhaseValue) (toff : BitVec 20) (mismatch : Bool) : Act :=
  whenRunning e (compared e mismatch (look fun s =>
    frameAct e tgt (plainEntry (if set then .phaseSet else .phaseAdd) (FrameTarget.entryClass tgt) tgt.idx.toNat
      (s.treg e ts + BitVec.ofNat 64 toff.toNat) (BitVec.ofNat 48 (s.phaseValue e v).toNat))))
def execShiftph (e : EngineId) (ts : Fin 4) (set : Bool) (tgt : FrameTarget) (v : PhaseValue) (toff : BitVec 20)
    (mismatch : Bool) (s : State) : Res := done (actShiftph e ts set tgt v toff mismatch) s

/-- SIGNAL. -/
def actSignal (e : EngineId) (ts : Fin 4) (level : Bool) (m : Fin 16) (toff : Word) (mismatch : Bool) : Act :=
  whenRunning e (compared e mismatch (look fun s =>
    if Nat.testBit (s.get (.cell e) CELL.MARK_ROUTE_OWN) m then
      enqueueAll e [plainEntry .mark .marker m.val (s.treg e ts + BitVec.ofNat 64 toff.toNat) (BitVec.ofNat 48 (b2n level))] none
    else cellFault e .route))
def execSignal (e : EngineId) (ts : Fin 4) (level : Bool) (m : Fin 16) (toff : Word) (mismatch : Bool) (s : State) : Res :=
  done (actSignal e ts level m toff mismatch) s

/-! Messages (R100, R129, R329, R386, R389) -/

/-- The deadline frames outstanding at a port (R386). -/
def State.deadlineFrames (s : State) (p : Nat) : Nat :=
  s.get (portPage p) PORT.WAYSTATION_OUTSTANDING_DL
    + (s.fab.sendq.filter fun f => f.deadline.isSome && s.routePort f.dest = p).length

/-- The destinations of a SENDM: one device, or every other device of the engine's group (R389). A SENDM to the device's own fabric ID is
queued like any other, for the port its own route names (DESIGN CHOICE, log entry 98). -/
def State.msgDests (s : State) (e dev : Nat) : List Nat := if dev = 0x3F then s.otherDevices (s.groupOf e) else [dev]

/-- A MSG frame: TAG, GROUP_ID, SHOT, ATTEMPT and VALUE (R329, R381). -/
def State.msgFrame (s : State) (e dev tag : Nat) (payload : Word) (dl : Option Stamp) : Frame :=
  let g := s.groupOf e
  let here := s.inShot e
  ⟨.msg, dev, s.fabricId, dl, if here then s.groupId g else 0xFFFF,
    [tag, if here then s.groupId g else 0xFFFF, if here then (s.group g).shot else 0, if here then (s.group g).attempt else 0,
     payload.toNat], none, none⟩

/-- Queue a message for each destination in turn; where the next one's port holds 512 outstanding deadline frames, the engine waits with
that destination and the rest (R129). `after` follows once all are queued. -/
def sendMessage (e tag : Nat) (payload : Word) (dl : Option Stamp) (after : Act) : List Nat → Act
  | [] => after
  | d :: ds => look fun s =>
    if dl.isSome && 512 ≤ s.deadlineFrames (s.routePort d) then setWait e (.send (d :: ds) tag payload dl)
    else acts [sendFrame (s.msgFrame e d tag payload dl), sendMessage e tag payload dl after ds]

/-- A SENDM that waits goes on once there is room. -/
def resumeSend (e : Nat) : Act := look fun s =>
  match (s.eng e).wait with
  | .send dests tag payload dl => sendMessage e tag payload dl (acts [setWait e .none, finish e]) dests
  | _ => skip

/-- SENDM as its fields say. -/
def sendmAct (e : EngineId) (ts : Fin 4) (dev : Fin 64) (tag : BitVec 16) (a : Fin 16) (doff : BitVec 16) : Act := look fun s =>
  sendMessage e tag.toNat (s.greg e a)
    (if doff = 0 then none else some (s.treg e ts + BitVec.ofNat 64 (32 * doff.toNat))) (finish e) (s.msgDests e dev.val)

/-- SENDM. -/
def actSendm (e : EngineId) (ts : Fin 4) (dev : Fin 64) (tag : BitVec 16) (a : Fin 16) (doff : BitVec 16) : Act :=
  whenRunning e (sendmAct e ts dev tag a doff)
def execSendm (e : EngineId) (ts : Fin 4) (dev : Fin 64) (tag : BitVec 16) (a : Fin 16) (doff : BitVec 16)
    (s : State) : Res := done (actSendm e ts dev tag a doff) s

/-! Waits (R101) -/

/-- WAITST. -/
def actWaitst (e : EngineId) (ts : Fin 4) (toff : Word) : Act :=
  whenRunning e (look fun s => setWait e (.until (s.treg e ts + BitVec.ofNat 64 toff.toNat)))
def execWaitst (e : EngineId) (ts : Fin 4) (toff : Word) (s : State) : Res := done (actWaitst e ts toff) s

/-- The engine resumes once the control plane observes the ST. -/
def actWaitstResume (e : EngineId) : Act := look fun s =>
  match (s.eng e).wait with
  | .until t => if s.time.frozen then skip
      else acts [passTo t, setWait e .none, finish e]
  | _ => skip
def execWaitstResume (e : EngineId) (s : State) : Res := done (actWaitstResume e) s

/-! Leases (R20, R33, R102) -/

/-- FLUX_DENY forbids flux output J to the engine (R32, R33). -/
def State.fluxDenied (s : State) (e j : Nat) : Bool :=
  Nat.testBit (s.get (blockPage (blockOf e)) (BLOCK.CELL_ROUTE_FLUX_DENY (cellOf e))) j

/-- A lease is granted. -/
def grantLease (e f : Nat) : Act :=
  acts [setF (fluxPage f) FLUX.LEASE_HOLDER e, setF (fluxPage f) FLUX.LEASE_HELD 1, setF (cellPage e) CELL.CW_LR 0]

/-- LEASE as its fields say. -/
def leaseAct (e : EngineId) (rel try1 : Bool) (j : Fin 2) : Act := look fun s =>
  let f := fluxOf e j
  let busy := s.get (fluxPage f) FLUX.LEASE_HELD = 1 || (s.output (160 + f)).waiters ≠ []
  let refuse := acts [setF (.cell e) CELL.CW_LR 1, finishAs e false]
  if rel then acts [releaseLease e f, finish e]
  else if s.fluxDenied e j then refuse
  else if s.holds e f || !busy then acts [grantLease e f, finish e]
  else if try1 then refuse
  else acts [setWaiters f ((s.output (160 + f)).waiters ++ [e.val]), setWait e (.lease j)]

/-- LEASE. -/
def actLease (e : EngineId) (rel try1 : Bool) (j : Fin 2) : Act := whenRunning e (leaseAct e rel try1 j)
def execLease (e : EngineId) (rel try1 : Bool) (j : Fin 2) (s : State) : Res := done (actLease e rel try1 j) s

/-- A free flux output is granted to the first waiting engine (R20). -/
def actLeaseGrant (f : FluxId) : Act := look fun s =>
  if s.get (.flux f) FLUX.LEASE_HELD = 1 then skip else
  match (s.output (160 + f.val)).waiters with
  | [] => skip
  | e :: rest => acts [setWaiters f rest, grantLease e f, setWait e .none, finish e]
def execLeaseGrant (f : FluxId) (s : State) : Res := done (actLeaseGrant f) s

/-! The watch's grants (R103, R348) -/

/-- The watch's budget of the engine in this interval is not used up (R348). -/
def State.budgetLeft (s : State) (e : Nat) : Bool :=
  1000 * (s.eng e).grantUsed < min 100 (s.get .watch WATCH.BUDGET_PCT) * (s.eng e).openTimeLast

/-- Word `w` of the tending entry of an engine (R357). -/
def State.tendWord (s : State) (e w : Nat) : Nat := s.word .tending (4 * e + w)

/-- The tending entry of an engine names a context: a drive context, the readout context or the π/2 context (R346). -/
def State.tendNames (s : State) (e i : Nat) : Bool :=
  let w1 := s.tendWord e 1
  (bitsOf w1 16 0 ≤ i && i < bitsOf w1 16 0 + bitsOf w1 27 20) || i = bitsOf (s.tendWord e 2) 16 0 || i = bitsOf (s.tendWord e 3) 16 0

/-- The engine's drive, probe or receive tone as an entry names it (R61); none where it owns none. -/
def State.ownTarget (s : State) (e : Nat) (tone : Fin 3) : Option (TargetClass × Nat) :=
  match tone with
  | 0 => (s.driveTone e).map fun d => (.drive, d - 16 * blockOf e)
  | 1 => (s.readTone e).map fun u => (.probe, u - 128 * regionOf e)
  | _ => (s.readTone e).map fun u => (.receive, u - 128 * regionOf e)

/-- The entries of a step of the watch: only the engine's owned tones and the contexts its tending entry names (R347). -/
def State.watchEntries (s : State) (e : Nat) (x : WatchStep) : List Entry :=
  let timed (op : TimedOp) (at' : Stamp) (i : Nat) : List Entry :=
    let c := s.context (regionOf e) i
    if s.tendNames e i && !s.ctxBad e i none && classOk op c && Ctx.cls c ≠ 3 && s.routeOk e c then timedEntries op at' i c else []
  let frame (at' : Stamp) (kind : EntryKind) (tone : Fin 3) (v : BitVec 48) : List Entry :=
    match s.ownTarget e tone with
    | some (cls, index) => [⟨at', kind, cls, index, v, 0, none, true, false⟩]
    | none => []
  match x with
  | .play at' i => timed .play at' i.toNat
  | .acquire at' i => timed .acquire at' i.toNat
  | .freq at' tone f => frame at' .freqSet tone f
  | .phase at' tone set v => frame at' (if set then .phaseSet else .phaseAdd) tone (v.setWidth 48)

/-- The watch enqueues its own entries in an engine's timetable, stamped from `a` to before `b`, as far as there is room (R347). It is
paused in SHED (R80). -/
def watchEnqueue (e : Nat) (a b : Stamp) (seq : List WatchStep) : Act := forEach seq fun x => look fun s =>
  forEach (if s.shed then [] else (s.watchEntries e x).filter fun y => Stamp.atOrAfter y.stamp a && !Stamp.atOrAfter y.stamp b) fun y =>
    onlyIf (fun s => s.depth e < 64) (enqueueNow e { y with watch := true })

/-- WATCH as its fields say, the grant coming back at once when the budget is used up: with a shot open it only sets WATCH_IN_SHOT.
The watch enqueues its sequence in the window. -/
def watchAct (e : EngineId) (ts : Fin 4) (len : BitVec 16) (toff : Word) (seq : List WatchStep) : Act := look fun s =>
  let t := s.treg e ts + BitVec.ofNat 64 toff.toNat
  let last := t + BitVec.ofNat 64 (32 * len.toNat)
  if s.inShot e then acts [raiseFault (.cell e) 7, finish e]
  else if !s.budgetLeft e then finish e
  else acts [setWait e (.grant t last), watchEnqueue e t last seq]

/-- WATCH. -/
def actWatch (e : EngineId) (ts : Fin 4) (len : BitVec 16) (toff : Word) (seq : List WatchStep) : Act :=
  whenRunning e (watchAct e ts len toff seq)
def execWatch (e : EngineId) (ts : Fin 4) (len : BitVec 16) (toff : Word) (seq : List WatchStep) (s : State) : Res :=
  done (actWatch e ts len toff seq) s

/-- The grant time used between the window's start and now, at most the window. -/
def grantTime (first last now : Stamp) : Nat :=
  if Stamp.future now first then min (now - first).toNat (last - first).toNat else 0

/-- A wait that a microword's REQ may have begun is over: the routine's PARK goes on, or the instruction completes (R136, R140). -/
def endWait (e : Nat) : Act := look fun s =>
  acts [setWait e (if (s.eng e).micro.reqWait && (s.eng e).branching then .branch else .none),
    if (s.eng e).micro.reqWait then updEng e fun r => { r with micro := { r.micro with reqWait := false, parked := false } } else finish e]

/-- The watch returns the grant: at once when it has no work for the tones or its budget is used up, else when the control plane observes
the window's end. -/
def actWatchGrantReturn (e : EngineId) (noWork : Bool) : Act := look fun s =>
  match (s.eng e).wait with
  | .grant a b =>
    if s.time.frozen then skip else
    acts [if noWork || !s.budgetLeft e then skip else passTo b,
      look fun s => updEng e fun r => { r with grantUsed := r.grantUsed + grantTime a b s.st }, endWait e]
  | _ => skip
def execWatchGrantReturn (e : EngineId) (noWork : Bool) (s : State) : Res := done (actWatchGrantReturn e noWork) s

/-! PREP (R123) -/

/-- The PREP declaration written into the open shot's checkpoint; with no shot open, nothing. -/
def declarePrep (e target : Nat) : Act := look fun s =>
  if s.inShot e then
    updEng e fun r => { r with ckpt := r.ckpt.map fun c => { c with prep := some ⟨target, s.page e⟩ } }
  else skip

/-- PREP: with FIRST = 1 the routine is also called, on a first attempt. -/
def actPrep (e : EngineId) (first : Bool) (target : BitVec 12) : Act :=
  whenRunning e (look fun s => acts [declarePrep e target.toNat,
    if s.inShot e && first && s.get (.cell e) CELL.STATUS_ATTEMPT = 1 then callTo e (s.after e) ⟨target.toNat, s.page e⟩
    else finish e])
def execPrep (e : EngineId) (first : Bool) (target : BitVec 12) (s : State) : Res := done (actPrep e first target) s

end Sys2Proof.Machine
end

