-- ==== Sys2Proof/Machine/Shots.lean ====
section
/-! DEFINITION. Shots: opening, closing and settling (R90, R121, R122, R317 to R320, R325, R332, R335), the effect of a void,
frames and replays (R60, R154, R323, R327 to R330), and curfews (R124 to R126, R338). -/

namespace Sys2Proof.Machine

/-! Opening a shot -/

/-- The first shot number of a group: SHOT_BASE, 0 for a group of one (R316, R318). -/
def State.shotBase (s : State) (g : Nat) : Nat :=
  if g ≥ 256 then 0 else s.grpWord g 3 + s.grpWord g 4 % 2 ^ 16 * 2 ^ 32

/-- The checkpoint of an engine (R122), with no PREP declaration; `latched` says whether its frames are latched now. -/
def State.checkpoint (s : State) (e ts : Nat) (latched : Bool) : Checkpoint :=
  { g := (upTo 16).map (s.greg e), t := (upTo 4).map (s.treg e), l := (upTo 4).map (s.lreg e), cw := s.cw e,
    ret := s.after e, stack := (s.eng e).stack, prep := none, ts := ts, frames := if latched then s.framesOf e else [],
    latched := latched }

/-- The group's next shot opens (R318, R320): its number, attempt 1, its anchor, once that is known. -/
def openGroup (g : Nat) (anchor : Stamp) (known : Bool) : Act := look fun s =>
  updGroup g fun r => { r with
    open' := true, shot := if r.started then (r.shot + 1) % 2 ^ 48 else s.shotBase g, attempt := 1, anchor := anchor,
    begun := anchor, voidedNow := false, unrecovered := false, causesAll := 0, causesNow := 0, vsetTaken := false, windows := 0,
    entries := [], started := true, readyDevs := [], settledDevs := [], expired := false, startSet := false, anchored := known,
    vset := s.vset (s.groupGuest g) }

/-- The VOIDs that came for an attempt before it began here take effect as it begins (R322, R326, log entry 123). -/
def applyEarly (g : Nat) : Act := look fun s =>
  let r := s.group g
  let now (x : Nat × Nat × Nat) : Bool := x.1 = r.shot && x.2.1 = r.attempt
  acts [updGroup g fun r => { r with early := r.early.filter fun x => !now x },
    forEach (r.early.filter now) fun x => voidGroup g x.2.2 false]

/-- A member opens the group's open shot, or the next one (R121, R319): T[TS] moves by TOFF, the checkpoint is written,
CW.RP := 0, CW.ATT := 1. The lead engine's T[TS] is the anchor (R320): `lead` where that engine is on another device, and the opener's own
T[TS] where the lead engine is stopped (log entry 99). A member that opens a shot whose attempt is already
void waits for its replay; it adds TOFF and sets CW.ATT as at a first attempt, also where the group is on a later one (DESIGN CHOICE, log
entry 100). -/
def openShot (e ts : Nat) (toff : Word) (lead : Stamp) : Act := look fun s =>
  let p := cellPage e
  let g := s.groupOf e
  let t := s.treg e ts + BitVec.ofNat 64 toff.toNat
  let fresh := !(s.group g).open'
  let leads := g ≥ 256 || (s.leads g && (s.leadEngine g = e || s.engStopped (s.leadEngine g)))
  acts [if fresh then acts [if g < 256 && !s.leads g then openGroup g lead true else openGroup g t leads, applyEarly g]
        else if leads && !(s.group g).anchored then updGroup g fun r => { r with anchor := t, begun := t, anchored := true }
        else skip,
    setT e ts t,
    look fun s =>
      let r := s.group g
      let past := r.anchored && Stamp.atOrAfter s.st r.begun
      acts [updEng e fun x => { x with ckpt := some (s.checkpoint e ts past), ckptNo := some s.free, closed := false,
                                       voided := r.voidedNow, restored := false, shotOpenedAt := s.st },
        drawFree, setF p CELL.CW_RP 0, setF p CELL.CW_ATT 1, setF p CELL.STATUS_IN_SHOT 1,
        setF p CELL.STATUS_ATTEMPT r.attempt,
        let b := s.blk (blockOf e)
        if b.copied && b.shadow = cellOf e && !b.spareUsed then updBlk (blockOf e) fun b => { b with running := true } else skip,
        showGroup g]]

/-! Closing and settling -/

/-- A member closes its shot (R319): its leases end and it waits until the shot is settled. -/
def closeShot (e : Nat) (next : AfterClose) : Act :=
  acts [releaseLeases e, updEng e fun r => { r with closed := true }, setWait e (.settle next)]

/-- The firmware switch holds every group at its shot boundary (R493). -/
def State.firmwareHold (s : State) : Bool := s.word .misc 1 = 1

/-- An owner's waiting records fill its share of the ledger buffers (R339). -/
def State.ledgerFull (s : State) (g : Nat) : Bool :=
  let mine := s.led.waiting.filter fun r => r.guest = g
  let share := if g = 0 then s.get .ledger LEDGER.PF_QUOTA_UNITS else s.guestWord g 78 % 2 ^ 13
  mine ≠ [] && 4096 * share ≤ (mine.map fun r => r.bytes.length).sum

/-- A member goes on once its shot is settled, or opens its first shot (R319, R325, R339, R493, R508). -/
def afterSettle (e : Nat) (next : AfterClose) : Act := look fun s =>
  let g := s.groupOf e
  match next with
  | .proceed => if s.quiesced e then haltNow e else acts [setWait e .none, finish e]
  | .halt => acts [setWait e .none, haltNow e]
  | .openNext ts toff lead =>
    if s.quiesced e then acts [haltNow e, driveMarkAtt g false]
    else if s.crit then acts [haltCell e .stopped, driveMarkAtt g false]
    else if s.firmwareHold || s.ledgerFull (s.groupGuest g) || !(s.group g).mayOpen then skip
    else acts [setWait e .none, openShot e ts toff lead,
      look fun s => acts [finish e, if (s.eng e).voided then setWait e .newStart else skip]]

/-- The members that wait at the group's shot boundary go on. -/
def continueMembers (g : Nat) : Act := look fun s =>
  forEach ((s.members g).filter fun e => !s.engStopped e) fun e => look fun s =>
    match (s.eng e).wait with
    | .settle next => if s.inShot e then skip else afterSettle e next
    | _ => skip

/-- A member's shot is over: IN_SHOT and ATTEMPT clear, its open time counts toward the watch's budget (R348), and a
shadowed cell's settled shots are counted (R342). -/
def leaveShot (e : Nat) : Act := look fun s =>
  acts [leaveLockstep e, setF (cellPage e) CELL.STATUS_IN_SHOT 0, setF (cellPage e) CELL.STATUS_ATTEMPT 0,
    updEng e fun r => { r with ckpt := none, closed := false, openTime := r.openTime + (s.st - r.shotOpenedAt).toNat },
    let b := s.blk (blockOf e)
    if b.running && b.shadow = cellOf e then updBlk (blockOf e) fun b => { b with shadowShots := b.shadowShots + 1 } else skip]

/-- Every running member on this device has closed the shot and every window of it has delivered (R319). -/
def State.settledHere (s : State) (g : Nat) : Bool :=
  let r := s.group g
  r.open' && !r.voidedNow && r.windows = 0
    && ((s.members g).all fun e =>
      (s.engStopped e || (s.inShot e && (s.eng e).closed))
        && ((s.eng e).timetable ++ (s.eng e).due).all fun x => x.kind ≠ .windowOpen)

/-- The shot is settled: its record is delivered, and the members go on (R319, R325, R335). -/
def settleGroup (g : Nat) : Act := look fun s =>
  let r := s.group g
  let going := (s.members g).any fun e => match (s.eng e).wait with | .settle (.openNext ..) => true | _ => false
  acts [deliverRecord g (b2n r.unrecovered), updGroup g fun r => { r with open' := false, attempt := 0 },
    if going then skip else driveMarkAtt g false,
    forEach ((s.members g).filter fun e => s.inShot e) leaveShot, showGroup g, continueMembers g]

/-- SHOT_SETTLE: on the lead device once every member device has settled, with OPEN sent to the others; on another device
a SETTLE to the lead (R319, R332). `idle` are the member devices on which no member runs: the group does not wait for them (log entry 122).
With no shot open, members that wait at the boundary go on. -/
def actShotSettle (g : GroupNo) (idle : BitVec 64) : Act := look fun s =>
  let r := s.group g
  if !r.open' then continueMembers g
  else if !s.settledHere g || s.ledgerFull (s.groupGuest g) then skip
  else if s.leads g then
    (if (s.otherDevices g).all fun d => r.settledDevs.contains d || idle.getLsbD d then
      acts [settleGroup g, sendLedger g .openShot [r.attempt, r.shot, 0, 0]] else skip)
  else if r.settledDevs.contains s.fabricId then skip
  else acts [updGroup g fun r => { r with settledDevs := s.fabricId :: r.settledDevs, mayOpen := false },
    sendFrame ⟨.settle, (s.devices g).headD 0, s.fabricId, none, s.groupId g, [r.attempt, r.shot, 0, 0], none, none⟩]
def execShotSettle (g : GroupNo) (idle : BitVec 64) (s : State) : Res := done (actShotSettle g idle) s

/-! The instructions SHOT and HALT -/

/-- The devices compare their entries at a group's first SHOT, and find that they differ (R317). -/
def groupsDiffer (g : Nat) : Act := look fun s =>
  acts [forEach (s.members g) haltKeep, raiseFault .ledger 1]

/-- SHOT as its fields say. `differ` is what the devices find at a group's first SHOT, `lead` the anchor where the lead engine is on another
device. -/
def shotAct (e : EngineId) (endShot : Bool) (ts : Fin 4) (toff : Word) (differ : Bool) (lead : Stamp) : Act := look fun s =>
  let g := s.groupOf e
  if s.inShot e then closeShot e (if endShot then .proceed else .openNext ts toff lead)
  else if endShot then afterSettle e .proceed
  else if differ && !(s.group g).started && s.otherDevices g ≠ [] then groupsDiffer g
  else acts [setWait e (.settle (.openNext ts toff lead)), afterSettle e (.openNext ts toff lead)]

/-- SHOT. -/
def actShot (e : EngineId) (endShot : Bool) (ts : Fin 4) (toff : Word) (differ : Bool) (lead : Stamp) : Act :=
  whenRunning e (shotAct e endShot ts toff differ lead)
def execShot (e : EngineId) (endShot : Bool) (ts : Fin 4) (toff : Word) (differ : Bool) (lead : Stamp) (s : State) : Res :=
  done (actShot e endShot ts toff differ lead) s

/-- HALT (R90). -/
def haltAct (e : EngineId) : Act := look fun s => if s.inShot e then closeShot e .halt else haltNow e
def actHalt (e : EngineId) : Act := whenRunning e (haltAct e)
def execHalt (e : EngineId) (s : State) : Res := done (actHalt e) s

/-! The anchor and the frames (R60, R330) -/

/-- A frame change of the engine stamped before an ST has not acted yet (R60). -/
def State.changesBefore (s : State) (e : Nat) (t : Stamp) : Bool :=
  ((s.eng e).due ++ (s.eng e).timetable).any fun x => actRank x.kind < 3 && !Stamp.future x.stamp t

/-- The anchor passes, once every frame change stamped before it has acted: the frames are latched into the checkpoint unless they are
latched already, the MARK_ATTEMPT marker takes its level, high on a replay, and the attempt's VSET is the guest's at its anchor (R336). -/
def actAnchorPass (e : EngineId) : Act := look fun s =>
  let g := s.groupOf e
  let r := s.group g
  if !s.inShot e || !r.open' || !r.anchored || r.voidedNow || s.changesBefore e r.begun then skip else
  acts [passTo r.begun,
    latchFrames e, driveMarkAtt g (r.attempt > 1),
    if r.vsetTaken then skip else updGroup g fun r => { r with vset := s.vset (s.groupGuest g), vsetTaken := true }]
def execAnchorPass (e : EngineId) (s : State) : Res := done (actAnchorPass e) s

/-- Every committed entry of the engine has acted, and no window it opened is open on its receive tones (R60). -/
def State.quietTones (s : State) (e : Nat) : Bool :=
  (s.eng e).due = [] && (s.ownedTones e).all fun k => match (s.tone k).window with | some x => x.engine ≠ e | none => true

/-- The first ST at which no pulse or stream that the engine released plays on its tones (R60). -/
def State.quietAt (s : State) (e : Nat) : Stamp :=
  (s.ownedTones e).foldl (fun a k =>
    let t := s.tone k
    let a := match t.pulse with | some x => if x.engine = e then Stamp.later a x.stop else a | none => a
    match t.stream with | some x => if x.engine = e then Stamp.later a x.stop else a | none => a) s.st

/-- The restore point (R60): the checkpointed frames are restored; frames not latched yet are latched as they stand. -/
def actFrameRestore (e : EngineId) : Act := look fun s =>
  let x := s.eng e
  if !x.voided || x.restored || !s.quietTones e then skip else
  match x.ckpt with
  | none => skip
  | some c =>
    acts [passTo (Stamp.gridUp 5 (s.quietAt e)),
      look fun s => if c.latched then forEach c.frames fun kf => setFrame kf.1 s.st kf.2 else skip,
      updEng e fun r => { r with
        restored := true,
        ckpt := r.ckpt.map fun c => if c.latched then c else { c with frames := s.framesOf e, latched := true } },
      tellReady (s.groupOf e)]
def execFrameRestore (e : EngineId) (s : State) : Res := done (actFrameRestore e) s

/-! Voids and replays (R154, R323, R327 to R329) -/

/-- A message carries this attempt of a group (R329). -/
def InMsg.carries (m : InMsg) (id shot attempt : Nat) : Bool := m.attempt = some (id, shot, attempt)

/-- The inbox count a CELL page shows. -/
def setInbox (e : Nat) (l : List InMsg) : Act := updEng e fun r => { r with inbox := l }

/-- The µPC at which an engine resumes in a replay: the routine of its PREP routine's first instruction, or of the one after its SHOT
(R123, R154). -/
def State.resumeUpc (s : State) (e : Nat) : Nat :=
  match (s.eng e).ckpt with
  | some c => let r := c.prep.getD c.ret; (s.instrAt e r.page r.pc).toNat / 2 ^ 56
  | none => 0

/-- The level-0 routine is abandoned: it resumes, and save slot 1 points, where the replay will (R154). -/
def abandonRoutine (e : Nat) : Act := look fun s =>
  let upc := s.resumeUpc e
  let lvl := s.get (cellPage e) CELL.SO_STATUS_LEVEL
  acts [setF (cellPage e) CELL.SO_SAVE_UPC_UPC upc,
    updEng e fun r => { r with byMicro := false, micro := { r.micro with
      slots := r.micro.slots.set 0 { (r.micro.slots.getD 0 .init) with upc := upc }
      upc := if lvl = 0 then upc else r.micro.upc
      holdoff := if lvl = 0 then 0 else r.micro.holdoff } }]

/-- A deadline miss that voided the shot raises its stopover after the abandonment (R154). -/
def raiseMiss (e : Nat) (due : Bool) : Act := look fun s =>
  acts [updEng e fun r => { r with missDue := false }, raiseStopover e 1 (due && s.get (cellPage e) CELL.SO_CTRL_DL_EN = 1)]

/-- The void takes effect at a member (R323): entries, streams, leases, its curfew arrival and the attempt's messages go,
the level-0 routine is abandoned, and it waits for the new start. A cell that the spare is taking over is a member still. -/
def actVoidEffect (e : EngineId) : Act := look fun s =>
  let g := s.groupOf e
  let r := s.group g
  let spared := (s.blk (blockOf e)).takeover = some (cellOf e)
  if !r.open' || !r.voidedNow || !s.inShot e || (s.eng e).voided || (s.engStopped e && !spared) then skip else
  acts [discardEntries e, forEach ((s.ownedTones e).filter (· < 2048)) cutStream, releaseLeases e, clearWait e,
    setInbox e ((s.eng e).inbox.filter fun m => !m.carries (s.groupId g) r.shot r.attempt),
    updEng e fun x => { x with voided := true, restored := false, closed := false, streamsEnd := some (Stamp.gridUp 5 s.st + 256) },
    abandonRoutine e, setWait e .newStart, raiseMiss e (s.eng e).missDue, lowWater e (s.depth e), resumeSlots (blockOf e)]
def execVoidEffect (e : EngineId) (s : State) : Res := done (actVoidEffect e) s

/-- The smallest A0 + m × 2^GRID, m ≥ 1, that is at least t (R327), modulo 2^64. -/
def newStartAt (a0 : Stamp) (grid : Nat) (t : Stamp) : Stamp :=
  let d := Stamp.ahead t a0
  let m := if d ≤ 2 ^ grid then 1 else (d.toNat + (2 ^ grid - 1)) / 2 ^ grid
  a0 + BitVec.ofNat 64 (m * 2 ^ grid)

/-- The new start of a group is set. -/
def setNewStart (g : Nat) (t : Stamp) : Act := acts [updGroup g fun r => { r with newStart := t, startSet := true }, showGroup g]

/-- NEW_START: the lead's ledger sees every member restored and every takeover complete, and computes the new start
(R327), which RSTART tells the other devices (R331). `idle` are the member devices on which no member runs, `far` the hops to the
farthest member device where a route's HOPS field says three or more (log entry 122). -/
def actNewStart (g : GroupNo) (idle : BitVec 64) (far : Fin 64) : Act := look fun s =>
  let r := s.group g
  let others := s.otherDevices g
  if !r.open' || !r.voidedNow || !r.anchored || !s.leads g || !s.readyHere g || !(others.all fun d => r.readyDevs.contains d || idle.getLsbD d) then skip else
  let near := (others.map s.hopsTo).foldl max 0
  let h := if near = 3 then max 3 far.val else near
  let t := newStartAt r.anchor (s.gridOf g) (s.st + BitVec.ofNat 64 (s.replayGap g + 12000 * h))
  acts [setNewStart g t, sendLedger g .rstart [r.attempt, r.shot, 0, t.toNat]]
def execNewStart (g : GroupNo) (idle : BitVec 64) (far : Fin 64) (s : State) : Res := done (actNewStart g idle far) s

/-- A member restores its checkpoint shifted by Δ, and resumes after the SHOT, or in its PREP routine (R121 to R123). -/
def replayMember (e attempt : Nat) (delta : Stamp) : Act := look fun s =>
  let p := cellPage e
  match (s.eng e).ckpt with
  | none => skip
  | some c =>
    acts [forEach (upTo 16) fun i => setG e i (c.g.getD i 0),
      forEach (upTo 4) fun i => setT e i (c.t.getD i 0 + delta),
      forEach (upTo 4) fun i => setL e i (c.l.getD i 0),
      setCW e c.cw, setF p CELL.CW_RP 1, setF p CELL.CW_ATT attempt, setF p CELL.STATUS_ATTEMPT attempt,
      goTo e c.ret,
      updEng e fun r => { r with stack := c.stack, voided := false, restored := false, closed := false, streamsEnd := none },
      setWait e .none,
      match c.prep with | some r => callTo e c.ret r | none => skip,
      look fun s =>
        if s.get p CELL.SO_STATUS_LEVEL = 0 then dispatchHere e
        else
          let w := s.instrAt e (s.page e) (s.pc e)
          if opListed (w.toNat / 2 ^ 56) then
            acts [setF p CELL.SO_SAVE_UPC_UPC (w.toNat / 2 ^ 56), updEng e fun r => { r with micro := { r.micro with
              ir := w, slots := r.micro.slots.set 0 { (r.micro.slots.getD 0 .init) with upc := w.toNat / 2 ^ 56 } } }]
          else cellFault e .illegal]

/-- REPLAY_START: the next attempt begins at the new start (R320, R328). -/
def actReplayStart (g : GroupNo) : Act := look fun s =>
  let r := s.group g
  if !r.open' || !r.voidedNow || !r.startSet || !s.readyHere g then skip else
  let n := r.attempt + 1
  acts [updGroup g fun r => { r with voidedNow := false, startSet := false, attempt := n, begun := r.newStart, causesNow := 0,
                                     windows := 0, entries := [], readyDevs := [], expired := false, vsetTaken := false },
    forEach ((s.members g).filter fun e => s.inShot e && (s.eng e).voided) fun e => replayMember e n (r.newStart - r.anchor),
    applyEarly g, showGroup g]
def execReplayStart (g : GroupNo) (s : State) : Res := done (actReplayStart g) s

/-! Curfews (R124 to R126, R338) -/

def CurfewScope.code : CurfewScope → Nat
  | .cell => 0 | .block => 1 | .region => 2 | .chip => 3 | .group => 4

/-- The engines of a scope around an engine, on this device. -/
def State.scopeEngines (s : State) (e : Nat) : CurfewScope → List Nat
  | .cell => [e]
  | .block => enginesOfBlock (blockOf e)
  | .region => enginesOfRegion (regionOf e)
  | .chip => upTo 1024
  | .group => s.members (s.groupOf e)

/-- The participants of a curfew on this device: the running engines of the scope, for scopes 0 to 3 those leased to the
same guest. -/
def State.participants (s : State) (e : Nat) (scope : CurfewScope) : List Nat :=
  (s.scopeEngines e scope).filter fun i => !s.engStopped i && (scope = .group || s.guestOf i = s.guestOf e)

/-- The tag an engine brought to a curfew of a scope, if it waits at one. -/
def State.curfewTag (s : State) (scope : CurfewScope) (e : Nat) : Option Nat :=
  match (s.eng e).wait with
  | .curfew sc t => if sc = scope then some t else none
  | _ => none

/-- An engine arrives at a curfew. -/
def curfewAct (e : EngineId) (scope : CurfewScope) (tag : BitVec 16) : Act :=
  acts [setF (.cell e) CELL.CURFEW_STATUS_TAG tag.toNat, setF (.cell e) CELL.CURFEW_STATUS_SCOPE (CurfewScope.code scope),
    setF (.cell e) CELL.CURFEW_STATUS_WAITING 1, setWait e (.curfew scope tag.toNat)]

/-- CURFEW. -/
def actCurfew (e : EngineId) (scope : CurfewScope) (tag : BitVec 16) : Act := whenRunning e (curfewAct e scope tag)
def execCurfew (e : EngineId) (scope : CurfewScope) (tag : BitVec 16) (s : State) : Res := done (actCurfew e scope tag) s

/-- The FENCE_TAG of the unit whose scope released (R511). -/
def unitTag (e : Nat) (scope : CurfewScope) (tag : Nat) : Act :=
  match scope with
  | .block => setF (blockPage (blockOf e)) ALL.FENCE_TAG_TAG tag
  | .region => setF (regionPage (regionOf e)) ALL.FENCE_TAG_TAG tag
  | .chip => setF .chip ALL.FENCE_TAG_TAG tag
  | _ => skip

/-- The bytes of a tag record, without SEQ (R338). -/
def tagRecord (guest dev tag scope : Nat) : List Byte :=
  leBytes 1 4 ++ leBytes (guest + dev * 2 ^ 8) 4 ++ leBytes 0 40 ++ leBytes (tag + scope * 2 ^ 16) 4 ++ leBytes 0 12

/-- One participant is released (R125, R126). -/
def releaseFrom (tag own e : Nat) : Act := look fun s =>
  let p := cellPage e
  acts [setF p ALL.FENCE_TAG_TAG tag, if own = tag then skip else raiseFault p 6,
    setF p CELL.CURFEW_STATUS_WAITING 0, setF p CELL.CURFEW_STATUS_TAG 0, setF p CELL.CURFEW_STATUS_SCOPE 0,
    raiseStopover e 2 (s.get p CELL.SO_CTRL_CR_EN = 1), endWait e]

/-- CURFEW_RELEASE: every participant has arrived, and all are released together (R125, R126). `peerTag` is the tag of the
lowest-numbered device of a group curfew when that is another device, `peerOpen` whether a participant on another device has a shot open:
the watch's updates wait for a curfew at which none has. -/
def actCurfewRelease (e : EngineId) (peerTag : Option (BitVec 16)) (peerOpen : Bool) : Act := look fun s =>
  match (s.eng e).wait with
  | .curfew scope _ =>
    let ps := s.participants e scope
    let tags := ps.map (s.curfewTag scope)
    if s.time.frozen || !(tags.all Option.isSome) then skip else
    let first := (tags.headD none).getD 0
    let tag := match peerTag with
      | some t => if scope = .group && !s.leads (s.groupOf e) then t.toNat else first
      | none => first
    let guest := if scope = .group then s.groupGuest (s.groupOf e) else s.guestOf e
    acts [if ps.any s.inShot || (peerOpen && scope = .group) then skip else applyUpdates true fun i => ps.contains i,
      unitTag e scope tag,
      updLed fun l => { l with waiting := l.waiting ++ [⟨regionOf (ps.headD e), guest,
        tagRecord guest s.fabricId tag (CurfewScope.code scope), some tag⟩] },
      forEach ps fun i => releaseFrom tag ((s.curfewTag scope i).getD 0) i]
  | _ => skip
def execCurfewRelease (e : EngineId) (peerTag : Option (BitVec 16)) (peerOpen : Bool) (s : State) : Res :=
  done (actCurfewRelease e peerTag peerOpen) s

end Sys2Proof.Machine
end

