-- ==== Sys2Proof/Machine/Branch.lean ====
section
/-! DEFINITION. Stamped feedback: arming a branch, the arrival of what it waits for, and its resolution at its deadline
(R110 to R118, R141, R219, R220, R392). -/

namespace Sys2Proof.Machine

/-! Staging the first instruction of a path (R141) -/

/-- A path whose first instruction enqueues nothing. -/
def Staged.empty : Staged := ⟨false, [], none, none, false⟩

/-- T[TS] at a path's first instruction: P where the branch writes it. -/
def State.tregAt (s : State) (e : Nat) (move : Option (Nat × Stamp)) (i : Nat) : Stamp :=
  match move with
  | some (j, p) => if i = j then p else s.treg e i
  | none => s.treg e i

/-- The entries a timed instruction stages, with its checks. -/
def State.stageTimed (s : State) (op : TimedOp) (e : Nat) (move : Option (Nat × Stamp)) (i : Timed) : Staged :=
  let idx := s.ctxIndex e i.ctx
  let stamp := s.tregAt e move i.ts + BitVec.ofNat 64 i.toff.toNat
  let c := s.captured e idx none
  if !s.ctxLeased e idx then ⟨true, [], none, some CellFaultBit.route.code, false⟩
  else if s.ctxBad e idx none && s.inShot e then ⟨true, [], none, none, true⟩
  else if !classOk op c then ⟨true, [], none, some CellFaultBit.cls.code, false⟩
  else if !s.routeOk e c then ⟨true, [], none, some CellFaultBit.route.code, false⟩
  else ⟨true, timedEntries op stamp idx c, timedWrite op i stamp c, none, false⟩

/-- A staged single entry that names no context. -/
def stageOne (ok : Bool) (x : Entry) : Staged :=
  if ok then ⟨true, [x], none, none, false⟩ else ⟨true, [], none, some CellFaultBit.route.code, false⟩

/-- What the branch unit stages for a path: the entries of its first instruction if that enqueues at most two, which PLAY,
ACQUIRE, STREAM, SETFRQ, SHIFTPH and SIGNAL all do. `move` is the branch's own T[TS] write. -/
def State.stagePath (s : State) (e : EngineId) (move : Option (Nat × Stamp)) (w : DWord) : Staged :=
  match decodeEng e w with
  | .ok (.play _ i ..) => s.stageTimed .play e move i
  | .ok (.acquire _ i ..) => s.stageTimed .acquire e move i
  | .ok (.stream _ i ..) => s.stageTimed .stream e move i
  | .ok (.setfrq _ ts tgt a b toff _) =>
    stageOne (s.owns e (frameTone e tgt)) (plainEntry .freqSet (FrameTarget.entryClass tgt) tgt.idx.toNat
      (s.tregAt e move ts + BitVec.ofNat 64 toff.toNat)
      (BitVec.ofNat 48 ((s.greg e a).toNat % 2 ^ 16 * 2 ^ 32 + (s.greg e b).toNat)))
  | .ok (.shiftph _ ts set tgt v toff _) =>
    stageOne (s.owns e (frameTone e tgt)) (plainEntry (if set then .phaseSet else .phaseAdd) (FrameTarget.entryClass tgt)
      tgt.idx.toNat (s.tregAt e move ts + BitVec.ofNat 64 toff.toNat) (BitVec.ofNat 48 (s.phaseValue e v).toNat))
  | .ok (.signal _ ts level m toff _) =>
    stageOne (Nat.testBit (s.get (.cell e) CELL.MARK_ROUTE_OWN) m) (plainEntry .mark .marker m.val
      (s.tregAt e move ts + BitVec.ofNat 64 toff.toNat) (BitVec.ofNat 48 (b2n level)))
  | _ => Staged.empty

/-! Arming (R110, R113, R141) -/

/-- BRANCH_LEAD: a branch resolves 640 ST before P (R113). -/
def branchLead : Stamp := 640

/-- Arm the branch unit: P, the deadline, both paths. An engine that reaches the branch at or after D misses (R113). -/
def armBranch (e : EngineId) (b : BranchArgs) (src : BranchSource) : Act := look fun s =>
  let ref := s.treg e b.ts
  let p := ref + BitVec.ofNat 64 (8 * b.dgap.toNat)
  let move := if b.keep then none else some (b.ts.val, p)
  let page := s.page e
  let next := (s.pc e + 1) % 4096
  let x : Branch :=
    { src := src, ts := b.ts.val, ref := ref, dflt := b.dflt, keep := b.keep, mask := b.mask.toNat, play := p, result := none,
      missed := Stamp.atOrAfter s.st (p - branchLead), taken := s.stagePath e move (s.instrAt e page b.target.toNat),
      fallen := s.stagePath e move (s.instrAt e page next), target := b.target.toNat, next := next }
  acts [updEng e fun r => { r with branch := some x, micro := { r.micro with branchDone := false } },
    if (s.eng e).byMicro then finish e else skip, setWait e .branch]

/-- BRD. -/
def actBrd (e : EngineId) (b : BranchArgs) (remote : Option (Fin 64)) (tone : Fin 1024) (mismatch : Bool) : Act :=
  whenRunning e (compared e mismatch (armBranch e b (.tone (remote.map (·.val)) tone.val)))
def execBrd (e : EngineId) (b : BranchArgs) (remote : Option (Fin 64)) (tone : Fin 1024) (mismatch : Bool) (s : State) : Res :=
  done (actBrd e b remote tone mismatch) s

/-- BRF. -/
def actBrf (e : EngineId) (b : BranchArgs) (remote : Option (Fin 64)) (region : RegionId) (func : Fin 256)
    (mismatch : Bool) : Act := whenRunning e (compared e mismatch (armBranch e b (.func (remote.map (·.val)) region.val func.val)))
def execBrf (e : EngineId) (b : BranchArgs) (remote : Option (Fin 64)) (region : RegionId) (func : Fin 256) (mismatch : Bool)
    (s : State) : Res := done (actBrf e b remote region func mismatch) s

/-- BRT. -/
def actBrt (e : EngineId) (b : BranchArgs) (u : TriggerId) (mismatch : Bool) : Act :=
  whenRunning e (compared e mismatch (armBranch e b (.trigger u)))
def execBrt (e : EngineId) (b : BranchArgs) (u : TriggerId) (mismatch : Bool) (s : State) : Res := done (actBrt e b u mismatch) s

/-- BRM. -/
def actBrm (e : EngineId) (b : BranchArgs) (dev : Fin 64) (tag : BitVec 16) (mismatch : Bool) : Act :=
  whenRunning e (compared e mismatch (armBranch e b (.message dev.val tag.toNat)))
def execBrm (e : EngineId) (b : BranchArgs) (dev : Fin 64) (tag : BitVec 16) (mismatch : Bool) (s : State) : Res :=
  done (actBrm e b dev tag mismatch) s

/-! What a branch waits for (R112, R114, R115, R219, R220, R392) -/

/-- Word `w` of decision function `f` of region `n` (R225). -/
def State.funcWord (s : State) (n f w : Nat) : Nat := s.word .functions ((256 * n + f) * 136 + w)

/-- Input selector `i` of a function (R221, R225). -/
def State.selector (s : State) (n f i : Nat) : Nat := s.funcWord n f (128 + i / 2) >>> (16 * (i % 2)) % 2 ^ 16

/-- The tones behind a function (R220). -/
def State.funcTones (s : State) (n f : Nat) : List Nat :=
  ((upTo 12).filter fun i => s.selector n f i / 2 ^ 13 = 1).map fun i => s.selector n f i % 1024

/-- The engine that owns readout tone u, if any (R34). -/
def State.toneOwner (s : State) (u : Nat) : Option Nat :=
  if s.readTone u = some u then some u
  else (enginesOfRegion (u / 128)).find? fun e => s.readTone e = some u

/-- A tone's slot is valid but for its result's VALID (R219): owned, its feedline available, its region not quarantined. -/
def State.toneUsable (s : State) (u : Nat) : Bool :=
  (s.toneOwner u).isSome && s.get (rxPage (u / 32)) TRANSCEIVER.RX_STATUS_COND ≠ 3
    && !s.pageIs (regionPage (u / 128)) .quarantined

/-- A function's slot is usable: its DECISION page READY (R507), its region not quarantined. -/
def State.funcUsable (s : State) (n : Nat) : Bool := s.pageIs (decPage n) .ready && !s.pageIs (regionPage n) .quarantined

/-- Whether the network delivers a source to an engine (R220): every tone behind it is owned in the engine's lease. -/
def State.delivers (s : State) (e : Nat) (tones : List Nat) : Bool :=
  s.guestOf e = 0 || tones.all fun u => match s.toneOwner u with | some o => s.guestOf o = s.guestOf e | none => false

/-- The number of a remote slot (R392). -/
def remoteSlot (dev kind index : Nat) : Nat := 4096 + 4096 * dev + 2048 * kind + index

/-- The decision slot a source names: the slot, whether it counts as valid for the engine, and the region whose DECISION.FOREIGN counts a
foreign delivery. DESIGN CHOICE: R220 names no region; the source's counts (log entry 110). -/
def State.sourceSlot (s : State) (e : Nat) : BranchSource → Option (DecSlot × Bool × Option Nat)
  | .tone none u => some (s.slot u, s.toneUsable u && s.delivers e [u], if s.delivers e [u] then none else some (u / 128))
  | .func none n f =>
    let ts := s.funcTones n f
    some (s.slot (1024 + 256 * n + f), s.funcUsable n && s.delivers e ts, if s.delivers e ts then none else some n)
  | .tone (some d) u =>
    let x := s.slot (remoteSlot d 0 u)
    some (x, s.groupId (s.groupOf e) = x.group, none)
  | .func (some d) n f =>
    let x := s.slot (remoteSlot d 1 (256 * n + f))
    some (x, s.groupId (s.groupOf e) = x.group, none)
  | _ => none

def triggerNo : TriggerId → Nat
  | .tone u => u.val
  | .raw t => 1024 + t.val
  | .ext i => 1056 + i.val

/-- A trigger branch's outcome, once known (R114). -/
def State.triggerOutcome (s : State) (b : Branch) (u : TriggerId) : Option Nat :=
  let t := s.trig (triggerNo u)
  let first := b.ref - BitVec.ofNat 64 (32 * 2 ^ b.mask)
  if t.firings.any fun f => Stamp.atOrAfter f first && f ≠ b.ref && Stamp.atOrAfter b.ref f then some 1
  else if Stamp.atOrAfter t.progress b.ref then some 0
  else none

/-- DECISION_ARRIVAL: the branch unit takes what its source holds now: the result of the matching window end, a later one
that makes the branch miss, a trigger's outcome; after D nothing is used (R113). A result that OVR_VOID lets void voids the
engine's shot (R217). A message is matched at D (R115). -/
def actDecisionArrival (e : EngineId) : Act := look fun s =>
  match (s.eng e).branch with
  | none => skip
  | some b =>
    if b.missed || b.result.isSome || !Stamp.atOrAfter (b.play - branchLead) s.st then skip else
    let set (x : Branch) : Act := updEng e fun r => { r with branch := some x }
    match b.src with
    | .trigger u => match s.triggerOutcome b u with | some v => set { b with result := some v } | none => skip
    | .message .. => skip
    | src => match s.sourceSlot e src with
      | none => skip
      | some (x, ok, foreign) =>
        acts [match foreign with | some n => countF (decPage n) DECISION.FOREIGN_COUNT | none => skip,
          if !x.seen then skip
          else if x.w = b.ref then
            (if ok && x.valid then acts [set { b with result := some x.value }, if x.voids then voidShot e [.ovr] else skip] else skip)
          else if Stamp.atOrAfter x.w b.ref then set { b with missed := true } else skip]
def execDecisionArrival (e : EngineId) (s : State) : Res := done (actDecisionArrival e) s

/-! Resolution (R113, R115 to R118, R141) -/

/-- The oldest inbox message from a device with a tag that arrived at or before D (R115). -/
def oldestMsg (dev tag : Nat) (d : Stamp) (l : List InMsg) : Option InMsg :=
  l.find? fun m => m.dev = dev && m.tag = tag && Stamp.atOrAfter d m.arrival

def dropMsg (x : InMsg) : List InMsg → List InMsg
  | [] => []
  | y :: ys => if y = x then ys else y :: dropMsg x ys

/-- Whether a value takes the branch: MASK[v], or for BRT the outcome itself (R110, R111, R114). -/
def Branch.takes (b : Branch) (v : Nat) : Bool :=
  match b.src with
  | .trigger _ => v = 1
  | _ => Nat.testBit b.mask (v % 4)

/-- A branch that names another device's result or message. -/
def Branch.remote (b : Branch) : Bool :=
  match b.src with
  | .tone (some _) _ | .func (some _) _ _ | .message .. => true
  | _ => false

/-- The branch unit follows a path (R141): a path whose first instruction could not be staged goes on at that instruction; of a staged one
the entries are enqueued, then the T[TD] write and PC past it follow. A check that failed on the path is a cell fault now, an uncorrectable
context voids the shot (R307). -/
def followPath (e start : Nat) (p : Staged) (taken : Bool) : Act :=
  let finish (pc : Nat) : Act := endBranch e ⟨[], none, pc, taken⟩
  if !p.built then finish start
  else match p.fault with
    | some bit => acts [finish start, match bit with | 2 => cellFault e .route | _ => cellFault e .cls]
    | none =>
      if p.ecc then acts [finish (start + 1), voidShot e [.ecc]] else branchSteps e ⟨p.entries, p.tWrite, start + 1, taken⟩ p.entries

/-- A branch's outcome is known: T[TS] := P unless KEEP, and CW.BT. -/
def closeBranch (e : Nat) (b : Branch) (taken : Bool) : Act :=
  acts [if b.keep then skip else setT e b.ts b.play, setB (cellPage e) CELL.CW_BT taken, updEng e fun r => { r with branch := none }]

/-- A branch misses (R117, R118, R154): its default, DL_MISS, the void with its causes, and the default path on the
final attempt or outside a shot. The stopover follows at the next boundary, or after the abandonment of a voided shot. -/
def missBranch (e : Nat) (b : Branch) : Act := look fun s =>
  let g := s.groupOf e
  let causes := if b.remote && (s.group g).expired then [Cause.dlMiss, .expired] else [.dlMiss]
  let rewinds := s.inShot e && (s.group g).attempt < s.maxAttempts g
  acts [closeBranch e b b.dflt, countF (cellPage e) CELL.DL_MISS_COUNT,
    if s.inShot e then voidGroup g (causeBits causes) true else skip,
    if rewinds then look fun s => if s.engStopped e then skip else
      acts [updEng e fun r => { r with missDue := true, byMicro := false, micro := { r.micro with branchDone := true, branchTaken := b.dflt } },
        setWait e .newStart]
    else acts [if b.dflt then followPath e b.target b.taken true else followPath e b.next b.fallen false, raiseMiss e true]]

/-- BRANCH_RESOLVE: at D the branch resolves on its result, or misses; its entries are compared with the spare's (R26). -/
def actBranchResolve (e : EngineId) (mismatch : Bool) : Act := look fun s =>
  match (s.eng e).branch with
  | none => skip
  | some b =>
    if s.time.frozen || s.engStopped e then skip else
    let d := b.play - branchLead
    let (value, msg) : Option Nat × Option InMsg := match b.src with
      | .message dev tag => match oldestMsg dev tag d (s.eng e).inbox with
        | some m => (some (m.payload.toNat % 4), some m)
        | none => (none, none)
      | _ => (b.result, none)
    acts [passTo d, compared e mismatch (
      if b.missed then missBranch e b
      else match value with
        | none => missBranch e b
        | some v =>
          let taken := b.takes v
          acts [match msg with | some m => setInbox e (dropMsg m (s.eng e).inbox) | none => skip,
            closeBranch e b taken,
            if taken then followPath e b.target b.taken true else followPath e b.next b.fallen false])]
def execBranchResolve (e : EngineId) (mismatch : Bool) (s : State) : Res := done (actBranchResolve e mismatch) s

end Sys2Proof.Machine
end

