-- ==== Sys2Proof/Machine/Keys.lean ====
section
/-! DEFINITION. OTP fuses and signed images (R157, R159, R465, R468 to R470), and the loader's checks and trace (R119, R130,
R311, R548). -/

namespace Sys2Proof.Machine

/-! OTP fuses (R468) -/

/-- A field of the OTP as its first word and its length in words. -/
def State.fuse (s : State) (first n : Nat) : Nat := (upTo n).foldl (fun a i => a + s.word .fuses (first + i) * 2 ^ (32 * i)) 0

def State.fuseSerial (s : State) : Nat := s.fuse 0 2
def State.rootDigest (s : State) : Nat := s.fuse 2 16
def State.ownerDigest (s : State) : Nat := s.fuse 18 16
/-- The life-cycle state, as a count of blown fuse bits. -/
def State.lc (s : State) : Nat := s.word .fuses 34
/-- FW_FLOOR, as a count of blown fuse bits. -/
def State.fwFloor (s : State) : Nat := s.word .fuses 35
def State.fusePart (s : State) : Nat := s.word .fuses 36
def State.deviceSecret (s : State) : Nat := s.fuse 37 8

/-! Phirr images (R157, R469) -/

/-- The public key of an image at byte address `a`. -/
def State.imageKey (s : State) (a : Nat) : List Byte := s.byteList (a + 0x20) 64

/-- MAGIC, FORMAT and KIND. -/
def State.imageKind (s : State) (a : Nat) : Option Nat :=
  if s.bytes a 4 = 0x52494850 && s.bytes (a + 4) 2 = 1 then some (s.bytes (a + 6) 2) else none

/-- TARGET and the stepping's bit in STEPPINGS. -/
def State.imageTarget (s : State) (a : Nat) : Bool :=
  s.bytes (a + 8) 4 = 0x1024 && Nat.testBit (s.bytes (a + 0xC) 2) (s.get .chip CHIP.PART_REV_STEP)

/-- The key of an image: its slot, and the digest of its public key against the fused one. -/
def State.imageKeyOk (s : State) (a : Nat) (slots : List Nat) : Bool :=
  let slot := s.bytes (a + 0x14) 2
  let d := (Config.shake256 (s.imageKey a)).toNat
  slots.contains slot && (if slot = 0 then d = s.rootDigest else 1 ≤ s.lc && s.lc ≤ 3 && d = s.ownerDigest)

/-- The signature over the `n` bytes before it. -/
def State.imageSigned (s : State) (a n : Nat) : Bool :=
  Config.verifies (s.imageKey a) (s.byteList a n) (s.byteList (a + n) 29792)

/-- KEY_SLOT values a kind may use in the present life-cycle state (R465, R466, R469). -/
def State.slotsFor (s : State) (kind : Nat) : List Nat :=
  let both := if s.lc = 0 || s.lc = 3 then [0] else if s.lc = 4 then [] else [0, 1]
  match kind with
  | 1 => if s.lc = 4 then [] else [0]
  | 2 | 3 => both
  | 4 => if s.lc = 0 || s.lc = 3 then [0] else [1]
  | 5 => if s.lc = 1 then [1] else if s.lc = 3 then [0] else []
  | _ => []

/-- PAYLOAD_LEN of an image that is not microcode. -/
def State.payloadLen (s : State) (a : Nat) : Nat := s.bytes (a + 0x60) 4

/-- The checks of R470 that concern the image itself, for one kind: the first failing REASON. -/
def State.imageReason (s : State) (a kind : Nat) : Option Nat :=
  let len := s.payloadLen a
  let reserved := s.bytes (a + 0x17) 9 = 0 && s.bytes (a + 0xE) 2 = 0 && s.bytes (a + 0x64) 28 = 0
    && (kind = 1 || s.bytes (a + 0x16) 1 = 0)
  if s.imageKind a ≠ some kind || !reserved || len % 16 ≠ 0 || len < 16 || len > 67108864 || (kind = 1 && len > 4194304) then some 2
  else if !s.imageTarget a then some 3
  else if !s.imageKeyOk a (s.slotsFor kind) then some 4
  else if !s.imageSigned a (0x80 + len) then some 5
  else none

/-! The loader (R119, R130, R311, R548) -/

/-- The targets of an instruction that a load checks against its length. -/
def targetsOf : Instr → List Nat
  | .jump _ t | .loop _ _ (.back t) | .prep _ _ t | .brc _ _ _ t | .call _ (.program t) => [t.toNat]
  | .brd _ b .. | .brf _ b .. | .brt _ b .. | .brm _ b .. => [b.target.toNat]
  | _ => []

/-- The least LAT a branch of an engine in region `n` may declare; `exact` where it must be that one (R119). -/
def latNeeded (n : Nat) : Instr → Option (BranchArgs × Nat × Bool)
  | .brd _ b r u _ => some (b, if r.isSome then 2 else if u.val / 128 ≠ n then 1 else 0, r.isSome)
  | .brf _ b r m .. => some (b, if r.isSome then 2 else if m.val ≠ n then 1 else 0, r.isSome)
  | .brt _ b u _ => some (b, match u with
      | .tone u => if u.val / 128 ≠ n then 1 else 0
      | .raw t => if t.val / 4 ≠ n then 1 else 0
      | .ext i => if i.val / 2 ≠ n then 1 else 0, false)
  | .brm _ b .. => some (b, 2, true)
  | _ => none

/-- The least DGAP of a path class (R119). -/
def minDgap (lat : Nat) : Nat := match lat with | 0 => 250 | 1 => 280 | _ => 600

/-- The immediate context index a timed instruction names. -/
def immCtx : Instr → Option Nat
  | .play _ i .. | .acquire _ i .. | .stream _ i .. => match i.ctx with | .imm c => some c.toNat | .reg _ => none
  | _ => none

/-- The reasons of one instruction but for the trace, lowest code first. A library instruction's targets lie in its page (R311). -/
def State.instrReasons (s : State) (e len : Nat) (lib : Bool) (w : DWord) : List Nat :=
  match decodeEng (Fin.ofNat 1024 e) w with
  | .error r => [r]
  | .ok i =>
    (if (targetsOf i).any fun t => (if lib then 4096 else len) ≤ t then [3] else [])
      ++ (match latNeeded (regionOf e) i with
        | some (b, need, exact) =>
          (if b.lat.val < 3 && b.dgap.toNat < minDgap b.lat.val then [4] else [])
            ++ (if b.lat.val = 3 || b.lat.val < need || (exact && b.lat.val ≠ need) then [5] else [])
        | none => [])
      ++ (match immCtx i with | some c => if lib || s.ctxLeased e c then [] else [7] | none => [])

/-- A fact of the trace: the entry that reached it (index, state) and the instruction index with its state: 0 no shot
open, 1 open, 2 open with a timed instruction passed. -/
abbrev TraceFact := (Nat × Nat) × (Nat × Nat)

/-- The facts that follow from one fact, by a word's opcode and target field alone: a word that another check rejects is traced like any
other (R548). A routine's facts count for its caller's entry too, so that "any RET reachable from that TARGET" takes in those of the routines
it calls (DEDUCED, log entry 101). -/
def traceNext (code : Nat → DWord) (len : Nat) (facts : List TraceFact) (x : TraceFact) : List TraceFact :=
  let (root, i, st) := x
  let n := (code i).toNat
  let t := bitsOf n 35 24
  let goes (j st' : Nat) : List TraceFact := if j < len then [(root, j, st')] else []
  let enter : List TraceFact :=
    (if t < len then [((t, st), (t, st)), (root, t, st)] else [])
      ++ ((facts.filter fun y => y.1 = (t, st) && bitsOf (code y.2.1).toNat 63 56 = 0x22).flatMap fun y => goes (i + 1) y.2.2)
  match bitsOf n 63 56 with
  | 0x01 | 0x22 => []
  | 0x20 => goes t st
  | 0x38 => goes (i + 1) (if bitOf n 55 = 1 then 0 else 1)
  | 0x10 | 0x11 | 0x12 => goes (i + 1) (if st = 1 then 2 else st)
  | 0x23 => (if bitOf n 53 = 1 then [] else goes t st) ++ goes (i + 1) st
  | 0x30 | 0x31 | 0x32 | 0x33 | 0x34 => goes t st ++ goes (i + 1) st
  | 0x21 => if bitOf n 55 = 1 then goes (i + 1) st else enter
  | 0x39 => goes (i + 1) st ++ (if st = 0 then [] else enter)
  | _ => goes (i + 1) st

/-- Close a set of facts, in at most `fuel` rounds. -/
def traceClose (code : Nat → DWord) (len : Nat) : Nat → List TraceFact → List TraceFact
  | 0, facts => facts
  | n + 1, facts =>
    let new := ((facts.flatMap (traceNext code len facts)).filter fun y => !facts.contains y).eraseDups
    if new.isEmpty then facts else traceClose code len n (facts ++ new)

/-- The trace over an image: every index is an entry with no shot open (R548). -/
def traceImage (code : Nat → DWord) (len : Nat) : List TraceFact :=
  traceClose code len (9 * len * len + 1) ((upTo len).map fun i => ((i, 0), (i, 0)))

/-- The trace's reasons at an index: 6 for a WATCH with a shot open, 9 for a PREP after a timed instruction. -/
def traceReasons (code : Nat → DWord) (facts : List TraceFact) (i : Nat) : List Nat :=
  let sts := (facts.filter fun y => y.2.1 = i).map (·.2.2)
  match bitsOf (code i).toNat 63 56 with
  | 0x19 => if sts.any (· ≠ 0) then [6] else []
  | 0x39 => if sts.any (· = 2) then [9] else []
  | _ => []

/-- The first failure of an image of `len` instructions: reason and index (R130). -/
def State.loadFailure (s : State) (e len : Nat) (lib : Bool) (word : Nat → DWord) : Option (Nat × Nat) :=
  let facts := traceImage word len
  (upTo len).findSome? fun i =>
    ((s.instrReasons e len lib (word i) ++ traceReasons word facts i).foldl (fun (a : Option Nat) r =>
      match a with | some x => some (min x r) | none => some r) none).map fun r => (r, i)

/-! CELL loads (R130, R131, R475) -/

/-- CTRL.LOAD: a load begins, or is ignored and sets RWL_WRITE while the engine runs or a load is in progress. -/
def actLoad (fn : FuncId) (e : EngineId) : Act := forCell fn e (look fun s =>
  let p := Page.cell e
  if !s.engStopped e || s.get p CELL.LOAD_STATUS_BUSY = 1 then raiseFault p 8
  else acts [setF p CELL.LOAD_STATUS_BUSY 1, setF p CELL.LOAD_STATUS_DONE 0,
    updEng e fun r => { r with loadFrom := s.get p CELL.LOAD_SRC_LO * 8 + s.get p CELL.LOAD_SRC_HI * 2 ^ 32,
                               loadLen := s.get p CELL.LOAD_LEN_LEN }])
def execLoad (fn : FuncId) (e : EngineId) (s : State) : Res := done (actLoad fn e) s

/-- The result of a load of a CELL or BLOCK page. -/
def loadResult (p : Page) (busy doneF ok reason index : Field) (r : Option (Nat × Nat)) : Act :=
  acts [setF p busy 0, setF p doneF 1, setB p ok r.isNone, setF p reason ((r.map (·.1)).getD 0),
    setF p index ((r.map (·.2)).getD 0)]

/-- LOAD_DONE: the length is checked before the source (DESIGN CHOICE, log entry 102: R130 orders neither before the other), then the image; an accepted one is copied into the program area and into the loader's kept copy (R343)
and measured; a held start acts. -/
def actLoadDone (e : EngineId) : Act := look fun s =>
  let p := Page.cell e
  let a := (s.eng e).loadFrom
  let len := (s.eng e).loadLen
  if s.get p CELL.LOAD_STATUS_BUSY = 0 then skip else
  let bytes := s.byteList a (8 * len)
  let r : Option (Nat × Nat) :=
    if len = 0 || len > 4096 then some (8, 0)
    else if !s.memRange (s.guestOf e) a (8 * len) then some (3, 0)
    else s.loadFailure e len false fun i => BitVec.ofNat 64 (s.bytes (a + 8 * i) 8)
  acts [loadResult p CELL.LOAD_STATUS_BUSY CELL.LOAD_STATUS_DONE CELL.LOAD_STATUS_OK CELL.LOAD_STATUS_REASON
      CELL.LOAD_STATUS_INDEX r,
    if r.isSome then skip
    else acts [storeList (spadAddr e 0) bytes, storeList (keptProgAddr e 0) bytes, extendMeasure 3 bytes e.val],
    actHeld e]
def execLoadDone (e : EngineId) (s : State) : Res := done (actLoadDone e) s

end Sys2Proof.Machine
end

