-- ==== Sys2Proof/Machine/Outputs.lean ====
section
/-! DEFINITION. Output conditions and their commands (R36 to R40, R163 to R165, R191, R545), unstamped writes (R19, R189),
and what a TONE_START and a FLUX_PULSE play (R167, R170, R171, R190). -/

namespace Sys2Proof.Machine

/-! Conditions (R40, R191, R545) -/

/-- An enable is refused: the page is not READY, which a quarantined unit's page never is, or CRIT is in force (R37, R40). -/
def State.enableRefused (s : State) (p : Page) : Bool := !s.pageIs p .ready || s.crit

/-- POWERING where the page shows it; a FLUX page shows COND only (R195). -/
def showPowering (o : OutputId) (b : Bool) : Act :=
  match o with | .flux _ => skip | _ => setB (outputPage o) OUTP.OUT_STATUS_POWERING b

def showSettling (o : OutputId) (b : Bool) : Act :=
  match o with | .flux _ => skip | _ => setB (outputPage o) OUTP.OUT_STATUS_SETTLING b

/-- An ENABLE that nothing refuses or delays: from MUTED to LIVE, from INERT to powering the DAC core (R191). -/
def enableNow (o : OutputId) : Act := look fun s =>
  let c := s.cond o
  if c = Cond.muted.code then setCond o .live
  else if c = Cond.inert.code then
    acts [updOutput (outputNo o) fun r => { r with powering := true }, showPowering o true]
  else skip

/-- OUT_CMD.ENABLE: refused, waiting while SETTLING = 1, or acting (R40, R165, R191). -/
def actOutEnable (o : OutputId) : Act := look fun s =>
  if s.enableRefused (outputPage o) then raiseFault (outputPage o) 1
  else if (s.output (outputNo o)).settling then
    (if s.cond o ≤ Cond.muted.code then updOutput (outputNo o) fun r => { r with enableWaits := true } else skip)
  else enableNow o
def execOutEnable (o : OutputId) (s : State) : Res := done (actOutEnable o) s

/-- OUT_CMD.MUTE: MUTED from any condition (R39, R191); a powering ENABLE ends. -/
def actOutMute (o : OutputId) : Act := acts [dropEnable o, setCond o .muted]
def execOutMute (o : OutputId) (s : State) : Res := done (actOutMute o) s

/-- OUT_CMD.DISABLE: INERT. -/
def actOutDisable (o : OutputId) : Act := forceInert o
def execOutDisable (o : OutputId) (s : State) : Res := done (actOutDisable o) s

/-- OUT_CMD.CLR_COUNTS: CLIP_COUNT and every TONE_COUNT. -/
def actOutClrCounts (o : OutputId) : Act :=
  match o with
  | .flux f => setF (.flux f) FLUX.CLIP_COUNT_COUNT 0
  | _ => acts [setF (outputPage o) OUTP.CLIP_COUNT_COUNT 0,
      forEach (upTo (slotsOf o)) fun i => acts [setF (outputPage o) (OUTP.TONE_COUNT_UNDERRUN i) 0,
        setF (outputPage o) (OUTP.TONE_COUNT_LATE_JUMP i) 0]]
def execOutClrCounts (o : OutputId) (s : State) : Res := done (actOutClrCounts o) s

/-- The DAC core is powered: an ENABLE that began from INERT ends in LIVE (R191). -/
def actOutputPowered (o : OutputId) : Act := look fun s =>
  if (s.output (outputNo o)).powering then
    acts [updOutput (outputNo o) fun r => { r with powering := false }, showPowering o false,
      if s.cond o = Cond.inert.code then setCond o .live else skip]
  else skip
def execOutputPowered (o : OutputId) (s : State) : Res := done (actOutputPowered o) s

/-- The fields of a configuration register of an output; none where the page has no such register. -/
def cfgWrite (o : OutputId) (r : OutCfgReg) (v : Nat) : Option Act :=
  match o, r with
  | .flux f, .pdCtrl => some (setF (.flux f) FLUX.PD_CTRL_EN v)
  | .flux f, .pd k => some (acts [setF (.flux f) (FLUX.PD_A k) v, setF (.flux f) (FLUX.PD_TAU k) (v / 2 ^ 16)])
  | .flux _, _ => none
  | _, .mode => some (setF (outputPage o) OUTP.OUT_CFG_MODE v)
  | _, .fs => some (setF (outputPage o) OUTP.FS_CODE v)
  | _, _ => none

/-- A write to OUT_CFG, FS, PD_CTRL or PD_k: accepted while INERT or MUTED, else CFG_BUSY (R165, R188). -/
def actOutCfgWrite (o : OutputId) (r : OutCfgReg) (v : Word) : Act := look fun s =>
  match cfgWrite o r v.toNat with
  | none => skip
  | some a =>
    if s.cond o ≤ Cond.muted.code then
      acts [a, updOutput (outputNo o) fun x => { x with settling := true }, showSettling o true]
    else raiseFault (outputPage o) 0
def execOutCfgWrite (o : OutputId) (r : OutCfgReg) (v : Word) (s : State) : Res := done (actOutCfgWrite o r v) s

/-- A configuration has settled; an ENABLE that waited acts (R165). -/
def actOutputSettled (o : OutputId) : Act := look fun s =>
  acts [updOutput (outputNo o) fun x => { x with settling := false, enableWaits := false }, showSettling o false,
    if (s.output (outputNo o)).enableWaits then actOutEnable o else skip]
def execOutputSettled (o : OutputId) (s : State) : Res := done (actOutputSettled o) s

/-- The ACQUISITION page of a marker. -/
def markPage (m : Nat) : Page := acqPage (m / 2)

/-- MARK_CMD.ENABLE; the marker takes the next level released to it (R545). -/
def actMarkEnable (m : Fin 16) : Act := look fun s =>
  if s.enableRefused (markPage m) || s.pageIs (regionPage (m / 2)) .quarantined then raiseFault (markPage m) 3
  else if s.markerCond m ≤ Cond.muted.code then setMarkCond m .live else skip
def execMarkEnable (m : Fin 16) (s : State) : Res := done (actMarkEnable m) s

/-- MARK_CMD.MUTE. -/
def actMarkMute (m : Fin 16) : Act := acts [setMarkCond m .muted, setLevel m false]
def execMarkMute (m : Fin 16) (s : State) : Res := done (actMarkMute m) s

/-- MARK_CMD.DISABLE. -/
def actMarkDisable (m : Fin 16) : Act := forceMarkInert m
def execMarkDisable (m : Fin 16) (s : State) : Res := done (actMarkDisable m) s

/-- An unstamped write takes effect, and EVENT_COUNT of its page records it (R19, R511). -/
def unstamped (p : Page) (a : Act) : Act := acts [a, wrapF p ALL.EVENT_COUNT_COUNT]

/-- UNSTAMPED_WRITE_APPLY: BIAS, OUT_GAIN, JUMP_LEAD or RX_TONE_CFG takes its value. -/
def actUnstampedWriteApply (r : UnstampedReg) (v : Word) : Act :=
  match r with
  | .bias f => unstamped (.flux f) (setF (.flux f) FLUX.BIAS_CODE v.toNat)
  | .outGain (.flux _) | .jumpLead (.flux _) => skip
  | .outGain o => unstamped (outputPage o) (setF (outputPage o) OUTP.OUT_GAIN_GAIN v.toNat)
  | .jumpLead o => unstamped (outputPage o) (setF (outputPage o) OUTP.JUMP_LEAD_LEAD v.toNat)
  | .rxToneCfg t i => unstamped (.transceiver t)
      (acts [setF (.transceiver t) (TRANSCEIVER.RX_TONE_CFG_SHIFT i) v.toNat,
        setF (.transceiver t) (TRANSCEIVER.RX_TONE_CFG_CSHIFT i) (v.toNat / 2 ^ 8)])
def execUnstampedWriteApply (r : UnstampedReg) (v : Word) (s : State) : Res := done (actUnstampedWriteApply r v) s

/-- RATE outside its limits sets RATE_RANGE on the page of the output (R170, R187). -/
def rateCheck (p : Page) (flux : Bool) (c : BitVec 512) : Act :=
  if playedRate flux c = Ctx.rate c then skip else raiseFault p 2

/-- What played on a tone ends at the stamp of a new pulse or stream; OVERLAP where something still played (R171). -/
def cutTone (key : Nat) (t : Stamp) : Act := look fun s =>
  acts [if (s.tone key).playsAt t then
      (let (o, slot) := toneOutput key; setF (outputPage o) (OUTP.TONE_STATUS_OVERLAP slot) 1) else skip,
    endTone key]

/-- TONE_START: the tone plays the captured context; a DURATION of 0 plays nothing (R167, R171). -/
def actToneStart (e : EngineId) : Act := atStamp e .toneStart fun x =>
  let key := entryTone e x
  acts [cutTone key x.stamp, rateCheck (outputPage (toneOutput key).1) false x.ctx,
    if Ctx.duration x.ctx = 0 then skip
    else updTone key fun t => { t with pulse := some ⟨x.ctx, x.stamp, x.stop, e, x.silent⟩ },
    showTone key]
def execToneStart (e : EngineId) (s : State) : Res := done (actToneStart e) s

/-- FLUX_PULSE: it plays from g, the first flux sample at or after its stamp; pulses of one output act in the order of g. A pulse still
playing at g is cut; of two pulses with one g that of the higher engine plays, and of one engine the later (R187, R190). -/
def actFluxPulse (e : EngineId) : Act := atStamp e .fluxPulse fun x => look fun s =>
  let f := fluxOf e x.index
  let g := Stamp.gridUp 3 x.stamp
  let plays : Act := acts [updOutput (160 + f) fun r => { r with
      pulse := if Ctx.duration x.ctx = 0 || overAt x.stop g then none else some ⟨x.ctx, g, x.stop, e, x.silent⟩ }, showFlux f]
  acts [rateCheck (fluxPage f) true x.ctx,
    match (s.output (160 + f)).pulse with
    | none => plays
    | some p =>
      if overAt p.stop g then plays
      else acts [setF (fluxPage f) FLUX.FLUX_STATUS_OVERLAP 1, if p.start = g && e.val < p.engine then skip else plays]]
def execFluxPulse (e : EngineId) (s : State) : Res := done (actFluxPulse e) s

end Sys2Proof.Machine
end

