-- ==== Sys2Proof/Machine/Units.lean ====
section
/-! DEFINITION. The words of trigger units, coincidence units and exporting slots (R262), receive conditions (R204), and the open
records of formers that end early (R259). -/

namespace Sys2Proof.Machine

/-- RX_STATUS.COND (R204). -/
inductive RxCond where
  | off | calibrating | live | unavailable
deriving DecidableEq, Repr

def RxCond.code : RxCond → Nat
  | .off => 0 | .calibrating => 1 | .live => 2 | .unavailable => 3

def State.rxIs (s : State) (t : Nat) (c : RxCond) : Bool := s.get (rxPage t) TRANSCEIVER.RX_STATUS_COND = c.code

/-! Unit words (R261, R262) -/

/-- What a unit number of UNIT_SEL selects. -/
inductive UnitKind where
  | tone | raw | ext | coinc | exporter
deriving DecidableEq, Repr

def unitKind (unit : Nat) : Option UnitKind :=
  if unit < 128 then some .tone else if unit < 132 then some .raw else if unit < 134 then some .ext
  else if 136 ≤ unit && unit < 144 then some .coinc else if 144 ≤ unit && unit < 160 then some .exporter else none

/-- The reset value of a unit word. -/
def unitReset (unit w : Nat) : Nat :=
  match unitKind unit, w with
  | some .tone, 4 | some .raw, 4 => 1
  | some .coinc, 1 => 0x2000
  | some .exporter, 3 => 0x1900
  | _, _ => 0

/-- The bits of a unit word that software writes. -/
def unitMask (unit w : Nat) : Nat :=
  match unitKind unit with
  | some .tone | some .raw =>
    (match w with | 0 => 0xFFFFF | 1 => 0xFFFFFFFF | 2 => 0xFFFFFFFF | 3 => 0x3FFFFF | 4 => 0x1FFFF | 5 => 0x1FFF | _ => 0)
  | some .ext => if w = 0 then 0xFFF11 else 0
  | some .coinc => if w = 0 then 0xFF7F else if w = 1 then 0xFFFFFF else if w < 10 then 0xFFFFFFFF else 0
  | some .exporter => (match w with | 0 => 0x3F0001 | 1 => 0xFFFFFFFF | 2 => 0xFFFF | 3 => 0xFFFFFF | _ => 0)
  | none => 0

/-- Word `w` of a unit of region `n`; the store keeps its difference from the reset value. -/
def State.unitWord (s : State) (n unit w : Nat) : Nat := Nat.xor (s.word .units ((256 * n + unit) * 16 + w)) (unitReset unit w)

def setUnit (n unit w v : Nat) : Act := setWord .units ((256 * n + unit) * 16 + w) (Nat.xor v (unitReset unit w))

/-- Count one in a unit word that saturates. -/
def countUnit (n unit w : Nat) : Act := look fun s => setUnit n unit w (satInc 32 (s.unitWord n unit w))

/-- The region and unit number of a trigger unit (R232, R261). -/
def trigPlace : TriggerId → Nat × Nat
  | .tone u => (u / 128, u % 128)
  | .raw t => (t / 4, 128 + t % 4)
  | .ext i => (i / 2, 132 + i % 2)

/-- The region and unit number of former `k`: tone u, or 1,024 + t. -/
def formerPlace (k : Nat) : Nat × Nat :=
  if k < 1024 then (k / 128, k % 128) else ((k - 1024) / 4, 128 + (k - 1024) % 4)

/-- The former of unit `unit` of region `n`. -/
def formerOf (n unit : Nat) : Option Nat :=
  if unit < 128 then some (128 * n + unit) else if unit < 132 then some (1024 + 4 * n + (unit - 128)) else none

/-- The feedline a former records. -/
def formerFeed (k : Nat) : Nat := if k < 1024 then k / 32 else k - 1024

/-- The formers of a feedline. -/
def formersOf (t : Nat) : List Nat := (upTo 32).map (32 * t + ·) ++ [1024 + t]

/-- Word `w` of a former's unit. -/
def State.formerWord (s : State) (k w : Nat) : Nat := s.unitWord (formerPlace k).1 (formerPlace k).2 w

/-- The base grid of a former's samples as a power of two (R232). -/
def baseGrid (k : Nat) : Nat := if k < 1024 then 5 else 0

/-- Δ of a former as a power of two (R247). -/
def gridAt (k dl : Nat) : Nat := baseGrid k + dl

/-! Records that end early (R259) -/

/-- The samples of former `k`'s record up to ST `t`. -/
def samplesBy (k : Nat) (r : OpenRecord) (t : Stamp) : Nat :=
  let d := gridAt k r.dl
  let first := r.g - BitVec.ofNat 64 (r.preAct * 2 ^ d)
  if Stamp.atOrAfter t first then (t - first).toNat / 2 ^ d + 1 else 0

/-- The samples of a record held by now. -/
def State.samplesHeld (s : State) (k : Nat) (r : OpenRecord) : Nat := samplesBy k r s.st

/-- End a former's open record at its last sample taken, with TRUNC; in a load shed with GAP, at its last sample before H+0. A record
that is complete is not cut. -/
def endRecord (gap : Bool) (k : Nat) : Act := look fun s =>
  match (s.former k).record with
  | none => skip
  | some r =>
    let n := if gap then samplesBy k r (s.st - 1) else s.samplesHeld k r
    if r.ended || r.len ≤ n then skip
    else acts [updFormer k fun f => { f with
        record := some { r with len := n, preAct := min r.preAct n, flags := r.flags ||| 4 ||| (if gap then 2 ^ 9 else 0),
                                ended := true } },
      countF (acqPage (formerPlace k).1) ACQUISITION.TRUNC_COUNT_COUNT]

/-- End the open records of several formers. -/
def endRecords (ks : List Nat) (gap : Bool) : Act := forEach ks (endRecord gap)

/-- A former discards its held samples and fills again (R256). -/
def refill (k : Nat) : Act := look fun s => updFormer k fun f => { f with heldFrom := s.st }

end Sys2Proof.Machine
end

