-- ==== Sys2Proof/Machine/Receive.lean ====
section
/-! DEFINITION. What a receive input makes of its raw samples: the corrected samples (R201, R202, R205), their tags (R205, R207), the
channelizer and the tone samples (R208, R209). A command that uses samples brings the raw codes of the input, `raws`, from the ST `first`
on, 512 ST before the first tone sample it uses. -/

namespace Sys2Proof.Machine

/-! Corrected samples (R201, R202, R205) -/

/-- The active corrections of a feedline's input at a sample. -/
def State.corrAt (s : State) (t : Nat) (n : Stamp) : Correction :=
  (s.rx t).earlier.foldl (fun c x => if Stamp.atOrAfter n x.1 then c else x.2) (s.rx t).active

/-- The clamp code of a clamped raw sample (R205). -/
def clampCode (r : BitVec 12) : Option Int := if r.toInt = -2048 then some (-32768) else if r.toInt = 2047 then some 32767 else none

/-- x of a raw sample of core `c`: sat16(round((16 r − OFS_c) × GAIN_c / 2^14)) (R201). -/
def Correction.apply (k : Correction) (c : Nat) (r : BitVec 12) : Int :=
  satSigned 16 (roundAway (((16 * r.toInt - toSigned 16 (if c = 0 then k.ofs0 else k.ofs1)) * (if c = 0 then k.gain0 else k.gain1) : Int) / 2 ^ 14))

/-- The value a core gives at a sample, before retiming: core 0 at even ST, core 1 at odd ST. -/
def State.coreValue (s : State) (t : Nat) (n : Stamp) (r : BitVec 12) : Int :=
  (clampCode r).getD ((s.corrAt t n).apply (n.toNat % 2) r)

/-- The values of both cores from a sample on. -/
def State.coreValues (s : State) (t : Nat) : Stamp → List (BitVec 12) → List Int
  | _, [] => []
  | n, r :: rs => s.coreValue t n r :: State.coreValues s t (n + 1) rs

/-- Every second element, from the first. -/
def everySecond {α : Type} : List α → List α
  | [] => []
  | [x] => [x]
  | x :: _ :: xs => x :: everySecond xs

/-- The stream of core 1 among the values from `first` on. -/
def State.coreOne (s : State) (t : Nat) (first : Stamp) (raws : List (BitVec 12)) : List Int :=
  everySecond ((s.coreValues t first raws).drop ((first.toNat + 1) % 2))

/-- x(n): the corrected sample, core 1's retimed by SKEW; a clamped sample bypasses the corrections (R201, R205). -/
def State.inputAt (s : State) (t : Nat) (first : Stamp) (raws : List (BitVec 12)) (n : Stamp) : Int :=
  let i := (n - first).toNat
  let r := raws.getD i 0
  let skew := toSigned 12 (s.corrAt t n).skew
  if n.toNat % 2 = 0 || skew = 0 || (clampCode r).isSome then s.coreValue t n r
  else Config.skewFilter skew (s.coreOne t first raws) (i / 2)

/-! Tags (R204, R205, R207) -/

/-- Samples of the input carry OVR from the first clamped sample of a run until 400 ST after its last (R205). -/
def ovrReach : Stamp := 400
/-- The other inputs of the die carry OVR_NB until 100 ST after it. -/
def nbReach : Stamp := 100

/-- Two intervals, each given by its ends, have a sample in common (R46). -/
def meets (a b c d : Stamp) : Bool := Stamp.atOrAfter d a && Stamp.atOrAfter b c

/-- The last sample a run tags, `reach` after its last clamped one; nothing is tagged once the cores have stopped sampling (R207). -/
def ClampRun.reaches (r : ClampRun) (reach : Stamp) : Stamp :=
  match r.cut with | some z => Stamp.earlier (r.last + reach) (z - 1) | none => r.last + reach

/-- Some sample from `a` to `b` of an input carries OVR. -/
def State.ovrIn (s : State) (t : Nat) (a b : Stamp) : Bool := (s.rx t).runs.any fun r => meets a b r.first (r.reaches ovrReach)

/-- A sample of an input carries OVR. -/
def State.ovrAt (s : State) (t : Nat) (n : Stamp) : Bool := s.ovrIn t n n

/-- A sample of an input carries OVR_NB: a neighbour's run covers it and it does not carry OVR. -/
def State.nbAt (s : State) (t : Nat) (n : Stamp) : Bool :=
  !s.ovrAt t n && ((upTo 4).any fun q => let t' := t / 4 * 4 + q
    t' ≠ t && (s.rx t').runs.any fun r => meets n n r.first (r.reaches nbReach))

/-- Some sample from `a` to `b` carries OVR_NB. The tag can begin only at `a`, at a neighbour's first clamped sample or after
the input's own OVR ends. -/
def State.nbIn (s : State) (t : Nat) (a b : Stamp) : Bool :=
  let starts := a :: ((s.rx t).runs.map fun r => r.reaches ovrReach + 1)
    ++ (upTo 4).flatMap fun q => (s.rx (t / 4 * 4 + q)).runs.map (·.first)
  starts.any fun n => meets a b n n && s.nbAt t n

/-- Some sample from `a` to `b` was taken in a chain-fault recalibration (R204, R252). -/
def State.recalIn (s : State) (t : Nat) (a b : Stamp) : Bool :=
  ((s.rx t).recals.any fun r => meets a b r.1 (r.2 - 1)) || ((s.rx t).faultRecal && meets a b (s.rx t).recalFrom s.st)

/-! Tone samples (R208, R209) -/

/-- A frame frequency of 10 GHz or above (R209). -/
def tooHigh (f : Freq) : Bool := 2 ^ 47 ≤ f.toNat

/-- The frame of a tone at a sample. -/
def Tone.frameAt (x : Tone) (n : Stamp) : PhaseFrame :=
  x.frames.foldl (fun c y => if Stamp.atOrAfter n y.1 then c else y.2) ⟨x.f, x.p⟩

/-- A sample lies in a window from `a` to before `b`. -/
def inWindow (a b n : Stamp) : Bool := Stamp.atOrAfter n a && !Stamp.atOrAfter n b

/-- DF and DP of the window that covers a sample of a tone; 0 where none does (R59, R209). -/
def Tone.mixAt (x : Tone) (n : Stamp) : Freq × Word :=
  match x.window.filter fun w => inWindow w.opened w.close n with
  | some w => (Ctx.df w.ctx, Ctx.dp w.ctx)
  | none => ((x.mixed.find? fun w => inWindow w.1 w.2.1 n).map (·.2.2)).getD (0, 0)

/-- The phase of the centre of bin `m`, (m + 1/2) × 312.5 MHz, at the `k`-th of the 1,024 samples a bin sample is formed from, against
the bin sample's own ST, as 20 bits. -/
def binPhase (m k : Nat) : Nat := (2 * m + 1) * (k + 512) * 2 ^ 13 % 2 ^ 20

/-- The sample of bin `m` at `n` with the bin's centre removed: the prototype filter over x(n − 512) to x(n + 511) (R208). -/
def State.binAt (s : State) (t : Nat) (first : Stamp) (raws : List (BitVec 12)) (m : Nat) (n : Stamp) : Rat × Rat :=
  (upTo 1024).foldl (fun z k =>
    let v : Rat := Config.prototypeTap k * (s.inputAt t first raws (n - 512 + BitVec.ofNat 64 k) : Rat)
    let o := Config.oscillator (binPhase m k)
    (z.1 + v * o.1, z.2 - v * o.2)) (0, 0)

/-- The tone sample y of tone u at `n`, a multiple of 32, mixed with DF and DP: the sample of bin ⌊f / 312.5 MHz⌋ turned back by the
frame's phase, 18 bits of I and Q; 0 for a frame of 10 GHz or above (R209, R55, R59). -/
def State.toneSample (s : State) (u : Nat) (first : Stamp) (raws : List (BitVec 12)) (df : Freq) (dp : Word) (n : Stamp) : Int × Int :=
  let g := (s.tone (rxTone u)).frameAt n
  if tooHigh g.f then (0, 0) else
  let b := s.binAt (u / 32) first raws (g.f.toNat / 2 ^ 42) n
  let o := Config.oscillator (framePhase g.f g.p df dp n)
  (satSigned 18 (roundAway (2 * (b.1 * o.1 + b.2 * o.2))), satSigned 18 (roundAway (2 * (b.2 * o.1 - b.1 * o.2))))

/-- The tone sample at `n`, with the DF and DP of the window that covers it. -/
def State.toneAt (s : State) (u : Nat) (first : Stamp) (raws : List (BitVec 12)) (n : Stamp) : Int × Int :=
  let d := (s.tone (rxTone u)).mixAt n
  s.toneSample u first raws d.1 d.2 n

end Sys2Proof.Machine
end

