-- ==== Sys2Proof/Machine/Readout.lean ====
section
/-! DEFINITION. Receive inputs and their conditions (R201 to R207), windows and integrators (R210 to R212), results and the
discriminator (R213 to R217), decision slots and functions (R218 to R225). -/

namespace Sys2Proof.Machine

/-! Receive inputs (R202, R204, R205) -/

def setRx (t : Nat) (c : RxCond) : Act := setF (rxPage t) TRANSCEIVER.RX_STATUS_COND c.code

/-- The receive tones of a feedline, as tone numbers. -/
def rxTonesOf (t : Nat) : List Nat := (upTo 32).map fun i => rxTone (32 * t + i)

/-- Set a flag on every open window of a feedline. -/
def flagWindows (t bit : Nat) : Act :=
  forEach (rxTonesOf t) fun k => updTone k fun x =>
    { x with window := x.window.map fun w => { w with flags := w.flags ||| 2 ^ bit } }

/-- The flag bits, in the order of RES_TAG [22:16] and of the ledger's FLAGS. -/
def flagValid : Nat := 0
def flagOvr : Nat := 1
def flagOvrNb : Nat := 2
def flagRxFault : Nat := 3
def flagSat : Nat := 4
def flagCut : Nat := 5
def flagCorrChg : Nat := 6

/-- An input that leaves LIVE ends its open records (R259). -/
def leaveLive (t : Nat) : Act := look fun s => if s.rxIs t .live then endRecords (formersOf t) false else skip

/-- RX_CMD.ENABLE: from OFF to CALIBRATING; refused where the page is not READY or the input is UNAVAILABLE. -/
def actRxEnable (t : FeedlineId) : Act := look fun s =>
  if !s.pageIs (.transceiver t) .ready || s.rxIs t .unavailable then raiseFault (.transceiver t) 4
  else if s.rxIs t .off then setRx t .calibrating else skip
def execRxEnable (t : FeedlineId) (s : State) : Res := done (actRxEnable t) s

/-- A chain-fault recalibration is over. -/
def RxState.endRecal (r : RxState) (st : Stamp) : RxState :=
  { r with faultRecal := false, recals := if r.faultRecal then (r.recalFrom, st) :: r.recals else r.recals }

/-- The cores stop sampling: a chain-fault recalibration is over, and no run tags a later sample (R207). -/
def stopCores (t : Nat) (c : RxCond) : Act := look fun s =>
  acts [leaveLive t, setRx t c, updRx t fun r =>
    { r.endRecal s.st with runs := r.runs.map fun x => { x with cut := some (x.cut.getD s.st) } }]

/-- RX_CMD.DISABLE: to OFF, except from UNAVAILABLE. -/
def actRxDisable (t : FeedlineId) : Act := look fun s => if s.rxIs t .unavailable then skip else stopCores t .off
def execRxDisable (t : FeedlineId) (s : State) : Res := done (actRxDisable t) s

/-- RX_CMD.RECAL: from LIVE to CALIBRATING. -/
def actRecal (t : FeedlineId) : Act := look fun s => if s.rxIs t .live then acts [leaveLive t, setRx t .calibrating] else skip
def execRecal (t : FeedlineId) (s : State) : Res := done (actRecal t) s

/-- RX_CMD.CLR_COUNTS: OVR_COUNT := 0. -/
def actRxClrCounts (t : FeedlineId) : Act :=
  acts [setF (.transceiver t) TRANSCEIVER.OVR_COUNT_EVENTS 0, setF (.transceiver t) TRANSCEIVER.OVR_COUNT_FLAGGED 0]
def execRxClrCounts (t : FeedlineId) (s : State) : Res := done (actRxClrCounts t) s

/-- A calibration attempt ends: LIVE, the next attempt, or after the third failure in a row UNAVAILABLE (R21, R204). -/
def actCalAttemptEnd (t : FeedlineId) (success : Bool) : Act := look fun s =>
  if !s.rxIs t .calibrating then skip
  else if success then acts [setRx t .live, forEach (formersOf t) refill, setF (.transceiver t) TRANSCEIVER.RX_STATUS_FAILS 0,
    updRx t fun r => r.endRecal s.st]
  else
    let n := s.get (.transceiver t) TRANSCEIVER.RX_STATUS_FAILS + 1
    acts [setF (.transceiver t) TRANSCEIVER.RX_STATUS_FAILS n,
      if 3 ≤ n then stopCores t .unavailable else skip]
def execCalAttemptEnd (t : FeedlineId) (success : Bool) (s : State) : Res := done (actCalAttemptEnd t success) s

/-- A receive-chain fault: RX_CHAIN, a chain-fault recalibration, RX_FAULT on every open window (R21, R204). -/
def actRxChainFault (t : FeedlineId) : Act := look fun s =>
  if !s.rxIs t .calibrating && !s.rxIs t .live then skip
  else acts [leaveLive t, setRx t .calibrating, updRx t fun r => if r.faultRecal then r else { r with faultRecal := true, recalFrom := s.st }, flagWindows t flagRxFault,
    raiseFault (.transceiver t) 3]
def execRxChainFault (t : FeedlineId) (s : State) : Res := done (actRxChainFault t) s

/-- The watch's computations of a region run: some processor of it is lent (R290, R291), and the watch is not paused in SHED (R80). -/
def State.watchWorks (s : State) (n : Nat) : Bool :=
  !s.shed && (upTo 8).any fun i => s.get (dspPage (8 * n + i)) DSP.CFG_WATCH_EN = 1

/-- The watch trims a feedline's receive corrections (R202, R291, R356). -/
def State.watchTrims (s : State) (t : FeedlineId) : Bool :=
  s.watchWorks (t.val / 4) && s.get .watch WATCH.WCTRL_TRACK_TRIM = 1 && s.get (.transceiver t) TRANSCEIVER.RX_CTRL_TRIM_LOCK = 0

/-- CORR_CMD.APPLY, or the watch's write of the shadow set with its apply request; with TRIM_LOCK = 1 or TRACK_TRIM = 0 the watch does
neither (R202, R356). -/
def actCorrApply (t : FeedlineId) (watch : Option (Word × Word × BitVec 12)) : Act := look fun s =>
  let p := Page.transceiver t
  if watch.isSome && !s.watchTrims t then skip
  else acts [
    match watch with
    | some (ofs, gain, skew) => acts [setF p TRANSCEIVER.CORR_OFS_OFS0 ofs.toNat, setF p TRANSCEIVER.CORR_OFS_OFS1 (ofs.toNat / 2 ^ 16),
        setF p TRANSCEIVER.CORR_GAIN_GAIN0 gain.toNat, setF p TRANSCEIVER.CORR_GAIN_GAIN1 (gain.toNat / 2 ^ 16),
        setF p TRANSCEIVER.CORR_SKEW_SKEW skew.toNat]
    | none => skip,
    updRx t fun r => { r with applyBy := some (r.applyBy.getD (s.st + BitVec.ofNat 64 (2 ^ 20))), applyWatch := watch.isSome },
    setF p TRANSCEIVER.CORR_STATUS_PEND 1]
def execCorrApply (t : FeedlineId) (watch : Option (Word × Word × BitVec 12)) (s : State) : Res :=
  done (actCorrApply t watch) s

/-- A window of the feedline is open. -/
def State.windowsOpen (s : State) (t : Nat) : Bool := (rxTonesOf t).any fun k => (s.tone k).window.isSome

/-- The shadow set becomes the active set; the earlier one stays in force for the samples before. -/
def copyCorr (t : Nat) : Act := look fun s =>
  let p := rxPage t
  acts [updRx t fun r => { r with
      active := ⟨s.get p TRANSCEIVER.CORR_OFS_OFS0, s.get p TRANSCEIVER.CORR_OFS_OFS1, s.get p TRANSCEIVER.CORR_GAIN_GAIN0,
        s.get p TRANSCEIVER.CORR_GAIN_GAIN1, s.get p TRANSCEIVER.CORR_SKEW_SKEW⟩,
      earlier := (s.st, r.active) :: r.earlier.filter fun x => (s.st - x.1).toNat < 2 ^ 31, applyBy := none },
    setF p TRANSCEIVER.CORR_STATUS_PEND 0, setB p TRANSCEIVER.CORR_STATUS_WATCH (s.rx t).applyWatch]

/-- CORR_COPY: at a multiple of 32 with no window open, or at the next one after 2^20 ST with CORR_CHG on the open windows
(R202). -/
def actCorrCopy (t : FeedlineId) : Act := look fun s =>
  match (s.rx t).applyBy with
  | none => skip
  | some limit =>
    if !s.windowsOpen t then acts [passTo (Stamp.gridUp 5 s.st), copyCorr t]
    else if Stamp.atOrAfter s.st limit then
      acts [passTo (Stamp.gridUp 5 s.st), flagWindows t flagCorrChg, copyCorr t]
    else skip
def execCorrCopy (t : FeedlineId) (s : State) : Res := done (actCorrCopy t) s

/-- CLAMP: the input's samples from `first` to `last` are clamped. Samples within the OVR tag of a run extend that run, and a
new run is counted; nothing is detected unless the cores sample (R205, R207). -/
def actClamp (t : FeedlineId) (first last : Stamp) : Act := look fun s =>
  if !(s.rxIs t .calibrating || s.rxIs t .live) || !Stamp.atOrAfter last first then skip
  else
    let new : Act := acts [updRx t fun r => { r with
        runs := ⟨first, last, none⟩ :: r.runs.filter fun x => (first - x.last).toNat < 2 ^ 31 },
      countF (.transceiver t) TRANSCEIVER.OVR_COUNT_EVENTS]
    acts [passTo first, match (s.rx t).runs with
      | x :: rest =>
        if x.cut.isNone && Stamp.atOrAfter (x.last + ovrReach) first then
          updRx t fun r => { r with runs := { x with last := Stamp.later x.last last } :: rest }
        else new
      | [] => new]
def execClamp (t : FeedlineId) (first last : Stamp) (s : State) : Res := done (actClamp t first last) s

/-! Windows and integrators (R97, R209 to R212, R216) -/

/-- The weight of window sample `i` as the integrator read it: weight `j` as it stood before the first write after that
read (R212). -/
def State.weightFor (s : State) (w : OpenWindow) (i j : Nat) : Nat :=
  match w.olds.find? fun x => x.2.1 = j && i < x.1 with
  | some x => x.2.2
  | none => s.bytes (weightAddr (regionOf w.engine) j) 4

/-- The weight index of window sample `i`. -/
def weightIndex (c : BitVec 512) (i : Nat) : Nat := (Ctx.wptr c + i) % 2 ^ 19

/-- The samples of a window whose weight reads as uncorrectable: poisoned weights, and the one named by the read. -/
def State.badWeight (s : State) (w : OpenWindow) (bad : Option (Fin 4096)) (i : Nat) : Bool :=
  s.poisoned (weightAddr (regionOf w.engine) (weightIndex w.ctx i)) || bad.map (·.val) = some i

/-- The `i`-th sample of a window. -/
def OpenWindow.sampleAt (w : OpenWindow) (i : Nat) : Stamp := w.opened + BitVec.ofNat 64 (32 * i)

/-- Z over the first `n` samples of a window of tone u (R210); the raw codes begin 512 ST before the window. -/
def State.integrate (s : State) (u : Nat) (w : OpenWindow) (raws : List (BitVec 12)) (bad : Option (Fin 4096)) (n : Nat) : Int × Int :=
  (upTo n).foldl (fun z i =>
    if s.badWeight w bad i then z else
    let v := s.weightFor w i (weightIndex w.ctx i)
    let wi := toSigned 16 v
    let wq := toSigned 16 (v / 2 ^ 16)
    let y := s.toneSample u (w.opened - 512) raws (Ctx.df w.ctx) (Ctx.dp w.ctx) (w.sampleAt i)
    (z.1 + wi * y.1 - wq * y.2, z.2 + wi * y.2 + wq * y.1)) (0, 0)

/-- The region's counters at an uncorrectable weight read (R313). -/
def noteWeightUe (n j : Nat) : Act :=
  acts [countF (porterPage n) PORTER.WGT_ECC_UNCORRECTED, setF (porterPage n) PORTER.UE_ADDR_OFFSET (4 * j / 8 * 8),
    setF (porterPage n) PORTER.UE_ADDR_STORE 1, raiseFault (porterPage n) 1]

/-- The weight word of a window sample is corrected as it is read (R305). -/
def State.weightCorrected (s : State) (w : OpenWindow) (i : Nat) : Bool :=
  s.word .poison (weightAddr (regionOf w.engine) (weightIndex w.ctx i) / 8) = 3

/-- The window of receive tone u closes at W, its end or the cut, and the integrator latches its sum (R210, R211, R307). -/
def latchWindow (u : Nat) (w : Stamp) (raws : List (BitVec 12)) (bad : Option (Fin 4096)) : Act := look fun s =>
  let key := rxTone u
  match (s.tone key).window with
  | none => skip
  | some x =>
    let n := (w - x.opened).toNat / 32
    let high := (upTo n).any fun i => tooHigh ((s.tone key).frameAt (x.sampleAt i)).f
    let z := s.integrate u x raws bad n
    let valid := s.rxIs (u / 32) .live && !high
    let bads := (upTo n).filter fun i => s.badWeight x bad i
    let flags := x.flags ||| b2n valid ||| (if w ≠ x.close then 2 ^ flagCut else 0)
    acts [updTone key fun t => { t with window := none,
                                        latched := t.latched ++ [⟨x.opened, w, x.ctx, x.engine, z.1, z.2, flags, x.shot⟩],
                                        mixed := (x.opened, w, Ctx.df x.ctx, Ctx.dp x.ctx)
                                          :: t.mixed.filter fun y => (w - y.2.1).toNat < 2 ^ 31 },
      forEach bads fun i => noteWeightUe (regionOf x.engine) (weightIndex x.ctx i),
      forEach ((upTo n).filter (s.weightCorrected x)) fun _ => countF (porterPage (regionOf x.engine)) PORTER.WGT_ECC_CORRECTED,
      if bads = [] then skip else voidShot x.engine [.ecc]]

/-- WINDOW_OPEN at its grid point (R97, R211): it closes a window that is still there, and counts as a window of the shot. -/
def actWindowOpen (e : EngineId) (raws : List (BitVec 12)) (bad : Option (Fin 4096)) : Act :=
  atStamp e .windowOpen fun x => look fun s =>
    let key := entryTone e x
    let u := key - 2048
    let g := Stamp.gridUp 5 x.stamp
    let gr := s.groupOf e
    let r := s.group gr
    let counted := s.inShot e && r.open' && !r.voidedNow && !(s.eng e).voided
    acts [match (s.tone key).window with
      | some o => latchWindow u (Stamp.earlier o.close g) raws bad
      | none => skip,
      updTone key fun t => { t with
        window := some ⟨x.ctx, g, g + BitVec.ofNat 64 (32 * Ctx.wlen x.ctx), e,
          if (s.rx (u / 32)).faultRecal then 2 ^ flagRxFault else 0, [], if counted then some (r.shot, r.attempt) else none⟩ },
      if counted then updGroup gr fun r => { r with windows := r.windows + 1 } else skip]
def execWindowOpen (e : EngineId) (raws : List (BitVec 12)) (bad : Option (Fin 4096)) (s : State) : Res :=
  done (actWindowOpen e raws bad) s

/-- INTEGRATOR_LATCH: the window of tone u ends at W. -/
def actIntegratorLatch (u : Fin 1024) (raws : List (BitVec 12)) (bad : Option (Fin 4096)) : Act := look fun s =>
  match (s.tone (rxTone u)).window with
  | none => skip
  | some x => if s.time.frozen then skip else acts [passTo x.close, latchWindow u x.close raws bad]
def execIntegratorLatch (u : Fin 1024) (raws : List (BitVec 12)) (bad : Option (Fin 4096)) (s : State) : Res :=
  done (actIntegratorLatch u raws bad) s

/-! The discriminator (R213 to R215) -/

/-! Round(32,768 × sin(2π k / 1,024)) for k = 0 to 256, in rows of 32 -/
def sinRow0 : List Nat :=
  [0, 201, 402, 603, 804, 1005, 1206, 1407, 1608, 1809, 2009, 2210, 2411, 2611, 2811, 3012, 3212, 3412, 3612, 3812,
    4011, 4211, 4410, 4609, 4808, 5007, 5205, 5404, 5602, 5800, 5998, 6195]
def sinRow1 : List Nat :=
  [6393, 6590, 6787, 6983, 7180, 7376, 7571, 7767, 7962, 8157, 8351, 8546, 8740, 8933, 9127, 9319, 9512, 9704, 9896,
    10088, 10279, 10469, 10660, 10850, 11039, 11228, 11417, 11605, 11793, 11980, 12167, 12354]
def sinRow2 : List Nat :=
  [12540, 12725, 12910, 13095, 13279, 13463, 13646, 13828, 14010, 14192, 14373, 14553, 14733, 14912, 15091, 15269,
    15447, 15624, 15800, 15976, 16151, 16326, 16500, 16673, 16846, 17018, 17190, 17361, 17531, 17700, 17869, 18037]
def sinRow3 : List Nat :=
  [18205, 18372, 18538, 18703, 18868, 19032, 19195, 19358, 19520, 19681, 19841, 20001, 20160, 20318, 20475, 20632,
    20788, 20943, 21097, 21251, 21403, 21555, 21706, 21856, 22006, 22154, 22302, 22449, 22595, 22740, 22884, 23028]
def sinRow4 : List Nat :=
  [23170, 23312, 23453, 23593, 23732, 23870, 24008, 24144, 24279, 24414, 24548, 24680, 24812, 24943, 25073, 25202,
    25330, 25457, 25583, 25708, 25833, 25956, 26078, 26199, 26320, 26439, 26557, 26674, 26791, 26906, 27020, 27133]
def sinRow5 : List Nat :=
  [27246, 27357, 27467, 27576, 27684, 27791, 27897, 28002, 28106, 28209, 28311, 28411, 28511, 28610, 28707, 28803,
    28899, 28993, 29086, 29178, 29269, 29359, 29448, 29535, 29622, 29707, 29792, 29875, 29957, 30038, 30118, 30196]
def sinRow6 : List Nat :=
  [30274, 30350, 30425, 30499, 30572, 30644, 30715, 30784, 30853, 30920, 30986, 31050, 31114, 31177, 31238, 31298,
    31357, 31415, 31471, 31527, 31581, 31634, 31686, 31737, 31786, 31834, 31881, 31927, 31972, 32015, 32058, 32099]
def sinRow7 : List Nat :=
  [32138, 32177, 32214, 32251, 32286, 32319, 32352, 32383, 32413, 32442, 32470, 32496, 32522, 32546, 32568, 32590,
    32610, 32629, 32647, 32664, 32679, 32693, 32706, 32718, 32729, 32738, 32746, 32753, 32758, 32762, 32766, 32767]
def sinRow8 : List Nat :=
  [32768]
def sinQuarter : List Nat := sinRow0 ++ sinRow1 ++ sinRow2 ++ sinRow3 ++ sinRow4 ++ sinRow5 ++ sinRow6 ++ sinRow7 ++ sinRow8

/-- sin(2π k / 1,024) in units of 2^−15, rounded (R215). -/
def sinCoef (k : Nat) : Int :=
  let k := k % 1024
  if k ≤ 256 then sinQuarter.getD k 0
  else if k ≤ 512 then sinQuarter.getD (512 - k) 0
  else if k ≤ 768 then -(sinQuarter.getD (k - 512) 0 : Int)
  else -(sinQuarter.getD (1024 - k) 0 : Int)

def cosCoef (k : Nat) : Int := sinCoef (k + 256)

/-- THETA_k, C_k, NB and MAP of a DISC field (R214). -/
def discTheta (d k : Nat) : Nat := bitsOf d (32 * k + 9) (32 * k)
def discC (d k : Nat) : Int := toSigned 16 (bitsOf d (32 * k + 25) (32 * k + 10))
def discNb (d : Nat) : Nat := bitsOf d 95 94
def discMap (d : Nat) : Nat := bitsOf d 31 26 + bitsOf d 63 58 * 2 ^ 6 + bitsOf d 93 90 * 2 ^ 12

/-- proj_k − C_k in units of 2^−15, formed exactly. -/
def discDist (d k : Nat) (i q : Int) : Int := i * cosCoef (discTheta d k) + q * sinCoef (discTheta d k) - discC d k * 2 ^ 15

/-- h: bit k is h_k (R215). -/
def discVector (d : Nat) (i q : Int) : Nat :=
  ((upTo (discNb d)).map fun k => if 0 ≤ discDist d k i q then 2 ^ k else 0).sum

/-- STATE and CONF of an IQ point (R215). -/
def discriminate (d cshift : Nat) (i q : Int) : Nat × Nat :=
  let h := discVector d i q
  let state := bitsOf (discMap d) (2 * h + 1) (2 * h)
  match (upTo (discNb d)).map fun k => (discDist d k i q).natAbs / 2 ^ 15 with
  | [] => (state, 255)
  | x :: xs => (state, min 255 (xs.foldl min x >>> cshift))

/-! Decision functions (R221 to R223) -/

/-- KIND, BIT and UNIT of a selector (R221). -/
def selKind (v : Nat) : Nat := bitsOf v 15 13
def selBit (v : Nat) : Nat := bitOf v 10
def selUnit (v : Nat) : Nat := bitsOf v 9 0

/-- MODE, ANCHOR and SPAN of a function (R225). -/
def State.dfMode (s : State) (n f : Nat) : Nat := s.funcWord n f 134 % 4
def State.dfAnchor (s : State) (n f : Nat) : Nat := bitsOf (s.funcWord n f 134) 7 4
def State.dfSpan (s : State) (n f : Nat) : Nat := bitsOf (s.funcWord n f 134) 31 16

/-- The functions in a mode, as 256n + f. -/
def State.funcsIn (s : State) (mode : Nat) : List Nat :=
  (s.tbl.filter fun kv => kv.1 / 2 ^ 44 = Table.functions.number && kv.1 % 2 ^ 44 % 136 = 134 && kv.2 % 4 = mode).map fun kv =>
    kv.1 % 2 ^ 44 / 136

/-- The inputs of a function with KIND 1, as (input, tone, bit). -/
def State.toneInputs (s : State) (n f : Nat) : List (Nat × Nat × Nat) :=
  ((upTo 12).filter fun i => selKind (s.selector n f i) = 1).map fun i =>
    (i, selUnit (s.selector n f i), selBit (s.selector n f i))

/-- A result's window end lies in [Wa − 32 SPAN, Wa]. -/
def inSpan (wa w : Stamp) (span : Nat) : Bool :=
  Stamp.atOrAfter wa w && Stamp.atOrAfter w (wa - BitVec.ofNat 64 (32 * span))

/-- Hold a result for an input of an evaluation, in place of an earlier one. -/
def FuncEval.hold (ev : FuncEval) (i value : Nat) (valid : Bool) (flags : Nat) : FuncEval :=
  { ev with held := (i, value, valid, flags) :: ev.held.filter fun h => h.1 ≠ i }

/-- Every input has a result. -/
def FuncEval.complete (ev : FuncEval) (inputs : List (Nat × Nat × Nat)) : Bool :=
  inputs.all fun x => ev.held.any fun h => h.1 = x.1

/-- A result of tone u reaches a waiting evaluation (R222). -/
def FuncEval.feed (ev : FuncEval) (inputs : List (Nat × Nat × Nat)) (anchor span u value : Nat) (w : Stamp) (valid : Bool)
    (flags : Nat) : FuncEval :=
  inputs.foldl (fun ev x =>
    if x.2.1 ≠ u || x.1 = anchor then ev
    else if inSpan ev.wa w span then ev.hold x.1 (bitOf value x.2.2) valid flags
    else if !Stamp.atOrAfter ev.wa w && !(ev.held.any fun h => h.1 = x.1) then { ev with bad := true }
    else ev) ev

/-- A result of the anchor's tone u begins an evaluation: the inputs of other tones take the most recent qualifying result published (R222). -/
def State.newEval (s : State) (inputs : List (Nat × Nat × Nat)) (u span value : Nat) (w : Stamp) (valid : Bool)
    (flags : Nat) : FuncEval :=
  inputs.foldl (fun ev x =>
    if x.2.1 = u then ev.hold x.1 (bitOf value x.2.2) valid flags
    else
      let r := s.slot x.2.1
      let all := if r.seen then (r.value, r.w, r.valid, r.flags) :: r.past else []
      match all.find? fun y => inSpan w y.2.1 span with
      | some (v, _, ok, fl) => ev.hold x.1 (bitOf v x.2.2) ok fl
      | none => if r.seen && !Stamp.atOrAfter w r.w then { ev with bad := true } else ev) ⟨w, [], false⟩

/-- A function's evaluations after a result of tone u: those that are complete or invalid move to `ready`; a fifth waiting
one makes the oldest invalid (R222, R223). -/
def feedFunction (n f u value : Nat) (w : Stamp) (valid : Bool) (flags : Nat) : Act := look fun s =>
  let ins := s.toneInputs n f
  let anchor := s.dfAnchor n f
  let span := s.dfSpan n f
  let fed := (s.func (256 * n + f)).waiting.map fun ev => ev.feed ins anchor span u value w valid flags
  let out := fed.filter fun ev => ev.bad || ev.complete ins
  let still := fed.filter fun ev => !(ev.bad || ev.complete ins)
  let anchored := ins.any fun x => x.1 = anchor && x.2.1 = u
  let new := s.newEval ins u span value w valid flags
  let put (ready waiting : List FuncEval) : Act :=
    updFunc (256 * n + f) fun r => { r with ready := r.ready ++ ready, waiting := waiting }
  if !anchored then put out still
  else if new.bad || new.complete ins then put (out ++ [new]) still
  else match still with
    | old :: rest =>
      if 4 ≤ still.length then acts [put (out ++ [{ old with bad := true }]) (rest ++ [new]), countF (decPage n) DECISION.DF_STALE_COUNT]
      else put out (still ++ [new])
    | [] => put out [new]

/-! Publishing (R216 to R219, R391) -/

/-- Word `w` of a subscription entry; word 3, DL, is kept as its difference from the reset value 0xDC0 (R391). -/
def State.subWord (s : State) (kind index w : Nat) : Nat :=
  let v := s.word .subs ((2048 * kind + index) * 4 + w)
  if w = 3 then Nat.xor v 0xDC0 else v

/-- A result on a subscribed slot goes out as DEC frames to the named devices (R381, R391). -/
def exportDec (kind index value : Nat) (w : Stamp) (flags : Nat) : Act := look fun s =>
  let mask := s.subWord kind index 0 + s.subWord kind index 1 * 2 ^ 32
  let dl := s.subWord kind index 3 % 2 ^ 24
  forEach ((upTo 64).filter fun d => Nat.testBit mask d) fun d =>
    sendFrame ⟨.dec, d, s.fabricId, some (w + BitVec.ofNat 64 dl), s.subWord kind index 2 % 2 ^ 16,
      [index + kind * 2 ^ 15, value % 4 + flags % 16 * 4, w.toNat], none, none⟩

/-- A slot takes a newer result; the older one is kept for the functions (R218, R222). -/
def publishSlot (i value : Nat) (w : Stamp) (valid : Bool) (flags conf : Nat) (voids : Bool) : Act :=
  updSlot i fun r => { r with
    value := value, w := w, valid := valid, flags := flags, conf := conf, voids := voids, seen := true,
    past := ((if r.seen then [(r.value, r.w, r.valid, r.flags)] else []) ++ r.past).take 16 }

/-- Flags that OVR_VOID acts on. -/
def voidFlags (flags : Nat) : Bool := Nat.testBit flags flagOvr || Nat.testBit flags flagOvrNb || Nat.testBit flags flagRxFault

/-- The result of a window enters its shot's record, if that attempt is still open (R319, R337). -/
def recordDecision (r : Latched) (u state flags conf : Nat) : Act := look fun s =>
  let g := s.groupOf r.engine
  let x := s.group g
  if x.open' && !x.voidedNow && r.shot = some (x.shot, x.attempt) then
    updGroup g fun y => { y with windows := y.windows - 1,
                                 entries := insertDec ⟨r.engine, r.w, state, flags, conf, u⟩ y.entries }
  else skip

/-- The watch has asked for the IQ points of a tone: it trains the discriminator of the engine that owns it, and is not paused (R80, R216,
R345, R356). -/
def State.trains (s : State) (u : Nat) : Bool :=
  s.get .watch WATCH.WCTRL_TRACK_DISC = 1 && !s.shed && match s.toneOwner u with
    | some e => bitOf (s.word .tending (4 * e)) 1 = 1
    | none => false

/-- RESULT_PUBLISH: the oldest latched result of tone u is discriminated and delivered, 640 ST or more after W (R213 to
R217, R227). -/
def actResultPublish (u : Fin 1024) : Act := look fun s =>
  match (s.tone (rxTone u)).latched with
  | [] => skip
  | r :: rest =>
    let t := u.val / 32
    let i := u.val % 32
    let p := rxPage t
    let sh := 15 + s.get p (TRANSCEIVER.RX_TONE_CFG_SHIFT i)
    let ri := roundAway ((r.i : Rat) / 2 ^ sh)
    let rq := roundAway ((r.q : Rat) / 2 ^ sh)
    let ci := satSigned 16 ri
    let cq := satSigned 16 rq
    let a := r.opened - 512
    let b := r.w + 479
    let ok := Nat.testBit r.flags flagValid && !s.rxIs t .unavailable && !s.pageIs (regionPage (t / 4)) .quarantined
    let flags := (r.flags ||| (if s.ovrIn t a b then 2 ^ flagOvr else 0) ||| (if s.nbIn t a b then 2 ^ flagOvrNb else 0)
      ||| (if ri ≠ ci || rq ≠ cq then 2 ^ flagSat else 0)) / 2 * 2 + b2n ok
    let (state, conf) := if ok then discriminate (Ctx.disc r.ctx) (s.get p (TRANSCEIVER.RX_TONE_CFG_CSHIFT i)) ci cq else (0, 0)
    let voids := s.get p TRANSCEIVER.RX_CTRL_OVR_VOID = 1 && voidFlags flags
    acts [passTo (r.w + 640), updTone (rxTone u) fun x => { x with latched := rest },
      setF p (TRANSCEIVER.RES_IQ_I i) (ofSigned 16 ci), setF p (TRANSCEIVER.RES_IQ_Q i) (ofSigned 16 cq),
      if Nat.testBit flags flagOvr || Nat.testBit flags flagOvrNb then countF p TRANSCEIVER.OVR_COUNT_FLAGGED else skip,
      look fun s => forEach (s.funcsIn 1) fun k => feedFunction (k / 256) (k % 256) u state r.w ok flags,
      publishSlot u state r.w ok flags conf voids,
      recordDecision r u state flags conf,
      if voids then voidShot r.engine [.ovr] else skip,
      exportDec 0 u state r.w flags,
      if s.trains u then updTend fun w => { w with points := w.points ++ [⟨u, r.w, ci, cq⟩] } else skip]
def execResultPublish (u : Fin 1024) (s : State) : Res := done (actResultPublish u) s

/-- DF_EVALUATE: the oldest complete evaluation of a function is published (R222). An invalid one publishes VALID = 0. -/
def actDfEvaluate (n : RegionId) (f : Fin 256) : Act := look fun s =>
  let k := 256 * n.val + f.val
  match (s.func k).ready with
  | [] => skip
  | ev :: rest =>
    let ok := !ev.bad && ev.held.all fun h => h.2.2.1 && s.toneUsable (selUnit (s.selector n f h.1))
    let a := (ev.held.map fun h => h.2.1 * 2 ^ h.1).sum
    let value := if ok then bitOf (s.funcWord n f (a / 32)) (a % 32) else 0
    let flags := ev.held.foldl (fun v h => v ||| (h.2.2.2 &&& 14)) 0 + b2n ok
    let voids := ev.held.any fun h =>
      voidFlags h.2.2.2 && s.get (rxPage (selUnit (s.selector n f h.1) / 32)) TRANSCEIVER.RX_CTRL_OVR_VOID = 1
    acts [updFunc k fun r => { r with ready := rest }, publishSlot (1024 + k) value ev.wa ok flags 0 voids,
      exportDec 1 k value ev.wa flags]
def execDfEvaluate (n : RegionId) (f : Fin 256) (s : State) : Res := done (actDfEvaluate n f) s

/-! The DECISION page (R225, R231) and the result registers (R229) -/

/-- The selectors of a function fit a mode (R221, R222, R224). -/
def State.dfFits (s : State) (n f mode anchor : Nat) : Bool :=
  (upTo 12).all (fun i =>
    let v := s.selector n f i
    match selKind v with
    | 0 => true
    | 1 => mode = 1
    | 2 => mode = 2
    | 3 => mode = 2 && selUnit v < 32
    | 4 => mode = 2 && selUnit v < 16
    | _ => false) && (mode ≠ 1 || (anchor < 12 && selKind (s.selector n f anchor) = 1))

/-- A write to a function word (R225). -/
def dfWrite (n f w v : Nat) : Act := look fun s =>
  let at' := (256 * n + f) * 136 + w
  let mode := s.dfMode n f
  let cfg := v &&& 0xFFFF00F3
  if w < 128 then (if mode = 0 then setWord .functions at' v else raiseFault (decPage n) 0)
  else if w < 134 then (if mode = 0 then setWord .functions at' (v &&& 0xE7FFE7FF) else raiseFault (decPage n) 0)
  else if w ≠ 134 then skip
  else if mode ≠ 0 then
    (if cfg = s.funcWord n f 134 - mode then
      acts [setWord .functions at' cfg, updFunc (256 * n + f) fun _ => .init,
        updSlot (1024 + 256 * n + f) fun r => { r with valid := false }]
     else raiseFault (decPage n) 0)
  else if cfg % 4 = 3 || (cfg % 4 ≠ 0 && !s.dfFits n f (cfg % 4) (bitsOf cfg 7 4)) then raiseFault (decPage n) 1
  else acts [setWord .functions at' cfg,
    if cfg % 4 = 2 then updFunc (256 * n + f) fun _ => { FuncState.init with at' := Stamp.gridUp 5 s.st - 32 } else skip]

/-- The next word number of a select register: from the last word back to 0. -/
def nextWord (w last bits : Nat) : Nat := if w = last then 0 else (w + 1) % 2 ^ bits

/-- An access to DF_DATA (R225, R231). -/
def actDfData (fn : FuncId) (n : RegionId) (w : Option Word) : Act := look fun s =>
  let p := Page.decision n
  let i := s.get p DECISION.DF_SEL_WORD
  let f := s.get p DECISION.DF_SEL_FUNC
  if fn.val ≠ 0 then (if w.isNone then setRdata 0 else skip)
  else acts [match w with
      | some v => if i < 136 then dfWrite n f i v.toNat else skip
      | none => setRdata (if i < 136 then s.funcWord n f i else 0),
    if s.get p DECISION.DF_SEL_AUTOINC = 1 then setF p DECISION.DF_SEL_WORD (nextWord i 135 8) else skip]
def execDfData (fn : FuncId) (n : RegionId) (w : Option Word) (s : State) : Res := done (actDfData fn n w) s

/-- A function's slot is valid (R219, R225). -/
def State.funcValid (s : State) (n f : Nat) : Bool := (s.slot (1024 + 256 * n + f)).valid && s.funcUsable n

/-- A read of DF_RESULT; it latches DF_W (R231). -/
def actDfResultRead (fn : FuncId) (n : RegionId) : Act := look fun s =>
  let p := Page.decision n
  let k := 256 * n.val + s.get p DECISION.DF_SEL_FUNC
  let r := s.slot (1024 + k)
  if fn.val ≠ 0 then setRdata 0
  else acts [setRdata (r.value % 2 + 2 * b2n (s.funcValid n (s.get p DECISION.DF_SEL_FUNC)) + bitsOf r.flags 3 1 * 4
      + min (s.func k).waiting.length 7 * 2 ^ 8),
    setPair p DECISION.DF_W_LO DECISION.DF_W_HI r.w.toNat]
def execDfResultRead (fn : FuncId) (n : RegionId) (s : State) : Res := done (actDfResultRead fn n) s

/-- A function reaches the registers of a readout slot: the physical function, or the READY guest that leases the engine
that owns its tone (R230, R406). -/
def State.reachesTone (s : State) (fn : FuncId) (u : Nat) : Bool :=
  fn.val = 0 || (s.guestReady fn.val && match s.toneOwner u with | some e => s.guestOf e = fn.val | none => false)

/-- A read of RES_IQ_s; it latches RES_TAG_s and RES_W_s (R229). -/
def actResIqRead (fn : FuncId) (t : FeedlineId) (slot : Fin 32) : Act := look fun s =>
  let p := Page.transceiver t
  let u := 32 * t.val + slot.val
  let r := s.slot u
  let tag (f : Nat → Field) (i : Nat) : Act := setF p (f slot) (bitOf r.flags i)
  if !s.reachesTone fn u then setRdata 0
  else acts [setRdata (s.get p (TRANSCEIVER.RES_IQ_I slot) + s.get p (TRANSCEIVER.RES_IQ_Q slot) * 2 ^ 16),
    setF p (TRANSCEIVER.RES_TAG_STATE slot) r.value, setF p (TRANSCEIVER.RES_TAG_CONF slot) r.conf,
    tag TRANSCEIVER.RES_TAG_VALID flagValid, tag TRANSCEIVER.RES_TAG_OVR flagOvr, tag TRANSCEIVER.RES_TAG_OVR_NB flagOvrNb,
    tag TRANSCEIVER.RES_TAG_RX_FAULT flagRxFault, tag TRANSCEIVER.RES_TAG_SAT flagSat, tag TRANSCEIVER.RES_TAG_CUT flagCut,
    tag TRANSCEIVER.RES_TAG_CORR_CHG flagCorrChg, setF p (TRANSCEIVER.RES_W_W slot) r.w.toNat]
def execResIqRead (fn : FuncId) (t : FeedlineId) (slot : Fin 32) (s : State) : Res := done (actResIqRead fn t slot) s

end Sys2Proof.Machine
end

