-- ==== Sys2Proof/Machine/Stream.lean ====
section
/-! DEFINITION. Streams: descriptors, segments and boundaries, jump requests, prefetch and underruns (R174 to R186). -/

namespace Sys2Proof.Machine

/-! Starts and boundaries (R171, R174 to R180) -/

/-- The stream of a tone ends here, its slots go free and waiting STREAM enqueues go on (R181). -/
def finishStream (key : Nat) : Act := look fun s =>
  match (s.tone key).stream with
  | none => skip
  | some x => acts [endStream key, resumeSlots (blockOf x.engine)]

/-- A jump request reaches a streaming tone; slots that go free serve the enqueues that wait (R178 to R181). -/
def requestJump (key : Nat) (j : JumpReq) : Act := look fun s =>
  match (s.tone key).stream with
  | none => skip
  | some x => acts [holdJump key j, resumeSlots (blockOf x.engine)]

/-- The stream continues at a descriptor from ST `t`, with the opening data its window holds: an end address ends it, an invalid
descriptor ends it with BADSEG and the void (R176, R177, R182). -/
def enterSegment (key a : Nat) (t : Stamp) (opening : Option Bool) : Act := look fun s =>
  match (s.tone key).stream with
  | none => skip
  | some x =>
    if a = segEnd then finishStream key
    else if s.segValid x.engine a x.ctx then
      let upTo := if opening.isSome then t + BitVec.ofNat 64 (min (segSamples (s.segDesc a) x.ctx) (leadMax x.ctx)) else t
      acts [updTone key fun r => { r with stream := some { x with
          seg := a, segStart := t, rep := 0, upTo := upTo, rotten := if opening = some true then [(t, upTo)] else [],
          openNext := none, openJump := none } }, judgeJump key, showTone key]
    else acts [setF (tonePage key) (OUTP.TONE_STATUS_BADSEG (toneSlot key)) 1, finishStream key, voidShot x.engine [.underrun]]

/-- The stream of an entry, before its first segment is entered. -/
def newStream (e : Nat) (x : Entry) (stop : Stamp) : Streaming :=
  { ctx := x.ctx, start := x.stamp, stop := stop, engine := e, slot := x.slot.getD 0, seg := Ctx.envAddr x.ctx, segStart := x.stamp,
    rep := 0, jump := none, coming := [], upTo := x.stamp, openNext := none, openJump := none, rotten := [], zero := [],
    silent := x.silent }

/-- STREAM_START at its stamp (R171, R174, R178, R186): a jump request on a tone that streams, else a new stream, whose lead is at most
LEAD_MAX (R182). -/
def actStreamStart (e : EngineId) : Act := atStamp e .streamStart fun x => look fun s =>
  let key := entryTone e x
  let k := blockOf e
  if (s.tone key).streamsAt x.stamp then requestJump key ⟨x.stamp, Ctx.envAddr x.ctx, true, x.slot, none⟩
  else
    let stop := match (s.eng e).streamsEnd with | some c => Stamp.earlier x.stop c | none => x.stop
    let opening := ((s.blk k).primed.find? fun y => some y.1 = x.slot).map (·.2)
    acts [cutTone key x.stamp, rateCheck (tonePage key) false x.ctx,
      if Ctx.duration x.ctx = 0 || overAt stop x.stamp then acts [freeSlot k x.slot, resumeSlots k]
      else acts [updTone key fun t => { t with stream := some (newStream e x stop) },
          updBlk k fun b => { b with primed := b.primed.filter fun y => some y.1 ≠ x.slot },
          modF (tonePage key) (OUTP.TONE_LEAD_LEAD_CUR (toneSlot key)) fun v => min v (leadMax x.ctx),
          enterSegment key (Ctx.envAddr x.ctx) x.stamp opening]]
def execStreamStart (e : EngineId) (s : State) : Res := done (actStreamStart e) s

/-- After the last sample of a repetition the stream takes a jump that is in time, moving into its slot, plays the next repetition, or
goes to NEXT; a jump that came too late is in time for the following boundary (R175, R176, R179, R181). -/
def crossBoundary (key : Nat) (t : Stamp) : Act := look fun s =>
  match (s.tone key).stream with
  | none => skip
  | some x =>
    let k := blockOf x.engine
    let held := x.jump.map fun j => if j.verdict = some true then { j with verdict := some false } else j
    match x.taken with
    | some j =>
      acts [if j.slot.isSome then freeSlot k (some x.slot) else skip,
        updTone key fun r => { r with stream := some { x with jump := none, slot := j.slot.getD x.slot } },
        updBlk k fun b => { b with primed := b.primed.filter fun y => some y.1 ≠ j.slot },
        enterSegment key j.target t (s.opening x), resumeSlots k]
    | none =>
      if x.rep < Seg.rep (s.segDesc x.seg) then
        acts [updTone key fun r => { r with stream := some { x with segStart := t, rep := x.rep + 1, jump := held } },
          judgeJump key, showTone key]
      else
        acts [updTone key fun r => { r with stream := some { x with jump := held } },
          enterSegment key (Seg.next (s.segDesc x.seg)) t (s.opening x)]

/-- SEGMENT_BOUNDARY: the sample after the last one of a repetition is reached, or S + DURATION before it. -/
def actSegmentBoundary (o : OutputId) (slot : Fin 32) : Act := look fun s =>
  let key := outputTone o slot
  match o, (s.tone key).stream with
  | .flux _, _ | _, none => skip
  | _, some x =>
    let t := s.segLast x + 1
    if s.time.frozen then skip
    else if Stamp.atOrAfter t x.stop then acts [passTo x.stop, endStream key, resumeSlots (blockOf x.engine)]
    else acts [passTo t, crossBoundary key t]
def execSegmentBoundary (o : OutputId) (slot : Fin 32) (s : State) : Res := done (actSegmentBoundary o slot) s

/-! Prefetch (R182 to R184, R307) -/

/-- The word the gate forms next, which leaves the balls 256 ST later (R67). -/
def State.formedWord (s : State) : Stamp := Stamp.gridUp 5 s.st + gateLead

/-- Some sample of a word lacks its stream data, for a cause `lacks` or `spoilt` tells. -/
def wordLacks (p : Stamp → Bool) (w : Stamp) : Bool := (upTo 32).any fun i => p (w + BitVec.ofNat 64 i)

/-- STREAM_UNDERRUN: the gate forms a word without its stream data, or with uncorrectable ones: it plays zero, is counted, and voids the
shot; the first word of a run doubles LEAD_CUR up to LEAD_MAX (R184, R307, R321). -/
def actStreamUnderrun (o : OutputId) (slot : Fin 32) : Act := look fun s =>
  let key := outputTone o slot
  match o, (s.tone key).stream with
  | .flux _, _ | _, none => skip
  | _, some x =>
    let w := s.formedWord
    if s.time.frozen || x.zero.contains w || !wordLacks (s.lacks x) w then skip else
    acts [passTo (w - gateLead),
      updTone key fun t => { t with stream := t.stream.map fun y => { y with
        zero := w :: y.zero.filter fun v => Stamp.atOrAfter v (wordStart s.st) } },
      if x.zero.contains (w - 32) then skip
      else modF (tonePage key) (OUTP.TONE_LEAD_LEAD_CUR (toneSlot key)) fun v => min (2 * v) (leadMax x.ctx),
      countF (tonePage key) (OUTP.TONE_COUNT_UNDERRUN (toneSlot key)),
      voidShot x.engine (if wordLacks (s.spoilt x) w then [.underrun, .ecc] else [.underrun])]
def execStreamUnderrun (o : OutputId) (slot : Fin 32) (s : State) : Res := done (actStreamUnderrun o slot) s

/-- The tone whose stream plays from a slot of a block. -/
def State.slotTone (s : State) (k i : Nat) : Option Nat :=
  (s.tones.find? fun kv => match kv.2.stream with | some x => blockOf x.engine = k && x.slot = i | none => false).map (·.1)

/-- STREAM_DATA_DELIVERY: data reach a slot's window: those of the current segment up to a sample, at most LEAD_MAX ahead, the opening
data of its NEXT or JUMP, or those of the target of a STREAM that waits in the slot (R181 to R183); uncorrectable ones are kept as such
(R307). -/
def actStreamDataDelivery (k : BlockId) (slot : Fin 8) (part : StreamPart) (uncorrectable : Bool) : Act := look fun s =>
  let upd (f : Streaming → Streaming) : Act :=
    match s.slotTone k.val slot.val with
    | some key => updTone key fun t => { t with stream := t.stream.map f }
    | none => skip
  match part with
  | .target =>
    if ((s.blk k.val).slots.any fun y => y.1 = slot.val) && (s.slotTone k.val slot.val).isNone then
      updBlk k.val fun b => { b with primed := (slot.val, uncorrectable) :: b.primed.filter fun y => y.1 ≠ slot.val }
    else skip
  | .current bound => upd fun x =>
      let last := Stamp.later x.upTo (Stamp.earlier bound (s.st + BitVec.ofNat 64 (leadMax x.ctx)))
      { x with upTo := last, rotten := if uncorrectable then (x.upTo, last) :: x.rotten else x.rotten }
  | .next => upd fun x => { x with openNext := some uncorrectable }
  | .jump => upd fun x => { x with openJump := some uncorrectable }
def execStreamDataDelivery (k : BlockId) (slot : Fin 8) (part : StreamPart) (uncorrectable : Bool) (s : State) : Res :=
  done (actStreamDataDelivery k slot part uncorrectable) s

end Sys2Proof.Machine
end

