-- ==== Sys2Proof/Machine/Acquire.lean ====
section
/-! DEFINITION. Trigger units and their firings (R232 to R239), trigger-mode functions and coincidence (R224, R240 to R245),
records (R246 to R253), the capture queues and rings (R254 to R258), and the ACQUISITION page's unit words (R261 to R264). -/

namespace Sys2Proof.Machine

/-! Sources (R221, R243) -/

/-- An event source a selector names: a trigger unit, a trigger-mode function, a remote tag, or a coincidence unit. -/
inductive EventSource where
  | trig (no : Nat)
  | func (k : Nat)
  | remote (dev tag : Nat)
  | coinc (k : Nat)
deriving DecidableEq, Repr

/-- The source a selector word names; none where it names nothing (R243). -/
def selEvent (v : Nat) : Option EventSource :=
  let u := bitsOf v 9 0
  match bitsOf v 31 29 with
  | 1 => some (.trig u)
  | 2 => if u < 32 then some (.trig (1024 + u)) else none
  | 3 => if u < 16 then some (.trig (1056 + u)) else none
  | 4 => some (.func (256 * bitsOf v 10 8 + bitsOf v 7 0))
  | 5 => some (.remote (bitsOf v 21 16) (bitsOf v 15 0))
  | 6 => some (.coinc (8 * bitsOf v 10 8 + bitsOf v 2 0))
  | _ => none

/-- The units of a kind whose word 0 has bit 0 set, as 256n + unit. -/
def State.enabledUnits (s : State) (k : UnitKind) : List Nat :=
  (s.tbl.filter fun kv => kv.1 / 2 ^ 44 = Table.units.number && kv.1 % 16 = 0 && kv.2 % 2 = 1
    && unitKind (kv.1 % 2 ^ 44 / 16 % 256) = some k).map fun kv => kv.1 % 2 ^ 44 / 16

/-- Firings that can still matter: those within 2^24 ST of the newest. -/
def keepFirings (x : Stamp) (l : List Stamp) : List Stamp := x :: l.filter fun f => (x - f).toNat < 2 ^ 24

/-- An event reaches the coincidence units that name its source: it is late after the evaluation of its own ST (R242). One that no later
evaluation can read 1, after the longest HOLD, is forgotten. -/
def coincEvent (src : EventSource) (x : Stamp) : Act := look fun s =>
  forEach (s.enabledUnits .coinc) fun nu => look fun s =>
    let n := nu / 256
    let unit := nu % 256
    let i := 8 * n + (unit - 136)
    forEach ((upTo 8).filter fun j => selEvent (s.unitWord n unit (2 + j)) = some src) fun j => look fun s =>
      if Stamp.atOrAfter (s.coinc i).at' (Stamp.gridUp 5 x) then countUnit n unit 11
      else updCoinc i fun c => { c with events := (j, x) :: c.events.filter fun e => !Stamp.atOrAfter c.at' (e.2 + 8160) }

/-- The devices an exporting slot sends to: DEV, or every other present device for 0x3F (R244). -/
def State.exportTo (s : State) (dev : Nat) : List Nat :=
  if dev ≠ 0x3F then [dev]
  else (upTo 64).filter fun d => Nat.testBit (s.pair .fabric FABRIC.PRESENT_LO FABRIC.PRESENT_HI) d && d ≠ s.fabricId

/-- A firing at the exporting slots of its source: one trigger message each (R244, R381). -/
def exportTrig (src : EventSource) (x : Stamp) : Act := look fun s =>
  forEach (s.enabledUnits .exporter) fun nu => look fun s =>
    let n := nu / 256
    let unit := nu % 256
    if selEvent (s.unitWord n unit 1) ≠ some src then skip
    else acts [forEach (s.exportTo (bitsOf (s.unitWord n unit 0) 21 16)) fun d =>
        sendFrame ⟨.trig, d, s.fabricId, some (x + BitVec.ofNat 64 (s.unitWord n unit 3)), 0xFFFF, [s.unitWord n unit 2, x.toNat],
          none, none⟩,
      countUnit n unit 4]

/-! Trigger units (R233 to R237) -/

/-- The integer square root, by its bits from 2^`k` down. -/
def isqrtFrom : Nat → Nat → Nat → Nat
  | 0, n, r => if (r + 1) * (r + 1) ≤ n then r + 1 else r
  | k + 1, n, r => isqrtFrom k n (if (r + 2 ^ (k + 1)) * (r + 2 ^ (k + 1)) ≤ n then r + 2 ^ (k + 1) else r)

def isqrt (n : Nat) : Nat := isqrtFrom 24 n 0

/-- The sums of the first `n` samples of a list. -/
def sumIQ (n : Nat) (xs : List (Int × Int)) : Int × Int := (xs.take n).foldl (fun z x => (z.1 + x.1, z.2 + x.2)) (0, 0)

/-- A difference of phases wrapped to −32,768 … +32,767. -/
def wrapPhase (d : Int) : Int := toSigned 16 (ofSigned 16 d)

/-- The value of a unit's quantity from its newest samples, newest first, averaged over 2^`filt` (R234). -/
def quantity (qty filt : Nat) (xs : List (Int × Int)) : Rat :=
  let n := 2 ^ filt
  let z := sumIQ n xs
  match qty with
  | 0 | 1 => (z.1 : Rat) / n
  | 2 => (z.2 : Rat) / n
  | 3 => ((isqrt (z.1 * z.1 + z.2 * z.2).toNat / n : Nat) : Rat)
  | 4 => (atan2Turn z.2 z.1 : Rat)
  | _ => let y := sumIQ n (xs.drop 1); (wrapPhase (atan2Turn z.2 z.1 - atan2Turn y.2 y.1) : Rat)

/-- TRIG_CFG fields of a unit. -/
def State.trigCfg (s : State) (u : TriggerId) : Nat := s.unitWord (trigPlace u).1 (trigPlace u).2 0
def State.trigEnabled (s : State) (u : TriggerId) : Bool := bitOf (s.trigCfg u) 0 = 1

/-- A unit evaluates its stream at ST `t` (R233, R237): its input is LIVE, its tone below 10 GHz, `t` on its grid. -/
def State.evaluates (s : State) (u : TriggerId) (t : Stamp) : Bool :=
  s.trigEnabled u && !s.time.frozen && match u with
  | .tone u => s.rxIs (u / 32) .live && !tooHigh ((s.tone (rxTone u)).frameAt t).f && t.toNat % 32 = 0
  | .raw f => s.rxIs f .live
  | .ext _ => t.toNat % 4 = 0

/-- The samples a unit's value at `t` is formed from, newest first: 2^FILT of its base grid, and the one before them (R234); the raw codes
of the input begin 512 ST before the oldest. -/
def State.unitSamples (s : State) (u : TriggerId) (t : Stamp) (raws : List (BitVec 12)) : List (Int × Int) :=
  let n := 2 ^ bitsOf (s.trigCfg u) 7 5
  match u with
  | .tone u => (upTo (n + 1)).map fun i => s.toneAt u (t - BitVec.ofNat 64 (32 * n) - 512) raws (t - BitVec.ofNat 64 (32 * i))
  | .raw f => (upTo (n + 1)).map fun i => (s.inputAt f (t - BitVec.ofNat 64 n - 512) raws (t - BitVec.ofNat 64 i), 0)
  | .ext _ => []

/-- The value of a tone or raw-input unit at `t`. -/
def State.unitValue (s : State) (u : TriggerId) (t : Stamp) (raws : List (BitVec 12)) : Rat :=
  quantity (bitsOf (s.trigCfg u) 3 1) (bitsOf (s.trigCfg u) 7 5) (s.unitSamples u t raws)

/-- LEVEL and HYST of a unit. -/
def State.unitLevel (s : State) (u : TriggerId) : Rat := (toSigned 32 (s.unitWord (trigPlace u).1 (trigPlace u).2 1) : Rat)
def State.unitHyst (s : State) (u : TriggerId) : Rat := (s.unitWord (trigPlace u).1 (trigPlace u).2 2 : Rat)

/-- A value arms an edge rule, or fires it (R235). -/
def armsAt (falling : Bool) (level hyst v : Rat) : Bool := if falling then level + hyst ≤ v else v ≤ level - hyst
def firesAt (falling : Bool) (level v : Rat) : Bool := if falling then v ≤ level else level ≤ v

/-- The tones whose current stream segment names a unit (R178). -/
def State.jumpedBy (s : State) (u : TriggerId) : List Nat :=
  (s.tones.filter fun kv => match kv.2.stream with | some x => segSource (s.segDesc x.seg) = some u | none => false).map (·.1)

/-- A firing at `x` is a jump request of every stream whose current segment names its unit: it arrives 1,024 ST later, for the segment's
JUMP (R178). -/
def jumpAt (u : TriggerId) (x : Stamp) : Act := look fun s => forEach (s.jumpedBy u) fun k => updTone k fun t =>
  { t with stream := t.stream.map fun y => { y with coming := y.coming ++ [⟨x + 1024, Seg.jump (s.segDesc y.seg), false, none, none⟩] } }

/-- A unit fires at ST `x`: it is counted, streams take its jump requests, and the firing waits for its delivery. -/
def fireUnit (u : TriggerId) (x : Stamp) : Act :=
  acts [countUnit (trigPlace u).1 (trigPlace u).2 7, jumpAt u x,
    updTrig (triggerNo u) fun r => { r with armed := false, waiting := r.waiting ++ [x] }]

/-- TRIGGER_ARMED: the value at `t` arms the unit. -/
def actTriggerArmed (u : TriggerId) (t : Stamp) (raws : List (BitVec 12)) : Act := look fun s =>
  match u with
  | .ext _ => skip
  | _ =>
    if s.evaluates u t && armsAt (bitOf (s.trigCfg u) 4 = 1) (s.unitLevel u) (s.unitHyst u) (s.unitValue u t raws) then
      acts [passTo t, updTrig (triggerNo u) fun r => { r with armed := true }]
    else skip
def execTriggerArmed (u : TriggerId) (t : Stamp) (raws : List (BitVec 12)) (s : State) : Res := done (actTriggerArmed u t raws) s

/-- TRIGGER_FIRING: an armed unit's value at `t` crosses LEVEL (R235, R236); a value that arms a unit may fire it too. -/
def actTriggerFiring (u : TriggerId) (t : Stamp) (raws : List (BitVec 12)) : Act := look fun s =>
  match u with
  | .ext _ => skip
  | _ =>
    let fall := bitOf (s.trigCfg u) 4 = 1
    let v := s.unitValue u t raws
    let armed := (s.trig (triggerNo u)).armed || armsAt fall (s.unitLevel u) (s.unitHyst u) v
    if s.evaluates u t && armed && firesAt fall (s.unitLevel u) v then acts [passTo t, fireUnit u t] else skip
def execTriggerFiring (u : TriggerId) (t : Stamp) (raws : List (BitVec 12)) (s : State) : Res := done (actTriggerFiring u t raws) s

/-- EXT_TRIGGER_FIRING: the input's levels, one sample before the run and then the run, change to the POL level for
GLITCH + 1 samples; the firing ST is that of the run's first sample (R237). -/
def actExtTriggerFiring (i : Fin 16) (t : Stamp) (levels : List Bool) : Act := look fun s =>
  let u := TriggerId.ext i
  let c := s.trigCfg u
  let g := bitsOf c 19 16
  let dest := bitOf c 4 = 0
  let run := (levels.drop 1).take (g + 1)
  if s.evaluates u t && levels.head? = some (!dest) && run.length = g + 1 && run.all (· = dest) then
    acts [passTo (t + BitVec.ofNat 64 (4 * g)), fireUnit u t]
  else skip
def execExtTriggerFiring (i : Fin 16) (t : Stamp) (levels : List Bool) (s : State) : Res :=
  done (actExtTriggerFiring i t levels) s

/-! Delivery (R238, R239) -/

/-- The engines whose START_SRC names a unit (R88, R131). -/
def State.startedBy (s : State) (u : TriggerId) : List Nat :=
  let (kind, no) := match u with
    | .tone u => (1, u.val)
    | .raw t => (2, t.val)
    | .ext i => (3, i.val)
  (upTo 1024).filter fun e =>
    s.get (cellPage e) CELL.START_SRC_KIND = kind && s.get (cellPage e) CELL.START_SRC_UNIT = no

/-- A firing at `x` reaches its users: engine starts, coincidence units and exporting slots (R239); branches, functions and formers read it
from the unit. -/
def deliverFiring (u : TriggerId) (x : Stamp) : Act := look fun s =>
  acts [forEach (s.startedBy u) fun e => startRequest e (some x),
    coincEvent (.trig (triggerNo u)) x, exportTrig (.trig (triggerNo u)) x]

/-- FIRING_DELIVERY: the oldest firing of a unit, or a progress mark that has no firing before it. -/
def actFiringDelivery (u : TriggerId) (mark : Option Stamp) : Act := look fun s =>
  let r := s.trig (triggerNo u)
  match mark, r.waiting with
  | none, x :: rest =>
    acts [updTrig (triggerNo u) fun r => { r with
        waiting := rest, firings := keepFirings x r.firings, progress := Stamp.later r.progress x },
      deliverFiring u x]
  | none, [] => skip
  | some m, w =>
    if Stamp.atOrAfter s.st m && w.all (fun x => !Stamp.atOrAfter m x) then
      updTrig (triggerNo u) fun r => { r with progress := Stamp.later r.progress m }
    else skip
def execFiringDelivery (u : TriggerId) (mark : Option Stamp) (s : State) : Res := done (actFiringDelivery u mark) s

/-! Trigger-mode functions (R224, R240) -/

/-- A firing held for 32 × HOLD reads 1 at E. -/
def heldAt (hold : Nat) (e x : Stamp) : Bool :=
  Stamp.atOrAfter e x && (e - x).toNat < 32 * (if hold = 0 then 1 else hold)

/-- The trigger unit an input selector names (R221). -/
def selTrigger (v : Nat) : Option TriggerId :=
  match selKind v with
  | 2 => some (.tone (Fin.ofNat 1024 (selUnit v)))
  | 3 => some (.raw (Fin.ofNat 32 (selUnit v)))
  | 4 => some (.ext (Fin.ofNat 16 (selUnit v)))
  | _ => none

/-- DF_TRIGGER_EVAL: the function evaluates the next multiple of 32 that every input's progress mark has passed; a 0-to-1
change of its output is a firing (R224). -/
def actDfTriggerEval (n : RegionId) (f : Fin 256) : Act := look fun s =>
  let k := 256 * n.val + f.val
  let e := (s.func k).at' + 32
  let ins := (upTo 12).filterMap fun i => (selTrigger (s.selector n f i)).map fun u => (i, u)
  let ready := ins.all fun x => Stamp.atOrAfter (s.trig (triggerNo x.2)).progress e
  if s.dfMode n f ≠ 2 || !ready || !Stamp.atOrAfter s.st e then skip else
  let a := (ins.map fun x =>
    if (s.trig (triggerNo x.2)).firings.any (heldAt (bitsOf (s.trigCfg x.2) 15 8) e) then 2 ^ x.1 else 0).sum
  let out := bitOf (s.funcWord n f (a / 32)) (a % 32) = 1
  let fires := out && !(s.func k).out
  acts [updFunc k fun r => { r with at' := e, out := out, firings := if fires then keepFirings e r.firings else r.firings },
    if fires then acts [coincEvent (.func k) e, exportTrig (.func k) e] else skip]
def execDfTriggerEval (n : RegionId) (f : Fin 256) (s : State) : Res := done (actDfTriggerEval n f) s

/-! Coincidence units (R241, R242) -/

/-- CU_EVALUATE: the unit evaluates the next multiple of 32 once ST has passed it by LAG. -/
def actCuEvaluate (n : RegionId) (i : Fin 8) : Act := look fun s =>
  let unit := 136 + i.val
  let k := 8 * n.val + i.val
  let cfg := s.unitWord n unit 0
  let e := (s.coinc k).at' + 32
  if bitOf cfg 0 = 0 || !Stamp.atOrAfter s.st (e + BitVec.ofNat 64 (s.unitWord n unit 1)) then skip else
  let used := (upTo 8).filter fun j => (selEvent (s.unitWord n unit (2 + j))).isSome
  let ones := used.filter fun j => (s.coinc k).events.any fun x => x.1 = j && heldAt (bitsOf cfg 15 8) e x.2
  let out := match bitsOf cfg 2 1 with
    | 0 => ones ≠ []
    | 1 => used ≠ [] && ones.length = used.length
    | 2 => bitsOf cfg 6 3 ≤ ones.length
    | _ => false
  let fires := out && !(s.coinc k).out
  acts [updCoinc k fun c => { c with at' := e, out := out, firings := if fires then keepFirings e c.firings else c.firings },
    if fires then acts [countUnit n unit 10, exportTrig (.coinc k) e] else skip]
def execCuEvaluate (n : RegionId) (i : Fin 8) (s : State) : Res := done (actCuEvaluate n i) s

/-! Records (R246 to R250, R256) -/

/-- Fields of CAP_CFG. -/
def State.capEn (s : State) (k : Nat) : Bool := bitOf (s.formerWord k 3) 0 = 1
def State.capExtend (s : State) (k : Nat) : Bool := bitOf (s.formerWord k 3) 1 = 1
def State.capTsrc (s : State) (k : Nat) : Nat := bitsOf (s.formerWord k 3) 4 2
def State.capTsel (s : State) (k : Nat) : Nat := bitsOf (s.formerWord k 3) 12 5
def State.capTreg (s : State) (k : Nat) : Nat := bitsOf (s.formerWord k 3) 15 13
def State.baseDecim (s : State) (k : Nat) : Nat := min 8 (bitsOf (s.formerWord k 3) 19 16)
def State.capRshift (s : State) (k : Nat) : Nat := bitsOf (s.formerWord k 3) 21 20

/-- The factor a unit should use: min(8, BASE_DECIM + AUTO) (R247). -/
def State.factorFor (s : State) (k : Nat) : Nat :=
  min 8 (s.baseDecim k + s.get (acqPage (formerPlace k).1) ACQUISITION.Q_STATUS_AUTO)

/-- The engine that owns a former's tone; raw-input units have none. -/
def State.formerOwner (s : State) (k : Nat) : Option Nat := if k < 1024 then s.toneOwner k else none

/-- A former's trigger unit. -/
def formerTrig (k : Nat) : TriggerId := if k < 1024 then .tone (Fin.ofNat 1024 k) else .raw (Fin.ofNat 32 (k - 1024))

/-- ⌈L / Δ⌉ of a path delay. -/
def delaySamples (d l : Nat) : Nat := (l + (2 ^ d - 1)) / 2 ^ d

/-- A record trigger at ST `x` with path delay `l` reaches former `k`: late, ignored, extending, or opening a record of kind
`kind` (R248 to R250, R256). -/
def recordTriggerAt (k kind : Nat) (x : Stamp) (l : Nat) : Act := look fun s =>
  let f := s.former k
  let (n, unit) := formerPlace k
  let d := gridAt k f.dl
  let g := Stamp.gridUp d x
  let a := f.dl - s.baseDecim k
  let pre := s.formerWord k 5 / 2 ^ a
  let post := max 1 ((s.formerWord k 4 + (2 ^ a - 1)) / 2 ^ a)
  if 4096 ≤ delaySamples d l then countUnit n unit 9 else
  match f.record with
  | some r =>
    let put (r : OpenRecord) : Act := updFormer k fun f => { f with record := some r }
    if s.capExtend k && !r.ended && !(r.len = 65536 && Nat.testBit r.flags 1) then
      let idx : Int := Stamp.ahead g r.g / 2 ^ gridAt k r.dl + r.preAct + post
      put { r with len := min 65536 (max r.len idx.toNat), flags := r.flags ||| 2 }
    else acts [put { r with missed := satInc 16 r.missed, flags := r.flags ||| 1 }, countUnit n unit 8]
  | none =>
    let held := if Stamp.atOrAfter g f.heldFrom then (g - f.heldFrom).toNat / 2 ^ d else 0
    let preAct := min pre (min (4096 - delaySamples d l) held)
    let shot := match s.formerOwner k with
      | some e => if s.inShot e then some ((s.group (s.groupOf e)).shot, (s.group (s.groupOf e)).attempt) else none
      | none => none
    let owner := match s.formerOwner k with | some e => s.guestOf e | none => 0
    let new : OpenRecord :=
      { kind := kind, x := x, g := g, dl := f.dl, qty := bitsOf (s.formerWord k 0) 3 1, rshift := s.capRshift k, preAct := preAct,
        len := preAct + post, flags := if preAct < pre then 8 else 0, missed := 0, shot := shot, owner := owner, ended := false }
    updFormer k fun f => { f with record := some new }

/-- The former's source fired at `x` (R246). -/
def State.sourceFired (s : State) (k : Nat) (x : Stamp) : Bool :=
  match s.capTsrc k with
  | 0 => let r := s.trig (triggerNo (formerTrig k)); r.firings.contains x || r.waiting.contains x
  | 1 => (s.func (256 * s.capTreg k + s.capTsel k)).firings.contains x
  | 2 => (s.trig (1056 + s.capTsel k)).firings.contains x
  | 3 => (s.coinc (8 * s.capTreg k + s.capTsel k)).firings.contains x
  | _ => false

/-- The longest path delay of the former's source (R246). -/
def State.longestDelay (s : State) (k : Nat) : Nat :=
  match s.capTsrc k with
  | 0 => 0
  | 1 => 2240
  | 2 => 1600
  | _ => s.unitWord (s.capTreg k) (136 + s.capTsel k) 1 + 640

/-- A former takes record triggers: CAP_EN, and an input that gives it samples (R233, R246). -/
def State.forming (s : State) (k : Nat) : Bool := s.capEn k && s.rxIs (formerFeed k) .live && !s.time.frozen

/-- RECORD_TRIGGER: a firing of the selected source reaches the former, in firing order. -/
def actRecordTrigger (k : Fin 1056) (x : Stamp) (delay : BitVec 32) : Act := look fun s =>
  let fresh := match (s.former k).last with | some y => Stamp.atOrAfter x y && x ≠ y | none => true
  if s.forming k && s.sourceFired k x && fresh && delay.toNat ≤ s.longestDelay k then
    acts [updFormer k fun f => { f with last := some x }, recordTriggerAt k (s.capTsrc k) x delay.toNat]
  else skip
def execRecordTrigger (k : Fin 1056) (x : Stamp) (delay : BitVec 32) (s : State) : Res := done (actRecordTrigger k x delay) s

/-- A function reaches a unit's words: the physical function any, a guest the tone units of its engines' tones (R264). -/
def State.reachesUnit (s : State) (fn : FuncId) (n unit : Nat) : Bool :=
  fn.val = 0 || (unit < 128 && s.reachesTone fn (128 * n + unit))

/-- SW_TRIG: a host trigger at the newest sample the former holds (R246). -/
def actSwTrig (fn : FuncId) (n : RegionId) (unit : BitVec 8) : Act := look fun s =>
  match formerOf n unit.toNat with
  | none => skip
  | some k =>
    if s.reachesUnit fn n unit.toNat && s.forming k then
      let d := gridAt k (s.former k).dl
      recordTriggerAt k 4 ((s.st >>> d) <<< d) 0
    else skip
def execSwTrig (fn : FuncId) (n : RegionId) (unit : BitVec 8) (s : State) : Res := done (actSwTrig fn n unit) s

/-- FACTOR_ADOPT: a unit with no open record adopts its new factor and fills again (R256). -/
def actFactorAdopt (k : Fin 1056) : Act := look fun s =>
  if (s.former k).record.isNone && (s.former k).dl ≠ s.factorFor k then
    acts [updFormer k fun f => { f with dl := s.factorFor k }, refill k]
  else skip
def execFactorAdopt (k : Fin 1056) (s : State) : Res := done (actFactorAdopt k) s

/-! The record's bytes (R251 to R253) -/

/-- The values v_k of a record: `xs` is the sample before the first, then the recorded samples in order. -/
def recordValues (tone : Bool) (qty : Nat) (xs : List (Int × Int)) : List Int :=
  (xs.zip (xs.drop 1)).map fun p =>
    let i := p.2.1
    let q := p.2.2
    match tone, qty with
    | true, 1 => i
    | true, 2 => q
    | true, 3 => isqrt (i * i + q * q).toNat
    | true, 4 => atan2Turn q i
    | true, 5 => wrapPhase (atan2Turn q i - atan2Turn p.1.2 p.1.1)
    | false, 0 => i
    | _, qty => Config.quantityOf qty i q

/-- BASELINE: the mean of the samples before p, truncated toward zero. -/
def baseline (vs : List Int) (p : Nat) : Int := if p = 0 then 0 else Int.tdiv ((vs.take p).sum) p

/-- The smallest index from p on that maximises σ(v − B), and that value. -/
def peakOf (sg : Int) (b : Int) : Nat → List Int → Option (Nat × Int)
  | _, [] => none
  | k, v :: vs =>
    match peakOf sg b (k + 1) vs with
    | some (j, w) => if sg * (w - b) ≤ sg * (v - b) then some (k, v) else some (j, w)
    | none => some (k, v)

/-- The crossing time of a level between samples k − 1 and k (R253). -/
def crossTime (vs : List Int) (level : Rat) (k : Nat) : Rat :=
  let a := vs.getD (k - 1) 0
  let b := vs.getD k 0
  if k = 0 then 0 else if a = b then Config.flatCrossing k else (k : Rat) - 1 + (level - a) / ((b - a : Int) : Rat)

/-- The first crossing of a level from p to k*. -/
def firstCrossing (sg : Int) (vs : List Int) (level : Rat) (p last : Nat) : Option Rat :=
  ((upTo (last + 1 - p)).map (p + ·)).findSome? fun k =>
    if 0 ≤ (sg : Rat) * (vs.getD k 0 - level) then some (if k = p then (p : Rat) else crossTime vs level k) else none

/-- The samples at which the edge rule fires over a record, starting unarmed (R235). -/
def firingIndices (falling : Bool) (level hyst : Rat) : Nat → Bool → List Int → List Nat
  | _, _, [] => []
  | k, armed, v :: vs =>
    let armed := armed || armsAt falling level hyst v
    if armed && firesAt falling level v then k :: firingIndices falling level hyst (k + 1) false vs
    else firingIndices falling level hyst (k + 1) armed vs

/-- Any sample of a record carries a tag of its input, given by a test of an interval of input samples (R207, R252). -/
def taggedIn (k : Nat) (r : OpenRecord) (tag : Stamp → Stamp → Bool) : Bool :=
  let d := gridAt k r.dl
  (upTo r.len).any fun i =>
    let y := r.g + BitVec.ofNat 64 (i * 2 ^ d) - BitVec.ofNat 64 (r.preAct * 2 ^ d)
    if k < 1024 then tag (y - 512) (y + 511) else tag y y

/-- A sample as recorded: shifted and limited (R251). -/
def shifted (rs : Nat) (v : Int) : Int := roundAway ((v : Rat) / 2 ^ rs)

/-- The words of a record's samples, before padding: tone I and Q, raw 16 bits. -/
def sampleBytes (tone : Bool) (rs : Nat) (x : Int × Int) : List Byte :=
  if tone then leBytes (ofSigned 16 (satSigned 16 (shifted rs x.1)) + ofSigned 16 (satSigned 16 (shifted rs x.2)) * 2 ^ 16) 4
  else leBytes (ofSigned 16 (satSigned 16 x.1)) 2

/-- The sample of former `k`'s stream at `n`: y of its tone, or x of its input (R232). -/
def State.formerSample (s : State) (k : Nat) (first : Stamp) (raws : List (BitVec 12)) (n : Stamp) : Int × Int :=
  if k < 1024 then s.toneAt k first raws n else (s.inputAt (formerFeed k) first raws n, 0)

/-- The samples of a record, with the one before its first in front: the stream on the record's grid, or, at a factor above 1, what the
anti-alias filter makes of it (R247). The raw codes begin 512 ST before that sample. -/
def State.recordSamples (s : State) (k : Nat) (r : OpenRecord) (raws : List (BitVec 12)) : List (Int × Int) :=
  let start := r.g - BitVec.ofNat 64 ((r.preAct + 1) * 2 ^ gridAt k r.dl)
  let at' (i : Nat) : Int × Int := s.formerSample k (start - 512) raws (start + BitVec.ofNat 64 (i * 2 ^ baseGrid k))
  let stream := (upTo (r.len * 2 ^ r.dl + 1)).map at'
  if r.dl = 0 then stream
  else (upTo (r.len + 1)).map fun i =>
    (Config.antiAlias r.dl (stream.map (·.1)) (i * 2 ^ r.dl), Config.antiAlias r.dl (stream.map (·.2)) (i * 2 ^ r.dl))

/-- The bytes of a record: its header with the measurements, then its samples (R251 to R253). -/
def State.recordBytes (s : State) (k : Nat) (r : OpenRecord) (raws : List (BitVec 12)) : List Byte :=
  let tone := decide (k < 1024)
  let xs := s.recordSamples k r raws
  let samples := xs.drop 1
  let vs := recordValues tone r.qty xs
  let u := formerTrig k
  let fall := bitOf (s.trigCfg u) 4 = 1
  let sg : Int := if fall then -1 else 1
  let p := r.preAct
  let b := baseline vs p
  let (pk, vp) := (peakOf sg b p (vs.drop p)).getD (p, b)
  let peak := vp - b
  let lv (f : Rat) : Rat := (b : Rat) + f * peak
  let rise := match firstCrossing sg vs (lv (1 / 10)) p pk, firstCrossing sg vs (lv (9 / 10)) p pk with
    | some a, some c => if sg * peak ≤ 0 then 0xFFFFFFFF else ofSigned 32 (roundAway (16 * (c - a)))
    | _, _ => 0xFFFFFFFF
  let area := satSigned 48 (((vs.drop p).map (· - b)).sum)
  let fires := firingIndices fall (s.unitLevel u) (s.unitHyst u) 0 false vs
  let period := match fires with
    | first :: _ :: _ =>
      let last := fires.getLastD first
      ofSigned 32 (roundAway (16 * (crossTime vs (s.unitLevel u) last - crossTime vs (s.unitLevel u) first) / (fires.length - 1)))
    | _ => 0
  let t := formerFeed k
  let lim (v : Int) : Bool := satSigned 16 v ≠ v
  let sat := samples.any fun x => tone && (lim (shifted r.rshift x.1) || lim (shifted r.rshift x.2))
  let flags := r.flags ||| (if taggedIn k r (s.ovrIn t) then 16 else 0) ||| (if taggedIn k r (s.nbIn t) then 32 else 0)
    ||| (if taggedIn k r (s.recalIn t) then 64 else 0) ||| (if sat then 128 else 0) ||| (if p = 0 then 256 else 0)
  let (sh, att, ins) := match r.shot with | some (a, b) => (a, b, 1) | none => (0, 0, 0)
  let w0 := b2n (!tone) + (if tone then k else k - 1024) * 2 ^ 2 + r.kind * 2 ^ 12 + (if s.get .fabric FABRIC.FSTATUS_STATE = 1 then 0 else s.fabricId) * 2 ^ 16 + r.dl * 2 ^ 22
    + r.qty * 2 ^ 26 + r.rshift * 2 ^ 29
  pad64 (leBytes w0 4 ++ leBytes r.x.toNat 8 ++ leBytes (r.len + p * 2 ^ 17) 4 ++ leBytes (flags + r.missed * 2 ^ 16) 4
    ++ leBytes (s.formerWord k 10) 4 ++ leBytes (sh % 2 ^ 48 + att * 2 ^ 48 + ins * 2 ^ 52) 8 ++ leBytes (ofSigned 32 b) 4
    ++ leBytes (ofSigned 32 peak) 4 ++ leBytes pk 4 ++ leBytes rise 4
    ++ leBytes (ofSigned 48 area + min fires.length 0xFFFF * 2 ^ 48) 8 ++ leBytes period 4 ++ leBytes 0 4
    ++ samples.flatMap (sampleBytes tone r.rshift))

/-! The capture queue (R254, R255) -/

/-- The queue's size in bytes. -/
def queueSize : Nat := 4194304

/-- The bytes a region's queue holds. -/
def State.queueFill (s : State) (n : Nat) : Nat := ((s.capq n).recs.map fun r => r.bytes.length).sum

/-- Keep FILL, and what AUTO's rules watch, with the queue. -/
def showQueue (n : Nat) : Act := look fun s =>
  let fill := s.queueFill n
  acts [setF (acqPage n) ACQUISITION.Q_STATUS_FILL fill,
    updCapq n fun q => { q with
      lastRise := if 3145728 < fill then q.lastRise else none,
      lowSince := if fill < 1048576 then some (q.lowSince.getD s.st) else none }]

/-- The size of a record of former `k`: its header and its samples, padded to 64 bytes (R251). -/
def recordSize (k : Nat) (r : OpenRecord) : Nat := roundUp 64 (64 + (if k < 1024 then 4 else 2) * r.len)

/-- A former has a complete record that fits the queue of its region (R254). -/
def State.offers (s : State) (k : Nat) : Bool :=
  match (s.former k).record with
  | none => false
  | some r => (r.ended || r.len ≤ s.samplesHeld k r) && s.queueFill (formerPlace k).1 + recordSize k r ≤ queueSize

/-- The unit of region `n` whose former writes next: the first that offers a record, in order of number from the one whose turn it is
(R20, R254). -/
def State.nextWriter (s : State) (n : Nat) : Option Nat :=
  ((upTo 132).map fun i => ((s.capq n).turn + i) % 132).find? fun unit =>
    match formerOf n unit with | some k => s.offers k | none => false

/-- RECORD_ENQUEUE: a complete record that fits enters the queue in its former's turn (R250, R254). -/
def actRecordEnqueue (k : Fin 1056) (raws : List (BitVec 12)) : Act := look fun s =>
  match (s.former k).record with
  | none => skip
  | some r =>
    let (n, unit) := formerPlace k
    if s.nextWriter n = some unit then
      acts [updFormer k fun f => { f with record := none },
        setUnit n unit 10 (s.formerWord k 10 + 1),
        updCapq n fun q => { q with recs := q.recs ++ [⟨r.owner, s.recordBytes k r raws⟩], turn := unit + 1 }, showQueue n]
    else skip
def execRecordEnqueue (k : Fin 1056) (raws : List (BitVec 12)) (s : State) : Res := done (actRecordEnqueue k raws) s

/-- AUTO_RISE: when FILL rises above three quarters, and each 2,000,000 ST after while it stays there. -/
def actAutoRise (n : RegionId) : Act := look fun s =>
  let auto := s.get (.acquisition n) ACQUISITION.Q_STATUS_AUTO
  if s.queueFill n ≤ 3145728 || 8 ≤ auto then skip
  else acts [match (s.capq n).lastRise with | some t => passTo (t + 2000000) | none => skip,
    setF (.acquisition n) ACQUISITION.Q_STATUS_AUTO (auto + 1), countF (.acquisition n) ACQUISITION.Q_STEPS_DOWN,
    look fun s => updCapq n fun q => { q with lastRise := some s.st }]
def execAutoRise (n : RegionId) (s : State) : Res := done (actAutoRise n) s

/-- AUTO_FALL: after 20,000,000 ST with FILL below one quarter. -/
def actAutoFall (n : RegionId) : Act := look fun s =>
  let auto := s.get (.acquisition n) ACQUISITION.Q_STATUS_AUTO
  match (s.capq n).lowSince with
  | none => skip
  | some t =>
    let at' := t + 20000000
    acts [passTo at', updCapq n fun q => { q with lowSince := some (Stamp.later at' s.st) },
      if auto = 0 then skip
      else acts [setF (.acquisition n) ACQUISITION.Q_STATUS_AUTO (auto - 1), countF (.acquisition n) ACQUISITION.Q_STEPS_UP]]
def execAutoFall (n : RegionId) (s : State) : Res := done (actAutoFall n) s

/-! Rings (R257, R258, R410) -/

/-- The registers of an owner's capture ring. -/
structure RingRegs where
  page : Page
  lo : Field
  hi : Field
  units : Field
  wr : Field
  rd : Field
  en : Field
  irq : Field
  wait : Field
  fn : Nat
  vector : Nat

def captureRing (n owner : Nat) : RingRegs :=
  if owner = 0 then
    { page := acqPage n, lo := ACQUISITION.RING_BASE_LO_ADDR, hi := ACQUISITION.RING_BASE_HI_ADDR,
      units := ACQUISITION.RING_SIZE_UNITS, wr := ACQUISITION.RING_WR_OFFSET, rd := ACQUISITION.RING_RD_OFFSET,
      en := ACQUISITION.RING_CTRL_EN, irq := ACQUISITION.RING_CTRL_IRQ_LEVEL, wait := ACQUISITION.RING_STATUS_WAIT,
      fn := 0, vector := 16 + n }
  else
    { page := .session (Fin.ofNat 64 (owner - 1)), lo := SESSION.RING_BASE_LO_ADDR n, hi := SESSION.RING_BASE_HI_ADDR n,
      units := SESSION.RING_SIZE_UNITS n, wr := SESSION.RING_WR_OFFSET n, rd := SESSION.RING_RD_OFFSET n,
      en := SESSION.RING_CTRL_EN n, irq := SESSION.RING_CTRL_IRQ_LEVEL n, wait := SESSION.RING_STATUS_WAIT n,
      fn := owner, vector := 2 + n }

def State.ringBase (s : State) (r : RingRegs) : Nat := s.get r.page r.lo * 2 ^ 16 + s.get r.page r.hi * 2 ^ 32
def State.ringSize (s : State) (r : RingRegs) : Nat := s.get r.page r.units * 2 ^ 16
/-- RING_RD holds bits [31:6] of the offset. -/
def State.ringUsed (s : State) (r : RingRegs) : Nat :=
  let size := s.ringSize r
  (s.get r.page r.wr + size - s.get r.page r.rd * 64 % size) % size

/-- A record of `n` bytes leaves at least 64 free bytes in an enabled ring. -/
def State.ringTakes (s : State) (r : RingRegs) (n : Nat) : Bool :=
  s.get r.page r.en = 1 && s.ringSize r ≠ 0 && n + 64 + s.ringUsed r ≤ s.ringSize r

/-- Write bytes at a porter address: SPACE, bit 63, names host memory, which a request of the owner writes (R300). -/
def porterPut (fn a : Nat) (bytes : List Byte) : Act :=
  if bytes = [] then skip else if bitOf a 63 = 1 then emit (.hostWrite fn (a % 2 ^ 63) bytes) else storeList a bytes

/-- Write a record at RING_WR, which may wrap, advance it, and raise the ring interrupt at its level. -/
def ringPut (r : RingRegs) (bytes : List Byte) : Act := look fun s =>
  let size := s.ringSize r
  let wr := s.get r.page r.wr
  let first := min bytes.length (size - wr)
  acts [porterPut r.fn (s.ringBase r + wr) (bytes.take first), porterPut r.fn (s.ringBase r) (bytes.drop first),
    setF r.page r.wr ((wr + bytes.length) % size),
    look fun s => if s.get r.page r.irq * 4096 ≤ s.ringUsed r then emit (.msix r.fn r.vector) else skip]

/-- Zero a 64-byte unit of a record. -/
def zeroUnit (u : Nat) (bytes : List Byte) : List Byte := bytes.take (64 * u) ++ List.replicate 64 0 ++ bytes.drop (64 * u + 64)

/-- Remove the first record of an owner. -/
def dropOwner (owner : Nat) : List CapRecord → List CapRecord
  | [] => []
  | r :: rs => if r.owner = owner then rs else r :: dropOwner owner rs

/-- RING_WRITE: an owner's oldest record goes to its ring, or waits (R258); a unit that reads as uncorrectable is written as
zeros, and the word of the store that did is named in UE_ADDR (R307, R313). -/
def actRingWrite (n : RegionId) (owner : FuncId) (ue : Option (Fin 4097 × BitVec 19)) : Act := look fun s =>
  match (s.capq n).recs.find? fun r => r.owner = owner.val with
  | none => skip
  | some rec' =>
    let r := captureRing n owner
    if !s.pageIs (.region n) .ready then skip
    else if s.ringTakes r rec'.bytes.length then
      acts [ringPut r (match ue with | some u => zeroUnit u.1 rec'.bytes | none => rec'.bytes),
        match ue with
        | some u => acts [countF (.porter n) PORTER.QUEUE_ECC_UNCORRECTED, setF (.porter n) PORTER.UE_ADDR_STORE 3,
            setF (.porter n) PORTER.UE_ADDR_OFFSET (8 * u.2.toNat), raiseFault (.porter n) 1]
        | none => skip,
        updCapq n fun q => { q with recs := dropOwner owner q.recs }, showQueue n,
        look fun s => match (s.capq n).recs.find? fun r => r.owner = owner.val with
          | some next => setB r.page r.wait (!s.ringTakes r next.bytes.length)
          | none => setF r.page r.wait 0]
    else setF r.page r.wait 1
def execRingWrite (n : RegionId) (owner : FuncId) (ue : Option (Fin 4097 × BitVec 19)) (s : State) : Res := done (actRingWrite n owner ue) s

/-! Unit words (R262 to R264) -/

/-- A source selector is legal for a coincidence unit or an exporting slot (R243). -/
def selLegal (v : Nat) (toSlot : Bool) : Bool :=
  bitsOf v 31 29 = 0 || match selEvent v with
    | some (.remote ..) => !toSlot
    | some (.coinc _) => toSlot
    | some _ => true
    | none => false

/-- The configuration a unit would have keeps the rules of R263; `w0` and `w3` are its words 0 and 3. A QTY that the kind of unit does not
have stops its trigger only: the spec's detector array enables a former whose QTY is 0. -/
def State.unitFits (s : State) (n unit w0 w3 : Nat) : Bool :=
  let word := s.unitWord n unit
  let qty := bitsOf w0 3 1
  let cap := (word 5 ≤ 4096) && 1 ≤ word 4 && word 4 ≤ 65536 && word 5 + word 4 ≤ 65536
    && bitsOf w3 19 16 ≤ 8 && bitsOf w3 21 20 ≤ 2
    && (match bitsOf w3 4 2 with
      | 0 | 1 | 4 => true
      | 2 => bitsOf w3 12 5 < 16
      | 3 => bitsOf w3 12 5 < 8
      | _ => false)
  match unitKind unit with
  | some .tone => (bitOf w0 0 = 0 || (1 ≤ qty && qty ≤ 5)) && cap
  | some .raw => (bitOf w0 0 = 0 || qty = 0) && cap
  | some .ext => true
  | some .coinc =>
    let used := (upTo 8).filter fun j => bitsOf (word (2 + j)) 31 29 ≠ 0
    (upTo 8).all (fun j => selLegal (word (2 + j)) false) && bitsOf w0 2 1 ≠ 3
      && (bitsOf w0 2 1 ≠ 2 || (1 ≤ bitsOf w0 6 3 && bitsOf w0 6 3 ≤ used.length))
  | some .exporter => selLegal (word 1) true
  | none => false

/-- What setting or clearing an enable bit does besides (R235, R239, R242, R256, R259). -/
def unitSwitched (n unit w : Nat) (on : Bool) : Act := look fun s =>
  match unitKind unit with
  | some .coinc =>
    updCoinc (8 * n + (unit - 136)) fun c => if on then { CoincState.init with at' := Stamp.gridUp 5 s.st - 32 } else c
  | some .exporter | none => skip
  | _ =>
    if w = 3 then match formerOf n unit with
      | none => skip
      | some k => if on then acts [updFormer k fun f => { f with last := none }, refill k] else endRecord false k
    else
      let no := match formerOf n unit with | some k => k | none => 1056 + 2 * n + (unit - 132)
      updTrig no fun r => { r with armed := false, waiting := [] }

/-- A write to a unit word (R263). DEDUCED: while one of EN and CAP_EN is 1, a write that sets the other and changes nothing else
is accepted, since TSRC 0 and the spec's detector-array example need both. -/
def unitWrite (n unit w v : Nat) : Act := look fun s =>
  let mask := unitMask unit w
  let old := s.unitWord n unit w
  let new := v &&& mask
  let isCap := unit < 132
  let enabled := bitOf (s.unitWord n unit 0) 0 = 1 || (isCap && bitOf (s.unitWord n unit 3) 0 = 1)
  let isEn := w = 0 || (w = 3 && isCap)
  let w0 := if w = 0 then new else s.unitWord n unit 0
  let w3 := if w = 3 then new else s.unitWord n unit 3
  if mask = 0 then skip
  else if enabled && !(isEn && bitOf old 0 = 0 && new = old + 1) then
    (if isEn && bitOf old 0 = 1 && new = old - 1 then acts [setUnit n unit w new, unitSwitched n unit w false]
     else raiseFault (acqPage n) 0)
  else if isEn && bitOf new 0 = 1 then
    (if !s.pageIs (acqPage n) .ready then skip
     else if s.unitFits n unit w0 w3 then acts [setUnit n unit w new, unitSwitched n unit w true]
     else raiseFault (acqPage n) 1)
  else setUnit n unit w new

/-- A write to CAP_CFG may change the factor, which a unit with no open record adopts (R256). -/
def adoptAfter (n unit w : Nat) : Act :=
  match formerOf n unit with
  | some k => if w = 3 then actFactorAdopt (Fin.ofNat 1056 k) else skip
  | none => skip

/-- A unit word as it reads: STATUS is computed (R262). -/
def State.unitRead (s : State) (n unit w : Nat) : Nat :=
  match formerOf n unit, w with
  | some k, 6 => b2n (s.trig (triggerNo (formerTrig k))).armed + 2 * b2n (s.former k).record.isSome + (s.former k).dl * 16
  | _, _ => if (unitKind unit).isSome then s.unitWord n unit w else 0

/-- An access to UNIT_DATA (R261 to R264). -/
def actUnitData (fn : FuncId) (n : RegionId) (w : Option Word) : Act := look fun s =>
  let p := Page.acquisition n
  let unit := s.get p ACQUISITION.UNIT_SEL_UNIT
  let i := s.get p ACQUISITION.UNIT_SEL_WORD
  let ok := s.reachesUnit fn n unit && (fn.val = 0 || i ≤ 10)
  let foreign := fn.val ≠ 0 && i = 3 && (match w with | some v => 1 ≤ bitsOf v.toNat 4 2 && bitsOf v.toNat 4 2 ≤ 3 | none => false)
  acts [match w with
    | some v => if !ok then skip else if foreign then raiseFault p 1 else acts [unitWrite n unit i v.toNat, adoptAfter n unit i]
    | none => setRdata (if ok then s.unitRead n unit i else 0),
    if s.get p ACQUISITION.UNIT_SEL_AUTOINC = 1 then setF p ACQUISITION.UNIT_SEL_WORD (i + 1) else skip]
def execUnitData (fn : FuncId) (n : RegionId) (w : Option Word) (s : State) : Res := done (actUnitData fn n w) s

end Sys2Proof.Machine
end

