-- ==== Sys2Proof/Machine/Dsp.lean ====
section
/-! DEFINITION. The block signal processors: arithmetic, addressing, pipeline, repeats, interrupts, faults, host control and
lending to the watch (R265 to R293). -/

namespace Sys2Proof.Machine

/-! Fields of an instruction (R279) -/

namespace Dw
def f (w : BitVec 26) (hi lo : Nat) : Nat := bitsOf w.toNat hi lo
def d (w : BitVec 26) : Nat := f w 25 22
def s (w : BitVec 26) : Nat := f w 21 18
def t (w : BitVec 26) : Nat := f w 17 14
def imm14 (w : BitVec 26) : Int := toSigned 14 (f w 13 0)
def imm22 (w : BitVec 26) : Int := toSigned 22 (f w 21 0)
def imm16 (w : BitVec 26) : Int := toSigned 16 (f w 15 0)
def sh (w : BitVec 26) : Nat := f w 4 0
def acc (w : BitVec 26) : Nat := f w 25 25
end Dw

/-! Status word bits (R281) -/

def swIE : Nat := 4
def swSAT : Nat := 5
def swAOV : Nat := 8
def swSOV : Nat := 10
def swCIRC : Nat := 11

/-- Set a bit of a number. -/
def setBit (v i : Nat) : Nat := v ||| 2 ^ i

/-- RND (R271). -/
def DspState.rnd (x : DspState) : Nat := bitsOf x.sw 7 6

/-- A data register, an accumulator. -/
def DspState.reg (x : DspState) (i : Nat) : Word := x.d.getD i 0
def DspState.accum (x : DspState) (i : Nat) : Int := (x.a.getD i 0).toInt

def DspState.setD (x : DspState) (i : Nat) (v : Word) : DspState := { x with d := x.d.set i v }

/-- The load whose register becomes visible takes effect (R282). -/
def DspState.commit (x : DspState) : DspState :=
  match x.load with
  | some (i, v) => { x.setD i v with load := none }
  | none => x

/-! Arithmetic (R269 to R274) -/

/-- Half `h` of a data register, signed. -/
def halfOf (v : Word) (h : Nat) : Int := toSigned 16 (v.toNat / 2 ^ (16 * h))

/-- The product of a MAC (R269). -/
def macProduct (a b : Int) (frac : Bool) : Int :=
  if frac then (if a = -32768 && b = -32768 then 2 ^ 31 - 1 else 2 * (a * b)) else a * b

/-- An exact result into accumulator `i`: saturated or wrapped outside 40 bits, with AOV (R270). -/
def DspState.setAcc (x : DspState) (i : Nat) (v : Int) : DspState :=
  if satSigned 40 v = v then { x with a := x.a.set i (BitVec.ofInt 40 v) }
  else { x with a := x.a.set i (BitVec.ofInt 40 (if Nat.testBit x.sw swSAT then satSigned 40 v else v)),
                sw := setBit x.sw (swAOV + i) }

/-- Rounding of v / 2^sh under RND (R271). -/
def roundShift (rnd sh : Nat) (v : Int) : Int :=
  match rnd with
  | 1 => if sh = 0 then v else (v + 2 ^ (sh - 1)) / 2 ^ sh
  | 2 =>
    let q := v / 2 ^ sh
    let r := v - q * 2 ^ sh
    if 2 * r < 2 ^ sh || (2 * r = 2 ^ sh && q % 2 = 0) then q else q + 1
  | _ => v / 2 ^ sh

/-- HR of a value of `w` bits: the leading bits equal to its sign bit, minus 1 (R273). -/
def headroom (w : Nat) (v : Int) : Nat :=
  let m := if v < 0 then (-v - 1).toNat else v.toNat
  w - 1 - (if m = 0 then 0 else Nat.log2 m + 1)

/-! Addressing (R275 to R278) -/

/-- The low `w` bits of a number in reverse order. -/
def revBits (w v : Nat) : Nat := ((List.range w).map fun i => bitOf v i * 2 ^ (w - 1 - i)).sum

/-- update(p, m) under PCFGi, and whether it sets CIRC_ADJ. -/
def DspState.update (x : DspState) (i : Nat) (p : BitVec 19) (m : Int) : BitVec 19 × Bool :=
  let c := (x.pcfg.getD i 0).toNat
  let sel := c % 4
  let base := (x.cbase.getD sel 0).toNat
  let len := (x.clen.getD sel 0).toNat
  let w := min 19 (bitsOf c 8 4)
  if bitOf c 2 = 1 && len ≠ 0 then
    (BitVec.ofInt 19 ((base : Int) + ((p.toNat : Int) - base + m) % len), decide (p.toNat < base ∨ base + len ≤ p.toNat))
  else if bitOf c 3 = 1 && w ≠ 0 then
    (BitVec.ofNat 19 (p.toNat / 2 ^ w * 2 ^ w
      + revBits w ((revBits w p.toNat + revBits w (BitVec.ofInt 19 m).toNat) % 2 ^ w)), false)
  else (BitVec.ofInt 19 ((p.toNat : Int) + m), false)

/-- The access address of a memory instruction, and the registers after its address update (R275). -/
def DspState.access (x y : DspState) (w : BitVec 26) : BitVec 19 × DspState :=
  let i := Dw.f w 21 19
  let p := x.p.getD i 0
  let mark (y : DspState) (adj : Bool) : DspState := if adj then { y with sw := setBit y.sw swCIRC } else y
  match Dw.f w 17 16 with
  | 2 => let (a, adj) := x.update i p (Dw.imm16 w); (a, mark y adj)
  | am =>
    let (n, adj) := x.update i p (if am = 0 then Dw.imm16 w else (x.q.getD i 0).toInt)
    (p, mark { y with p := y.p.set i n } adj)

/-! System registers (R281) -/

/-- A write of SW: reserved bits stay 0, RND takes no 3, a sticky bit written 1 stays as it was (R271, R281). -/
def swWrite (old v : Nat) : Nat :=
  let rnd := if bitsOf v 7 6 = 3 then bitsOf old 7 6 else bitsOf v 7 6
  (v &&& 0x3F) + rnd * 2 ^ 6 + (v &&& old &&& 0xF00)

def DspState.sysRead (x : DspState) (door i : Nat) : Option Nat :=
  if i < 8 then some (x.p.getD i 0).toNat
  else if i < 16 then some (ofSigned 32 (x.q.getD (i - 8) 0).toInt)
  else if i < 24 then some (x.pcfg.getD (i - 16) 0).toNat
  else if i < 28 then some (x.cbase.getD (i - 24) 0).toNat
  else if i < 32 then some (x.clen.getD (i - 28) 0).toNat
  else match i with
    | 32 => some x.sw
    | 33 => some x.xc.toNat
    | 34 => some x.lr
    | 35 => some x.ipc
    | 36 => some x.isw
    | 37 => some ((x.a.getD 0 0).toNat % 2 ^ 32)
    | 38 => some ((x.a.getD 0 0).toNat / 2 ^ 32)
    | 39 => some ((x.a.getD 1 0).toNat % 2 ^ 32)
    | 40 => some ((x.a.getD 1 0).toNat / 2 ^ 32)
    | 41 => some door
    | _ => none

/-- The low or the high part of an accumulator replaced. -/
def accPart (a : BitVec 40) (hi : Bool) (v : Nat) : BitVec 40 :=
  if hi then BitVec.ofNat 40 (a.toNat % 2 ^ 32 + v % 2 ^ 8 * 2 ^ 32) else BitVec.ofNat 40 (a.toNat / 2 ^ 32 * 2 ^ 32 + v % 2 ^ 32)

/-- MOVT to a system register; none where MOVT may not write it. -/
def DspState.sysWrite (y : DspState) (i v : Nat) : Option DspState :=
  if i < 8 then some { y with p := y.p.set i (BitVec.ofNat 19 v) }
  else if i < 16 then some { y with q := y.q.set (i - 8) (BitVec.ofNat 19 v) }
  else if i < 24 then some { y with pcfg := y.pcfg.set (i - 16) (BitVec.ofNat 9 v) }
  else if i < 28 then some { y with cbase := y.cbase.set (i - 24) (BitVec.ofNat 19 v) }
  else if i < 32 then some { y with clen := y.clen.set (i - 28) (BitVec.ofNat 19 v) }
  else match i with
    | 32 => some { y with sw := swWrite y.sw v }
    | 33 => some { y with xc := BitVec.ofNat 32 v }
    | 34 => some { y with lr := v % 2 ^ 13 }
    | 35 => some { y with ipc := v % 2 ^ 13 }
    | 36 => some { y with isw := v }
    | 37 => some { y with a := y.a.set 0 (accPart (y.a.getD 0 0) false v) }
    | 38 => some { y with a := y.a.set 0 (accPart (y.a.getD 0 0) true v) }
    | 39 => some { y with a := y.a.set 1 (accPart (y.a.getD 1 0) false v) }
    | 40 => some { y with a := y.a.set 1 (accPart (y.a.getD 1 0) true v) }
    | _ => none

/-! Running (R282 to R289) -/

/-- STATUS.STATE of a processor. -/
inductive DspRun where
  | halted | running | idle | faulted | watch
deriving DecidableEq, Repr

def DspRun.code : DspRun → Nat
  | .halted => 0 | .running => 1 | .idle => 2 | .faulted => 3 | .watch => 4

def State.dspIs (s : State) (k : Nat) (x : DspRun) : Bool := s.get (dspPage k) DSP.STATUS_STATE = x.code
def setDsp (k : Nat) (x : DspRun) : Act := setF (dspPage k) DSP.STATUS_STATE x.code

/-- The processor stops: an outstanding load completes, and what is left of a repeat or of delay slots is dropped. -/
def dspStop (k : Nat) (dest : DspRun) : Act :=
  acts [updDsp k fun x => { x.commit with slots := 0, target := none, toLr := false, rpt := none, haltReq := false }, setDsp k dest]

/-- Execution begins at CFG.START_PC (R288); the program is measured into M5 (R475). -/
def dspBegin (k : Nat) : Act := look fun s =>
  acts [updDsp k fun x => { x.commit with slots := 0, target := none, toLr := false, rpt := none, haltReq := false,
                                          pc := s.get (dspPage k) DSP.CFG_START_PC },
    setF (dspPage k) DSP.STATUS_ABORTED 0, setDsp k .running, extendMeasure 5 (s.byteList (pmemAddr k 0) 32768) k]

/-- A boundary at which an interrupt or a HALT may be taken (R287, R288). -/
def DspState.atBoundary (x : DspState) : Bool := x.slots = 0 && x.rpt.isNone

/-- An interrupt is due: SW.IE and a pending source at a boundary (R287). -/
def State.dspIrqDue (s : State) (k : Nat) : Bool :=
  Nat.testBit (s.dsp k).sw swIE && s.get (dspPage k) DSP.IRQ_STATUS_PEND ≠ 0 && (s.dsp k).atBoundary

/-- A processor fault (R289): FAULTED at the instruction's index. -/
def dspFault (k bit : Nat) : Act := look fun s =>
  acts [setF (dspPage k) DSP.FAULT_PC_PC (s.dsp k).pc, dspStop k .faulted, raiseFault (dspPage k) bit]

/-- PC after an instruction: the end of delay slots, the end of a repeat's body, or the next index (R283, R284). -/
def DspState.advance (x : DspState) : DspState :=
  let next := (x.pc + 1) % 8192
  if 1 < x.slots then { x with pc := next, slots := x.slots - 1 }
  else if x.slots = 1 then { x with pc := if x.toLr then x.lr else x.target.getD next, slots := 0, target := none, toLr := false }
  else match x.rpt with
    | some (a, b, n) =>
      if x.pc ≠ b then { x with pc := next }
      else if n = 0 then { x with pc := next, rpt := none } else { x with pc := a, rpt := some (a, b, n - 1) }
    | none => { x with pc := next }

/-- A waiting HALT stops the processor once it is at a boundary. -/
def dspSettle (k : Nat) : Act := look fun s =>
  if (s.dsp k).haltReq && (s.dsp k).atBoundary then dspStop k .halted else skip

/-- Program memory holds a word with a reserved opcode at the processor's PC (R280, R285). -/
def State.dspReserved (s : State) (k : BlockId) : Bool := (decodeDsp k (BitVec.ofNat 32 (s.bytes (pmemAddr k (s.dsp k).pc) 4))).isNone

/-- The fetch meets an uncorrectable word of program memory: one this read finds, or a marked one (R289, R306). -/
def State.fetchBad (s : State) (k : Nat) (m : DspArgs) : Bool :=
  m.fetchBad || s.word .poison (pmemMark k (s.dsp k).pc) = 1 || s.word .poison (pmemMark k (s.dsp k).pc) = 2

/-- One instruction of a running processor (R282, R285, R289): `legal` is the encoding's own check, `ctl` marks the opcodes
that neither a delay slot nor a repeat body may hold, `body` reads the first state and writes the second. Nothing happens
while an interrupt is due before it. Any instruction of a processor whose PC stands on a word with a reserved opcode, which no row of the
command table spells, is illegal (log entry 56). -/
def dspInstr (k : BlockId) (m : DspArgs) (legal ctl : Bool) (body : DspState → DspState → DspState) (extra : Act) : Act := look fun s =>
  let x := s.dsp k
  if !s.dspIs k .running || s.dspIrqDue k || s.time.frozen then skip
  else if s.fetchBad k m then dspFault k 1
  else if s.dspReserved k || !legal || (ctl && !x.atBoundary) then dspFault k 0
  else acts [updDsp k fun x => (body x x.commit).advance, wrapF (dspPage k) DSP.RETIRED_COUNT, extra, dspSettle k]

/-- A memory instruction's access, with the counters of R312 and R292: an uncorrectable read is a fault (R289). -/
def dspMemory (k : BlockId) (m : DspArgs) (read : Bool) (body : BitVec 19 → Word → DspState → DspState → DspState)
    (write : BitVec 19 → Word → Act) : Act := look fun s =>
  let x := s.dsp k
  let (a, _) := x.access x m.w
  let w := a.toNat / 2
  let bad := read && s.bankBad k w m.bankBad
  let legal := Dw.f m.w 17 16 ≠ 3
  if !s.dspIs k .running || s.dspIrqDue k || s.time.frozen then skip
  else if s.fetchBad k m then dspFault k 1
  else if s.dspReserved k || !legal then dspFault k 0
  else acts [if m.waited then countF (dspPage k) DSP.BANK_WAITS_COUNT else skip,
    if read then noteBankRead k w .dsp m.bankBad else skip,
    if bad then dspFault k 2
    else acts [write a (x.reg (Dw.d m.w)),
      dspInstr k m true false (fun x y => body a (s.bankHalf k w (a.toNat % 2 = 1) false) x (x.access y m.w).2) skip]]

/-- Every bit of [`hi`:`lo`] is 0. -/
def zeroBits (w : BitVec 26) (hi lo : Nat) : Bool := Dw.f w hi lo = 0

/-- NOP. -/
def actDspNop (k : BlockId) (m : DspArgs) : Act := dspInstr k m (m.w = 0) false (fun _ y => y) skip
def execDspNop (k : BlockId) (m : DspArgs) (s : State) : Res := done (actDspNop k m) s

/-- HALT: STATE := HALTED. -/
def actDspHalt (k : BlockId) (m : DspArgs) : Act := dspInstr k m (m.w = 0) true (fun _ y => y) (dspStop k .halted)
def execDspHalt (k : BlockId) (m : DspArgs) (s : State) : Res := done (actDspHalt k m) s

/-- IDLE: waits unless an enabled source is pending. -/
def actDspIdle (k : BlockId) (m : DspArgs) : Act :=
  dspInstr k m (m.w = 0) true (fun _ y => y) (look fun s => if s.get (dspPage k) DSP.IRQ_STATUS_PEND = 0 then setDsp k .idle else skip)
def execDspIdle (k : BlockId) (m : DspArgs) (s : State) : Res := done (actDspIdle k m) s

/-- RETI: SW := ISW; PC := IPC. -/
def actDspReti (k : BlockId) (m : DspArgs) : Act :=
  dspInstr k m (m.w = 0) true (fun x y =>
    { y with sw := if bitsOf x.isw 7 6 = 3 then x.isw % 2 ^ 6 + x.rnd * 2 ^ 6 + bitsOf x.isw 11 8 * 2 ^ 8 else x.isw % 2 ^ 12 })
    (updDsp k fun y => { y with pc := y.ipc })
def execDspReti (k : BlockId) (m : DspArgs) (s : State) : Res := done (actDspReti k m) s

/-- LDI. -/
def actDspLdi (k : BlockId) (m : DspArgs) : Act :=
  dspInstr k m true false (fun _ y => y.setD (Dw.d m.w) (BitVec.ofInt 32 (Dw.imm22 m.w))) skip
def execDspLdi (k : BlockId) (m : DspArgs) (s : State) : Res := done (actDspLdi k m) s

/-- LDIH. -/
def actLdih (k : BlockId) (m : DspArgs) : Act :=
  dspInstr k m true false (fun x y => y.setD (Dw.d m.w)
    (BitVec.ofNat 32 ((x.reg (Dw.d m.w)).toNat % 2 ^ 16 + Dw.f m.w 15 0 * 2 ^ 16))) skip
def execLdih (k : BlockId) (m : DspArgs) (s : State) : Res := done (actLdih k m) s

/-- The flags of R106 in SW[3:0]. -/
def dspAluStep (fn : AluFn) (a b : Word) (d : Nat) (y : DspState) : DspState :=
  { y.setD d (aluValue fn a b) with sw := y.sw / 16 * 16 + microFlags (y.sw % 16) fn a b }

/-- ALU. -/
def actDspAlu (k : BlockId) (m : DspArgs) : Act :=
  let fn := AluFn.ofCode (Dw.f m.w 13 10)
  dspInstr k m (fn.isSome && zeroBits m.w 9 0) false (fun x y => match fn with
    | some g => dspAluStep g (x.reg (Dw.s m.w)) (x.reg (Dw.t m.w)) (Dw.d m.w) y
    | none => y) skip
def execDspAlu (k : BlockId) (m : DspArgs) (s : State) : Res := done (actDspAlu k m) s

/-- ALUI. -/
def actDspAlui (k : BlockId) (m : DspArgs) : Act :=
  let fn := AluFn.ofCode (Dw.f m.w 17 14)
  dspInstr k m fn.isSome false (fun x y => match fn with
    | some g => dspAluStep g (x.reg (Dw.s m.w)) (BitVec.ofInt 32 (Dw.imm14 m.w)) (Dw.d m.w) y
    | none => y) skip
def execDspAlui (k : BlockId) (m : DspArgs) (s : State) : Res := done (actDspAlui k m) s

/-- LDW: the loaded register is visible one instruction later (R282). -/
def actLdw (k : BlockId) (m : DspArgs) : Act :=
  dspMemory k m true (fun _ v _ y => { y with load := some (Dw.d m.w, v) }) fun _ _ => skip
def execLdw (k : BlockId) (m : DspArgs) (s : State) : Res := done (actLdw k m) s

/-- LDH: the half selected by H, sign-extended. -/
def actLdh (k : BlockId) (m : DspArgs) : Act :=
  dspMemory k m true (fun _ v _ y => { y with load := some (Dw.d m.w, BitVec.ofInt 32 (halfOf v (Dw.f m.w 18 18))) })
    fun _ _ => skip
def execLdh (k : BlockId) (m : DspArgs) (s : State) : Res := done (actLdh k m) s

/-- STW. -/
def actStw (k : BlockId) (m : DspArgs) : Act :=
  dspMemory k m false (fun _ _ _ y => y) fun a v => bankStore k (a.toNat / 2) (4 * (a.toNat % 2)) v.toNat 4
def execStw (k : BlockId) (m : DspArgs) (s : State) : Res := done (actStw k m) s

/-- STH: D[15:0] into the half selected by H. -/
def actSth (k : BlockId) (m : DspArgs) : Act :=
  dspMemory k m false (fun _ _ _ y => y) fun a v =>
    bankStore k (a.toNat / 2) (4 * (a.toNat % 2) + 2 * Dw.f m.w 18 18) (v.toNat % 2 ^ 16) 2
def execSth (k : BlockId) (m : DspArgs) (s : State) : Res := done (actSth k m) s

/-- MAC (R269, R270). -/
def actDspMac (k : BlockId) (m : DspArgs) : Act :=
  let opn := Dw.f m.w 24 23
  dspInstr k m (opn ≠ 3 && zeroBits m.w 22 22 && zeroBits m.w 10 0) false (fun x y =>
    let i := Dw.acc m.w
    let p := macProduct (halfOf (x.reg (Dw.s m.w)) (Dw.f m.w 17 17)) (halfOf (x.reg (Dw.f m.w 16 13)) (Dw.f m.w 12 12))
      (Dw.f m.w 11 11 = 1)
    y.setAcc i (match opn with | 0 => p | 1 => x.accum i + p | _ => x.accum i - p)) skip
def execDspMac (k : BlockId) (m : DspArgs) (s : State) : Res := done (actDspMac k m) s

/-- ACC. -/
def actDspAcc (k : BlockId) (m : DspArgs) : Act :=
  let opn := Dw.f m.w 24 22
  dspInstr k m (opn ≠ 7 && zeroBits m.w 17 5) false (fun x y =>
    let i := Dw.acc m.w
    let ds := (x.reg (Dw.s m.w)).toInt
    let a := x.accum i
    y.setAcc i (match opn with
      | 0 => 0
      | 1 => ds
      | 2 => a + ds
      | 3 => a - ds
      | 4 => halfOf (x.reg (Dw.s m.w)) 0 * 2 ^ 16
      | 5 => a / 2 ^ Dw.sh m.w
      | _ => a * 2 ^ Dw.sh m.w)) skip
def execDspAcc (k : BlockId) (m : DspArgs) (s : State) : Res := done (actDspAcc k m) s

/-- EXT (R271). -/
def actDspExt (k : BlockId) (m : DspArgs) : Act :=
  dspInstr k m (zeroBits m.w 19 5) false (fun x y =>
    let v := roundShift x.rnd (Dw.sh m.w) (x.accum (Dw.f m.w 21 21))
    let r := satSigned (if Dw.f m.w 20 20 = 1 then 32 else 16) v
    let y := y.setD (Dw.d m.w) (BitVec.ofInt 32 r)
    if r = v then y else { y with sw := setBit y.sw swSOV }) skip
def execDspExt (k : BlockId) (m : DspArgs) (s : State) : Res := done (actDspExt k m) s

/-- Two signed halves packed into a word. -/
def packHalves (i q : Int) : Word := BitVec.ofNat 32 (ofSigned 16 i + ofSigned 16 q * 2 ^ 16)

/-- ASX: both outputs of a butterfly (R272). -/
def actAsx (k : BlockId) (m : DspArgs) : Act :=
  dspInstr k m (zeroBits m.w 9 0) false (fun x y =>
    let xs := x.reg (Dw.t m.w)
    let sh := 16 + (x.reg (Dw.f m.w 13 10)).toNat % 16
    let f (c : Nat) (sg : Int) : Int := roundShift x.rnd sh (halfOf xs c * 2 ^ 16 + sg * x.accum c)
    let l (v : Int) : Int := satSigned 16 v
    let lim := [f 0 1, f 1 1, f 0 (-1), f 1 (-1)].any fun v => l v ≠ v
    let y := (y.setD (Dw.d m.w) (packHalves (l (f 0 1)) (l (f 1 1)))).setD (Dw.s m.w) (packHalves (l (f 0 (-1))) (l (f 1 (-1))))
    if lim then { y with sw := setBit y.sw swSOV } else y) skip
def execAsx (k : BlockId) (m : DspArgs) (s : State) : Res := done (actAsx k m) s

/-- BEXP: Dd := min(Dd, HR32(Ds)) (R273). -/
def actBexp (k : BlockId) (m : DspArgs) : Act :=
  dspInstr k m (zeroBits m.w 9 0) false (fun x y => y.setD (Dw.d m.w)
    (BitVec.ofNat 32 (min (x.reg (Dw.d m.w)).toNat (headroom 32 (x.reg (Dw.s m.w)).toInt)))) skip
def execBexp (k : BlockId) (m : DspArgs) (s : State) : Res := done (actBexp k m) s

/-- BEXP2: over both halves of Ds. -/
def actBexp2 (k : BlockId) (m : DspArgs) : Act :=
  dspInstr k m (zeroBits m.w 9 0) false (fun x y =>
    let v := x.reg (Dw.s m.w)
    y.setD (Dw.d m.w) (BitVec.ofNat 32 (min (x.reg (Dw.d m.w)).toNat (min (headroom 16 (halfOf v 0)) (headroom 16 (halfOf v 1)))))) skip
def execBexp2 (k : BlockId) (m : DspArgs) (s : State) : Res := done (actBexp2 k m) s

/-- MAXI and MINI: a better Ds is kept with its index XC (R274). -/
def searchStep (m : DspArgs) (better : Int → Int → Bool) (x y : DspState) : DspState :=
  let d := Dw.d m.w
  let y := if better (x.reg (Dw.s m.w)).toInt (x.reg d).toInt then (y.setD d (x.reg (Dw.s m.w))).setD (d + 1) x.xc else y
  { y with xc := x.xc + 1 }

def actMaxi (k : BlockId) (m : DspArgs) : Act :=
  dspInstr k m (zeroBits m.w 9 0 && Dw.d m.w % 2 = 0) false (searchStep m fun a b => b < a) skip
def execMaxi (k : BlockId) (m : DspArgs) (s : State) : Res := done (actMaxi k m) s

def actMini (k : BlockId) (m : DspArgs) : Act :=
  dspInstr k m (zeroBits m.w 9 0 && Dw.d m.w % 2 = 0) false (searchStep m fun a b => a < b) skip
def execMini (k : BlockId) (m : DspArgs) (s : State) : Res := done (actMini k m) s

/-- MOVS: D := system register SYS. -/
def actMovs (k : BlockId) (m : DspArgs) : Act := look fun s =>
  let door := s.get (dspPage k) DSP.DOORBELL_VALUE
  let i := Dw.f m.w 5 0
  dspInstr k m (i < 42 && zeroBits m.w 21 6) false (fun x y => match x.sysRead door i with
    | some v => y.setD (Dw.d m.w) (BitVec.ofNat 32 v)
    | none => y) skip
def execMovs (k : BlockId) (m : DspArgs) (s : State) : Res := done (actMovs k m) s

/-- MOVT: system register SYS := D. -/
def actMovt (k : BlockId) (m : DspArgs) : Act :=
  let i := Dw.f m.w 5 0
  dspInstr k m (i < 41 && zeroBits m.w 21 6) false (fun x y => (y.sysWrite i (x.reg (Dw.d m.w)).toNat).getD y) skip
def execMovt (k : BlockId) (m : DspArgs) (s : State) : Res := done (actMovt k m) s

/-- The COND codes over Z, N, C, V (R280). -/
def dspCond (sw c : Nat) : Bool :=
  let z := bitOf sw 0 = 1
  let n := bitOf sw 1 = 1
  let cy := bitOf sw 2 = 1
  let v := bitOf sw 3 = 1
  match c with
  | 0 => true | 1 => z | 2 => !z | 3 => n | 4 => !n | 5 => cy | 6 => !cy | 7 => v | 8 => !v
  | 9 => n != v | 10 => n == v | 11 => z || (n != v) | _ => !z && (n == v)

/-- The reserved bits and codes of format B. -/
def branchLegal (w : BitVec 26) : Bool := Dw.d w < 13 && zeroBits w 21 13

/-- Two delay slots follow, then `target` if there is one: the state is the one after the branch itself. -/
def delaySlots (k : Nat) (target : DspState → Option Nat) : Act :=
  updDsp k fun y => { y with slots := 2, target := target y }

/-- BR. -/
def actDspBr (k : BlockId) (m : DspArgs) : Act :=
  dspInstr k m (branchLegal m.w) true (fun _ y => y)
    (delaySlots k fun y => if dspCond y.sw (Dw.d m.w) then some (Dw.f m.w 12 0) else none)
def execDspBr (k : BlockId) (m : DspArgs) (s : State) : Res := done (actDspBr k m) s

/-- CALL: LR := the index after the second delay slot. -/
def actDspCall (k : BlockId) (m : DspArgs) : Act :=
  dspInstr k m (branchLegal m.w) true (fun x y => { y with lr := (x.pc + 3) % 8192 }) (delaySlots k fun _ => some (Dw.f m.w 12 0))
def execDspCall (k : BlockId) (m : DspArgs) (s : State) : Res := done (actDspCall k m) s

/-- RET: after the two slots, PC := LR as they leave it. -/
def actDspRet (k : BlockId) (m : DspArgs) : Act :=
  dspInstr k m (m.w = 0) true (fun _ y => y) (updDsp k fun y => { y with slots := 2, target := none, toLr := true })
def execDspRet (k : BlockId) (m : DspArgs) (s : State) : Res := done (actDspRet k m) s

/-- RPT: the BODY + 1 instructions that follow execute COUNT + 1 times (R284). -/
def actDspRpt (k : BlockId) (m : DspArgs) : Act := look fun s =>
  let x := s.dsp k
  let first := x.pc + 1
  let last := first + Dw.f m.w 24 20
  let count := if Dw.f m.w 25 25 = 1 then (x.reg (Dw.f m.w 19 16)).toNat % 2 ^ 16 else Dw.f m.w 15 0
  dspInstr k m (last ≤ 8191) true (fun _ y => y) (updDsp k fun y => { y with rpt := some (first, last, count) })
def execDspRpt (k : BlockId) (m : DspArgs) (s : State) : Res := done (actDspRpt k m) s

/-- NOTIFY: STATUS.NOTIFY and the page's notify interrupt (R280, R407, R408). -/
def actDspNotify (k : BlockId) (m : DspArgs) : Act := look fun s =>
  let g := s.get (dspPage k) ALL.GUEST_OWNER_GUEST
  dspInstr k m (m.w = 0) false (fun _ y => y)
    (acts [setF (dspPage k) DSP.STATUS_NOTIFY 1, emit (.msix 0 (96 + k)), if g = 0 then skip else emit (.msix g 19)])
def execDspNotify (k : BlockId) (m : DspArgs) (s : State) : Res := done (actDspNotify k m) s

/-! Interrupts (R286, R287) -/

/-- A source becomes pending if IRQ_EN has its bit; an idle processor wakes. -/
def dspRaise (k src : Nat) : Act := look fun s =>
  if Nat.testBit (s.get (dspPage k) DSP.IRQ_EN_EN) src then
    acts [modF (dspPage k) DSP.IRQ_STATUS_PEND (setBit · src), if s.dspIs k .idle then setDsp k .running else skip]
  else skip

/-- DSP_INTERRUPT: the highest-priority pending source is taken. -/
def actDspInterrupt (k : BlockId) : Act := look fun s =>
  let pend := s.get (dspPage k) DSP.IRQ_STATUS_PEND
  let src := if bitOf pend 0 = 1 then 0 else if bitOf pend 1 = 1 then 1 else 2
  if !s.dspIs k .running || !s.dspIrqDue k || s.time.frozen then skip
  else acts [setF (dspPage k) DSP.IRQ_STATUS_PEND (pend - 2 ^ src),
    updDsp k fun x => { x.commit with ipc := x.pc, isw := x.sw, sw := x.sw - 2 ^ swIE, pc := 4 * (src + 1) }]
def execDspInterrupt (k : BlockId) (s : State) : Res := done (actDspInterrupt k) s

/-! Host control (R286, R288, R290, R292, R293) -/

/-- A function reaches a DSP page: the physical function, or the READY guest named in GUEST_OWNER. -/
def State.reachesDsp (s : State) (fn : FuncId) (k : Nat) : Bool :=
  fn.val = 0 || (s.guestReady fn.val && s.get (dspPage k) ALL.GUEST_OWNER_GUEST = fn.val)

def forDsp (fn : FuncId) (k : Nat) (a : Act) : Act := look fun s => if s.reachesDsp fn k then a else skip

/-- START on a processor that no job holds. -/
def dspStartNow (k : Nat) : Act := look fun s => if s.dspIs k .halted || s.dspIs k .faulted then dspBegin k else skip

/-- ABORT on a processor that no job holds: it clears every pending source. -/
def dspAbortNow (k : Nat) : Act := look fun s =>
  acts [setF (dspPage k) DSP.IRQ_STATUS_PEND 0,
    if s.dspIs k .running || s.dspIs k .idle then acts [dspStop k .halted, setF (dspPage k) DSP.STATUS_ABORTED 1] else skip]

/-- A command is held while a watch job runs (R290). -/
def dspHold (k : Nat) (start : Bool) : Act :=
  acts [updDsp k fun x => { x with heldStart := some start }, setF (dspPage k) DSP.STATUS_START_HELD 1]

/-- CTRL.START: ignored unless the page is READY (R507). -/
def actDspStart (fn : FuncId) (k : BlockId) : Act := forDsp fn k (look fun s =>
  if !s.pageIs (.dsp k) .ready then skip else if s.dspIs k .watch then dspHold k true else dspStartNow k)
def execDspStart (fn : FuncId) (k : BlockId) (s : State) : Res := done (actDspStart fn k) s

/-- CTRL.HALT: at the next boundary, ahead of any pending interrupt. It clears every pending source, during a watch job too (R286). -/
def actDspCtrlHalt (fn : FuncId) (k : BlockId) : Act := forDsp fn k (look fun s =>
  acts [setF (.dsp k) DSP.IRQ_STATUS_PEND 0,
    if s.dspIs k .running || s.dspIs k .idle then acts [updDsp k fun x => { x with haltReq := true }, dspSettle k] else skip])
def execDspCtrlHalt (fn : FuncId) (k : BlockId) (s : State) : Res := done (actDspCtrlHalt fn k) s

/-- CTRL.ABORT. -/
def actDspAbort (fn : FuncId) (k : BlockId) : Act := forDsp fn k (look fun s =>
  if s.dspIs k .watch then dspHold k false else dspAbortNow k)
def execDspAbort (fn : FuncId) (k : BlockId) (s : State) : Res := done (actDspAbort fn k) s

/-- CTRL.CLR_FLAGS. -/
def actClrFlags (fn : FuncId) (k : BlockId) : Act := forDsp fn k
  (acts [setF (.dsp k) DSP.STATUS_NOTIFY 0, updDsp k fun x => { x with sw := x.sw &&& 0xFF }])
def execClrFlags (fn : FuncId) (k : BlockId) (s : State) : Res := done (actClrFlags fn k) s

/-- A write to DOORBELL (R286). -/
def actDspDoorbell (fn : FuncId) (k : BlockId) (v : Word) : Act := forDsp fn k (look fun s =>
  acts [setF (.dsp k) DSP.DOORBELL_VALUE v.toNat,
    setB (.dsp k) DSP.IRQ_STATUS_DB_OVER (Nat.testBit (s.get (.dsp k) DSP.IRQ_STATUS_PEND) 1), dspRaise k 1])
def execDspDoorbell (fn : FuncId) (k : BlockId) (v : Word) (s : State) : Res := done (actDspDoorbell fn k v) s

/-- The RWL registers of the page are writable while it is OFF or the processor HALTED or FAULTED (R292). -/
def State.dspOpen (s : State) (k : Nat) : Bool := s.pageIs (dspPage k) .off || s.dspIs k .halted || s.dspIs k .faulted

/-- PMEM_DATA and REG_DATA read 0x0 while the processor is neither HALTED nor FAULTED (R292). -/
def State.dspShown (s : State) (k : Nat) : Bool := s.dspIs k .halted || s.dspIs k .faulted

/-- An access to PMEM_DATA. -/
def actPmemData (fn : FuncId) (k : BlockId) (w : Option Word) : Act := look fun s =>
  let p := Page.dsp k
  let i := s.get p DSP.PMEM_SEL_ADDR
  let next := if s.get p DSP.PMEM_SEL_AUTOINC = 1 then setF p DSP.PMEM_SEL_ADDR (i + 1) else skip
  if !s.reachesDsp fn k then (if w.isNone then setRdata 0 else skip) else
  match w with
  | some v => if s.dspOpen k then acts [storeBytes (pmemAddr k i) v.toNat 4, setWord .poison (pmemMark k i) 0, next] else raiseFault p 4
  | none => acts [setRdata (if s.dspShown k then s.bytes (pmemAddr k i) 4 else 0), next]
def execPmemData (fn : FuncId) (k : BlockId) (w : Option Word) (s : State) : Res := done (actPmemData fn k w) s

/-- An access to REG_DATA. -/
def actRegData (fn : FuncId) (k : BlockId) (w : Option Word) : Act := look fun s =>
  let p := Page.dsp k
  let i := s.get p DSP.REG_SEL_REG
  if !s.reachesDsp fn k then (if w.isNone then setRdata 0 else skip) else
  match w with
  | some v =>
    if !s.dspOpen k then raiseFault p 4
    else updDsp k fun x => if i < 16 then x.setD i v else (x.sysWrite (i - 16) v.toNat).getD x
  | none => setRdata (if !s.dspShown k then 0 else if i < 16 then ((s.dsp k).reg i).toNat
      else ((s.dsp k).sysRead (s.get p DSP.DOORBELL_VALUE) (i - 16)).getD 0)
def execRegData (fn : FuncId) (k : BlockId) (w : Option Word) (s : State) : Res := done (actRegData fn k w) s

/-! The watchdog and the watch (R289 to R291) -/

/-- DSP_WDOG: no instruction retired for 10 ms in RUNNING: the fault, and the block is quarantined (R21). -/
def actDspWdog (k : BlockId) : Act := look fun s =>
  if s.dspIs k .running then acts [dspFault k 3, quarantineBlock k] else skip
def execDspWdog (k : BlockId) (s : State) : Res := done (actDspWdog k) s

/-- WATCH_JOB_START: the watch, unless it is paused (R80), takes a lent, halted processor. -/
def actWatchJobStart (k : BlockId) : Act := look fun s =>
  if s.dspIs k .halted && s.get (.dsp k) DSP.CFG_WATCH_EN = 1 && !s.shed then setDsp k .watch else skip
def execWatchJobStart (k : BlockId) (s : State) : Res := done (actWatchJobStart k) s

/-- WATCH_JOB_END: program memory and registers are as before; the job leaves its words in the top 64 KiB of the bank; a held
command acts. -/
def actWatchJobEnd (k : BlockId) (bank : List (BitVec 14 × Word)) : Act := look fun s =>
  if !s.dspIs k .watch then skip
  else acts [forEach bank fun x => let a := 0x7C000 + x.1.toNat; bankStore k (a / 2) (4 * (a % 2)) x.2.toNat 4,
    setDsp k .halted, setF (.dsp k) DSP.STATUS_START_HELD 0, updDsp k fun x => { x with heldStart := none },
    match (s.dsp k).heldStart with
    | some true => dspStartNow k
    | some false => dspAbortNow k
    | none => skip]
def execWatchJobEnd (k : BlockId) (bank : List (BitVec 14 × Word)) (s : State) : Res := done (actWatchJobEnd k bank) s

/-- WATCH_YIELD: the watch asks a running or idle lent processor to yield. -/
def actWatchYield (k : BlockId) : Act := look fun s =>
  if s.get (.dsp k) DSP.CFG_WATCH_EN = 1 && !s.shed && (s.dspIs k .running || s.dspIs k .idle) then dspRaise k 2 else skip
def execWatchYield (k : BlockId) (s : State) : Res := done (actWatchYield k) s

end Sys2Proof.Machine
end

