-- ==== Sys2Proof/Machine/Micro.lean ====
section
/-! DEFINITION. Microwords (R132 to R141, R148), stopovers (R149 to R153), pace modes (R142 to R147) and the load of a
control store (R157 to R159). -/

namespace Sys2Proof.Machine

/-! The micro-state -/

/-- The stopover level of a cell. -/
def State.level (s : State) (e : Nat) : Nat := s.get (cellPage e) CELL.SO_STATUS_LEVEL

/-- Change the micro-state of a cell. -/
def updMicro (e : Nat) (f : Micro → Micro) : Act := updEng e fun r => { r with micro := f r.micro }

def State.micro (s : State) (e : Nat) : Micro := (s.eng e).micro

/-- The builder set of the present level (R134). -/
def State.builder (s : State) (e : Nat) : Builder := (s.micro e).builders.getD (s.level e) .init

/-- Change the builder set of the present level. -/
def updBuilder (e : Nat) (f : Builder → Builder) : Act := look fun s =>
  updMicro e fun m => { m with builders := m.builders.set (s.level e) (f (s.builder e)) }

/-- U[i]. -/
def State.ureg (s : State) (e i : Nat) : Word := (s.micro e).u.getD (i % 4) 0
def setU (e i : Nat) (v : Word) : Act := updMicro e fun m => { m with u := m.u.set (i % 4) v }

/-- Bits of IR. -/
def State.ir (s : State) (e hi lo : Nat) : Nat := bitsOf (s.micro e).ir.toNat hi lo

/-- A word completes: an open holdoff window is one word shorter, and µPC takes the next address. -/
def stepTo (e next : Nat) : Act := updMicro e fun m => { m with upc := next % 2 ^ 13, holdoff := m.holdoff - 1 }

def stepNext (e : EngineId) (m : MicroArgs) : Act := stepTo e m.next.toNat

/-- An illegal microword (R137). -/
def illegalWord (e : EngineId) : Act := cellFault e .illegal

/-- A cell executes microwords unless it is stopped, the control plane pauses, or its level-0 routine is abandoned and it waits for a new
start (R154). -/
def State.runsWords (s : State) (e : Nat) : Bool :=
  !s.engStopped e && !s.time.frozen && !((s.eng e).wait = .newStart && s.level e = 0)

/-- The word of the control store at a cell's µPC. -/
def State.csWord (s : State) (e : Nat) : Nat := s.bytes (csAddr (blockOf e) (s.micro e).upc) 4

/-- The control store holds a word with a reserved MOP or a reserved request code at the cell's µPC (R136, R140). -/
def State.csReserved (s : State) (e : EngineId) : Bool := (decodeMicro e (BitVec.ofNat 32 (s.csWord e))).isNone

/-- An uncorrectable read of the control store: counted, and FAULT.UC_ECC (R132, R160). -/
def noteCsUe (k : Nat) : Act := acts [countF (blockPage k) BLOCK.UC_ECC_UNCORRECTED, raiseFault (blockPage k) 17]

/-- A cell reads and executes a microword (R132, R137). A corrected read is counted; an uncorrectable one holds the cell on the word until it
is rewritten. Where a field breaks its rule the word is illegal, and so is any word of a cell whose µPC stands on one with a reserved MOP
or request code, which no row of the command table spells (log entry 103). -/
def word (e : EngineId) (m : MicroArgs) (legal : State → Bool) (a : Act) : Act := look fun s =>
  let exec : Act := look fun s => if s.csReserved e || !legal s then illegalWord e else a
  if !s.runsWords e || (s.micro e).csHeld then skip else
  match m.read with
  | .clean => exec
  | .corrected => acts [countF (blockPage (blockOf e)) BLOCK.UC_ECC_CORRECTED, exec]
  | .bad => acts [updMicro e fun r => { r with csHeld := true }, noteCsUe (blockOf e)]

/-- Both operand fields are marked "—". -/
def plainArgs (m : MicroArgs) : Bool := m.a = 0 && m.b = 0

/-! Conditions, sources and destinations (R138, R139) -/

/-- A condition's value; none for a reserved code. -/
def State.condition (s : State) (e code : Nat) : Option Bool :=
  let p := cellPage e
  let m := s.micro e
  let b := s.builder e
  match code with
  | 0 => some true
  | 1 => some (s.get (blockPage (blockOf e)) BLOCK.PACE_STATUS_MODE = 1)
  | 2 => some (Nat.testBit m.mf 0)
  | 3 => some (Nat.testBit m.mf 1)
  | 4 => some (Nat.testBit m.mf 2)
  | 5 => some (Nat.testBit m.mf 3)
  | 6 => some b.cbrdy
  | 7 => some (s.depth e < 64)
  | 8 => some b.enqfail
  | 9 => some b.ldone
  | 10 => some m.udone
  | 11 => some m.uok
  | 12 => some m.branchDone
  | 13 => some m.branchTaken
  | 14 => some (s.ir e 51 51 = 1)
  | 15 => some (s.ir e 50 50 = 1)
  | 16 => some (Stamp.atOrAfter s.st (BitVec.ofNat 64 (b.eb.toNat / 2 ^ 64)))
  | 17 => some (bitOf (s.cw e) (s.ir e 55 52) = s.ir e 51 51)
  | 18 => some (s.lreg e (s.ir e 55 54) = 0)
  | 19 => some (s.inShot e)
  | 20 => some (s.get p CELL.CW_RP = 1)
  | 21 => some (s.inShot e && s.maxAttempts (s.groupOf e) ≤ (s.group (s.groupOf e)).attempt)
  | 22 => some (s.get p CELL.STATUS_START_PENDING = 1)
  | 23 => some (s.ir e 55 55 = 1)
  | _ => none

/-- PC with its source bit in [12]. -/
def pcWord (pc : Nat) (page : Option Nat) : Word := BitVec.ofNat 32 (pc + if page.isSome then 4096 else 0)

/-- A source's value; none for a reserved code. Code 20, the pop, is read here and popped by `popStack`. -/
def State.source (s : State) (e code : Nat) : Option Word :=
  let ir := (s.micro e).ir
  let b := s.builder e
  let w (n : Nat) : Option Word := some (BitVec.ofNat 32 n)
  match code with
  | 0 | 1 | 2 | 3 => some (s.ureg e code)
  | 4 => w ir.toNat
  | 5 => w (ir.toNat / 2 ^ 32)
  | 6 => some (s.greg e (s.ir e 55 52))
  | 7 => some (s.greg e (s.ir e 51 48))
  | 8 => some (s.greg e (s.ir e 47 44))
  | 9 => w (s.treg e (s.ir e 55 54)).toNat
  | 10 => w ((s.treg e (s.ir e 55 54)).toNat / 2 ^ 32)
  | 11 => some (s.lreg e (s.ir e 55 54))
  | 12 => w (s.cw e)
  | 13 => some (pcWord (s.pc e) (s.page e))
  | 14 => w (s.get (cellPage e) CELL.START_PC_PC)
  | 15 => w (s.micro e).rc
  | 16 => w b.lres.toNat
  | 17 => w (b.lres.toNat / 2 ^ 32)
  | 18 => w (s.get (cellPage e) CELL.DOORBELL_VALUE)
  | 19 => some 0
  | 20 => match (s.eng e).stack with
    | r :: _ => some (pcWord r.pc r.page)
    | [] => some 0
  | _ => none

/-- The pop of source 20: the engine's library page becomes the popped one. -/
def popStack (e code : Nat) : Act := look fun s =>
  if code ≠ 20 then skip else
  match (s.eng e).stack with
  | r :: rest => updEng e fun x => { x with stack := rest, page := r.page.getD x.page }
  | [] => skip

/-- A pop at depth 0 raises the fault of R105. -/
def popEmpty (s : State) (e code : Nat) : Bool := code = 20 && (s.eng e).stack.isEmpty

/-- The library page a PC with its source bit set addresses: the target's page for a CALL with LIB = 1, else the current
one. -/
def State.pageForWrite (s : State) (e : Nat) : Nat :=
  if s.ir e 63 56 = 0x21 && s.ir e 55 55 = 1 then s.ir e 17 12 else (s.eng e).page

/-- Write a destination; none for a reserved code. -/
def State.destination (s : State) (e code : Nat) (v : Word) : Option Act :=
  let full := BitVec.ofNat 64 (v.toNat * 2 ^ 32 + (s.micro e).tLow.toNat)
  let at13 (n : Nat) : ReturnPoint := ⟨n % 4096, if bitOf n 12 = 1 then some (s.pageForWrite e) else none⟩
  match code with
  | 6 => some (setG e (s.ir e 55 52) v)
  | 7 => some (updMicro e fun m => { m with tLow := v })
  | 8 => some (setT e (s.ir e 53 52) full)
  | 9 => some (setT e (s.ir e 55 54) full)
  | 10 => some (setL e (s.ir e 55 54) v)
  | 11 => some (setCW e (v.toNat % 2 ^ 12))
  | 12 => some (goTo e (at13 v.toNat))
  | 13 => some (updBuilder e fun b => { b with eb := BitVec.ofNat 128 (b.eb.toNat / 2 ^ 32 * 2 ^ 32 + v.toNat) })
  | 14 => some (updBuilder e fun b => { b with
      eb := BitVec.ofNat 128 (b.eb.toNat / 2 ^ 48 * 2 ^ 48 + v.toNat % 2 ^ 16 * 2 ^ 32 + b.eb.toNat % 2 ^ 32) })
  | 15 => some (updEng e fun r => { r with stack :=
      ⟨v.toNat % 4096, if bitOf v.toNat 12 = 1 then some r.page else none⟩ :: r.stack })
  | _ => none

/-! Plain words (R136) -/

/-- NOPW. -/
def actNopw (e : EngineId) (m : MicroArgs) : Act := word e m (fun _ => plainArgs m) (stepNext e m)
def execNopw (e : EngineId) (m : MicroArgs) (s : State) : Res := done (actNopw e m) s

/-- LDI. -/
def actLdi (e : EngineId) (m : MicroArgs) : Act :=
  word e m (fun _ => m.a.toNat < 4) (acts [setU e m.a.toNat (BitVec.ofNat 32 m.b.toNat), stepNext e m])
def execLdi (e : EngineId) (m : MicroArgs) (s : State) : Res := done (actLdi e m) s

/-- MOV. -/
def actMov (e : EngineId) (m : MicroArgs) : Act :=
  word e m (fun s => (s.source e m.a.toNat).isSome && m.b.toNat < 4) (look fun s =>
    if popEmpty s e m.a.toNat then cellFault e .stack
    else acts [setU e m.b.toNat ((s.source e m.a.toNat).getD 0), popStack e m.a.toNat, stepNext e m])
def execMov (e : EngineId) (m : MicroArgs) (s : State) : Res := done (actMov e m) s

/-- ALU. A 1 outside the named sub-fields and an FN above 10 make the word illegal (DESIGN CHOICE, log entry 106, as for every word with
sub-fields). -/
def actMicroAlu (e : EngineId) (m : MicroArgs) : Act :=
  let fn := AluFn.ofCode (m.b.toNat % 16)
  let u := m.b.toNat / 16
  word e m (fun s => (s.source e m.a.toNat).isSome && fn.isSome && u < 4) (look fun s =>
    let f := fn.getD .add
    let x := s.ureg e u
    let y := (s.source e m.a.toNat).getD 0
    if popEmpty s e m.a.toNat then cellFault e .stack
    else acts [setU e u (aluValue f x y), updMicro e fun r => { r with mf := microFlags r.mf f x y }, popStack e m.a.toNat,
      stepNext e m])
def execMicroAlu (e : EngineId) (m : MicroArgs) (s : State) : Res := done (actMicroAlu e m) s

/-- ADDI. -/
def actAddi (e : EngineId) (m : MicroArgs) : Act :=
  word e m (fun _ => m.a.toNat < 4) (look fun s =>
    let x := s.ureg e m.a.toNat
    let y : Word := m.b.signExtend 32
    acts [setU e m.a.toNat (x + y), updMicro e fun r => { r with mf := microFlags r.mf .add x y }, stepNext e m])
def execAddi (e : EngineId) (m : MicroArgs) (s : State) : Res := done (actAddi e m) s

/-- WRS. A push at depth 8 raises the fault of R105. -/
def actWrs (e : EngineId) (m : MicroArgs) : Act :=
  word e m (fun s => (s.destination e m.a.toNat 0).isSome && m.b.toNat < 4) (look fun s =>
    if m.a.toNat = 15 && (s.eng e).stack.length ≥ 8 then cellFault e .stack
    else acts [(s.destination e m.a.toNat (s.ureg e m.b.toNat)).getD skip, stepNext e m])
def execWrs (e : EngineId) (m : MicroArgs) (s : State) : Res := done (actWrs e m) s

/-- LDRC. -/
def actLdrc (e : EngineId) (m : MicroArgs) : Act :=
  word e m (fun _ => m.a = 0) (acts [updMicro e fun r => { r with rc := m.b.toNat }, stepNext e m])
def execLdrc (e : EngineId) (m : MicroArgs) (s : State) : Res := done (actLdrc e m) s

/-- The next address of a condition-select word (R135). -/
def selectNext (next : BitVec 13) (c : Bool) : Nat := next.toNat / 2 * 2 + b2n c

/-- LOOPRC. -/
def actLooprc (e : EngineId) (m : MicroArgs) : Act :=
  word e m (fun _ => plainArgs m) (look fun s =>
    let rc := (s.micro e).rc - 1
    acts [updMicro e fun r => { r with rc := rc }, stepTo e (selectNext m.next (rc ≠ 0))])
def execLooprc (e : EngineId) (m : MicroArgs) (s : State) : Res := done (actLooprc e m) s

/-- CSEL. -/
def actCsel (e : EngineId) (m : MicroArgs) : Act :=
  word e m (fun s => (s.condition e m.a.toNat).isSome && m.b.toNat < 2) (look fun s =>
    stepTo e (selectNext m.next (((s.condition e m.a.toNat).getD false) != (m.b.toNat = 1))))
def execCsel (e : EngineId) (m : MicroArgs) (s : State) : Res := done (actCsel e m) s

/-- WAITC: holds until its condition; illegal in PACED mode and inside a holdoff window (R137). -/
def actWaitc (e : EngineId) (m : MicroArgs) : Act :=
  word e m (fun s => (s.condition e m.a.toNat).isSome && m.b.toNat < 2 && (s.micro e).holdoff = 0
      && s.get (blockPage (blockOf e)) BLOCK.PACE_STATUS_MODE = 0) (look fun s =>
    if ((s.condition e m.a.toNat).getD false) != (m.b.toNat = 1) then stepNext e m else skip)
def execWaitc (e : EngineId) (m : MicroArgs) (s : State) : Res := done (actWaitc e m) s

/-- HOLDOFF (R148). -/
def actHoldoff (e : EngineId) (m : MicroArgs) : Act :=
  word e m (fun s => m.a = 0 && 1 ≤ m.b.toNat && m.b.toNat ≤ 16 && (s.micro e).holdoff = 0)
    (acts [stepNext e m, updMicro e fun r => { r with holdoff := m.b.toNat }])
def execHoldoff (e : EngineId) (m : MicroArgs) (s : State) : Res := done (actHoldoff e m) s

/-- A window closes. -/
def closeWindow (e : Nat) : Act := updMicro e fun r => { r with holdoff := 0 }

/-- The fault trap routine ends: the cell enters FAULTED (R153). -/
def endFaultTrap (e : Nat) : Act :=
  acts [updMicro e fun r => { r with inFaultTrap := false, holdoff := 0 }, setF (cellPage e) CELL.SO_STATUS_LEVEL 0,
    setEng e .faulted]

/-- What a trap routine of the standard image does for source `i` (R156): bit i of local word 8,127, and for the doorbell local word 8,126 :=
DOORBELL.VALUE. The cell fault's routine is a FAULT word and nothing else. -/
def standardTrap (e i : Nat) : Act := look fun s =>
  if i = 0 then skip
  else acts [if i = 5 then storeLocal e 8126 (BitVec.ofNat 32 (s.get (cellPage e) CELL.DOORBELL_VALUE)) else skip,
    storeLocal e 8127 (s.localWord e 8127 ||| BitVec.ofNat 32 (2 ^ i))]

/-- The source whose trap routine runs at the present level. -/
def State.trapSource (s : State) (e : Nat) : Nat := ((s.micro e).slots.getD (s.level e - 1) .init).src

/-- MRET (R152). The standard image's routine has acted by its MRET (R156; log entry 104); a local word it cannot read is a cell fault
(R307). -/
def actMret (e : EngineId) (m : MicroArgs) : Act :=
  word e m (fun s => plainArgs m && m.next = 0 && 0 < s.level e) (look fun s =>
    if (s.micro e).inFaultTrap then endFaultTrap e else
    let l := s.level e
    let x := (s.micro e).slots.getD (l - 1) .init
    let std := s.get (blockPage (blockOf e)) BLOCK.UC_INFO_STD = 1
    if std && s.localBad e 8127 false then cellFault e .ecc else
    acts [if std then standardTrap e (s.trapSource e) else skip,
      updMicro e fun r => { r with upc := x.upc, u := x.u, mf := x.mf, rc := x.rc, holdoff := 0 },
      setF (.cell e) CELL.SO_STATUS_LEVEL (l - 1), showState e])
def execMret (e : EngineId) (m : MicroArgs) (s : State) : Res := done (actMret e m) s

/-- DISP: the next instruction is fetched and dispatched; a reserved opcode is the fault of R92 (R155), and the word of a fault
does not complete (R153). An uncorrectable scratchpad word is a cell fault, an uncorrectable library word voids the shot and reads
0x0 (R307). -/
def actDisp (e : EngineId) (m : MicroArgs) (ue : Bool) : Act :=
  word e m (fun _ => m.a = 0 && m.b.toNat < 2 && m.next = 0) (look fun s =>
    let page := s.page e
    let pc := if m.b.toNat = 1 then (s.pc e + 1) % 4096 else s.pc e
    match page with
    | none =>
      if ue || s.poisoned (spadAddr e (8 * pc)) then cellFault e .ecc
      else if opListed ((s.instrAt e page pc).toNat / 2 ^ 56) then
        acts [noteSpadRead e (spadAddr e (8 * pc)), setPC e pc, closeWindow e, dispatchHere e]
      else illegalWord e
    | some p =>
      let i := 4096 * p + pc
      let w := if s.bankBad (blockOf e) i ue then 0 else s.instrAt e page pc
      acts [engineBankRead e i ue,
        if opListed (w.toNat / 2 ^ 56) then
          acts [setPC e pc, closeWindow e, updMicro e fun r => { r with ir := w, upc := w.toNat / 2 ^ 56 }]
        else illegalWord e])
def execDisp (e : EngineId) (m : MicroArgs) (ue : Bool) (s : State) : Res := done (actDisp e m ue) s

/-- HALTW: HALT under R90; with a held start the routine goes on at NEXT (haltNow). In the fault trap it ends in FAULTED. -/
def actHaltw (e : EngineId) (m : MicroArgs) : Act :=
  word e m (fun _ => plainArgs m) (look fun s =>
    if (s.micro e).inFaultTrap then endFaultTrap e
    else acts [closeWindow e, updEng e fun r => { r with byMicro := true, micro := { r.micro with upc := m.next.toNat } }, haltAct e])
def execHaltw (e : EngineId) (m : MicroArgs) (s : State) : Res := done (actHaltw e m) s

/-- A FAULT word: CELL.FAULT bit B and a cell fault; in the fault trap it ends the routine. -/
def actFaultWord (e : EngineId) (m : MicroArgs) : Act :=
  word e m (fun _ => m.a = 0 && m.b.toNat < 32) (look fun s =>
    let p := Page.cell e
    let bit := m.b.toNat
    let stop := look fun s => stopEngine e (if s.engIs e .faulted then .faulted else .stopped)
    if (s.micro e).inFaultTrap then acts [setFaultBit p bit, endFaultTrap e, if s.stopsOn p bit then stop else skip]
    else acts [setFaultBit p bit, cellFaultEffects e (bit = 0), if s.stopsOn p bit then stop else skip])
def execFaultWord (e : EngineId) (m : MicroArgs) (s : State) : Res := done (actFaultWord e m) s

/-- PARK: holds while the engine waits at a curfew or for a grant's return. -/
def actPark (e : EngineId) (m : MicroArgs) : Act :=
  word e m (fun _ => plainArgs m) (look fun s =>
    match (s.eng e).wait with
    | .curfew .. | .grant .. => updMicro e fun r => { r with holdoff := 0, parked := true }
    | _ => acts [closeWindow e, stepNext e m])
def execPark (e : EngineId) (m : MicroArgs) (s : State) : Res := done (actPark e m) s

/-! Timed words (R136) -/

/-- The context index IR names. -/
def State.irCtx (s : State) (e : Nat) : Nat :=
  if s.ir e 50 50 = 1 then (s.greg e (s.ir e 35 32)).toNat % 2 ^ 17 else s.ir e 49 32 % 2 ^ 17

/-- CTXR: the range check of R109 and the read into CB; an uncorrectable context reads 0x0 (R307). -/
def actCtxr (e : EngineId) (m : MicroArgs) : Act :=
  word e m (fun _ => plainArgs m) (look fun s =>
    let i := s.irCtx e
    if !s.ctxLeased e i then cellFault e .route
    else acts [noteCtxRead e i none, updBuilder e fun b => { b with cb := s.captured e i none, cbBad := s.ctxBad e i none, cbrdy := true },
      stepNext e m])
def execCtxr (e : EngineId) (m : MicroArgs) (s : State) : Res := done (actCtxr e m) s

/-- The frame target IR names (R98). -/
def State.irTarget (s : State) (e : Nat) : FrameTarget :=
  ⟨Fin.ofNat 3 (s.ir e 51 49), BitVec.ofNat 9 (s.ir e 48 40)⟩

/-- CHK: the checks of R29, R95, R96 and R99. -/
def actChk (e : EngineId) (m : MicroArgs) : Act :=
  word e m (fun _ => m.a = 0 && m.b.toNat < 5) (look fun s =>
    let c := (s.builder e).cb
    let ctx (op : TimedOp) : Act :=
      if !classOk op c then cellFault e .cls else if !s.routeOk e c then cellFault e .route else stepNext e m
    match m.b.toNat with
    | 0 => ctx .play
    | 1 => ctx .stream
    | 2 => ctx .acquire
    | 3 => if s.ir e 51 49 < 3 && s.owns e (frameTone e (s.irTarget e)) then stepNext e m else cellFault e .route
    | _ => if Nat.testBit (s.get (.cell e) CELL.MARK_ROUTE_OWN) (s.ir e 51 48) then stepNext e m else cellFault e .route)
def execChk (e : EngineId) (m : MicroArgs) (s : State) : Res := done (actChk e m) s

/-- The stamp of the timed instruction in IR: T[TS] + TOFF of 32 bits, or of 20. -/
def State.irStamp (s : State) (e : Nat) (narrow : Bool) : Stamp :=
  s.treg e (s.ir e 55 54) + BitVec.ofNat 64 (if narrow then s.ir e 19 0 else s.ir e 31 0)

/-- TSTAMP. -/
def actTstamp (e : EngineId) (m : MicroArgs) : Act :=
  word e m (fun _ => m.a = 0 && m.b.toNat < 4) (acts [look fun s =>
    let t := s.irStamp e (bitOf m.b.toNat 0 = 1)
      + (if bitOf m.b.toNat 1 = 1 then BitVec.ofNat 64 (32 * Ctx.wdelay (s.builder e).cb) else 0)
    updBuilder e fun b => { b with eb := BitVec.ofNat 128 (t.toNat * 2 ^ 64 + b.eb.toNat % 2 ^ 64) }, stepNext e m])
def execTstamp (e : EngineId) (m : MicroArgs) (s : State) : Res := done (actTstamp e m) s

/-- EBLD: KIND, CLASS and INDEX, and OPERAND for a context kind. -/
def actEbld (e : EngineId) (m : MicroArgs) : Act :=
  let kind := EntryKind.ofCode (m.b.toNat % 16)
  let fromIr := bitOf m.b.toNat 4 = 1
  word e m (fun _ => m.a = 0 && m.b.toNat < 32 && kind.isSome) (acts [look fun s =>
    let k := kind.getD .toneStart
    let (cls, index) : TargetClass × Nat :=
      if fromIr then (if k = .mark then (.marker, s.ir e 51 48) else (TargetClass.ofCode (s.ir e 51 49), s.ir e 48 40))
      else if k = .windowOpen then (.receive, (ctxTarget (s.builder e).cb).2) else ctxTarget (s.builder e).cb
    updBuilder e fun b => { b with
      ebCtx := k.usesCtx
      eb := BitVec.ofNat 128 (b.eb.toNat / 2 ^ 64 * 2 ^ 64 + k.code * 2 ^ 60 + cls.code * 2 ^ 57 + index % 512 * 2 ^ 48
        + (if k.usesCtx then s.irCtx e else b.eb.toNat % 2 ^ 48)) }, stepNext e m])
def execEbld (e : EngineId) (m : MicroArgs) (s : State) : Res := done (actEbld e m) s

/-- The entry EB holds, with CB captured for a context kind (R63). -/
def Builder.entry (b : Builder) : Entry :=
  let n := b.eb.toNat
  ⟨BitVec.ofNat 64 (n / 2 ^ 64), (EntryKind.ofCode (n / 2 ^ 60 % 16)).getD .toneStart, TargetClass.ofCode (n / 2 ^ 57 % 8),
   n / 2 ^ 48 % 512, BitVec.ofNat 48 n, if b.ebCtx then b.cb else 0, none, false, false⟩

/-- ENQ finds no space: ENQFAIL, counted at the first try (R71, R181). -/
def enqFails (e : EngineId) (m : MicroArgs) (count : Act) : Act := look fun s =>
  acts [if (s.builder e).enqfail then skip else count, updBuilder e fun b => { b with enqfail := true }, stepNext e m]

/-- ENQ; an uncorrectable context, met by CTXR or by this capture, enqueues nothing and voids the shot (R307). -/
def actEnq (e : EngineId) (m : MicroArgs) (ue : Option (Fin 8)) (mismatch : Bool) : Act :=
  word e m (fun _ => plainArgs m) (compared e mismatch (look fun s =>
    let k := blockOf e
    let x := (s.builder e).entry
    let ok := updBuilder e fun b => { b with enqfail := false }
    if s.depth e ≥ 64 then enqFails e m (countF (.cell e) CELL.STALL_COUNT_COUNT)
    else if (ue.isSome || (s.builder e).cbBad) && x.kind.usesCtx && s.inShot e then
      acts [match ue with | some j => noteCtxUe (regionOf e) (s.irCtx e) j.val | none => skip, voidShot e [.ecc], ok, stepNext e m]
    else if x.kind = .streamStart then
      match s.freeStreamSlot k with
      | none => enqFails e m (countF (blockPage k) BLOCK.STREAM_STATUS_STALLS)
      | some i => acts [takeSlot k i e, enqueueNow e { x with slot := some i }, ok, stepNext e m]
    else acts [enqueueNow e x, ok, stepNext e m]))
def execEnq (e : EngineId) (m : MicroArgs) (ue : Option (Fin 8)) (mismatch : Bool) (s : State) : Res := done (actEnq e m ue mismatch) s

/-- TWRT. -/
def actTwrt (e : EngineId) (m : MicroArgs) : Act :=
  word e m (fun _ => m.a = 0 && m.b.toNat < 2) (acts [look fun s =>
    let b := s.builder e
    if s.ir e 51 51 = 1 then
      setT e (s.ir e 53 52) (if m.b.toNat = 1 then windowEnd (s.irStamp e false) b.cb
        else BitVec.ofNat 64 (b.eb.toNat / 2 ^ 64) + BitVec.ofNat 64 (Ctx.duration b.cb))
    else skip, stepNext e m])
def execTwrt (e : EngineId) (m : MicroArgs) (s : State) : Res := done (actTwrt e m) s

/-! Memory words (R136) -/

/-- A read completes: LRES, the result U, LDONE. -/
def readDone (e u : Nat) (v : Word) : Act :=
  acts [setU e u v, updBuilder e fun b => { b with lres := BitVec.ofNat 64 v.toNat, ldone := true }]

/-- RDL. -/
def actRdl (e : EngineId) (m : MicroArgs) (ue : Bool) : Act :=
  word e m (fun _ => m.a.toNat < 4 && m.b.toNat < 4) (look fun s =>
    let i := (s.ureg e m.a.toNat).toNat % 8192
    if s.localBad e i ue then cellFault e .ecc
    else acts [readDone e m.b.toNat (s.localWord e i), noteSpadRead e (localAddr e i), stepNext e m])
def execRdl (e : EngineId) (m : MicroArgs) (ue : Bool) (s : State) : Res := done (actRdl e m ue) s

/-- WRL. -/
def actWrl (e : EngineId) (m : MicroArgs) : Act :=
  word e m (fun _ => m.a.toNat < 4 && m.b.toNat < 4) (acts [look fun s =>
    storeLocal e ((s.ureg e m.a.toNat).toNat % 8192) (s.ureg e m.b.toNat), stepNext e m])
def execWrl (e : EngineId) (m : MicroArgs) (s : State) : Res := done (actWrl e m) s

/-- RDB. -/
def actRdb (e : EngineId) (m : MicroArgs) (ue : Bool) : Act :=
  word e m (fun _ => m.a.toNat < 4 && m.b.toNat < 8) (look fun s =>
    let w := (s.ureg e m.a.toNat).toNat % 2 ^ 18
    acts [readDone e (m.b.toNat % 4) (s.engineHalf (blockOf e) w (m.b.toNat ≥ 4) ue), engineBankRead e w ue, stepNext e m])
def execRdb (e : EngineId) (m : MicroArgs) (ue : Bool) (s : State) : Res := done (actRdb e m ue) s

/-- WRB. -/
def actWrb (e : EngineId) (m : MicroArgs) (mismatch : Bool) : Act :=
  word e m (fun _ => m.a.toNat < 4 && m.b.toNat < 8) (compared e mismatch (acts [look fun s =>
    bankStore (blockOf e) ((s.ureg e m.a.toNat).toNat % 2 ^ 18) (if m.b.toNat ≥ 4 then 4 else 0)
      (s.ureg e (m.b.toNat % 4)).toNat 4, stepNext e m]))
def execWrb (e : EngineId) (m : MicroArgs) (mismatch : Bool) (s : State) : Res := done (actWrb e m mismatch) s

/-! Unit requests (R137, R140, R141) -/

/-- A REQ word: illegal at level 1 or 2, or where IR breaks the request's own rule; the request runs with UDONE clear until it completes.
The word itself completes last (R153). -/
def requestIf (e : EngineId) (m : MicroArgs) (legal : State → Bool) (a : Act) : Act :=
  word e m (fun s => m.a = 0 && s.level e = 0 && legal s) (acts [
    updEng e fun r => { r with byMicro := true, micro := { r.micro with udone := false, uok := false } }, a, stepNext e m])

def request (e : EngineId) (m : MicroArgs) (a : Act) : Act := requestIf e m (fun _ => true) a

/-- A curfew arrival or a grant is complete as it is made (R140); the wait that it begins is the routine's PARK's (R136). -/
def thenPark (e : EngineId) (a : Act) : Act :=
  acts [a, look fun s => match (s.eng e).wait with
    | .curfew .. | .grant .. => acts [updMicro e fun r => { r with reqWait := true, parked := false }, finish e]
    | _ => skip]

/-- Request 0x01: LEASE as coded in IR. -/
def actReqLease (e : EngineId) (m : MicroArgs) : Act :=
  request e m (look fun s => leaseAct e (s.ir e 55 55 = 1) (s.ir e 54 54 = 1) (Fin.ofNat 2 (s.ir e 48 48)))
def execReqLease (e : EngineId) (m : MicroArgs) (s : State) : Res := done (actReqLease e m) s

/-- The SCOPE of a CURFEW in IR. -/
def State.irScope (s : State) (e : Nat) : Option CurfewScope := CurfewScope.ofCode (s.ir e 55 53)

/-- Request 0x02: a curfew arrival with IR's scope and tag; a reserved scope is illegal. -/
def actReqCurfew (e : EngineId) (m : MicroArgs) : Act :=
  requestIf e m (fun s => (s.irScope e).isSome) (look fun s =>
    thenPark e (curfewAct e ((s.irScope e).getD .cell) (BitVec.ofNat 16 (s.ir e 47 32))))
def execReqCurfew (e : EngineId) (m : MicroArgs) (s : State) : Res := done (actReqCurfew e m) s

/-- Request 0x03: SENDM from IR. -/
def actReqSendm (e : EngineId) (m : MicroArgs) : Act :=
  request e m (look fun s => sendmAct e (Fin.ofNat 4 (s.ir e 55 54)) (Fin.ofNat 64 (s.ir e 53 48)) (BitVec.ofNat 16 (s.ir e 47 32))
    (Fin.ofNat 16 (s.ir e 31 28)) (BitVec.ofNat 16 (s.ir e 27 12)))
def execReqSendm (e : EngineId) (m : MicroArgs) (s : State) : Res := done (actReqSendm e m) s

/-- Request 0x04: a WATCH grant. -/
def actReqWatch (e : EngineId) (m : MicroArgs) (seq : List WatchStep) : Act :=
  request e m (look fun s => thenPark e (watchAct e (Fin.ofNat 4 (s.ir e 55 54)) (BitVec.ofNat 16 (s.ir e 47 32))
    (BitVec.ofNat 32 (s.ir e 31 0)) seq))
def execReqWatch (e : EngineId) (m : MicroArgs) (seq : List WatchStep) (s : State) : Res := done (actReqWatch e m seq) s

/-- Request 0x05: a shot opens. -/
def actReqShotOpen (e : EngineId) (m : MicroArgs) (differ : Bool) (lead : Stamp) : Act :=
  request e m (look fun s => if s.inShot e then finish e
    else shotAct e false (Fin.ofNat 4 (s.ir e 53 52)) (BitVec.ofNat 32 (s.ir e 31 0)) differ lead)
def execReqShotOpen (e : EngineId) (m : MicroArgs) (differ : Bool) (lead : Stamp) (s : State) : Res :=
  done (actReqShotOpen e m differ lead) s

/-- Request 0x06: the shot closes. -/
def actReqShotClose (e : EngineId) (m : MicroArgs) : Act :=
  request e m (look fun s => if s.inShot e then closeShot e .proceed else finish e)
def execReqShotClose (e : EngineId) (m : MicroArgs) (s : State) : Res := done (actReqShotClose e m) s

/-- Request 0x07: a PREP declaration. -/
def actReqPrep (e : EngineId) (m : MicroArgs) : Act :=
  request e m (look fun s => acts [declarePrep e (s.ir e 35 24), finish e])
def execReqPrep (e : EngineId) (m : MicroArgs) (s : State) : Res := done (actReqPrep e m) s

/-- Request 0x08: the branch in IR is armed; an IR that is no branch arms nothing. -/
def actBrArm (e : EngineId) (m : MicroArgs) (mismatch : Bool) : Act :=
  request e m (compared e mismatch (look fun s => match decodeEng e (s.micro e).ir with
    | .ok (.brd _ b r u _) => armBranch e b (.tone (r.map (·.val)) u.val)
    | .ok (.brf _ b r n f _) => armBranch e b (.func (r.map (·.val)) n.val f.val)
    | .ok (.brt _ b u _) => armBranch e b (.trigger u)
    | .ok (.brm _ b d t _) => armBranch e b (.message d.val t.toNat)
    | _ => finish e))
def execBrArm (e : EngineId) (m : MicroArgs) (mismatch : Bool) (s : State) : Res := done (actBrArm e m mismatch) s

/-! Stopovers (R149 to R151) -/

/-- A write to CELL.DOORBELL. -/
def actDoorbell (fn : FuncId) (e : EngineId) (v : Word) : Act := forCell fn e (look fun s =>
  let p := Page.cell e
  acts [setF p CELL.DOORBELL_VALUE v.toNat,
    if s.engIs e .stopped then
      (if Nat.testBit (s.get p CELL.SO_STATUS_PEND) 5 then skip else setF p CELL.SO_STATUS_DB_OVER 0)
    else if Nat.testBit (s.get p CELL.SO_STATUS_PEND) 5 then setF p CELL.SO_STATUS_DB_OVER 1
    else acts [setF p CELL.SO_STATUS_DB_OVER 0, raiseStopover e 5 (s.get p CELL.SO_CTRL_DB_EN = 1)]])
def execDoorbell (fn : FuncId) (e : EngineId) (v : Word) (s : State) : Res := done (actDoorbell fn e v) s

/-- The pending source that may be taken now: the first of highest priority at level 0, one of strictly higher priority
than the running trap's at level 1, none at level 2 (R150). -/
def State.takeable (s : State) (e : Nat) : Option Nat :=
  let pend := s.get (cellPage e) CELL.SO_STATUS_PEND
  match (upTo 6).find? (Nat.testBit pend) with
  | none => none
  | some i => match s.level e with
    | 0 => some i
    | 1 => if i < ((s.micro e).slots.getD 0 .init).src then some i else none
    | _ => none

/-- A pending stopover is taken at a boundary outside a holdoff window (R148, R150, R151); a cell that the control store holds is at none
(R132), one that waits for a new start is (R154). -/
def actStopoverTake (e : EngineId) : Act := look fun s =>
  if s.engStopped e || s.time.frozen || (s.micro e).csHeld || (s.micro e).holdoff ≠ 0 then skip else
  match s.takeable e with
  | some i => enterStopover e i
  | none => skip
def execStopoverTake (e : EngineId) (s : State) : Res := done (actStopoverTake e) s

/-! Pace modes (R142, R145, R146) -/

/-- The cells that count under R142. -/
def State.paceCells (s : State) (k : Nat) : Nat :=
  ((enginesOfBlock k).filter fun e =>
    s.get (cellPage e) ALL.PAGE_CTRL_ENABLE = 1 && !s.pageIs (cellPage e) .quarantined).length

/-- The mode R142 chooses: 1 PACED, 0 WAITING. -/
def State.paceWanted (s : State) (k : Nat) : Nat :=
  if 8 < s.paceCells k || s.get (blockPage k) BLOCK.PACE_CTRL_PIN_PACED = 1 then 1 else 0

/-- A mode change waits. -/
def State.pacePending (s : State) (k : Nat) : Bool := s.paceWanted k ≠ s.get (blockPage k) BLOCK.PACE_STATUS_MODE

/-- An engine is held at a curfew by a PARK word: its own routine's, outside a trap routine. -/
def State.parkedAtCurfew (s : State) (e : Nat) : Bool :=
  s.level e = 0 && (!(s.micro e).reqWait || (s.micro e).parked) && (match (s.eng e).wait with | .curfew .. => true | _ => false)

/-- Every engine of the block is stopped or held at a curfew by PARK. -/
def State.blockIdle (s : State) (k : Nat) : Bool := (enginesOfBlock k).all fun e => s.engStopped e || s.parkedAtCurfew e

/-- The cell whose ENABLE write caused the pace-mode change that waits stays in STARTING until it is made (R145). -/
def State.paceHoldsCell (s : State) (e : Nat) : Bool := s.pacePending (blockOf e) && (s.blk (blockOf e)).paceCell = some (cellOf e)

/-- PACE_MODE_CHANGE: the pending change is made, or refused by the image (R146); the cell it held in STARTING passes to READY,
and its held start acts (R89, R145). -/
def actPaceModeChange (k : BlockId) : Act := look fun s =>
  let p := Page.block k
  let want := s.paceWanted k
  if !s.pacePending k || !s.blockIdle k then skip
  else if !Nat.testBit (s.get p BLOCK.UC_INFO_MODES) want then raiseFault p 16
  else acts [setF p BLOCK.PACE_STATUS_MODE want,
    updBlk k fun b => { b with paceCell := none },
    forEach ((enginesOfBlock k).filter s.paceHoldsCell) fun e => look fun s =>
      if s.pageIs (cellPage e) .starting && s.flag (cellPage e) ALL.PAGE_CTRL_ENABLE && s.pageIs p .ready
          && s.pageIs (regionPage (regionOf e)) .ready then
        acts [setPage (cellPage e) .ready, actHeld e] else skip]
def execPaceModeChange (k : BlockId) (s : State) : Res := done (actPaceModeChange k) s

/-! Control-store images (R155, R157 to R159, R475) -/

/-- The fields of a microword. -/
structure MicroWord where
  mop : Nat
  a : Nat
  b : Nat
  next : Nat

def MicroWord.of (w : Nat) : MicroWord := ⟨bitsOf w 31 26, bitsOf w 25 21, bitsOf w 20 13, bitsOf w 12 0⟩

def sourceCode (c : Nat) : Bool := c ≤ 20
def destCode (c : Nat) : Bool := 6 ≤ c && c ≤ 15
def condCode (c : Nat) : Bool := c < 24

/-- Check 0x06 of one word: its MOP, its condition, source, destination and request codes, and its fields marked "—". -/
def MicroWord.legal (w : MicroWord) : Bool :=
  match w.mop with
  | 0x00 | 0x07 | 0x0D | 0x0F | 0x10 | 0x14 => w.a = 0 && w.b = 0
  | 0x0B => w.a = 0 && w.b = 0 && w.next = 0
  | 0x0C => w.a = 0 && w.next = 0
  | 0x01 | 0x04 | 0x18 | 0x19 | 0x1A | 0x1B => true
  | 0x02 | 0x03 => sourceCode w.a
  | 0x05 => destCode w.a
  | 0x06 | 0x0A | 0x0E | 0x11 | 0x12 | 0x13 | 0x15 => w.a = 0
  | 0x08 | 0x09 => condCode w.a
  | 0x20 => w.a = 0 && 1 ≤ w.b && w.b ≤ 8
  | _ => false

/-- The addresses that may follow a word; with `paced`, a CSEL on PACED goes only one way (R159). -/
def MicroWord.nexts (w : MicroWord) (paced : Bool) : List Nat :=
  let even := w.next / 2 * 2
  match w.mop with
  | 0x0B | 0x0C | 0x0D | 0x0E => []
  | 0x07 => [even, even + 1]
  | 0x08 => if paced && w.a = 1 then [even + (1 - w.b % 2)] else [even, even + 1]
  | _ => [w.next]

/-- The addresses reachable from a frontier, in at most `fuel` rounds. -/
def microReach (code : Nat → MicroWord) (paced : Bool) : Nat → List Nat → List Nat → List Nat
  | 0, seen, _ => seen
  | n + 1, seen, front =>
    let new := ((front.flatMap fun i => (code i).nexts paced).eraseDups).filter fun i => !seen.contains i
    if new.isEmpty then seen else microReach code paced n (seen ++ new) new

/-- The dispatch and vector addresses (R155). -/
def microRoots : List Nat := upTo 0x40 ++ (upTo 6).map vectorOf

/-- The first failure of a microcode image among codes 0x06 to 0x0A, with its address: of several words that fail one check the lowest
(DESIGN CHOICE, log entry 105). -/
def microFailure (code : Nat → MicroWord) (modes mode : Nat) (pin : Bool) : Option (Nat × Nat) :=
  let reach := microReach code false 8192 microRoots microRoots
  let paced := microReach code true 8192 microRoots microRoots
  let find (p : Nat → Bool) : Option Nat := (upTo 8192).find? p
  match find fun i => reach.contains i && !(code i).legal with
  | some i => some (6, i)
  | none => match find fun i => bitOf modes 1 = 1 && paced.contains i && (code i).mop = 0x09 with
    | some i => some (7, i)
    | none => match find fun i => (code i).mop = 0x0A && ((code i).b = 0 || (code i).b > 16) with
      | some i => some (8, i)
      | none => match find fun i => modes % 4 = 3 && (code i).mop = 0x0F
          && !((code (code i).next).mop = 0x08 && (code (code i).next).a = 1) with
        | some i => some (9, i)
        | none => if bitOf modes mode = 0 || (pin && bitOf modes 1 = 0) then some (10, 0) else none

/-- UC_CTRL.LOAD or STD begins a load; one in progress is not disturbed. A cell that runs now is reason BUSY (R159). -/
def ucBegin (k : BlockId) (from' : Option Nat) : Act := look fun s =>
  let p := Page.block k
  if s.get p BLOCK.UC_STATUS_BUSY = 1 then skip
  else acts [setF p BLOCK.UC_STATUS_BUSY 1, setF p BLOCK.UC_STATUS_DONE 0,
    updBlk k fun b => { b with
      ucFrom := from'
      ucBusy := b.running || (enginesOfBlock k).any fun e => !s.engStopped e }]

/-- UC_CTRL.LOAD. A UC_SRC that is no multiple of 64 is used as it stands (DESIGN CHOICE, log entry 105). -/
def actUcLoad (k : BlockId) : Act := look fun s => ucBegin k (some (s.pair (.block k) BLOCK.UC_SRC_LO BLOCK.UC_SRC_HI))
def execUcLoad (k : BlockId) (s : State) : Res := done (actUcLoad k) s

/-- UC_CTRL.STD: the standard image from NVM. -/
def actUcStd (k : BlockId) : Act := ucBegin k none
def execUcStd (k : BlockId) (s : State) : Res := done (actUcStd k) s

/-- The bytes of a microcode image. -/
def ucImageLen : Nat := 62688

/-- The checks of R159 on an image at byte address `a`, in order. -/
def State.ucReason (s : State) (k : BlockId) (a : Nat) (hbm : Bool) : Option (Nat × Nat) :=
  let p := Page.block k
  let modes := s.bytes (a + 0xE) 2
  if hbm && !hbmRange a ucImageLen then some (11, 0)
  else if (s.blk k).ucBusy then some (1, 0)
  else if s.imageKind a ≠ some 2 || modes % 4 = 0 || s.bytes (a + 0x16) 10 ≠ 0 || s.bytes (a + 0x60) 32 ≠ 0 then some (2, 0)
  else if !s.imageTarget a then some (3, 0)
  else if !s.imageKeyOk a (s.slotsFor 2) then some (4, 0)
  else if !s.imageSigned a 0x8080 then some (5, 0)
  else microFailure (fun i => MicroWord.of (s.bytes (a + 0x80 + 4 * i) 4)) modes (s.get p BLOCK.PACE_STATUS_MODE)
    (s.get p BLOCK.PACE_CTRL_PIN_PACED = 1)

/-- UC_LOAD_DONE: a rejected image changes nothing but UC_STATUS; an accepted one replaces the control store and is measured
into M2; held starts act. The standard image lies in NVM store 0 and declares both modes. -/
def actUcLoadDone (k : BlockId) : Act := look fun s =>
  let p := Page.block k
  if s.get p BLOCK.UC_STATUS_BUSY = 0 then skip else
  let src := (s.blk k).ucFrom
  let a := src.getD (nvmAddr 0 0)
  let r := if src.isSome then s.ucReason k a true else if (s.blk k).ucBusy then some (1, 0) else none
  acts [loadResult p BLOCK.UC_STATUS_BUSY BLOCK.UC_STATUS_DONE BLOCK.UC_STATUS_OK BLOCK.UC_STATUS_REASON
      BLOCK.UC_STATUS_ADDR r,
    if r.isSome then skip
    else acts [storeList (csAddr k 0) (s.byteList (a + 0x80) 32768), setF p BLOCK.UC_ID_VERSION (s.bytes (a + 0x10) 4),
      setF p BLOCK.UC_INFO_MODES (if src.isSome then s.bytes (a + 0xE) 2 else 3),
      setF p BLOCK.UC_INFO_KEY_SLOT (if src.isSome then s.bytes (a + 0x14) 2 else 0), setB p BLOCK.UC_INFO_STD src.isNone,
      extendMeasure 2 (s.byteList a ucImageLen) k.val],
    forEach (enginesOfBlock k) actHeld]
def execUcLoadDone (k : BlockId) (s : State) : Res := done (actUcLoadDone k) s

end Sys2Proof.Machine
end

