-- ==== Sys2Proof/Machine/Memories.lean ====
section
/-! DEFINITION. The BAR2 window and its writes (R297 to R299), porters (R300 to R304), ECC, scrub and retests (R305 to R307,
R132), wipes (R309), library loads (R311), and the faults that quarantine a block or a region (R21). -/

namespace Sys2Proof.Machine

/-! Places behind BAR2 (R297) -/

/-- What a BAR2 offset names: the memory and the byte in it. -/
inductive Place where
  | hbm (a : Nat)
  | context (n off : Nat)
  | weight (n off : Nat)
  | bank (k off : Nat)
  | spad (e off : Nat)
deriving DecidableEq, Repr

def placeOf (a : Nat) : Option Place :=
  if a < hbmEnd then some (.hbm a)
  else if 0x6_0000_0000 ≤ a && a < 0x6_2000_0000 then
    let n := (a - 0x6_0000_0000) / 0x400_0000
    let off := (a - 0x6_0000_0000) % 0x400_0000
    if off < 0x80_0000 then some (.context n off)
    else if off < 0xA0_0000 then some (.weight n (off - 0x80_0000)) else none
  else if 0x7_0000_0000 ≤ a && a < 0x7_1000_0000 then
    let k := (a - 0x7_0000_0000) / 0x40_0000
    let off := (a - 0x7_0000_0000) % 0x40_0000
    if off < 0x20_0000 then some (.bank k off)
    else if off < 0x30_0000 then some (.spad (16 * k + (off - 0x20_0000) / 0x1_0000) (off % 0x1_0000)) else none
  else none

/-- The view of function `g` shows the place (R299). -/
def State.viewOf (s : State) (g : Nat) : Place → Bool
  | .hbm a => s.hbmView g a 1
  | .context n off => s.ctxView g n (off / 64)
  | .weight n off =>
    let w := s.guestWord g (66 + n)
    g = 0 || (4096 * bitsOf w 8 0 ≤ off && off < 4096 * (bitsOf w 8 0 + bitsOf w 24 16))
  | .bank k _ => g = 0 || s.get (bankPage k) ALL.GUEST_OWNER_GUEST = g
  | .spad e _ => g = 0 || s.guestOf e = g

/-- A place that a window or a porter writes: not a scratchpad's program or checkpoint area (R298). -/
def Place.writable : Place → Bool
  | .spad _ off => 0x8000 ≤ off && off < 0xFF00
  | _ => true

/-- The words that say whether the memories of a region or of a block are being wiped (R309). -/
def wipeRegion (n : Nat) : Nat := 0x200 + n
def wipeBlock (k : Nat) : Nat := 0x300 + k

def State.wipingBlock (s : State) (k : Nat) : Bool := s.word .misc (wipeRegion (k / 8)) = 1 || s.word .misc (wipeBlock k) = 1

/-- The place's memory is being wiped. -/
def State.wiping (s : State) : Place → Bool
  | .hbm _ => s.get .hbm HBM.STATUS_WIPING = 1
  | .context n _ | .weight n _ => s.word .misc (wipeRegion n) = 1
  | .bank k _ => s.wipingBlock k
  | .spad e _ => s.wipingBlock (blockOf e)

/-- The number little-endian bytes spell. -/
def numOf : List Byte → Nat
  | [] => 0
  | b :: bs => b.toNat + 256 * numOf bs

/-- The samples of a window integrated by now. -/
def State.integrated (s : State) (w : OpenWindow) : Nat :=
  if Stamp.atOrAfter s.st w.opened then (s.st - w.opened).toNat / 32 + 1 else 0

/-- A write to a weight: open windows of the region keep the old value for the samples they have integrated (R212). -/
def noteWeight (n j : Nat) : Act := look fun s =>
  let old := s.bytes (weightAddr n j) 4
  forEach ((s.tones.filter fun kv => match kv.2.window with | some w => regionOf w.engine = n | none => false).map (·.1)) fun k =>
    updTone k fun t => { t with window := t.window.map fun w => { w with olds := w.olds ++ [(s.integrated w, j, old)] } }

/-- Write bytes inside one aligned 8-byte unit at BAR2 offset `a`: as a host write of function `fn`, which engines see once a host fence
covers it (R127, R298, R304), or as a write of the device itself. A context may be seen at once (R127). -/
def writePlace (fn : Option Nat) (a : Nat) (bytes : List Byte) : Act :=
  match placeOf a with
  | none => skip
  | some (.hbm _) | some (.context ..) => storeList a bytes
  | some (.weight n off) => acts [noteWeight n (off / 4), if (off + bytes.length - 1) / 4 ≠ off / 4 then noteWeight n (off / 4 + 1) else skip,
      storeList a bytes]
  | some (.bank k off) => match fn with
    | some g => acts [hideBytes k g a bytes.length, bankWrite k (off / 8) (off % 8) (numOf bytes) bytes.length]
    | none => bankStore k (off / 8) (off % 8) (numOf bytes) bytes.length
  | some (.spad e off) => match fn with
    | some g => acts [hideBytes (blockOf e) g a bytes.length, spadWrite e off (numOf bytes) bytes.length]
    | none => spadStore e off (numOf bytes) bytes.length

/-- Bytes at an address cut at 8-byte boundaries (R298). -/
def pieces : Nat → Nat → List Byte → List (Nat × List Byte)
  | 0, _, _ => []
  | n + 1, a, bytes =>
    if bytes.isEmpty then [] else
    let k := 8 - a % 8
    (a, bytes.take k) :: pieces n (a + k) (bytes.drop k)

/-- Write bytes at BAR2 offset `a`, piece by piece. -/
def writeRange (fn : Option Nat) (a : Nat) (bytes : List Byte) : Act := forEach (pieces bytes.length a bytes) fun p => writePlace fn p.1 p.2

/-- BAR2_WRITE: the pieces that the function's view shows are stored, but for read-only areas, reserved ranges and memories
being wiped. -/
def actBar2Write (fn : FuncId) (a : BitVec 36) (data : List Byte) : Act := look fun s =>
  if fn.val ≠ 0 && !s.guestReady fn.val then skip
  else forEach (pieces data.length a.toNat data) fun p => match placeOf p.1 with
    | some x => if s.viewOf fn x && x.writable && !s.wiping x then writePlace (some fn) p.1 p.2 else skip
    | none => skip
def execBar2Write (fn : FuncId) (a : BitVec 36) (data : List Byte) (s : State) : Res := done (actBar2Write fn a data) s

/-! Porters (R300 to R304) -/

/-- The registers of an owner's descriptor queue in a region. -/
structure QueueRegs where
  page : Page
  lo : Field
  hi : Field
  size : Field
  tail : Field
  head : Field
  done : Field
  en : Field
  inflight : Field
  last : Field
  vector : Nat

def queueRegs (n owner : Nat) : QueueRegs :=
  if owner = 0 then
    { page := porterPage n, lo := PORTER.DQ_BASE_LO_ADDR, hi := PORTER.DQ_BASE_HI_ADDR, size := PORTER.DQ_SIZE_ENTRIES,
      tail := PORTER.DQ_TAIL_INDEX, head := PORTER.DQ_HEAD_INDEX, done := PORTER.DQ_DONE_INDEX, en := PORTER.DQ_CTRL_EN,
      inflight := PORTER.DQ_STATUS_INFLIGHT, last := PORTER.DQ_STATUS_LAST, vector := 24 + n }
  else
    { page := .session (Fin.ofNat 64 (owner - 1)), lo := SESSION.DQ_BASE_LO_ADDR n, hi := SESSION.DQ_BASE_HI_ADDR n,
      size := SESSION.DQ_SIZE_ENTRIES n, tail := SESSION.DQ_TAIL_INDEX n, head := SESSION.DQ_HEAD_INDEX n,
      done := SESSION.DQ_DONE_INDEX n, en := SESSION.DQ_CTRL_EN n, inflight := SESSION.DQ_STATUS_INFLIGHT n,
      last := SESSION.DQ_STATUS_LAST n, vector := 10 + n }

/-- The number of a queue in the store of queues. -/
def queueNo (n owner : Nat) : Nat := 65 * n + owner

/-- The HBM byte of descriptor `i` of a queue. -/
def State.descAddr (s : State) (q : QueueRegs) (i : Nat) : Nat := s.get q.page q.lo * 32 + s.get q.page q.hi * 2 ^ 32 + 32 * i

/-- The index after `i` in a queue. -/
def State.nextDesc (s : State) (q : QueueRegs) (i : Nat) : Nat := (i + 1) % max 1 (s.get q.page q.size)

/-- The descriptors a region has fetched over all its queues. -/
def State.inflight (s : State) (n : Nat) : Nat := ((upTo 65).map fun o => (s.dq (queueNo n o)).fetched.length).sum

/-- Keep INFLIGHT: the region's count in the PORTER page, a guest's own in its SESSION page. -/
def showInflight (n owner : Nat) : Act := look fun s =>
  acts [setF (porterPage n) PORTER.DQ_STATUS_INFLIGHT (s.inflight n),
    if owner = 0 then skip
    else setF (queueRegs n owner).page (queueRegs n owner).inflight (s.dq (queueNo n owner)).fetched.length]

/-- A descriptor's bytes lie in the HBM its owner may use, so that the device reads and writes them (R412, R544). -/
def State.descInReach (s : State) (n owner i : Nat) : Bool := s.memRange owner (s.descAddr (queueRegs n owner) i) 32

/-- An owner's queue has a descriptor to fetch: enabled, not empty, in reach. -/
def State.queueWaits (s : State) (n owner : Nat) : Bool :=
  let q := queueRegs n owner
  let head := s.get q.page q.head
  s.get q.page q.en ≠ 0 && head ≠ s.get q.page q.tail && s.descInReach n owner head

/-- The owner whose queue a region's porter serves next: the first that waits, from the one whose turn it is (R302). -/
def State.nextQueue (s : State) (n : Nat) : Option Nat :=
  ((upTo 65).map fun i => ((s.capq n).dqTurn + i) % 65).find? (s.queueWaits n)

/-- DESCRIPTOR_FETCH: the next descriptor of the queue whose turn it is, at most 256 in the region, while the page is READY (R302,
R507). -/
def actDescriptorFetch (n : RegionId) (owner : FuncId) : Act := look fun s =>
  let q := queueRegs n owner
  let head := s.get q.page q.head
  if s.nextQueue n ≠ some owner.val || 256 ≤ s.inflight n || !s.pageIs (.porter n) .ready then skip
  else acts [updCapq n fun c => { c with dqTurn := (owner.val + 1) % 65 },
    updDq (queueNo n owner) fun r => { r with
      fetched := r.fetched ++ [BitVec.ofNat 256 (s.hbmBytes (s.descAddr q head) 32)] },
    setF q.page q.head (s.nextDesc q head), showInflight n owner]
def execDescriptorFetch (n : RegionId) (owner : FuncId) (s : State) : Res := done (actDescriptorFetch n owner) s

namespace Desc
def src (d : Nat) : Nat := bitsOf d 63 0
def dst (d : Nat) : Nat := bitsOf d 127 64
def len (d : Nat) : Nat := bitsOf d 152 128
def irq (d : Nat) : Bool := bitOf d 160 = 1
def notify (d : Nat) : Bool := bitOf d 162 = 1
def nblk (d : Nat) : Nat := bitsOf d 173 168
def clean (d : Nat) : Bool := bitsOf d 159 153 = 0 && bitsOf d 167 163 = 0 && bitsOf d 191 174 = 0 && bitsOf d 254 232 = 0
end Desc

/-- A porter address names host memory. -/
def onHost (a : Nat) : Bool := bitOf a 63 = 1

/-- A region's porter reaches a place (R300). -/
def porterReach (n : Nat) : Place → Bool
  | .hbm _ => true
  | .context m _ | .weight m _ => m = n
  | .bank k _ => regionOfBlock k = n
  | .spad e _ => regionOf e = n

/-- An end of a transfer lies in the porter's reach and the owner's view, and is writable as a destination. -/
def State.porterMay (s : State) (n owner a len : Nat) (dest : Bool) : Bool :=
  onHost a || (a < 2 ^ 36 && (upTo (len / 8)).all fun i => match placeOf (a + 8 * i) with
    | some x => porterReach n x && s.viewOf owner x && (!dest || x.writable)
    | none => false)

/-- The reader's counters at a word of a place that is corrected as it is read (R305, R312 to R314). -/
def notePlaceCorrected (x : Place) : Act :=
  match x with
  | .bank k _ => countF (bankPage k) BANK.ECC_CORRECTED
  | .context n _ => countF (porterPage n) PORTER.CTX_ECC_CORRECTED
  | .weight n _ => countF (porterPage n) PORTER.WGT_ECC_CORRECTED
  | .hbm _ => countF .hbm HBM.ECC_CORRECTED
  | .spad e _ => countF (bankPage (blockOf e)) BANK.SPAD_ECC_CORRECTED

/-- The words of a device range that are corrected as they are read. -/
def noteCorrected (a len : Nat) : Act := look fun s => forEach ((upTo (len / 8)).filter fun i => s.word .poison (a / 8 + i) = 3) fun i =>
  match placeOf (a + 8 * i) with | some x => notePlaceCorrected x | none => skip

/-- The status a descriptor fails its checks with (R301, R303). -/
def State.descReason (s : State) (n owner d : Nat) : Option Nat :=
  let len := Desc.len d
  if !Desc.clean d then some 5
  else if Desc.src d % 8 ≠ 0 || Desc.dst d % 8 ≠ 0 || len % 8 ≠ 0 || len < 8 || 2 ^ 24 < len then some 2
  else if !s.porterMay n owner (Desc.src d) len false || !s.porterMay n owner (Desc.dst d) len true
    || (Desc.notify d && regionOfBlock (Desc.nblk d) ≠ n) then some 1
  else none

/-- The reader's counters at an uncorrectable word of a place (R312 to R314). -/
def notePlaceUe (reader : BankReader) (x : Place) : Act :=
  match x with
  | .bank k off => noteBankRead k (off / 8) reader true
  | .context n off => noteCtxUe n (off / 64) (off % 64 / 8)
  | .weight n off => acts [countF (porterPage n) PORTER.WGT_ECC_UNCORRECTED, setF (porterPage n) PORTER.UE_ADDR_OFFSET off,
      setF (porterPage n) PORTER.UE_ADDR_STORE 1, raiseFault (porterPage n) 1]
  | .hbm a => acts [countF .hbm HBM.ECC_UNCORRECTED, setF .hbm HBM.UE_ADDR_LO (a / 8 * 8), setF .hbm HBM.UE_ADDR_HI (a / 2 ^ 32),
      raiseFault .hbm 0]
  | .spad e _ => cellFault e .ecc

/-- The bytes of a transfer that are written, its status, and the place of an uncorrectable unit (R303, R307). -/
def State.transfer (s : State) (d : Nat) (result : PorterEnd) (hostData : List Byte) : List Byte × Nat × Option Place :=
  let src := Desc.src d
  let len := Desc.len d
  let data := if onHost src then (hostData ++ List.replicate len 0).take len else s.byteList src len
  let bad := if onHost src then none else (upTo (len / 8)).find? fun i => s.poisoned (src + 8 * i)
  let unit : Option Nat := match bad, result with
    | some i, .ue u => some (min (8 * i) (64 * u.toNat))
    | some i, _ => some (8 * i)
    | none, .ue u => if onHost src then none else some (64 * u.toNat)
    | none, _ => none
  match unit with
  | some o =>
    let start := (src + o) / 64 * 64 - src
    if len ≤ o then (data, 0, none) else (data.take start, 3, placeOf (src + o))
  | none => match result with
    | .host moved => if onHost src || onHost (Desc.dst d) then (data.take moved.toNat, 4, none) else (data, 0, none)
    | _ => (data, 0, none)

/-- A descriptor completes with a status: STATUS and DONE, then DQ_DONE, then the interrupts (R302, R303). Its bytes outside the HBM its
owner may use are not written (R544). -/
def completeDesc (n owner d status : Nat) : Act := look fun s =>
  let q := queueRegs n owner
  let i := s.get q.page q.done
  acts [if s.descInReach n owner i then storeBytes (s.descAddr q i + 0x1C) (status + 2 ^ 31) 4 else skip, setF q.page q.done (s.nextDesc q i),
    if status = 0 then skip
    else acts [setF q.page q.last status, raiseFault (porterPage n) 0, if owner = 0 then skip else raiseFault q.page 1],
    if Desc.irq d then emit (.msix owner q.vector) else skip,
    if Desc.notify d && regionOfBlock (Desc.nblk d) = n then dspRaise (Desc.nblk d) 0 else skip]

/-- DESCRIPTOR_COMPLETE: the oldest fetched descriptor of a queue moves its bytes and completes. -/
def actDescriptorComplete (n : RegionId) (owner : FuncId) (result : PorterEnd) (hostData : List Byte) : Act := look fun s =>
  match (s.dq (queueNo n owner)).fetched with
  | [] => skip
  | d :: rest =>
    let d := d.toNat
    acts [updDq (queueNo n owner) fun r => { r with fetched := rest }, showInflight n owner,
      match s.descReason n owner d with
      | some r => completeDesc n owner d r
      | none =>
        let (bytes, status, bad) := s.transfer d result hostData
        acts [if onHost (Desc.dst d) then (if bytes.isEmpty then skip else emit (.hostWrite owner (Desc.dst d % 2 ^ 63) bytes))
          else writeRange (some owner) (Desc.dst d) bytes,
          if onHost (Desc.src d) then skip else noteCorrected (Desc.src d) bytes.length,
          match bad with | some x => notePlaceUe .porter x | none => skip,
          completeDesc n owner d status]]
def execDescriptorComplete (n : RegionId) (owner : FuncId) (result : PorterEnd) (hostData : List Byte) (s : State) : Res :=
  done (actDescriptorComplete n owner result hostData) s

/-- The descriptors of a queue not fetched yet, from index `i`, at most `fuel`. -/
def State.unfetched (s : State) (q : QueueRegs) : Nat → Nat → List Nat
  | 0, _ => []
  | fuel + 1, i => if i = s.get q.page q.tail then [] else s.hbmBytes (s.descAddr q i) 32 :: s.unfetched q fuel (s.nextDesc q i)

/-- Every descriptor of an enabled queue that has not completed ends with ABORTED (R303). -/
def abortQueue (n owner : Nat) : Act := look fun s =>
  let q := queueRegs n owner
  if s.get q.page q.en = 0 then skip else
  let left := (s.dq (queueNo n owner)).fetched.map (·.toNat) ++ s.unfetched q (s.get q.page q.size) (s.get q.page q.head)
  acts [setF q.page q.en 0, updDq (queueNo n owner) fun r => { r with fetched := [] }, showInflight n owner,
    setF q.page q.head (s.get q.page q.tail), forEach left fun d => completeDesc n owner d 6]

/-- DQ_DISABLE: a write of DQ_CTRL.EN = 0 by the queue's owner. -/
def actDqDisable (fn : FuncId) (n : RegionId) : Act := look fun s =>
  if s.get (queueRegs n fn).page (queueRegs n fn).en = 1 && (fn.val = 0 || s.guestReady fn.val) then abortQueue n fn else skip
def execDqDisable (fn : FuncId) (n : RegionId) (s : State) : Res := done (actDqDisable fn n) s

/-! Scrub and retest (R305, R306) -/

/-- The byte of an ECC word that the memory's map shows. -/
def wordAddr : MemWord → Option Nat
  | .bank k w => some (bankAddr k w.toNat)
  | .context n w => some (ctxAddr n 0 + 8 * w.toNat)
  | .weight n w => some (weightAddr n 0 + 8 * w.toNat)
  | .hbm w => if w.toNat < 3 * 2 ^ 30 then some (8 * w.toNat) else none
  | .spad e w => some (spadAddr e (8 * w.toNat))
  | .control k w => some (csAddr k w.toNat)
  | .program k w => some (pmemAddr k w.toNat)
  | .strongroom w => some (strongAddr (8 * w.toNat))
  | .ledger .. | .capture .. => none

/-- The mark of an ECC word (R305, R306). -/
def wordMark : MemWord → Nat
  | .control k w => csMark k w.toNat
  | .program k w => pmemMark k w.toNat
  | .ledger n w => ledgerMark n w.toNat
  | .capture n w => captureMark n w.toNat
  | m => (wordAddr m).getD 0 / 8

/-- A word's number in its memory, and the words of that memory (R294). -/
def wordIndex : MemWord → Nat
  | .bank _ w => w.toNat
  | .context _ w => w.toNat
  | .weight _ w => w.toNat
  | .ledger _ w => w.toNat
  | .capture _ w => w.toNat
  | .hbm w => w.toNat
  | .spad _ w => w.toNat
  | .control _ w => w.toNat
  | .program _ w => w.toNat
  | .strongroom w => w.toNat

def wordCount : MemWord → Nat
  | .bank .. => 2 ^ 18
  | .context .. => 2 ^ 20
  | .weight .. => 2 ^ 18
  | .ledger .. | .capture .. => 2 ^ 19
  | .hbm _ => 3 * 2 ^ 30
  | .spad .. | .control .. | .program .. => 2 ^ 13
  | .strongroom _ => 2 ^ 15

/-- The word of the state that holds the scrub position of a memory: the word its scrub reads next (R305, R309). -/
def scrubWord : MemWord → Nat
  | .bank k _ => 0x1000 + k.val
  | .control k _ => 0x1040 + k.val
  | .program k _ => 0x1080 + k.val
  | .context n _ => 0x10C0 + n.val
  | .weight n _ => 0x10C8 + n.val
  | .ledger n _ => 0x10D0 + n.val
  | .capture n _ => 0x10D8 + n.val
  | .hbm _ => 0x10E0
  | .strongroom _ => 0x10E1
  | .spad e _ => 0x1400 + e.val

/-- The counters of an uncorrectable word found by scrub. -/
def noteScrubUe (m : MemWord) : Act :=
  let region (n : RegionId) (f : Field) (store off : Nat) : Act :=
    acts [countF (.porter n) f, setF (.porter n) PORTER.UE_ADDR_OFFSET off, setF (.porter n) PORTER.UE_ADDR_STORE store,
      raiseFault (.porter n) 1]
  match m with
  | .bank k w => acts [countF (.bank k) BANK.ECC_UNCORRECTED, setF (.bank k) BANK.UE_ADDR_WORD w.toNat,
      setF (.bank k) BANK.UE_ADDR_READER BankReader.scrub.code, raiseFault (.bank k) 0]
  | .context n w => region n PORTER.CTX_ECC_UNCORRECTED 0 (8 * w.toNat)
  | .weight n w => region n PORTER.WGT_ECC_UNCORRECTED 1 (8 * w.toNat)
  | .ledger n w => region n PORTER.LEDGER_ECC_UNCORRECTED 2 (8 * w.toNat)
  | .capture n w => region n PORTER.QUEUE_ECC_UNCORRECTED 3 (8 * w.toNat)
  | .hbm w => notePlaceUe .scrub (.hbm (8 * w.toNat))
  | .spad e _ => cellFault e .ecc
  | .control k _ => noteCsUe k
  | .program .. | .strongroom _ => skip

/-- A word is poisoned already: reading it is no new failure. -/
def State.knownBad (s : State) (m : MemWord) : Bool :=
  s.word .poison (wordMark m) = 1 || match m with | .hbm w => s.word .poison (pagePoison (8 * w.toNat)) = 1 | _ => false

/-- The counter of corrected reads and scrubs of a word's memory. -/
def wordCounter : MemWord → Option (Page × Field)
  | .bank k _ => some (.bank k, BANK.ECC_CORRECTED)
  | .context n _ => some (.porter n, PORTER.CTX_ECC_CORRECTED)
  | .weight n _ => some (.porter n, PORTER.WGT_ECC_CORRECTED)
  | .ledger n _ => some (.porter n, PORTER.LEDGER_ECC_CORRECTED)
  | .capture n _ => some (.porter n, PORTER.QUEUE_ECC_CORRECTED)
  | .hbm _ => some (.hbm, HBM.ECC_CORRECTED)
  | .spad e _ => some (bankPage (blockOf e), BANK.SPAD_ECC_CORRECTED)
  | .control k _ => some (.block k, BLOCK.UC_ECC_CORRECTED)
  | .program .. | .strongroom _ => none

/-- A scrub pass of a memory ends: counted for the banks and the HBM (R312, R314). -/
def passEnds : MemWord → Act
  | .bank k _ => wrapF (.bank k) BANK.SCRUB_PASSES
  | .hbm _ => wrapF .hbm HBM.SCRUB_PASSES
  | _ => skip

/-- The scrub of a memory reads a word, its words in ascending order (DESIGN CHOICE, log entry 118): a word before the position begins a
further pass, and the last word ends one. -/
def scrubPosition (m : MemWord) : Act := look fun s => acts [
  if wordIndex m < s.word .misc (scrubWord m) then passEnds m else skip,
  if wordIndex m + 1 = wordCount m then acts [passEnds m, setWord .misc (scrubWord m) 0] else setWord .misc (scrubWord m) (wordIndex m + 1)]

/-- SCRUB_READ: scrub reads a word. One it corrects is counted and waits for its write-back; an uncorrectable one is counted and waits for
its retest; a failed decoder quarantines the region (R21, R305, R306). -/
def actScrubRead (m : MemWord) (found : ScrubFound) : Act := look fun s =>
  if wordCount m ≤ wordIndex m then skip else
  acts [scrubPosition m,
    match found with
    | .clean => skip
    | .corrected => acts [match wordCounter m with | some (p, f) => countF p f | none => skip,
        if s.word .poison (wordMark m) = 0 then setWord .poison (wordMark m) 3 else skip]
    | .bad => if s.knownBad m then skip else acts [noteScrubUe m,
        match m with
        | .spad .. | .control .. => skip
        | m => setWord .poison (wordMark m) 2]
    | .decoder => match m with | .context n _ | .weight n _ => quarantineRegion n | _ => skip]
def execScrubRead (m : MemWord) (found : ScrubFound) (s : State) : Res := done (actScrubRead m found) s

/-- SCRUB_WRITEBACK: a word that scrub has corrected is written back; the write-back is dropped if the word has been written since, which
has ended the mark. -/
def actScrubWriteback (m : MemWord) : Act := look fun s => if s.word .poison (wordMark m) = 3 then setWord .poison (wordMark m) 0 else skip
def execScrubWriteback (m : MemWord) (s : State) : Res := done (actScrubWriteback m) s

/-- The 64-bit word at an address holds 0x0 and is poisoned. -/
def poisonWord (a : Nat) : Act := acts [fun _ => writeBytes a 0 8, setWord .poison (a / 8) 1]

/-- A word holds 0x0 and is poisoned. -/
def poisonMem (m : MemWord) : Act :=
  match m with
  | .program k w => acts [storeBytes (pmemAddr k w.toNat) 0 4, setWord .poison (wordMark m) 1]
  | .ledger .. | .capture .. => setWord .poison (wordMark m) 1
  | m => poisonWord ((wordAddr m).getD 0)

/-- A word of a region store fails its retest: a spare row takes its row, or with none left the region is quarantined; the word stays
poisoned. -/
def spareRow (n : Nat) (used : Field) (m : MemWord) : Act := look fun s =>
  acts [raiseFault (porterPage n) 2,
    if s.get (porterPage n) used < 32 then setF (porterPage n) used (s.get (porterPage n) used + 1) else quarantineRegion n,
    poisonMem m]

/-- RETEST_DONE: `clean` says whether both patterns read back, `repaired` whether the HBM had a repair resource (R306). -/
def actRetestDone (m : MemWord) (clean repaired : Bool) : Act := look fun s =>
  if s.knownBad m then skip else
  match m with
  | .bank k w =>
    if clean then acts [poisonWord (bankAddr k w.toNat), countPoison k (· + 1)]
    else acts [raiseFault (.bank k) 1, quarantineBlock k]
  | .context n _ => if clean then poisonMem m else spareRow n PORTER.SPARE_ROWS_CONTEXT m
  | .weight n _ => if clean then poisonMem m else spareRow n PORTER.SPARE_ROWS_WEIGHT m
  | .ledger n _ => if clean then poisonMem m else spareRow n PORTER.SPARE_ROWS_LEDGER m
  | .capture n _ => if clean then poisonMem m else spareRow n PORTER.SPARE_ROWS_CAPTURE m
  | .hbm _ => match wordAddr m with
    | none => skip
    | some a =>
      if clean then poisonWord a
      else acts [poisonWord a, raiseFault .hbm 1,
        if repaired then skip
        else acts [setWord .poison (pagePoison a) 1, countF .hbm HBM.POISON_PAGES, raiseFault .hbm 2]]
  | .program .. | .strongroom _ => poisonMem m
  | .spad .. | .control .. => skip
def execRetestDone (m : MemWord) (clean repaired : Bool) (s : State) : Res := done (actRetestDone m clean repaired) s

/-- WIPE_DONE: the unit's memories are open again (R309). -/
def actWipeDone (u : WipeUnit) : Act :=
  match u with
  | .hbm => setF .hbm HBM.STATUS_WIPING 0
  | .region n => setWord .misc (wipeRegion n) 0
  | .block k => setWord .misc (wipeBlock k) 0
def execWipeDone (u : WipeUnit) (s : State) : Res := done (actWipeDone u) s

/-! Faults of blocks and regions (R21, R132) -/

/-- CS_REWRITE_DONE: the control-store word has been rewritten; a second failure quarantines the block. -/
def actCsRewriteDone (e : EngineId) (secondReadFails : Bool) : Act := look fun s =>
  if !(s.micro e).csHeld then skip
  else acts [updMicro e fun r => { r with csHeld := false },
    if secondReadFails then acts [noteCsUe (blockOf e), quarantineBlock (blockOf e)] else skip]
def execCsRewriteDone (e : EngineId) (secondReadFails : Bool) (s : State) : Res := done (actCsRewriteDone e secondReadFails) s

/-- PACER_SELFCHECK_FAIL. -/
def actPacerSelfcheckFail (k : BlockId) : Act := quarantineBlock k
def execPacerSelfcheckFail (k : BlockId) (s : State) : Res := done (actPacerSelfcheckFail k) s

/-- CLOCK_LOCK_LOSS: a converter-die clock stays out of lock (R21, R42). -/
def actClockLockLoss (n : RegionId) : Act := acts [
  updTime fun x => { x with lockLost := n.val :: x.lockLost.filter (· ≠ n.val) }, setF .timebase TIMEBASE.TB_STATUS_LOCKED 0, quarantineRegion n]
def execClockLockLoss (n : RegionId) (s : State) : Res := done (actClockLockLoss n) s

/-- NETWORK_SELFCHECK_FAIL. -/
def actNetworkSelfcheckFail (n : RegionId) : Act := quarantineRegion n
def execNetworkSelfcheckFail (n : RegionId) (s : State) : Res := done (actNetworkSelfcheckFail n) s

/-! Library pages (R311) -/

/-- LIB_CTRL.LOAD: a load begins; one in progress goes on and sets RWL_WRITE, as under R130. -/
def actLibLoad (k : BlockId) : Act := look fun s =>
  let p := Page.block k
  if s.get p BLOCK.LIB_STATUS_BUSY = 1 then raiseFault p 8
  else acts [setF p BLOCK.LIB_STATUS_BUSY 1, setF p BLOCK.LIB_STATUS_DONE 0,
    updBlk k fun b => { b with libFrom := s.get p BLOCK.LIB_SRC_LO * 8 + s.get p BLOCK.LIB_SRC_HI * 2 ^ 32,
                               libDst := s.get p BLOCK.LIB_DST_PAGE, libLen := s.get p BLOCK.LIB_DST_LEN }]
def execLibLoad (k : BlockId) (s : State) : Res := done (actLibLoad k) s

/-- An engine of the block executes from a library page or has it on its call stack. -/
def State.libInUse (s : State) (k page : Nat) : Bool :=
  (enginesOfBlock k).any fun e => !s.engStopped e && (s.page e = some page || (s.eng e).stack.any fun r => r.page = some page)

/-- LIB_LOAD_DONE: the image is checked against its page; an accepted one is written and measured into M4. -/
def actLibLoadDone (k : BlockId) : Act := look fun s =>
  let p := Page.block k
  let b := s.blk k
  if s.get p BLOCK.LIB_STATUS_BUSY = 0 then skip else
  let bytes := s.byteList b.libFrom (8 * b.libLen)
  let r : Option (Nat × Nat) :=
    if s.libInUse k b.libDst then some (10, 0)
    else if b.libLen = 0 || b.libLen > 4096 then some (8, 0)
    else if !hbmRange b.libFrom (8 * b.libLen) then some (3, 0)
    else s.loadFailure (16 * k) b.libLen true fun i => BitVec.ofNat 64 (s.bytes (b.libFrom + 8 * i) 8)
  acts [loadResult p BLOCK.LIB_STATUS_BUSY BLOCK.LIB_STATUS_DONE BLOCK.LIB_STATUS_OK BLOCK.LIB_STATUS_REASON
      BLOCK.LIB_STATUS_INDEX r,
    if r.isSome then skip
    else acts [writeRange none (bankAddr k (4096 * b.libDst)) bytes, extendMeasure 4 bytes (Config.measureContext [k.val, b.libDst])]]
def execLibLoadDone (k : BlockId) (s : State) : Res := done (actLibLoadDone k) s

end Sys2Proof.Machine
end

