-- ==== Sys2Proof/Machine/Ledger.lean ====
section
/-! DEFINITION. The shot ledger and self-tending: group entries (R315, R355), the MARK_ATTEMPT output (R330), the ledger rings
(R339), the spare cells (R26, R27, R340 to R344) and the watch (R345 to R353, R357). -/

namespace Sys2Proof.Machine

/-! Group entries (R315, R317, R355, R358) -/

/-- The writable bits of word `w` of a group entry. -/
def grpMask (w : Nat) : Nat :=
  match w with
  | 0 => 0x1F7FF1
  | 1 | 4 => 0xFFFF
  | 2 => 0xFFFFFF
  | _ => if w = 3 || w = 5 || w = 6 || (16 ≤ w && w ≤ 47) then 0xFFFF_FFFF else 0

/-- The engines word `w` of an entry names when it holds `v`. -/
def engineBits (w v : Nat) : List Nat := ((upTo 32).filter fun i => Nat.testBit v i).map (32 * (w - 16) + ·)

/-- The engines of a MEMBERS word before and after a write, and the members in the other words. -/
def State.membersAfter (s : State) (g w v : Nat) : List Nat :=
  (upTo 32).flatMap fun i => engineBits (16 + i) (if 16 + i = w then v else s.grpWord g (16 + i))

/-- An engine is a member of an enabled entry other than `g`. -/
def State.memberElsewhere (s : State) (g e : Nat) : Bool :=
  (upTo 256).any fun h => h ≠ g && s.grpEnabled h && Nat.testBit (s.grpWord h (16 + e / 32)) (e % 32)

/-- A write to a word of a group entry: refused while a member runs, as a clash, or as a bad configuration (R315, R355). -/
def grpWrite (g w v : Nat) : Act := look fun s =>
  let new := v &&& grpMask w
  let w0 := if w = 0 then new else s.grpWord g 0
  let after := s.membersAfter g w new
  let enables := w0 % 2 = 1
  if grpMask w = 0 then skip
  else if !((s.members g ++ after).all s.engStopped) then raiseFault .ledger 1
  else if enables && after.any (s.memberElsewhere g) then raiseFault .ledger 0
  else if w = 0 && enables && (!(after.all fun e => s.guestOf e = bitsOf new 14 8) || s.grpWord g 1 % 2 ^ 16 = 0xFFFF) then
    raiseFault .ledger 1
  else acts [if w = 0 && enables && !s.grpEnabled g then updGroup g fun _ => .init else skip,
    setWord .groups (64 * g + w) new, showGroup g]

/-- A function reaches a group entry: the physical function every one, a guest those whose GUEST names it (R358). -/
def State.reachesGroup (s : State) (fn : FuncId) (g : Nat) : Bool :=
  fn.val = 0 || (s.guestReady fn.val && bitsOf (s.grpWord g 0) 14 8 = fn.val)

/-- An access to GRP_DATA: a read, or a write of a word (R355, R358). -/
def actGrpData (fn : FuncId) (w : Option Word) : Act := look fun s =>
  let g := s.get .ledger LEDGER.GRP_SEL_GROUP
  let i := s.get .ledger LEDGER.GRP_SEL_WORD
  let ok := s.reachesGroup fn g
  acts [match w with
    | none => setRdata (if ok && i < 48 then s.grpWord g i else 0)
    | some v =>
      if !ok || 48 ≤ i then skip
      else if fn.val ≠ 0 && 16 ≤ i && (engineBits i v.toNat).any fun e => s.guestOf e ≠ fn.val then skip
      else grpWrite g i v.toNat,
    if ok && s.get .ledger LEDGER.GRP_SEL_AUTOINC = 1 then setF .ledger LEDGER.GRP_SEL_WORD (nextWord i 47 6) else skip]
def execGrpData (fn : FuncId) (w : Option Word) (s : State) : Res := done (actGrpData fn w) s

/-! The MARK_ATTEMPT output (R330, R354) -/

/-- Some cell owns marker `m`. -/
def State.markOwned (s : State) (m : Nat) : Bool := (upTo 1024).any fun e => Nat.testBit (s.get (cellPage e) CELL.MARK_ROUTE_OWN) m

/-- MARK_ATT_WRITE: an enable of a marker that a cell owns is ignored and sets MARK_CLASH. -/
def actMarkAttWrite (fn : FuncId) (v : Word) : Act := look fun s =>
  if fn.val ≠ 0 then skip
  else if bitOf v.toNat 0 = 1 && s.markOwned (bitsOf v.toNat 7 4) then raiseFault .ledger 2
  else acts [setF .ledger LEDGER.MARK_ATT_EN (bitOf v.toNat 0), setF .ledger LEDGER.MARK_ATT_MARKER (bitsOf v.toNat 7 4),
    setF .ledger LEDGER.MARK_ATT_GROUP (bitsOf v.toNat 15 8)]
def execMarkAttWrite (fn : FuncId) (v : Word) (s : State) : Res := done (actMarkAttWrite fn v) s

/-! Ledger rings (R338, R339) -/

/-- The registers of an owner's ledger ring: the physical function's in the LEDGER page, a guest's in its SESSION page. -/
def ledgerRing (owner : Nat) : RingRegs :=
  if owner = 0 then
    { page := .ledger, lo := LEDGER.LRING_BASE_LO, hi := LEDGER.LRING_BASE_HI, units := LEDGER.LRING_SIZE_UNITS,
      wr := LEDGER.LRING_WR_OFFSET, rd := LEDGER.LRING_RD_OFFSET, en := LEDGER.LRING_CTRL_EN,
      irq := LEDGER.LRING_CTRL_IRQ_LEVEL, wait := LEDGER.LRING_STATUS_WAIT, fn := 0, vector := 3 }
  else
    { page := .session (Fin.ofNat 64 (owner - 1)), lo := SESSION.LRING_BASE_LO, hi := SESSION.LRING_BASE_HI,
      units := SESSION.LRING_SIZE_UNITS, wr := SESSION.LRING_WR_OFFSET, rd := SESSION.LRING_RD_OFFSET,
      en := SESSION.LRING_CTRL_EN, irq := SESSION.LRING_CTRL_IRQ_LEVEL, wait := SESSION.LRING_STATUS_WAIT,
      fn := owner, vector := 1 }

/-- The word that counts the records written to an owner's ledger ring. -/
def seqWord (owner : Nat) : Nat := 0x400 + owner

/-- The bytes of a record as the ring's writer writes them: SEQ filled in, an uncorrectable unit zeroed and LEDGER_UE set
(R336, R339). -/
def ringBytes (bytes : List Byte) (seq : Nat) (ue : Option (Fin 514)) : List Byte :=
  let filled := bytes.take 0x28 ++ leBytes seq 4 ++ bytes.drop 0x2C
  match ue with
  | none => filled
  | some u =>
    let z := zeroUnit u filled
    z.set 0xE (z.getD 0xE 0 ||| 0x40)

/-- Remove the first waiting record of an owner. -/
def dropRecord (owner : Nat) : List LedRecord → List LedRecord
  | [] => []
  | r :: rs => if r.guest = owner then rs else r :: dropRecord owner rs

/-- The last 64 tags of an owner's ring, and every other owner's, after one more (R418). -/
def noteTag (owner tag : Nat) (l : List (Nat × Nat)) : List (Nat × Nat) :=
  let mine := (l ++ [(owner, tag)]).filter (·.1 = owner)
  (l.filter (·.1 ≠ owner)) ++ mine.drop (mine.length - 64)

/-- A tag record meets the waiting fences of its owner that name its tag (R418). -/
def noteFences (owner tag : Nat) : Act := updFence owner fun x => { x with
  open' := x.open'.map fun f => { f with reqs := f.reqs.map fun r => { r with met := r.met || r.tag = tag } } }

/-- LEDGER_RECORD_WRITE: an owner's oldest waiting record goes to its ledger ring, or waits. A unit of it that reads as
uncorrectable is written as zeros with LEDGER_UE, and the word of the buffer that did is named in UE_ADDR (R313, R339). -/
def actLedgerRecordWrite (owner : FuncId) (ue : Option (Fin 514 × BitVec 19)) : Act := look fun s =>
  let ring := ledgerRing owner
  match s.led.waiting.find? fun r => r.guest = owner.val with
  | none => skip
  | some r =>
    if !s.ringTakes ring r.bytes.length then setF ring.page ring.wait 1
    else acts [ringPut ring (ringBytes r.bytes (s.word .misc (seqWord owner)) (ue.map (·.1))),
      setWord .misc (seqWord owner) (s.word .misc (seqWord owner) + 1),
      match ue with
      | some u => acts [countF (porterPage r.region) PORTER.LEDGER_ECC_UNCORRECTED,
          setF (porterPage r.region) PORTER.UE_ADDR_STORE 2, setF (porterPage r.region) PORTER.UE_ADDR_OFFSET (8 * u.2.toNat),
          raiseFault (porterPage r.region) 1]
      | none => skip,
      updLed fun l => { waiting := dropRecord owner l.waiting,
                        tags := match r.tag with | some t => noteTag owner t l.tags | none => l.tags },
      match r.tag with | some t => noteFences owner t | none => skip,
      look fun s => match s.led.waiting.find? fun r => r.guest = owner.val with
        | some next => setB ring.page ring.wait (!s.ringTakes ring next.bytes.length)
        | none => setF ring.page ring.wait 0]
def execLedgerRecordWrite (owner : FuncId) (ue : Option (Fin 514 × BitVec 19)) (s : State) : Res := done (actLedgerRecordWrite owner ue) s

/-! Spare cells (R26, R27, R192, R342, R343) -/

/-- The next cell, in ascending order after `c` and wrapping after 15, that has a shot open. -/
def State.nextShadow (s : State) (k c : Nat) : Option Nat :=
  ((upTo 16).map fun i => (c + 1 + i) % 16).find? fun i => s.inShot (16 * k + i)

/-- SHADOW_COPY_DONE: the spare's scratchpad holds a copy of the cell it is to shadow; from here the block mirrors. That is the cell the spare
stands at, if it has a shot open, else the next one that has (R342). -/
def actShadowCopyDone (k : BlockId) : Act := look fun s =>
  let b := s.blk k
  if b.spareUsed || b.copied || b.takeover.isSome then skip
  else
    let c := (s.nextShadow k (b.shadow + 15)).getD b.shadow
    acts [copyCells (spadAddr (16 * k.val + c) 0) (spareAddr k 0) 0x10000, updBlk k fun r => { r with copied := true, shadow := c }]
def execShadowCopyDone (k : BlockId) (s : State) : Res := done (actShadowCopyDone k) s

/-- SPARE_ROTATE: after 2^20 settled shots under shadow the spare moves on. -/
def actSpareRotate (k : BlockId) : Act := look fun s =>
  let b := s.blk k
  if b.spareUsed || !b.running || b.shadowShots < 2 ^ 20 then skip else
  match s.nextShadow k b.shadow with
  | none => skip
  | some c => updBlk k fun r => { r with shadow := c, shadowShots := 0, copied := false, running := false }
def execSpareRotate (k : BlockId) (s : State) : Res := done (actSpareRotate k) s

/-- The engine resumes on the spare: it waits for the new start of its voided shot, or goes on where it stood. -/
def resumeOnSpare (e : Nat) : Act := look fun s =>
  if !s.engIs e .faulted then skip
  else acts [setF (cellPage e) CELL.SO_STATUS_LEVEL 0, updEng e fun r => { r with micro := { r.micro with inFaultTrap := false } },
    setEng e .running, showState e, dispatchHere e]

/-- TAKEOVER_DONE: at a shot boundary the crossbar maps the spare to the cell's page and number. Its program comes from the
loader's copy, its locals from the cell; `locals` are the 64-bit words of them that cannot be read, `ckptBad` whether a word of
the checkpoint area cannot (R27, R343). -/
def actTakeoverDone (e : EngineId) (locals : List (BitVec 12)) (ckptBad : Bool) : Act := look fun s =>
  let k := blockOf e
  let g := s.groupOf e
  let r := s.group g
  if (s.blk k).takeover ≠ some (cellOf e) || (s.inShot e && r.open' && !r.voidedNow) then skip else
  acts [copyCells (keptProgAddr e 0) (spadAddr e 0) 0x8000,
    fun _ => clearPoison (spadAddr e 0) 0x8000,
    forEach locals fun w => poisonWord (spadAddr e (0x8000 + 8 * w.toNat)),
    updBlk k fun b => { b with spareUsed := true, takeover := none, copied := false, running := false }, updEng (1024 + k) fun _ => .init,
    setF (.cell e) ALL.PAGE_STATE_SPARED 1, countF .ledger LEDGER.TAKEOVERS_COUNT, unmuteTones e,
    if ckptBad then strikeGroup g [.stopped] 17 else skip,
    look fun s => if s.engIs e .faulted && ckptBad then haltCell e .stopped else resumeOnSpare e,
    tellReady g]
def execTakeoverDone (e : EngineId) (locals : List (BitVec 12)) (ckptBad : Bool) (s : State) : Res :=
  done (actTakeoverDone e locals ckptBad) s

/-! The watch (R345 to R353) -/

/-- The confidence of a proposal whose standard error is `sigma` / 256 field units, under a step limit (R349); `open'` where the
limit is 0. -/
def confidence (sigma limit open' : Nat) : Nat :=
  if limit = 0 then open' % 256
  else (max 0 (min 255 ((255 * (256 * (limit : Int) - sigma)) / (256 * (limit : Int))))).toNat

/-- A change held within a limit. -/
def clipTo (limit : Nat) (d : Int) : Int := max (-(limit : Int)) (min limit d)

/-- The change from one angle of 1/1,024 turn to another, the shorter way round. -/
def angleStep (old new : Nat) : Int := toSigned 10 ((new + 1024 - old % 1024) % 1024)

/-- A proposed DISC with its steps clipped, and how many were (R214, R349). -/
def clipDisc (old new cStep thStep : Nat) : Nat × Nat :=
  (upTo 3).foldl (fun (v, n) k =>
    let th := angleStep (bitsOf old (32 * k + 9) (32 * k)) (bitsOf new (32 * k + 9) (32 * k))
    let oc := toSigned 16 (bitsOf old (32 * k + 25) (32 * k + 10))
    let c := toSigned 16 (bitsOf new (32 * k + 25) (32 * k + 10)) - oc
    let th' := clipTo thStep th
    let c' := clipTo cStep c
    (v + (ofSigned 10 (bitsOf old (32 * k + 9) (32 * k) + th') + ofSigned 16 (oc + c') * 2 ^ 10
        + bitsOf new (32 * k + 31) (32 * k + 26) * 2 ^ 26) * 2 ^ (32 * k),
      n + b2n (th' ≠ th) + b2n (c' ≠ c))) (0, 0)

/-- Count n in a saturating counter. -/
def countN (p : Page) (f : Field) (n : Nat) : Act := forEach (upTo n) fun _ => countF p f

/-- A pending update is stored: a newer one replaces that of its context, and a full store drops it (R350). An engine that is
STOPPED takes it at once (R351). -/
def holdUpdate (u : Update) : Act := look fun s =>
  let others := s.tend.pending.filter fun x => x.region ≠ u.region || x.index ≠ u.index
  if others.length = s.tend.pending.length && 4096 ≤ others.length then countF .watch WATCH.DROPPED_COUNT
  else acts [updTend fun w => { w with pending := others ++ [u] }, setF .watch WATCH.PENDING_COUNT (others.length + 1),
    if s.engIs u.engine .stopped then applyUpdates false (· = u.engine) else skip]

/-- The tending entry of engine e names context i for this quantity, and the watch tends it (R345, R346, R357). -/
def State.tends (s : State) (e i : Nat) (m : WatchValue) : Bool :=
  let w0 := s.tendWord e 0
  let w1 := s.tendWord e 1
  match m with
  | .freq .. => s.get .watch WATCH.WCTRL_TRACK_FREQ = 1 && bitOf w0 0 = 1
      && bitsOf w1 16 0 ≤ i && i < bitsOf w1 16 0 + bitsOf w1 27 20
  | .disc .. => s.get .watch WATCH.WCTRL_TRACK_DISC = 1 && bitOf w0 1 = 1 && i = bitsOf (s.tendWord e 2) 16 0

/-- The IQ points of an engine's tone are used up by a fit (R291). -/
def usePoints (e : Nat) : Act := look fun s =>
  match s.readTone e with
  | some u => updTend fun w => { w with points := w.points.filter fun p => p.tone ≠ u }
  | none => skip

/-- WATCH_PROPOSAL: a measurement of a context of engine e's entry yields a proposal that carries the VERSION it read (R346,
R349, R350). It is formed on a lent processor of the engine's region (R291), while the watch is not paused (R80). -/
def actWatchProposal (e : EngineId) (i : BitVec 17) (version : BitVec 16) (m : WatchValue) : Act := look fun s =>
  let n := regionOf e
  let c := s.context n i.toNat
  let min' := s.get .watch WATCH.CONF_MIN_CONF
  let free := (Config.freeValue s.free).toNat
  if !s.watchWorks n || !s.tends e i.toNat m || Ctx.wlock c then skip
  else if !s.routeOk e c then countF .watch WATCH.SKIPPED_COUNT
  else match m with
  | .freq df sigma =>
    let limit := s.get .watch WATCH.DF_STEP_STEP * 2 ^ 24
    let d := toSigned 48 (df - Ctx.df c).toNat
    let d' := clipTo limit d
    acts [drawFree,
      if confidence sigma limit free < min' then countF .watch WATCH.REJ_CONF_COUNT
      else acts [countN .watch WATCH.CLIPPED_COUNT (b2n (d ≠ d')),
        holdUpdate { region := n, index := i.toNat, engine := e, version := version.toNat,
                     df := some (ofSigned 48 (toSigned 48 (Ctx.df c).toNat + d')), disc := none }]]
  | .disc bounds sigmaC sigmaTheta =>
    let cStep := s.get .watch WATCH.DISC_STEP_C
    let thStep := s.get .watch WATCH.DISC_STEP_THETA
    let (v, clipped) := clipDisc (Ctx.disc c) bounds.toNat cStep thStep
    acts [drawFree, usePoints e,
      if min (confidence sigmaC cStep free) (confidence sigmaTheta thStep free) < min' then countF .watch WATCH.REJ_CONF_COUNT
      else acts [countN .watch WATCH.CLIPPED_COUNT clipped,
        holdUpdate { region := n, index := i.toNat, engine := e, version := version.toNat, df := none, disc := some v }]]
def execWatchProposal (e : EngineId) (i : BitVec 17) (version : BitVec 16) (m : WatchValue) (s : State) : Res :=
  done (actWatchProposal e i version m) s

/-- WATCH_BUDGET_INTERVAL: at a multiple of 2^34 every engine's open-shot time becomes that of the previous interval, and its
grant time starts from 0 (R348). -/
def actWatchBudgetInterval : Act := look fun s =>
  let t := BitVec.ofNat 64 ((s.tend.interval + 1) * 2 ^ 34)
  acts [passTo t, updTend fun w => { w with interval := s.tend.interval + 1 },
    look fun s => forEach s.engines fun e =>
      updEng e fun r => { r with
        openTimeLast := r.openTime + (if s.inShot e then (s.st - r.shotOpenedAt).toNat else 0),
        openTime := 0, shotOpenedAt := if s.inShot e then s.st else r.shotOpenedAt, grantUsed := 0 }]
def execWatchBudgetInterval (s : State) : Res := done actWatchBudgetInterval s

/-- WATCH_IDLE_START: idle tending begins on an engine that is STOPPED, with IDLE_EN = 1 and its page enabled, while the watch is not
paused (R80, R347); the watch enqueues its sequence. -/
def actWatchIdleStart (e : EngineId) (seq : List WatchStep) : Act := look fun s =>
  if s.engIs e .stopped && s.get .watch WATCH.WCTRL_IDLE_EN = 1 && s.pageIs (.cell e) .ready && !s.shed then
    acts [updEng e fun r => { r with tending := true }, watchEnqueue e s.st (s.st + 2 ^ 62) seq] else skip
def execWatchIdleStart (e : EngineId) (seq : List WatchStep) (s : State) : Res := done (actWatchIdleStart e seq) s

/-- The tones of an output. -/
def tonesOf (o : OutputId) : List Nat :=
  match o with | .drive _ => (upTo 8).map (outputTone o) | .probe _ => (upTo 32).map (outputTone o) | .flux _ => []

/-- No tone of an output plays. -/
def State.outputIdle (s : State) (o : OutputId) : Bool :=
  ((tonesOf o).all fun k => (s.tone k).pulse.isNone && (s.tone k).stream.isNone) && (s.output (outputNo o)).pulse.isNone

/-- The region of an output. -/
def outputRegion : OutputId → Nat
  | .drive d => d.val / 16 | .probe t => t.val / 4 | .flux f => f.val / 16

/-- DAC_TRIM_APPLY: an internal trim, formed on a lent processor of the output's region (R291), is applied at a word in which no tone of the
output plays, and never in HOLD (R353). -/
def actDacTrimApply (o : OutputId) (trim : Word) : Act := look fun s =>
  if s.watchWorks (outputRegion o) && s.get .watch WATCH.WCTRL_TRACK_TRIM = 1 && s.outputIdle o && s.cond o ≠ Cond.hold.code then
    updOutput (outputNo o) fun r => { r with trim := trim } else skip
def execDacTrimApply (o : OutputId) (trim : Word) (s : State) : Res := done (actDacTrimApply o trim) s

/-- The writable bits of a tending word (R357). -/
def tendMask (w : Nat) : Nat :=
  match w with | 0 => 3 | 1 => 0x0FF1_FFFF | 2 => 0x0001_FFFF | _ => 0x00F1_FFFF

/-- An access to TEND_DATA: a read, or a write of a word; a guest reaches the entries of engines it leases (R356 to R358). -/
def actTendData (fn : FuncId) (w : Option Word) : Act := look fun s =>
  let e := s.get .watch WATCH.TEND_SEL_ENTRY
  let i := s.get .watch WATCH.TEND_SEL_WORD
  let ok := fn.val = 0 || (s.guestReady fn.val && s.guestOf e = fn.val)
  acts [match w with
    | none => setRdata (if ok then s.tendWord e i else 0)
    | some v => if ok then setWord .tending (4 * e + i) (v.toNat &&& tendMask i) else skip,
    if ok && s.get .watch WATCH.TEND_SEL_AUTOINC = 1 then
      acts [setF .watch WATCH.TEND_SEL_WORD (i + 1), if i = 3 then setF .watch WATCH.TEND_SEL_ENTRY (e + 1) else skip] else skip]
def execTendData (fn : FuncId) (w : Option Word) (s : State) : Res := done (actTendData fn w) s

end Sys2Proof.Machine
end

