-- ==== Sys2Proof/Machine/Timebase.lean ====
section
/-! DEFINITION. The timebase's own commands (R47, R49, R50, R52, R53, R83). -/

namespace Sys2Proof.Machine

/-- Only the physical function reaches a page's register (R402, R516). -/
def forPf (fn : FuncId) (a : Act) : Act := if fn.val = 0 then a else skip

/-- Every RF and flux output is INERT or MUTED (R53). -/
def State.outputsQuiet (s : State) : Bool := allOutputs.all fun o => s.cond o = Cond.inert.code || s.cond o = Cond.muted.code

/-- CLK_TRIM_WRITE: accepted while no engine runs and every RF and flux output is INERT or MUTED. -/
def actClkTrimWrite (fn : FuncId) (v : Byte) : Act := forPf fn (look fun s =>
  if s.anyRunning || !s.outputsQuiet then raiseFault .timebase 4
  else acts [setF .timebase TIMEBASE.CLK_TRIM_TRIM v.toNat, setF .timebase TIMEBASE.TB_STATUS_TRIM_BUSY 1])
def execClkTrimWrite (fn : FuncId) (v : Byte) (s : State) : Res := done (actClkTrimWrite fn v) s

/-- TRIM_SETTLED: the clocks have settled. -/
def actTrimSettled : Act := setF .timebase TIMEBASE.TB_STATUS_TRIM_BUSY 0
def execTrimSettled (s : State) : Res := done actTrimSettled s

/-- ST_LO_READ: returns the low word of ST and latches the high word into ST_HI (R47). -/
def actStLoRead (fn : FuncId) : Act := look fun s =>
  if fn.val ≠ 0 then setRdata 0
  else acts [setRdata (s.st.toNat % 2 ^ 32), setPair .timebase TIMEBASE.ST_LO TIMEBASE.ST_HI s.st.toNat]
def execStLoRead (fn : FuncId) (s : State) : Res := done (actStLoRead fn) s

/-- SYNC_CAPT_HI_READ: returns the register and clears SYNC_SEEN (R516). -/
def actSyncCaptHiRead (fn : FuncId) : Act := look fun s =>
  if fn.val ≠ 0 then setRdata 0
  else acts [setRdata (s.get .timebase TIMEBASE.SYNC_CAPT_HI), setF .timebase TIMEBASE.TB_STATUS_SYNC_SEEN 0]
def execSyncCaptHiRead (fn : FuncId) (s : State) : Res := done (actSyncCaptHiRead fn) s

/-- SYNC_ARM: arms a LOAD; while any engine runs the write is ignored and sets SYNC_BUSY (R50). -/
def actSyncArm (fn : FuncId) : Act := forPf fn (look fun s =>
  if s.anyRunning then raiseFault .timebase 0 else setF .timebase TIMEBASE.TB_CTRL_SYNC_ARM 1)
def execSyncArm (fn : FuncId) (s : State) : Res := done (actSyncArm fn) s

/-- The period SYNC pulses recur at: 1 s, the longest R52 allows, until two pulses have shown it (DESIGN CHOICE, log entry 90). -/
def State.syncPeriod (s : State) : Nat := if s.time.syncPeriod = 0 then 20000000000 else s.time.syncPeriod

/-- SYNC_LOST: in CAPTURE, two periods without a pulse set SYNC_LOST (R52). -/
def actSyncLost : Act := look fun s =>
  if s.get .timebase TIMEBASE.TB_CTRL_SYNC_MODE ≠ 2 || !s.time.counting || s.time.syncGone then skip
  else acts [passTo (s.time.syncFrom + BitVec.ofNat 64 (2 * s.syncPeriod)), updTime fun x => { x with syncGone := true }, raiseFault .timebase 1]
def execSyncLost (s : State) : Res := done actSyncLost s

/-- ST at the REFCLK edge at or after now (R42, R43). -/
def State.edgeTime (s : State) : Stamp := if s.time.fine = 0 then s.st else s.time.coarse + 200

/-- The counter is set at a REFCLK edge, and ST is aligned (R43, R44, R49, R51). -/
def setSt (t : Stamp) : Act := acts [updTime fun x => { x with coarse := t, fine := 0, counting := true },
  look fun s => setB .timebase TIMEBASE.TB_STATUS_ST_VALID
    (s.get .timebase TIMEBASE.TB_STATUS_ST_VALID = 1 || s.get .timebase TIMEBASE.TB_STATUS_LOCKED = 1)]

/-- A LOAD at a pulse (R49, R50). -/
def syncLoad : Act := look fun s =>
  if s.get .timebase TIMEBASE.TB_CTRL_SYNC_ARM = 1 && !s.anyRunning then
    acts [setSt (BitVec.ofNat 64 (s.pair .timebase TIMEBASE.SYNC_LOAD_LO TIMEBASE.SYNC_LOAD_HI)),
      setF .timebase TIMEBASE.TB_CTRL_SYNC_ARM 0]
  else skip

/-- TB_STATUS.LOCKED shows whether all eight converter clocks are locked (R83, R516). -/
def showLocked : Act := look fun s => setB .timebase TIMEBASE.TB_STATUS_LOCKED (!s.time.clocksOff && s.time.lockLost.isEmpty)

/-- The converter clocks lock, or unlock together. -/
def setClocks (on : Bool) : Act := acts [updTime fun x => { x with clocksOff := !on }, showLocked]

/-- A SYNC pulse in CAPTURE is the next one of its period (R52). -/
def notePulse : Act := look fun s => updTime fun x =>
  { x with syncPeriod := if x.syncGone || !x.pulsed then 0 else (s.st - x.syncFrom).toNat, syncFrom := s.st, pulsed := true, syncGone := false }

/-- CAPTURE is chosen: the watch of R52 begins anew. -/
def watchPulses : Act := look fun s =>
  updTime fun x => { x with syncFrom := s.st, pulsed := false, syncPeriod := 0, syncGone := false }

/-- A capture at a pulse (R49). -/
def syncCapture : Act := acts [look fun s => passTo s.edgeTime, notePulse,
  look fun s => setPair .timebase TIMEBASE.SYNC_CAPT_LO TIMEBASE.SYNC_CAPT_HI s.st.toNat,
  setF .timebase TIMEBASE.TB_STATUS_SYNC_SEEN 1]

end Sys2Proof.Machine
end

