-- ==== Sys2Proof/Machine/Fabric.lean ====
section
/-! DEFINITION. The Nerdar fabric: lanes and link layer (R366 to R374, R382 to R386), frames (R378 to R381), delivery (R384 to
R392), membership and routes (R393 to R398), and SYNC across devices (R49, R51, R52). -/

namespace Sys2Proof.Machine

/-! Frames as bytes (R378 to R381) -/

/-- TYPE of a frame (R380). -/
def FrameKind.code : FrameKind → Nat
  | .ack => 0x01 | .nak => 0x02 | .laneMap => 0x03 | .hello => 0x04 | .stub => 0x05
  | .msg => 0x10 | .start => 0x11 | .trig => 0x12 | .dec => 0x13
  | .void => 0x20 | .ready => 0x21 | .rstart => 0x22 | .settle => 0x23 | .openShot => 0x24
  | .joinReq => 0x30 | .admission => 0x31 | .routes => 0x32 | .present => 0x33 | .lost => 0x34 | .leave => 0x35
  | .syncCapt => 0x36 | .expiry => 0x37 | .member => 0x38

/-- Link frames travel one hop and are not sequenced (R380). -/
def FrameKind.isLink : FrameKind → Bool
  | .ack | .nak | .laneMap | .hello => true
  | _ => false

/-- Ledger and fabric frames go before other frames without a deadline (R386). -/
def FrameKind.isControl (k : FrameKind) : Bool := 0x20 ≤ k.code

/-- The payload of a frame from its fields (R380, R381). -/
def Frame.payload (f : Frame) : List Byte :=
  let w (i : Nat) : Nat := f.words.getD i 0
  match f.kind with
  | .ack | .nak | .stub | .present | .leave => []
  | .laneMap => leBytes (w 0) 4
  | .hello => leBytes (w 0) 8 ++ leBytes (w 1) 8 ++ leBytes (w 2) 1 ++ leBytes (w 3) 1 ++ leBytes 0 2
  | .msg => leBytes (w 0) 2 ++ leBytes (w 1) 2 ++ leBytes (w 2) 6 ++ leBytes (w 3) 2 ++ leBytes (w 4) 4
  | .start => leBytes (w 0) 4
  | .trig => leBytes (w 0) 4 ++ leBytes (w 1) 8
  | .dec => leBytes (w 0) 2 ++ leBytes (w 1) 2 ++ leBytes f.group 4 ++ leBytes (w 2) 8
  | .void | .ready | .rstart | .settle | .openShot =>
    leBytes f.group 2 ++ leBytes (w 0 % 16) 2 ++ leBytes (w 1) 6 ++ leBytes 0 2 ++ leBytes (w 2) 4 ++ leBytes (w 3) 8
  | .joinReq | .syncCapt => leBytes (w 0) 8
  | .admission => leBytes (w 0) 8 ++ leBytes (w 1) 8 ++ leBytes (w 2) 8
  | .routes => f.words.map fun b => BitVec.ofNat 8 b
  | .lost => leBytes (w 0) 1
  | .expiry => leBytes (w 0) 1 ++ leBytes (w 1) 2 ++ leBytes 0 5
  | .member => leBytes (w 0) 1 ++ leBytes (w 1) 8

/-- One bit of the reflected CRC-32C. -/
def crcBits : Nat → Nat → Nat
  | 0, c => c
  | n + 1, c => crcBits n (if c % 2 = 1 then Nat.xor (c / 2) 0x82F6_3B78 else c / 2)

/-- CRC-32C of a byte list (R379). -/
def crc32c (l : List Byte) : Nat := Nat.xor (l.foldl (fun c b => crcBits 8 (Nat.xor c b.toNat)) 0xFFFF_FFFF) 0xFFFF_FFFF

/-- Header, payload and CRC of a frame sent with a SEQ (R378). -/
def Frame.bytes (f : Frame) (seq : Nat) : List Byte :=
  let body := f.payload
  let tail := match f.deadline with | some d => d.toNat | none => f.origin.getD 0
  let head := leBytes f.kind.code 1 ++ leBytes (seq % 4096 + b2n f.deadline.isSome * 4096) 2 ++ leBytes (f.src % 64) 1
    ++ leBytes (f.dest % 64) 1 ++ leBytes body.length 1 ++ leBytes tail 6
  head ++ body ++ leBytes (crc32c (head ++ body)) 4

/-- The deadline a header's 48 bits name: the value within 2^47 ST of the receiver's ST (R378). -/
def fullDeadline (now : Stamp) (w : BitVec 48) : Stamp := now + (w - now.truncate 48).signExtend 64

/-! Lanes and port state (R366, R374, R377) -/

/-- Receive and transmit states of a lane (R366, R401). -/
inductive RxLane where
  | off | train | live | retrain | sleep
deriving DecidableEq, Repr

inductive TxLane where
  | idle | train | live | sleep
deriving DecidableEq, Repr

def RxLane.code : RxLane → Nat
  | .off => 0 | .train => 1 | .live => 2 | .retrain => 3 | .sleep => 4

def TxLane.code : TxLane → Nat
  | .idle => 0 | .train => 1 | .live => 2 | .sleep => 3

def rxField (l : Nat) : Field :=
  match l % 4 with
  | 0 => PORT.LANE_STATE_RX0 | 1 => PORT.LANE_STATE_RX1 | 2 => PORT.LANE_STATE_RX2 | _ => PORT.LANE_STATE_RX3

def txField (l : Nat) : Field :=
  match l % 4 with
  | 0 => PORT.LANE_STATE_TX0 | 1 => PORT.LANE_STATE_TX1 | 2 => PORT.LANE_STATE_TX2 | _ => PORT.LANE_STATE_TX3

def State.laneRxIs (s : State) (p l : Nat) (x : RxLane) : Bool := s.get (portPage p) (rxField l) = x.code
def State.laneTxIs (s : State) (p l : Nat) (x : TxLane) : Bool := s.get (portPage p) (txField l) = x.code
def setLaneRx (p l : Nat) (x : RxLane) : Act := setF (portPage p) (rxField l) x.code
def setLaneTx (p l : Nat) (x : TxLane) : Act := setF (portPage p) (txField l) x.code

def lanes : List Nat := [0, 1, 2, 3]
def State.rxWidth (s : State) (p : Nat) : Nat := (lanes.filter fun l => s.laneRxIs p l .live).length
def State.txWidth (s : State) (p : Nat) : Nat := (lanes.filter fun l => s.laneTxIs p l .live).length

/-- MIN_WIDTH of a port: 2 to 4, other values taken as 2 (R401). -/
def State.minWidth (s : State) (p : Nat) : Nat :=
  let v := s.get (portPage p) PORT.SLEEP_CTRL_MIN_WIDTH
  if 2 ≤ v && v ≤ 4 then v else 2

/-- A port is UP and its link layer does not pause (R366, R399). -/
def State.linkRuns (s : State) (p : Nat) : Bool := s.get (portPage p) PORT.PSTATUS_STATE = 2 && !s.time.frozen

/-- The number of the present marker period (R361). -/
def State.markerPeriod (s : State) : Nat := s.st.toNat / 12800

/-- The first ST at or after now at which markers go out (R361). -/
def State.markerTime (s : State) : Stamp := BitVec.ofNat 64 (roundUp 12800 s.st.toNat)

/-- The device's serial number (R468). -/
def State.serial (s : State) : Nat := s.fuseSerial

/-- The serial of a device of the fabric as MEMBER frames told it. -/
def State.serialOf (s : State) (id : Nat) : Option Nat :=
  if id = s.fabricId then some s.serial else (s.fab.serials.find? fun x => x.1 = id).map (·.2)

def State.fabState (s : State) : Nat := s.get .fabric FABRIC.FSTATUS_STATE
/-- The device is chair; an ALONE device is its own chair (R395). -/
def State.isChair (s : State) : Bool := s.get .fabric FABRIC.FSTATUS_CHAIR = 1 || s.fabState = 0
def State.chairId (s : State) : Nat := s.get .fabric FABRIC.CHAIR_ID_ID
def State.presentMask (s : State) : Nat := s.pair .fabric FABRIC.PRESENT_LO FABRIC.PRESENT_HI
def State.isPresent (s : State) (id : Nat) : Bool := Nat.testBit s.presentMask id
/-- The present devices besides this one. -/
def State.peers (s : State) : List Nat := (upTo 64).filter fun i => s.isPresent i && i ≠ s.fabricId

/-- Set PRESENT and MEMBERS. -/
def setPresent (mask : Nat) : Act :=
  acts [setPair .fabric FABRIC.PRESENT_LO FABRIC.PRESENT_HI mask,
    setF .fabric FABRIC.FSTATUS_MEMBERS ((upTo 64).filter fun i => Nat.testBit mask i).length]

/-- A frame of this device without a deadline. -/
def State.plain (s : State) (kind : FrameKind) (dest : Nat) (words : List Nat) : Frame :=
  ⟨kind, dest, s.fabricId, none, 0, words, none, none⟩

/-- Whether a device can be reached (R393). -/
def State.reaches (s : State) (dest : Nat) : Bool := dest = s.fabricId || bitOf (s.route dest) 5 = 1

/-- The port a waiting frame leaves by (R393, R395). -/
def State.portOf (s : State) (f : Frame) : Nat := f.via.getD (s.routePort f.dest)

/-- The epoch number (R362). -/
def State.epochNo (s : State) : Nat := s.st.toNat / 2 ^ 24

/-! EXPIRY (R384, R321) -/

/-- EXPIRY reaches the ledger of the group a discarded frame named. -/
def noteExpiry (group : Nat) : Act := look fun s =>
  match s.groupById group with
  | some g => if (s.group g).open' then updGroup g fun r => { r with expired := true } else skip
  | none => skip

/-- Report a discarded frame to its source device. -/
def reportExpiry (f : Frame) : Act := look fun s =>
  if f.src = s.fabricId then noteExpiry f.group
  else sendFrame { s.plain .expiry f.src [f.kind.code, f.group] with group := f.group }

/-- A frame is discarded at a port and reported (R384 steps 4 and 5). -/
def expireFrame (p : Nat) (f : Frame) : Act := acts [countF (portPage p) PORT.EXPIRED_COUNT, reportExpiry f]

/-! Port state -/

/-- WAYSTATION as it follows from the link layer (R383, R386). -/
def showWay (p : Nat) : Act := look fun s =>
  let l := s.link p
  acts [setF (portPage p) PORT.WAYSTATION_USED l.way.length,
    setF (portPage p) PORT.WAYSTATION_OUTSTANDING_DL (l.way.filter fun x => x.2.deadline.isSome).length]

/-- FSTATUS.DEADLINE_RISK is the OR over the ports; its rise raises the fabric interrupt (R377). -/
def showRisk : Act := look fun s =>
  let any := lanes.any fun p => s.get (portPage p) PORT.PSTATUS_DEADLINE_RISK = 1
  acts [setB .fabric FABRIC.FSTATUS_DEADLINE_RISK any,
    if any && s.get .fabric FABRIC.FSTATUS_DEADLINE_RISK = 0 then emit (.msix 0 2) else skip]

/-- A port has cause for DEADLINE_RISK. -/
def raiseRisk (p : Nat) : Act :=
  acts [updLink p fun l => { l with risk := true }, setF (portPage p) PORT.PSTATUS_DEADLINE_RISK 1, showRisk]

/-- A port goes DOWN: deadline frames of it are discarded and reported, link frames are discarded, the others are sent again over
the route that applies, and its lanes retrain (R374, R388). -/
def portDown (p : Nat) : Act := look fun s =>
  let l := s.link p
  let mine := s.fab.sendq.filter fun f => s.portOf f = p && f.deadline.isSome
  let again := (l.way.map (·.2)).filter fun f => f.deadline.isNone && f.kind ≠ .stub
  acts [raiseFault (portPage p) 1,
    updFab fun r => { r with sendq := again ++ r.sendq.filter fun f => s.portOf f ≠ p || f.deadline.isNone },
    updLink p fun l => { l with txSeq := 0, rxSeq := 0, way := [], resend := [], linkq := [], naked := none, acc := 0, rdy := 0,
                                peerAcc := 0, peerRdy := 0, peerEcho := 0, told := 0, heard := 0, mapDue := false, change := false,
                                trial := none },
    forEach lanes fun i => acts [setLaneRx p i .retrain, setLaneTx p i .train],
    setF (portPage p) PORT.PSTATUS_STATE 0, setF (portPage p) PORT.PSTATUS_RX_WIDTH 0, setF (portPage p) PORT.PSTATUS_TX_WIDTH 0,
    showWay p, forEach (((l.way.map (·.2)).filter fun f => f.deadline.isSome) ++ mine) (expireFrame p)]

/-- A direction of an enabled port has a width below 4, whether the port is UP, TRAINING or DOWN (R377); one that is not enabled has no
width to lack (log entry 126). -/
def State.narrow (s : State) (p : Nat) : Bool := s.pageIs (portPage p) .ready && (s.rxWidth p < 4 || s.txWidth p < 4)

/-- Widths, STATE and DEADLINE_RISK of a port after its lanes changed (R366, R374, R377). -/
def showPort (p : Nat) : Act := look fun s =>
  let rx := s.rxWidth p
  let tx := s.txWidth p
  let up := 2 ≤ rx && 2 ≤ tx
  let pg := portPage p
  acts [setF pg PORT.PSTATUS_RX_WIDTH rx, setF pg PORT.PSTATUS_TX_WIDTH tx,
    if up then setF pg PORT.PSTATUS_STATE 2
    else if s.get pg PORT.PSTATUS_STATE = 2 then portDown p else skip,
    look fun s => if s.narrow p then raiseRisk p else skip]

/-- The port's page becomes enabled: its lanes train (R366, R401). -/
def portEnable (p : Nat) : Act :=
  acts [forEach lanes fun l => acts [setLaneRx p l .train, setLaneTx p l .train], setF (portPage p) PORT.PSTATUS_STATE 1,
    look fun s => if s.narrow p then raiseRisk p else skip]

/-- The port's page is disabled: its lanes are INERT (R37, R401). -/
def portDisable (p : Nat) : Act := acts [look fun s => if s.get (portPage p) PORT.PSTATUS_STATE = 2 then portDown p else skip,
  forEach lanes fun l => acts [setLaneRx p l .off, setLaneTx p l .idle], setF (portPage p) PORT.PSTATUS_STATE 0,
  updLink p fun _ => .init]

/-! Lane loss, retraining and striping (R371 to R374) -/

/-- A LANE_MAP is owed. -/
def oweMap (p : Nat) : Act := updLink p fun l => { l with mapDue := true }

/-- Clear a bit of a mask. -/
def dropBit (m i : Nat) : Nat := m &&& (15 - 2 ^ i)

/-- LANE_LOSS: a LIVE receive lane is lost with a number of code errors (R371, R372). -/
def actLaneLoss (p : PortId) (l : Fin 4) (errors : BitVec 16) : Act := look fun s =>
  if !s.laneRxIs p l .live then skip else
  acts [modF (.port p) (PORT.LANE_ERR_CODE_ERR l) fun v => min 0xFFFF (v + errors.toNat),
    countF (.port p) (PORT.LANE_ERR_LOSSES l), raiseFault (.port p) 0, setLaneRx p l .retrain,
    updLink p fun r => { r with acc := dropBit r.acc l, rdy := dropBit r.rdy l, told := dropBit r.told l, heard := dropBit r.heard l,
                                trial := match r.trial with | some (i, x) => if i = l.val then none else some (i, x) | none => none },
    oweMap p, showPort p]
def execLaneLoss (p : PortId) (l : Fin 4) (errors : BitVec 16) (s : State) : Res := done (actLaneLoss p l errors) s

/-- LANE_READY: a training lane has locked, adapted and deskewed, with the link delay its markers show (R364, R373). -/
def actLaneReady (p : PortId) (l : Fin 4) (delay : BitVec 16) : Act := look fun s =>
  if !(s.laneRxIs p l .train || s.laneRxIs p l .retrain) then skip
  else acts [setF (.port p) PORT.LINK_DELAY_ST delay.toNat, updLink p fun r => { r with rdy := r.rdy ||| 2 ^ l.val }, oweMap p]
def execLaneReady (p : PortId) (l : Fin 4) (delay : BitVec 16) (s : State) : Res := done (actLaneReady p l delay) s

/-- RETRAIN_RESTART: a lane not ready restarts its retraining and keeps counting (R373). -/
def actRetrainRestart (p : PortId) (l : Fin 4) : Act := look fun s =>
  if s.laneRxIs p l .retrain && !Nat.testBit (s.link p).rdy l then countF (.port p) (PORT.LANE_ERR_LOSSES l) else skip
def execRetrainRestart (p : PortId) (l : Fin 4) (s : State) : Res := done (actRetrainRestart p l) s

/-- LANE_TRAIN_FAIL: a sustained frequency offset or too much skew; the lane never reaches LIVE (R363, R364). -/
def actLaneTrainFail (p : PortId) (l : Fin 4) (skew : Bool) : Act := look fun s =>
  if !(s.laneRxIs p l .train || s.laneRxIs p l .retrain) then skip
  else acts [raiseFault (.port p) (if skew then 2 else 3), updLink p fun r => { r with rdy := dropBit r.rdy l }]
def execLaneTrainFail (p : PortId) (l : Fin 4) (skew : Bool) (s : State) : Res := done (actLaneTrainFail p l skew) s

/-- LANE_MAP: the partner's accepted and ready receive lanes, and its echo of ours (R372, R373). It answers what this end last reported. -/
def actLaneMap (p : PortId) (acc rdy echo : BitVec 4) : Act := look fun s =>
  if s.time.frozen then skip else
  let l := s.link p
  let news := acc.toNat ≠ l.peerAcc || rdy.toNat ≠ l.peerRdy || echo.toNat ≠ l.acc
  acts [updLink p fun r => { r with peerAcc := acc.toNat, peerRdy := rdy.toNat, peerEcho := echo.toNat, heard := r.told,
                                    change := r.change || echo.toNat = r.acc, mapDue := r.mapDue && echo.toNat ≠ r.acc },
    if news then oweMap p else skip]
def execLaneMap (p : PortId) (acc rdy echo : BitVec 4) (s : State) : Res := done (actLaneMap p acc rdy echo) s

/-- Both ends have reported lane l ready, or in use, and each has seen the other's report (R373). An end whose own receive lane l sleeps has
nothing to train there, and counts as ready (log entry 125). -/
def State.agreed (s : State) (p l : Nat) : Bool :=
  let r := s.link p
  (s.laneRxIs p l .sleep || (Nat.testBit (r.acc ||| r.rdy) l && Nat.testBit r.heard l))
    && (s.laneTxIs p l .sleep || Nat.testBit (r.peerAcc ||| r.peerRdy) l)

/-- The lanes of a mask that both ends agree on. -/
def State.agreedOf (s : State) (p m : Nat) : Nat := (lanes.filter fun l => Nat.testBit m l && s.agreed p l).foldl (fun a l => a + 2 ^ l) 0

/-- WIDTH_CHANGE: at the first marker after the echo both directions drop the lost lanes and take the agreed ones (R372, R373). -/
def actWidthChange (p : PortId) : Act := look fun s =>
  let r := s.link p
  if !r.change || s.time.frozen then skip else
  let rxNew := s.agreedOf p r.rdy
  let txNew := s.agreedOf p r.peerRdy
  let rx := r.acc ||| rxNew
  let tx := r.peerAcc ||| txNew
  acts [passTo s.markerTime,
    updLink p fun r => { r with acc := rx, rdy := r.rdy &&& (15 - rxNew), peerAcc := tx, peerRdy := r.peerRdy &&& (15 - txNew), change := false },
    forEach lanes fun l => look fun s => acts [
      if Nat.testBit rx l && (s.laneRxIs p l .train || s.laneRxIs p l .retrain) then setLaneRx p l .live else skip,
      if Nat.testBit tx l then (if s.laneTxIs p l .train then setLaneTx p l .live else skip)
      else if s.laneTxIs p l .live then setLaneTx p l .train else skip],
    showPort p]
def execWidthChange (p : PortId) (s : State) : Res := done (actWidthChange p) s

/-! Eye scan and adaptation (R367 to R369) -/

/-- MARGIN = min(4 × EW, EH), saturating at 255. -/
def laneMargin (ew eh : Nat) : Nat := min 255 (min (4 * ew) eh)

def State.margin (s : State) (p l : Nat) : Nat := s.get (portPage p) (PORT.EYE_MARGIN l)

/-- The lane with the smallest MARGIN among some lanes. -/
def State.worstLane (s : State) (p : Nat) : List Nat → Option Nat
  | [] => none
  | l :: ls => match s.worstLane p ls with
    | some k => some (if s.margin p l ≤ s.margin p k then l else k)
    | none => some l

def setCoef (p l : Nat) (v : Word) : Act := updLink p fun r => { r with coef := r.coef.set l v }

/-- A lane scans its eye in every receive state except OFF and SLEEP. -/
def State.scans (s : State) (p l : Nat) : Bool := !s.laneRxIs p l .off && !s.laneRxIs p l .sleep

/-- The trial step is kept if the lane's MARGIN has not fallen, and not below 16; otherwise the coefficients go back. -/
def endTrial (p : Nat) : Act := look fun s =>
  match (s.link p).trial with
  | none => skip
  | some (l, before, old) =>
    acts [if s.margin p l < before || s.margin p l < 16 then setCoef p l old else skip, updLink p fun r => { r with trial := none }]

/-- EYE_SCAN_DONE: EYE and FOM take the scan's results, the trial step is judged, and the worst unfrozen LIVE lane takes the next
one. `eyes` holds EW and EH by lane, `coef` the coefficients of the step. -/
def actEyeScanDone (p : PortId) (eyes : List (BitVec 6 × BitVec 8)) (coef : Word) : Act := acts [
  forEach lanes fun l => look fun s =>
    let (ew, eh) := eyes.getD l (0, 0)
    if s.scans p l then acts [setF (.port p) (PORT.EYE_EW l) ew.toNat, setF (.port p) (PORT.EYE_EH l) eh.toNat,
      setF (.port p) (PORT.EYE_MARGIN l) (laneMargin ew.toNat eh.toNat)] else skip,
  look fun s =>
    let live := lanes.filter fun l => s.laneRxIs p l .live
    setF (.port p) PORT.FOM_FOM (match s.worstLane p live with | some l => s.margin p l | none => 0),
  endTrial p,
  look fun s =>
    let free := lanes.filter fun l => s.laneRxIs p l .live && !Nat.testBit (s.get (.port p) PORT.PSTATUS_FROZEN) l
    match s.worstLane p free with
    | none => skip
    | some l => acts [updLink p fun r => { r with trial := some (l, s.margin p l, (r.coef.getD l 0)) }, setCoef p l coef]]
def execEyeScanDone (p : PortId) (eyes : List (BitVec 6 × BitVec 8)) (coef : Word) (s : State) : Res :=
  done (actEyeScanDone p eyes coef) s

/-- IDLE_WINDOW_END: more than 3,584 IDLE characters of 4,096 freeze the lane's adaptation, otherwise it resumes (R369). -/
def actIdleWindowEnd (p : PortId) (l : Fin 4) (idle : BitVec 13) : Act := look fun s =>
  let fr := s.get (.port p) PORT.PSTATUS_FROZEN
  if idle.toNat > 3584 then
    acts [setF (.port p) PORT.PSTATUS_FROZEN (fr ||| 2 ^ l.val),
      match (s.link p).trial with
      | some (i, _, old) => if i = l.val then acts [setCoef p l old, updLink p fun r => { r with trial := none }] else skip
      | none => skip]
  else setF (.port p) PORT.PSTATUS_FROZEN (dropBit fr l)
def execIdleWindowEnd (p : PortId) (l : Fin 4) (idle : BitVec 13) (s : State) : Res := done (actIdleWindowEnd p l idle) s

/-! Lane sleep (R370) -/

/-- A LIVE transmit lane goes to sleep unless that would take the direction below MIN_WIDTH; the partner no longer takes it. -/
def sleepLane (p l : Nat) : Act := look fun s =>
  if s.laneTxIs p l .live && s.minWidth p < s.txWidth p then
    acts [setLaneTx p l .sleep, updLink p fun r => { r with peerAcc := dropBit r.peerAcc l, peerRdy := dropBit r.peerRdy l }, showPort p]
  else skip

/-- SLEEP_CTRL_WRITE: the fields take the written values; lanes go to sleep, or begin to wake with the training pattern: those whose
TX_SLEEP is cleared, and with AUTO = 0 every lane whose TX_SLEEP is 0 (log entry 125). -/
def actSleepCtrlWrite (fn : FuncId) (p : PortId) (v : Word) : Act := forPf fn (look fun s =>
  let old := s.get (.port p) PORT.SLEEP_CTRL_TX_SLEEP
  acts [
  setF (.port p) PORT.SLEEP_CTRL_TX_SLEEP v.toNat, setF (.port p) PORT.SLEEP_CTRL_AUTO (bitOf v.toNat 8),
  setF (.port p) PORT.SLEEP_CTRL_MIN_WIDTH (bitsOf v.toNat 18 16),
  forEach [3, 2, 1, 0] fun l => look fun s =>
    if Nat.testBit v.toNat l then sleepLane p l
    else if s.laneTxIs p l .sleep && (bitOf v.toNat 8 = 0 || Nat.testBit old l) then setLaneTx p l .train else skip])
def execSleepCtrlWrite (fn : FuncId) (p : PortId) (v : Word) (s : State) : Res := done (actSleepCtrlWrite fn p v) s

/-- A frame waits for transmission at a port. -/
def State.frameWaits (s : State) (p : Nat) : Bool :=
  (s.link p).resend ≠ [] || (s.link p).linkq ≠ [] || (s.fab.sendq.any fun f => s.portOf f = p)

/-- AUTO_SLEEP: after 64 marker periods with no frame to send, the highest-numbered LIVE lanes go to sleep. -/
def actAutoSleep (p : PortId) : Act := look fun s =>
  if s.get (.port p) PORT.SLEEP_CTRL_AUTO = 1 && s.linkRuns p && !s.frameWaits p && 64 * 12800 ≤ (s.st - (s.link p).lastSent).toNat then
    forEach [3, 2, 1, 0] (sleepLane p) else skip
def execAutoSleep (p : PortId) (s : State) : Res := done (actAutoSleep p) s

/-- SLEEP: a LIVE receive lane sees SLEEP. -/
def actSleep (p : PortId) (l : Fin 4) : Act := look fun s =>
  if s.laneRxIs p l .live then acts [setLaneRx p l .sleep,
    updLink p fun r => { r with acc := dropBit r.acc l, rdy := dropBit r.rdy l, told := dropBit r.told l, heard := dropBit r.heard l },
    showPort p] else skip
def execSleep (p : PortId) (l : Fin 4) (s : State) : Res := done (actSleep p l) s

/-- LANE_WAKE: a sleeping transmit lane sends the training pattern once TX_SLEEP is clear and, under AUTO, once a frame waits; the
partner's sleeping receive lane detects it and retrains. The lane rejoins the width as under R373. -/
def actLaneWake (p : PortId) (l : Fin 4) (rx : Bool) : Act := look fun s =>
  if rx then (if s.laneRxIs p l .sleep then setLaneRx p l .retrain else skip)
  else if s.laneTxIs p l .sleep && !Nat.testBit (s.get (.port p) PORT.SLEEP_CTRL_TX_SLEEP) l
      && (s.get (.port p) PORT.SLEEP_CTRL_AUTO = 0 || s.frameWaits p) then setLaneTx p l .train
  else skip
def execLaneWake (p : PortId) (l : Fin 4) (rx : Bool) (s : State) : Res := done (actLaneWake p l rx) s

/-! Transmission (R382 to R386) -/

/-- The least hop latency at a transmit width (R375). -/
def minHop (width : Nat) : Nat := if 4 ≤ width then 1200 else if width = 3 then 1240 else 1320

/-- The stop time of a deadline frame at a port (R384). -/
def State.stopTime (s : State) (p : Nat) (f : Frame) (d : Stamp) : Stamp :=
  let here := minHop (s.txWidth p) + (s.get (portPage p) PORT.LINK_DELAY_ST - 200)
  d - BitVec.ofNat 64 (here + (s.hopsTo f.dest - 1) * (1200 + 100))

/-- The frame may not be sent any more. -/
def State.pastStop (s : State) (p : Nat) (f : Frame) : Bool :=
  match f.deadline with
  | some d => !Stamp.atOrAfter (s.stopTime p f d) s.st
  | none => false

/-- A STUB in place of a discarded frame. -/
def State.stub (s : State) : Frame := s.plain .stub 0 []

/-- Frames of the waystation fall due for retransmission: those past their stop time become STUBs (R382, R384). -/
def markResend (p : Nat) (due : Nat → Bool) : Act := look fun s =>
  let l := s.link p
  let late := l.way.filter fun x => due x.1 && s.pastStop p x.2
  acts [updLink p fun r => { r with
      way := r.way.map fun x => if due x.1 && s.pastStop p x.2 then (x.1, s.stub) else x,
      resend := (r.way.map (·.1)).filter due },
    showWay p, forEach (late.map (·.2)) (expireFrame p)]

/-- ACK_TIMEOUT: no ACK came within ACK_TIMEOUT, and every unacknowledged frame is sent again. -/
def actAckTimeout (p : PortId) : Act := look fun s =>
  let wait := max 2400 (s.get (.port p) PORT.ACK_TIMEOUT_ST)
  if s.linkRuns p && (s.link p).way ≠ [] && wait ≤ (s.st - (s.link p).lastSent).toNat then markResend p fun _ => true else skip
def execAckTimeout (p : PortId) (s : State) : Res := done (actAckTimeout p) s

/-- The SEQs of the waystation up to one, or none where it is not among them. -/
def ackedUpTo (seq : Nat) (l : List Nat) : List Nat := if l.contains seq then (l.takeWhile (· ≠ seq)) ++ [seq] else []

/-- ACK: frames up to SEQ are acknowledged. -/
def actAck (p : PortId) (seq : BitVec 12) : Act := look fun s =>
  if !s.linkRuns p then skip else
  let gone := ackedUpTo seq.toNat ((s.link p).way.map (·.1))
  acts [updLink p fun r => { r with way := r.way.filter fun x => !gone.contains x.1, resend := r.resend.filter fun i => !gone.contains i },
    showWay p]
def execAck (p : PortId) (seq : BitVec 12) (s : State) : Res := done (actAck p seq) s

/-- NAK: every unacknowledged frame from SEQ onward is sent again. -/
def actNak (p : PortId) (seq : BitVec 12) : Act := look fun s =>
  if !s.linkRuns p then skip else
  let after := ((s.link p).way.map (·.1)).dropWhile (· ≠ seq.toNat)
  markResend p fun i => after.contains i
def execNak (p : PortId) (seq : BitVec 12) (s : State) : Res := done (actNak p seq) s

/-- A frame leaves a port. -/
def putFrame (p seq : Nat) (f : Frame) : Act :=
  acts [emit (.frame p (f.bytes seq)), look fun s => updLink p fun r => { r with lastSent := s.st }]

/-- The earliest deadline among frames that have one, else the first of a class (R386). -/
def pickFrame (l : List Frame) : Option Frame :=
  let dl := l.filter fun f => f.deadline.isSome
  match dl with
  | f :: fs => some (fs.foldl (fun a b => if Stamp.atOrAfter (b.deadline.getD 0) (a.deadline.getD 0) then a else b) f)
  | [] => match l.find? fun f => f.kind.isControl with
    | some f => some f
    | none => l.head?

/-- The next ORIGIN for a destination (R387). -/
def State.nextOrigin (s : State) (dest : Nat) : Nat := ((s.fab.outOrigin.find? fun x => x.1 = dest).map (·.2)).getD 0 + 1

/-- Write a number of a list of pairs. -/
def setAt (k v : Nat) (l : List (Nat × Nat)) : List (Nat × Nat) := (k, v) :: l.filter fun x => x.1 ≠ k

/-- A new frame takes its SEQ, and its ORIGIN where this device is its source, and is sent (R382, R387). -/
def sendNew (p : Nat) (f : Frame) : Act := look fun s =>
  let l := s.link p
  let f' := if f.deadline.isNone && f.origin.isNone then { f with origin := some (s.nextOrigin f.dest) } else f
  acts [if f.deadline.isNone && f.origin.isNone then
      updFab fun r => { r with outOrigin := setAt f.dest (s.nextOrigin f.dest) r.outOrigin } else skip,
    updLink p fun r => { r with txSeq := (r.txSeq + 1) % 4096, way := r.way ++ [(l.txSeq, f')] },
    putFrame p l.txSeq f', showWay p]

/-- FRAME_SEND: link frames, retransmissions in SEQ order, deadline frames, ledger and fabric frames, the others (R386). A frame
for a destination that cannot be reached, or a deadline frame past its stop time, is discarded and reported (R384, R393). -/
def actFrameSend (p : PortId) : Act := look fun s =>
  let l := s.link p
  if s.time.frozen then skip
  else match l.linkq with
  | f :: rest => acts [updLink p fun r => { r with linkq := rest }, putFrame p (f.origin.getD 0) { f with origin := none }]
  | [] =>
    if l.mapDue && l.mapAt ≠ s.markerPeriod then
      acts [updLink p fun r => { r with told := r.acc ||| r.rdy, mapAt := s.markerPeriod, mapDue := r.peerEcho ≠ r.acc || r.rdy ≠ 0 },
        putFrame p 0 (s.plain .laneMap 0 [l.acc + l.rdy * 16 + l.peerAcc * 256])]
    else if !s.linkRuns p then skip
    else match s.fab.sendq.find? fun f => f.via.isNone && !s.reaches f.dest with
    | some f => acts [updFab fun r => { r with sendq := r.sendq.erase f }, expireFrame p f]
    | none => match l.resend with
      | i :: rest =>
        acts [updLink p fun r => { r with resend := rest },
          match l.way.find? fun x => x.1 = i with
          | some x => acts [putFrame p i x.2, countF (.port p) PORT.RETRIES_COUNT]
          | none => skip]
      | [] =>
        if 256 ≤ l.way.length then skip else
        match pickFrame (s.fab.sendq.filter fun f => s.portOf f = p) with
        | none => skip
        | some f =>
          acts [updFab fun r => { r with sendq := r.sendq.erase f }, if s.pastStop p f then expireFrame p f else sendNew p f]
def execFrameSend (p : PortId) (s : State) : Res := done (actFrameSend p) s

/-- HELLO_TIMER: the port queues HELLO (R380). -/
def actHelloTimer (p : PortId) : Act := look fun s =>
  if s.get (.port p) PORT.PSTATUS_STATE = 0 then skip else
  let chair := if s.isChair then s.serial else (s.serialOf s.chairId).getD 0
  updLink p fun r => { r with linkq := r.linkq ++ [s.plain .hello 0 [s.serial, chair, s.fabricId, p.val]] }
def execHelloTimer (p : PortId) (s : State) : Res := done (actHelloTimer p) s

/-- PORT_CLR_COUNTS: the page's counters and LAT_MAX := 0. -/
def actPortClrCounts (fn : FuncId) (p : PortId) : Act := forPf fn (acts [
  forEach lanes fun l => acts [setF (.port p) (PORT.LANE_ERR_CODE_ERR l) 0, setF (.port p) (PORT.LANE_ERR_LOSSES l) 0],
  setF (.port p) PORT.RETRIES_COUNT 0, setF (.port p) PORT.EXPIRED_COUNT 0, setF (.port p) PORT.RX_DROP_COUNT 0,
  setF (.port p) PORT.CRC_ERR_COUNT 0, setF (.port p) PORT.LAT_MAX_ST 0])
def execPortClrCounts (fn : FuncId) (p : PortId) (s : State) : Res := done (actPortClrCounts fn p) s

/-! Membership (R393 to R398) -/

/-- A group that includes another device. -/
def State.isMulti (s : State) (g : Nat) : Bool := s.otherDevices g ≠ []

/-- Stop the enabled groups that `p` picks with DEV_LOST (R334, R397). -/
def stopGroups (p : State → Nat → Bool) : Act := look fun s =>
  forEach ((upTo 256).filter fun g => s.grpEnabled g && p s g) fun g => stopGroupHere g (causeBits [.devLost]) 33

/-- LEAD in the enabled group entries follows the fabric ID (R317, R355). -/
def showLeads : Act := look fun s => forEach ((upTo 256).filter s.grpEnabled) showGroup

/-- The device returns to ALONE (R395 to R397): it is its own chair with fabric ID 0, and a rejoin begins. -/
def toAlone : Act := acts [
  setF .fabric FABRIC.FSTATUS_STATE 0, setF .fabric FABRIC.FSTATUS_CHAIR 0, setF .fabric FABRIC.FSTATUS_FABRIC_ID 0,
  setF .fabric FABRIC.CHAIR_ID_ID 0, setPresent 0, clear .tbl (tblKey .routes 0) (tblKey .routes 64),
  setF .timebase TIMEBASE.TB_STATUS_ALIGN_PENDING 0,
  updFab fun r => { r with joinWanted := r.rejoin, joinTries := 0, offered := none, joiners := [], relays := [],
                           admitted := [], serials := [], lastSeen := [], outOrigin := [], inOrigin := [], held := [] }, showLeads]

/-- Leave the fabric under R397. -/
def leaveFabric : Act := look fun s =>
  if s.fabState ≠ 2 then skip else
  acts [stopGroups State.isMulti, setF .fabric FABRIC.FSTATUS_STATE 3,
    if s.isChair then skip else sendFrame (s.plain .leave s.chairId [])]

/-- A joiner runs no engine until its counter is aligned (R51): engines that run when it begins to join stop as under R91 (DESIGN CHOICE,
log entry 92); those of a device that joins again run on (R495). -/
def stopForJoin : Act := look fun s =>
  if s.fab.rejoin then skip else forEach (upTo 1024) fun e => look fun s => if s.engStopped e then skip else stopEngine e .stopped

/-- The joiner sends JOIN_REQ through a port (R395). -/
def requestJoin (p : Nat) : Act := acts [stopForJoin,
  setF .fabric FABRIC.FSTATUS_STATE 1, setF .fabric FABRIC.FSTATUS_FABRIC_ID 0x3F, showLeads,
  updFab fun r => { r with joinPort := p, joinTries := r.joinTries + 1 },
  look fun s => sendFrame { s.plain .joinReq 0x3F [s.serial] with via := some p }]

/-- A port that is UP with a neighbour known. -/
def State.joinablePort (s : State) : Option Nat :=
  lanes.find? fun p => s.get (portPage p) PORT.PSTATUS_STATE = 2 && s.get (portPage p) PORT.PSTATUS_NB_VALID = 1

/-- The join begins once a port is UP with a neighbour (R395). -/
def tryJoin : Act := look fun s =>
  if s.fab.joinWanted && s.fabState = 0 then
    match s.joinablePort with
    | some p => acts [updFab fun r => { r with joinWanted := false, joinTries := 0 }, requestJoin p]
    | none => skip
  else skip

/-- JOIN: FCTRL.JOIN, with the page enabled and SYNC_MODE = CAPTURE. -/
def actJoin (fn : FuncId) : Act := forPf fn (look fun s =>
  if s.pageIs .fabric .ready && s.get .timebase TIMEBASE.TB_CTRL_SYNC_MODE = 2 && s.fabState = 0 then
    acts [updFab fun r => { r with joinWanted := true }, tryJoin] else skip)
def execJoin (fn : FuncId) (s : State) : Res := done (actJoin fn) s

/-- A join has failed. -/
def joinFail : Act := acts [updFab fun r => { r with rejoin := false }, toAlone, raiseFault .fabric 0]

/-- JOIN_TIMEOUT: the joiner asks again, and after three requests it fails. -/
def actJoinTimeout : Act := look fun s =>
  if s.fabState ≠ 1 then skip else if 3 ≤ s.fab.joinTries then joinFail else requestJoin s.fab.joinPort
def execJoinTimeout (s : State) : Res := done actJoinTimeout s

/-- LEAVE: FCTRL.LEAVE. -/
def actLeave (fn : FuncId) : Act := forPf fn leaveFabric
def execLeave (fn : FuncId) (s : State) : Res := done (actLeave fn) s

/-- LEAVE_TIMEOUT: 1 ms has passed, or the LOST that names the device has come. -/
def actLeaveTimeout : Act := look fun s => if s.fabState = 3 then acts [toAlone, tryJoin] else skip
def execLeaveTimeout (s : State) : Res := done actLeaveTimeout s

/-- Another device is lost (R334, R396). -/
def deviceLost (id : Nat) : Act := look fun s =>
  if !s.isPresent id then skip else
  acts [stopGroups fun s g => (s.otherDevices g).contains id, setPresent (s.presentMask &&& (2 ^ 64 - 1 - 2 ^ (id % 64))),
    countF .fabric FABRIC.LOST_COUNT_COUNT,
    updFab fun r => { r with lostAt := setAt id s.epochNo r.lostAt, inOrigin := r.inOrigin.filter fun x => x.1 ≠ id,
                             outOrigin := r.outOrigin.filter fun x => x.1 ≠ id, held := r.held.filter fun f => f.src ≠ id,
                             serials := r.serials.filter fun x => x.1 ≠ id }]

/-- The chair declares a device lost (R396). -/
def declareLost (id : Nat) : Act := look fun s =>
  acts [forEach s.peers fun d => sendFrame (s.plain .lost d [id]), deviceLost id]

/-- A slip (R52): every group of the device is void under TIMEBASE, and the device leaves the fabric and joins again. -/
def slip : Act := acts [raiseFault .timebase 2,
  look fun s => forEach s.openGroups fun g => stopGroup g (causeBits [.timebase]) 17,
  look fun s => if s.fabState = 2 then acts [updFab fun r => { r with rejoin := true }, leaveFabric] else skip]

/-- The device captures a pulse at the chair: the captures go to the members, and the joiners are admitted (R51, R52, R395). -/
def State.freeId (s : State) (taken : List Nat) : Nat :=
  ((upTo 63).find? fun i => !s.isPresent i && i ≠ s.fabricId && !taken.contains i
    && !(s.fab.lostAt.any fun x => x.1 = i && s.epochNo < x.2 + 4)).getD 0x3F

/-- Admit the first joiner that waits. -/
def admitOne : Act := look fun s =>
  match s.fab.joiners with
  | [] => skip
  | (serial, relay, p) :: rest =>
    let id := s.freeId (s.fab.admitted.map (·.1))
    let e := s.epochNo + 2
    let capt := s.pair .timebase TIMEBASE.SYNC_CAPT_LO TIMEBASE.SYNC_CAPT_HI
    let f := s.plain .admission 0x3F [id, capt, e]
    acts [updFab fun r => { r with joiners := rest, admitted := if id = 0x3F then r.admitted else r.admitted ++ [(id, serial, e)] },
      sendFrame (match relay with | some d => { f with dest := d } | none => { f with via := some p })]

/-- SYNC_PULSE: LOAD or CAPTURE (R49); the chair sends its capture to the members and admits joiners (R51, R52, R395). -/
def actSyncPulse : Act := look fun s =>
  if !s.time.counting then skip
  else if s.get .timebase TIMEBASE.TB_CTRL_SYNC_MODE = 1 then acts [passTo s.edgeTime, syncLoad]
  else if s.get .timebase TIMEBASE.TB_CTRL_SYNC_MODE = 2 then
    acts [syncCapture,
      look fun s => if s.isChair then
          acts [forEach s.peers fun d => sendFrame (s.plain .syncCapt d [s.pair .timebase TIMEBASE.SYNC_CAPT_LO TIMEBASE.SYNC_CAPT_HI]),
            forEach s.fab.joiners fun _ => admitOne] else skip]
  else skip
def execSyncPulse (s : State) : Res := done actSyncPulse s

/-- ALIGN_ADD: at the first REFCLK edge at or after the chair's next epoch boundary the joiner adds ALIGN_OFFSET, and starts held until
then act (R51); while SYNC pulses are missing no join completes (R52). A device that
rejoins with an offset that is not 0 first stops every engine, its groups with TIMEBASE, and sets SLIP (R495). -/
def actAlignAdd : Act := look fun s =>
  if s.get .timebase TIMEBASE.TB_STATUS_ALIGN_PENDING = 0 || s.time.syncGone then skip else
  let off := BitVec.ofNat 64 (s.pair .timebase TIMEBASE.ALIGN_OFFSET_LO TIMEBASE.ALIGN_OFFSET_HI)
  acts [passTo (Stamp.gridUp 24 (s.st + off) - off), look fun s => passTo s.edgeTime,
    if s.fab.rejoin && off ≠ 0 then
      acts [look fun s => forEach s.openGroups fun g => stopGroup g (causeBits [.timebase]) 17,
        forEach (upTo 1024) fun e => look fun s => if s.engStopped e then skip else stopEngine e .stopped, raiseFault .timebase 2]
    else skip,
    look fun s => setSt (s.st + off), setF .timebase TIMEBASE.TB_STATUS_ALIGN_PENDING 0,
    look fun s => updFab fun r => { r with epoch := s.epochNo, routesAt := s.epochNo },
    forEach (upTo 1024) actHeld]
def execAlignAdd (s : State) : Res := done actAlignAdd s

/-! Routes (R393) -/

/-- UP ports as the chair knows them: device, port, neighbour. -/
abbrev Links := List (Nat × Nat × Nat)

/-- One more round of distances to a destination. -/
def nearer (links : Links) (dist : List (Nat × Nat)) : List (Nat × Nat) :=
  dist ++ (links.filterMap fun (a, _, b) =>
    if dist.any fun x => x.1 = a then none else (dist.find? fun x => x.1 = b).map fun x => (a, x.2 + 1)).eraseDups

/-- The hops from every device that reaches a destination. -/
def distances (links : Links) (dest : Nat) : Nat → List (Nat × Nat)
  | 0 => [(dest, 0)]
  | n + 1 => nearer links (distances links dest n)

/-- The port of the fewest hops toward a destination, the lowest number first, among ports that `ok` allows. -/
def bestPort (links : Links) (dist : List (Nat × Nat)) (a : Nat) (ok : Nat → Bool) : Option (Nat × Nat) :=
  ((upTo 4).filterMap fun p => if !ok p then none else
    ((links.filter fun x => x.1 = a && x.2.1 = p).filterMap fun x => (dist.find? fun y => y.1 = x.2.2).map fun y => (p, y.2 + 1)).head?).foldl
      (fun best x => match best with | some b => if x.2 < b.2 then some x else some b | none => some x) none

/-- The route byte of a device for a destination (R393). -/
def routeByte (links : Links) (a dest : Nat) : Nat :=
  if a = dest then 0x20 else
  let dist := distances links dest 63
  match bestPort links dist a fun _ => true with
  | none => 0
  | some (p, h) =>
    let alt := bestPort links dist a fun q => q ≠ p
    p + (match alt with | some (q, _) => q * 4 + 16 | none => 0) + 32 + min h 3 * 64

/-- The 64 route bytes of a device. -/
def State.routeBytes (s : State) (links : Links) (a : Nat) : List Nat :=
  (upTo 64).map fun d => if s.isPresent d then routeByte links a d else 0

/-- Install a route table. -/
def installRoutes (bytes : List Nat) : Act := forEach (upTo 64) fun d => setWord .routes d (bytes.getD d 0 % 256)

/-- The present device of lowest serial, among some. -/
def State.lowestSerial (s : State) (ids : List Nat) : Option Nat :=
  ids.foldl (fun best i => match best with
    | some b => if (s.serialOf i).getD (2 ^ 64) < (s.serialOf b).getD (2 ^ 64) then some i else some b
    | none => some i) none

/-- The chair role is with a device. -/
def setChair (id : Nat) : Act := look fun s =>
  acts [setF .fabric FABRIC.CHAIR_ID_ID id, setB .fabric FABRIC.FSTATUS_CHAIR (id = s.fabricId),
    updFab fun r => { r with lastSeen := if id = s.fabricId then s.peers.map fun d => (d, s.epochNo) else r.lastSeen }]

/-- The joiner's admission takes effect (R395). -/
def becomeMember (id : Nat) : Act := look fun s =>
  acts [setF .fabric FABRIC.FSTATUS_STATE 2, setF .fabric FABRIC.FSTATUS_FABRIC_ID id, setPresent (s.presentMask ||| 2 ^ id),
    updFab fun r => { r with rejoin := false, offered := none, outOrigin := [], inOrigin := [], held := [], routesAt := s.epochNo },
    showLeads]

/-- At the chair a device admitted for this epoch becomes present, and MEMBER goes to every device (R395). -/
def admitNow (id serial : Nat) : Act := look fun s =>
  acts [if s.fabState = 0 then acts [becomeMember 0, setChair 0] else skip,
    look fun s => acts [setPresent (s.presentMask ||| 2 ^ id),
      updFab fun r => { r with serials := setAt id serial r.serials, lastSeen := setAt id s.epochNo r.lastSeen,
                               admitted := r.admitted.filter fun x => x.1 ≠ id }],
    look fun s => forEach s.peers fun d => acts [sendFrame (s.plain .member d [id, serial]),
      if d = id then forEach ((upTo 64).filter s.isPresent) fun i =>
          match s.serialOf i with | some v => sendFrame (s.plain .member id [i, v]) | none => skip
      else skip]]

/-- The chair's work at an epoch boundary (R394 to R396). -/
def chairEpoch (links : Links) : Act := acts [
  look fun s => forEach (s.fab.admitted.filter fun x => x.2.2 ≤ s.epochNo) fun x => admitNow x.1 x.2.1,
  look fun s => forEach (s.peers.filter fun d =>
      (match s.fab.lastSeen.find? fun x => x.1 = d with | some x => x.2 + 2 ≤ s.epochNo | none => true)
        || !Nat.testBit (routeByte links s.fabricId d) 5) declareLost,
  look fun s => match s.lowestSerial ((upTo 64).filter s.isPresent) with
    | some i => if i ≠ s.fabricId then setChair i else skip
    | none => skip,
  look fun s => acts [installRoutes (s.routeBytes links s.fabricId), updFab fun r => { r with routesAt := s.epochNo },
    forEach s.peers fun d => sendFrame (s.plain .routes d (s.routeBytes links d))]]

/-- A member's work at an epoch boundary (R394, R396). -/
def memberEpoch : Act := look fun s =>
  if s.fab.routesAt + 2 ≤ s.epochNo then
    (if !(lanes.any fun p => s.get (portPage p) PORT.PSTATUS_STATE = 2) then acts [stopGroups State.isMulti, toAlone]
     else
      let old := s.chairId
      match s.lowestSerial ((upTo 64).filter fun i => s.isPresent i && i ≠ old) with
      | some i => acts [setChair i, updFab fun r => { r with routesAt := s.epochNo }, if i = s.fabricId then declareLost old else skip]
      | none => skip)
  else sendFrame (s.plain .present s.chairId [])

/-- EPOCH_BOUNDARY: at a multiple of 2^24 admissions take effect, PRESENT and ROUTES go out, absent devices and a silent chair
are judged, DEADLINE_RISK may clear and idle remote slots are freed (R377, R392 to R396). `links` are the UP ports the chair
knows. -/
def actEpochBoundary (links : List (Fin 64 × PortId × Fin 64)) : Act := acts [
  look fun s => if s.epochNo ≤ s.fab.epoch then passTo (BitVec.ofNat 64 ((s.fab.epoch + 1) * 2 ^ 24)) else skip,
  look fun s => updFab fun r => { r with epoch := s.epochNo },
  look fun s => match s.fab.offered with
    | some (id, e) => if s.fabState = 1 && e ≤ s.epochNo && !s.time.syncGone && !s.aligning then becomeMember id else skip
    | none => skip,
  look fun s => if s.isChair && (s.fabState = 2 || s.fab.admitted ≠ []) then chairEpoch (links.map fun (a, p, b) => (a.val, p.val, b.val))
    else if s.fabState = 2 then memberEpoch else skip,
  forEach lanes fun p => look fun s =>
    acts [if (s.link p).risk || s.narrow p then skip else setF (portPage p) PORT.PSTATUS_DEADLINE_RISK 0,
      updLink p fun r => { r with risk := s.narrow p }],
  showRisk,
  look fun s => forEach ((s.slots.filter fun x => 4096 ≤ x.1).map (·.1)) fun k =>
    updSlot k fun r => if r.fresh then { r with fresh := false } else .init]
def execEpochBoundary (links : List (Fin 64 × PortId × Fin 64)) (s : State) : Res := done (actEpochBoundary links) s

/-- EPOCH: the epoch number of an EPOCH ordered set is checked; a mismatch is treated as a slip (R362). -/
def actEpoch (p : PortId) (number : BitVec 16) : Act := look fun s =>
  if s.time.frozen then skip
  else if (s.st - BitVec.ofNat 64 (s.get (.port p) PORT.LINK_DELAY_ST)).toNat / 2 ^ 24 % 2 ^ 16 = number.toNat then skip
  else acts [raiseFault .fabric 2, slip]
def execEpoch (p : PortId) (number : BitVec 16) (s : State) : Res := done (actEpoch p number) s

/-- HELLO: the neighbour; a different chair of lower serial makes this device's fabric dissolve (R380, R398). -/
def actHello (p : PortId) (serial chair : BitVec 64) (id : BitVec 6) (port : PortId) : Act := look fun s =>
  if s.time.frozen then skip else
  let own := if s.isChair then s.serial else (s.serialOf s.chairId).getD 0
  acts [setF (.port p) PORT.PSTATUS_NEIGHBOUR id.toNat, setF (.port p) PORT.PSTATUS_NB_VALID 1, tryJoin,
    if s.fabState = 2 && id.toNat ≠ 0x3F && chair.toNat < own && serial.toNat ≠ s.serial && port.val < 4 then
      acts [raiseFault .fabric 1, updFab fun r => { r with rejoin := true }, leaveFabric] else skip]
def execHello (p : PortId) (serial chair : BitVec 64) (id : BitVec 6) (port : PortId) (s : State) : Res :=
  done (actHello p serial chair id port) s

/-! What delivered frames do -/

/-- The engine a tag names (R390). -/
def State.tagEngine (s : State) (tag : Nat) : Option Nat :=
  let w := s.word .tags (tag % 4096)
  if bitOf w 31 = 1 && bitsOf w 15 12 = tag / 4096 % 16 then some (w % 1024) else none

/-- A message carries an attempt its group has voided on this device, and its engine is a member (R329). -/
def State.carriesVoided (s : State) (e group shot attempt : Nat) : Bool :=
  match s.groupById group with
  | some g =>
    let r := s.group g
    (s.members g).contains e && r.shot = shot && (attempt < r.attempt || (attempt = r.attempt && r.voidedNow))
  | none => false

/-- A message enters an engine's inbox, or waits in the port's import buffer while the inbox is full (R129, R149, R390). -/
def deliverMsg (p : Nat) (f : Frame) : Act := look fun s =>
  let w (i : Nat) : Nat := f.words.getD i 0
  match s.tagEngine (w 0) with
  | none => countF .fabric FABRIC.NO_TAG_COUNT
  | some e =>
    if w 1 ≠ 0xFFFF && s.carriesVoided e (w 1) (w 2) (w 3) then skip
    else if 8 ≤ (s.eng e).inbox.length then updLink p fun r => { r with imports := r.imports ++ [f] }
    else acts [setInbox e ((s.eng e).inbox ++ [⟨w 0, f.src, BitVec.ofNat 32 (w 4), s.st,
          if w 1 = 0xFFFF then none else some (w 1, w 2, w 3)⟩]),
      raiseStopover e 4 (s.get (cellPage e) CELL.SO_CTRL_MSG_EN = 1)]

/-- Messages that wait in an import buffer go on in order once there is room; one whose deadline has passed is dropped. -/
def resumeImports (p : Nat) : Act := look fun s =>
  let l := (s.link p).imports
  acts [updLink p fun r => { r with imports := [] },
    forEach l fun f => look fun s => match f.deadline with
      | some d => if Stamp.atOrAfter d s.st then deliverMsg p f
          else acts [countF (portPage p) PORT.RX_DROP_COUNT, reportExpiry f]
      | none => deliverMsg p f]

/-- IMPORT_DEADLINE_PASS: waiting deadline frames whose deadline has passed are discarded (R385, R390). -/
def actImportDeadlinePass (p : PortId) : Act := look fun s =>
  let past (f : Frame) : Bool := match f.deadline with | some d => !Stamp.atOrAfter d s.st | none => false
  acts [updLink p fun r => { r with imports := r.imports.filter fun f => !past f },
    forEach ((s.link p).imports.filter past) fun f => acts [countF (.port p) PORT.RX_DROP_COUNT, reportExpiry f]]
def execImportDeadlinePass (p : PortId) (s : State) : Res := done (actImportDeadlinePass p) s

/-- A START frame is a start request of the engine its tag names. -/
def deliverStart (f : Frame) : Act := look fun s =>
  match s.tagEngine (f.words.getD 0 0) with
  | none => countF .fabric FABRIC.NO_TAG_COUNT
  | some e => startRequest e none

/-- A TRIG frame is an event of the matching coincidence-unit sources (R244). -/
def deliverTrig (f : Frame) : Act := coincEvent (.remote f.src (f.words.getD 0 0)) (BitVec.ofNat 64 (f.words.getD 1 0))

/-- A DEC frame stores its result in the remote slot of its source (R392). -/
def deliverDec (f : Frame) : Act := look fun s =>
  let k := remoteSlot f.src (f.words.getD 0 0 / 2 ^ 15) (f.words.getD 0 0 % 2 ^ 11)
  let v := f.words.getD 1 0
  if !(s.slot k).seen && 2048 ≤ (s.slots.filter fun x => 4096 ≤ x.1).length then countF .fabric FABRIC.REMOTE_FULL_COUNT
  else updSlot k fun _ => { DecSlot.init with
    value := v % 4, w := BitVec.ofNat 64 (f.words.getD 2 0), valid := bitOf v 2 = 1, flags := v / 4 % 16, seen := true,
    group := f.group, fresh := true }

/-- The group a ledger frame names, with its shot and attempt open (R326). -/
def State.ledgerGroup (s : State) (f : Frame) : Option Nat :=
  match s.groupById f.group with
  | some g =>
    let r := s.group g
    if r.open' && r.shot = f.words.getD 1 0 && r.attempt = f.words.getD 0 0 then some g else none
  | none => none

def staleMsg : Act := countF .ledger LEDGER.STALE_MSG_COUNT

/-- A ledger frame names a shot or attempt that has not begun here yet: a shot number within 2^47 ahead of the last one, or a later attempt
of the open shot (R318, R326). -/
def State.aheadHere (s : State) (f : Frame) : Option Nat :=
  match s.groupById f.group with
  | some g =>
    let r := s.group g
    let d := (f.words.getD 1 0 + 2 ^ 48 - r.shot) % 2 ^ 48
    if !r.started || (0 < d && d < 2 ^ 47) || (r.open' && d = 0 && r.attempt < f.words.getD 0 0) then some g else none
  | none => none

/-- The causes of a VOID as they strike here: EXPIRED joins DL_MISS where this device's waystation reported an expired frame of the group
during the attempt, and the other devices hear of it (R321, R384, log entry 123). -/
def expiredToo (g c : Nat) : Act := look fun s =>
  let r := s.group g
  if bitOf c 2 = 1 && bitOf c 7 = 0 && r.expired then voidGroup g (causeBits [.expired]) true else skip

/-- A VOID frame voids the attempt here; causes that stop a group stop it at once (R324, R331). One for an attempt that has not begun here
waits for it (log entry 123). -/
def deliverVoid (f : Frame) : Act := look fun s =>
  let c := f.words.getD 2 0
  let stop (g : Nat) : Act := stopGroupHere g c (if bitOf c 9 = 1 then 33 else 17)
  match s.ledgerGroup f with
  | some g => if bitsOf c 11 8 ≠ 0 then stop g else acts [
      updGroup g fun r => if r.voidedNow then { r with readyDevs := r.readyDevs.filter (· ≠ f.src) } else r,
      voidGroup g c false, expiredToo g c]
  | none => match s.aheadHere f with
    | some g => if bitsOf c 11 8 ≠ 0 then stop g
        else updGroup g fun r => { r with early := r.early ++ [(f.words.getD 1 0, f.words.getD 0 0, c)] }
    | none => staleMsg

def deliverReady (f : Frame) : Act := look fun s =>
  match s.ledgerGroup f with
  | none => skip
  | some g => updGroup g fun r => if r.readyDevs.contains f.src then r else { r with readyDevs := f.src :: r.readyDevs }

def deliverRstart (f : Frame) : Act := look fun s =>
  match s.ledgerGroup f with
  | none => if (s.aheadHere f).isSome then skip else staleMsg
  | some g => if (s.group g).voidedNow then setNewStart g (BitVec.ofNat 64 (f.words.getD 3 0)) else skip

def deliverSettle (f : Frame) : Act := look fun s =>
  match s.ledgerGroup f with
  | none => skip
  | some g => updGroup g fun r => if r.settledDevs.contains f.src then r else { r with settledDevs := f.src :: r.settledDevs }

/-- OPEN: the shot is settled on every device, and members may open the next (R332). A device on which no member ran follows the shot
numbers (R318, log entry 122). -/
def deliverOpen (f : Frame) : Act := look fun s =>
  match s.ledgerGroup f with
  | none => match s.aheadHere f with
    | some g => if (s.group g).open' then skip else updGroup g fun r => { r with shot := f.words.getD 1 0, started := true, mayOpen := true }
    | none => skip
  | some g => acts [updGroup g fun r => { r with mayOpen := true }, settleGroup g]

/-- JOIN_REQ at the chair waits for the next pulse; another device relays it (R395). -/
def deliverJoinReq (p : Nat) (f : Frame) : Act := look fun s =>
  let serial := f.words.getD 0 0
  if s.fabState = 1 || !s.pageIs .fabric .ready then skip
  else if s.isChair then
    updFab fun r => { r with joiners := (r.joiners.filter fun x => x.1 ≠ serial)
      ++ [(serial, if f.src = 0x3F then none else some f.src, p)] }
  else acts [updFab fun r => { r with relays := r.relays ++ [p] }, sendFrame (s.plain .joinReq s.chairId [serial])]

/-- ADMIT: a member relays it to the joiner; the joiner takes its ID and computes ALIGN_OFFSET, or fails (R51, R395). -/
def deliverAdmit (f : Frame) : Act := look fun s =>
  let id := f.words.getD 0 0
  if s.fabState ≠ 1 then
    match s.fab.relays with
    | [] => skip
    | p :: rest => acts [updFab fun r => { r with relays := rest }, sendFrame { s.plain .admission 0x3F f.words with via := some p }]
  else if id = 0x3F then joinFail
  else if s.time.syncGone then skip
  else acts [setPair .timebase TIMEBASE.ALIGN_OFFSET_LO TIMEBASE.ALIGN_OFFSET_HI
        (BitVec.ofNat 64 (f.words.getD 1 0) - BitVec.ofNat 64 (s.pair .timebase TIMEBASE.SYNC_CAPT_LO TIMEBASE.SYNC_CAPT_HI)).toNat,
      setF .timebase TIMEBASE.TB_STATUS_ALIGN_PENDING 1, updFab fun r => { r with offered := some (id, f.words.getD 2 0) }]

/-- ROUTES installs the route table; its sender is the chair (R393, R394). -/
def deliverRoutes (f : Frame) : Act := look fun s =>
  acts [installRoutes f.words, if s.chairId = f.src then skip else setChair f.src, updFab fun r => { r with routesAt := s.epochNo }]

def deliverPresent (f : Frame) : Act := look fun s => updFab fun r => { r with lastSeen := setAt f.src s.epochNo r.lastSeen }

/-- LOST: a device is lost, or this one is (R396, R397). -/
def deliverLost (f : Frame) : Act := look fun s =>
  let id := f.words.getD 0 0
  if id = s.fabricId then acts [stopGroups State.isMulti, toAlone, tryJoin] else deviceLost id

/-- LEAVE at the chair: the departure is declared as a loss (R397). -/
def deliverLeave (f : Frame) : Act := look fun s => if s.isChair then declareLost f.src else skip

/-- SYNC_CAPT: the chair's capture of a pulse is compared with this device's (R52). -/
def deliverSyncCapt (f : Frame) : Act := look fun s =>
  if s.get .timebase TIMEBASE.TB_CTRL_SYNC_MODE = 2 && s.fabState = 2
      && s.pair .timebase TIMEBASE.SYNC_CAPT_LO TIMEBASE.SYNC_CAPT_HI ≠ f.words.getD 0 0 then slip else skip

def deliverExpiry (f : Frame) : Act := noteExpiry (f.words.getD 1 0)

/-- MEMBER: a member's fabric ID and serial (R394). -/
def deliverMember (f : Frame) : Act := look fun s =>
  let id := f.words.getD 0 0 % 64
  acts [setPresent (s.presentMask ||| 2 ^ id), updFab fun r => { r with serials := setAt id (f.words.getD 1 0) r.serials }]

/-- A frame is handed on. -/
def deliver (p : Nat) (f : Frame) : Act :=
  match f.kind with
  | .ack | .nak | .laneMap | .hello | .stub => skip
  | .msg => deliverMsg p f | .start => deliverStart f | .trig => deliverTrig f | .dec => deliverDec f
  | .void => deliverVoid f | .ready => deliverReady f | .rstart => deliverRstart f | .settle => deliverSettle f
  | .openShot => deliverOpen f | .joinReq => deliverJoinReq p f | .admission => deliverAdmit f | .routes => deliverRoutes f
  | .present => deliverPresent f | .lost => deliverLost f | .leave => deliverLeave f | .syncCapt => deliverSyncCapt f
  | .expiry => deliverExpiry f | .member => deliverMember f

/-! Reception (R382, R385, R387, R393) -/

def State.lastOrigin (s : State) (src : Nat) : Nat := ((s.fab.inOrigin.find? fun x => x.1 = src).map (·.2)).getD 0

/-- Deliver the frames held behind the one just delivered. -/
def drainHeld (p src : Nat) : Nat → Act
  | 0 => skip
  | n + 1 => look fun s =>
    match s.fab.held.find? fun f => f.src = src && f.origin = some (s.lastOrigin src + 1) with
    | none => skip
    | some f => acts [updFab fun r => { r with held := r.held.erase f, inOrigin := setAt src (s.lastOrigin src + 1) r.inOrigin },
        deliver p f, drainHeld p src n]

/-- A frame without a deadline is delivered once and in order of ORIGIN (R387). -/
def deliverOrdered (p : Nat) (f : Frame) (origin : Nat) : Act := look fun s =>
  let last := s.lastOrigin f.src
  if origin = last + 1 then
    acts [updFab fun r => { r with inOrigin := setAt f.src origin r.inOrigin }, deliver p f, drainHeld p f.src s.fab.held.length]
  else if origin ≤ last then countF .fabric FABRIC.DUP_COUNT
  else updFab fun r => { r with held := f :: r.held }

/-- An accepted frame: a late one is dropped, one for another device is forwarded, the others are delivered. -/
def arrive (p : Nat) (f : Frame) : Act := look fun s =>
  let late := match f.deadline with | some d => !Stamp.atOrAfter d s.st | none => false
  if f.kind = .stub then skip
  else if late then acts [countF (portPage p) PORT.RX_DROP_COUNT, reportExpiry f]
  else if f.kind = .joinReq || f.kind = .admission || f.src = 0x3F then deliver p f
  else if f.dest ≠ s.fabricId then
    (if !s.pageIs .fabric .ready then skip
     else if s.reaches f.dest then sendFrame f else expireFrame p f)
  else match f.origin with
    | some o => deliverOrdered p f o
    | none => deliver p f

/-- Send NAK with the expected number, at most once per marker period for the same number (R382). -/
def sendNak (p : Nat) : Act := look fun s =>
  let l := s.link p
  if l.naked = some (l.rxSeq, s.markerPeriod) then skip
  else updLink p fun r => { r with naked := some (r.rxSeq, s.markerPeriod),
                                   linkq := r.linkq ++ [{ s.plain .nak 0 [] with origin := some r.rxSeq }] }

/-- Owe a cumulative ACK of the last frame accepted (R382). -/
def sendAck (p seq : Nat) : Act := look fun s =>
  updLink p fun r => { r with linkq := (r.linkq.filter fun f => f.kind ≠ .ack) ++ [{ s.plain .ack 0 [] with origin := some seq }] }

/-- The measured latency of a deadline frame (R377, R401). -/
def noteLatency (p : Nat) (lat : Nat) : Act := look fun s =>
  acts [modF (portPage p) PORT.LAT_MAX_ST (max lat),
    if 2000 + (s.get (portPage p) PORT.LINK_DELAY_ST - 200) < lat then raiseRisk p else skip]

/-- A sequenced frame arrives at a port (R382): only the next expected SEQ is accepted, and nothing while the import buffer is
full (R390). -/
def receive (p : PortId) (h : FrameHead) (kind : FrameKind) (group : Nat) (words : List Nat) : Act := look fun s =>
  let l := s.link p
  if !s.linkRuns p then skip
  else if h.seq.toNat ≠ l.rxSeq then sendNak p
  else if 64 ≤ l.imports.length then skip
  else acts [updLink p fun r => { r with rxSeq := (r.rxSeq + 1) % 4096 }, sendAck p h.seq.toNat,
    if h.dlv then noteLatency p h.lat.toNat else skip,
    arrive p ⟨kind, h.dst.toNat, h.src.toNat, if h.dlv then some (fullDeadline s.st h.word) else none, group, words,
      if h.dlv then none else some h.word.toNat, none⟩]

/-- CRC_FAIL_FRAME: the frame is discarded, counted and answered by NAK (R378, R379, R382). -/
def actCrcFailFrame (p : PortId) : Act := look fun s =>
  if s.linkRuns p then acts [countF (.port p) PORT.CRC_ERR_COUNT, sendNak p] else skip
def execCrcFailFrame (p : PortId) (s : State) : Res := done (actCrcFailFrame p) s

/-- STUB: it only occupies its SEQ. -/
def actStub (p : PortId) (h : FrameHead) : Act := receive p h .stub 0 []
def execStub (p : PortId) (h : FrameHead) (s : State) : Res := done (actStub p h) s

/-- MSG. -/
def actMsg (p : PortId) (h : FrameHead) (tag group : BitVec 16) (shot : BitVec 48) (attempt : BitVec 4) (v : Word) : Act :=
  receive p h .msg group.toNat [tag.toNat, group.toNat, shot.toNat, attempt.toNat, v.toNat]
def execMsg (p : PortId) (h : FrameHead) (tag group : BitVec 16) (shot : BitVec 48) (attempt : BitVec 4) (v : Word) (s : State) : Res :=
  done (actMsg p h tag group shot attempt v) s

/-- START. -/
def actStartFrame (p : PortId) (h : FrameHead) (tag : BitVec 16) : Act := receive p h .start 0xFFFF [tag.toNat]
def execStartFrame (p : PortId) (h : FrameHead) (tag : BitVec 16) (s : State) : Res := done (actStartFrame p h tag) s

/-- TRIG. -/
def actTrig (p : PortId) (h : FrameHead) (tag : BitVec 16) (fire : Stamp) : Act := receive p h .trig 0xFFFF [tag.toNat, fire.toNat]
def execTrig (p : PortId) (h : FrameHead) (tag : BitVec 16) (fire : Stamp) (s : State) : Res := done (actTrig p h tag fire) s

/-- DEC: `flags` are VALID, OVR, OVR_NB and RX_FAULT. -/
def actDec (p : PortId) (h : FrameHead) (fn : Bool) (index : BitVec 11) (v : BitVec 2) (flags : BitVec 4) (group : BitVec 16) (w : Stamp) :
    Act := receive p h .dec group.toNat [index.toNat + b2n fn * 2 ^ 15, v.toNat + flags.toNat * 4, w.toNat]
def execDec (p : PortId) (h : FrameHead) (fn : Bool) (index : BitVec 11) (v : BitVec 2) (flags : BitVec 4) (group : BitVec 16) (w : Stamp)
    (s : State) : Res := done (actDec p h fn index v flags group w) s

/-- The fields of a ledger frame (R381). -/
def ledgerWords (attempt : BitVec 4) (shot : BitVec 48) (causes : Word) (start : Stamp) : List Nat :=
  [attempt.toNat, shot.toNat, causes.toNat, start.toNat]

/-- VOID. -/
def actVoidFrame (p : PortId) (h : FrameHead) (group : BitVec 16) (attempt : BitVec 4) (shot : BitVec 48) (causes : Word) : Act :=
  receive p h .void group.toNat (ledgerWords attempt shot causes 0)
def execVoidFrame (p : PortId) (h : FrameHead) (group : BitVec 16) (attempt : BitVec 4) (shot : BitVec 48) (causes : Word) (s : State) :
    Res := done (actVoidFrame p h group attempt shot causes) s

/-- READY. -/
def actReadyFrame (p : PortId) (h : FrameHead) (group : BitVec 16) (attempt : BitVec 4) (shot : BitVec 48) : Act :=
  receive p h .ready group.toNat (ledgerWords attempt shot 0 0)
def execReadyFrame (p : PortId) (h : FrameHead) (group : BitVec 16) (attempt : BitVec 4) (shot : BitVec 48) (s : State) : Res :=
  done (actReadyFrame p h group attempt shot) s

/-- RSTART. -/
def actRstart (p : PortId) (h : FrameHead) (group : BitVec 16) (attempt : BitVec 4) (shot : BitVec 48) (start : Stamp) : Act :=
  receive p h .rstart group.toNat (ledgerWords attempt shot 0 start)
def execRstart (p : PortId) (h : FrameHead) (group : BitVec 16) (attempt : BitVec 4) (shot : BitVec 48) (start : Stamp) (s : State) :
    Res := done (actRstart p h group attempt shot start) s

/-- SETTLE. -/
def actSettle (p : PortId) (h : FrameHead) (group : BitVec 16) (attempt : BitVec 4) (shot : BitVec 48) : Act :=
  receive p h .settle group.toNat (ledgerWords attempt shot 0 0)
def execSettle (p : PortId) (h : FrameHead) (group : BitVec 16) (attempt : BitVec 4) (shot : BitVec 48) (s : State) : Res :=
  done (actSettle p h group attempt shot) s

/-- OPEN. -/
def actOpenFrame (p : PortId) (h : FrameHead) (group : BitVec 16) (attempt : BitVec 4) (shot : BitVec 48) : Act :=
  receive p h .openShot group.toNat (ledgerWords attempt shot 0 0)
def execOpenFrame (p : PortId) (h : FrameHead) (group : BitVec 16) (attempt : BitVec 4) (shot : BitVec 48) (s : State) : Res :=
  done (actOpenFrame p h group attempt shot) s

/-- JOIN_REQ. -/
def actJoinReq (p : PortId) (h : FrameHead) (serial : BitVec 64) : Act := receive p h .joinReq 0 [serial.toNat]
def execJoinReq (p : PortId) (h : FrameHead) (serial : BitVec 64) (s : State) : Res := done (actJoinReq p h serial) s

/-- ADMIT. -/
def actAdmitFrame (p : PortId) (h : FrameHead) (id : BitVec 6) (capture epoch : BitVec 64) : Act :=
  receive p h .admission 0 [id.toNat, capture.toNat, epoch.toNat]
def execAdmitFrame (p : PortId) (h : FrameHead) (id : BitVec 6) (capture epoch : BitVec 64) (s : State) : Res :=
  done (actAdmitFrame p h id capture epoch) s

/-- ROUTES. -/
def actRoutes (p : PortId) (h : FrameHead) (bytes : List Byte) : Act := receive p h .routes 0 (bytes.map BitVec.toNat)
def execRoutes (p : PortId) (h : FrameHead) (bytes : List Byte) (s : State) : Res := done (actRoutes p h bytes) s

/-- PRESENT. -/
def actPresent (p : PortId) (h : FrameHead) : Act := receive p h .present 0 []
def execPresent (p : PortId) (h : FrameHead) (s : State) : Res := done (actPresent p h) s

/-- LOST. -/
def actLost (p : PortId) (h : FrameHead) (id : BitVec 6) : Act := receive p h .lost 0 [id.toNat]
def execLost (p : PortId) (h : FrameHead) (id : BitVec 6) (s : State) : Res := done (actLost p h id) s

/-- LEAVE, the frame. -/
def actLeaveFrame (p : PortId) (h : FrameHead) : Act := receive p h .leave 0 []
def execLeaveFrame (p : PortId) (h : FrameHead) (s : State) : Res := done (actLeaveFrame p h) s

/-- SYNC_CAPT. -/
def actSyncCapt (p : PortId) (h : FrameHead) (capture : Stamp) : Act := receive p h .syncCapt 0 [capture.toNat]
def execSyncCapt (p : PortId) (h : FrameHead) (capture : Stamp) (s : State) : Res := done (actSyncCapt p h capture) s

/-- EXPIRY. -/
def actExpiry (p : PortId) (h : FrameHead) (type : Byte) (group : BitVec 16) : Act :=
  receive p h .expiry group.toNat [type.toNat, group.toNat]
def execExpiry (p : PortId) (h : FrameHead) (type : Byte) (group : BitVec 16) (s : State) : Res := done (actExpiry p h type group) s

/-- MEMBER. -/
def actMember (p : PortId) (h : FrameHead) (id : BitVec 6) (serial : BitVec 64) : Act := receive p h .member 0 [id.toNat, serial.toNat]
def execMember (p : PortId) (h : FrameHead) (id : BitVec 6) (serial : BitVec 64) (s : State) : Res := done (actMember p h id serial) s

/-! Tables (R390, R391) -/

/-- TAG_DATA: an access to the selected tag entry. -/
def actTagData (fn : FuncId) (w : Option Word) : Act := look fun s =>
  let i := s.get .fabric FABRIC.TAG_SEL_INDEX
  if fn.val ≠ 0 then (if w.isNone then setRdata 0 else skip)
  else acts [match w with
      | none => setRdata (s.word .tags i)
      | some v => setWord .tags i (v.toNat &&& 0x8000_F3FF),
    if s.get .fabric FABRIC.TAG_SEL_AUTOINC = 1 then setF .fabric FABRIC.TAG_SEL_INDEX (i + 1) else skip]
def execTagData (fn : FuncId) (w : Option Word) (s : State) : Res := done (actTagData fn w) s

/-- The writable bits of a subscription word. -/
def subMask (w : Nat) : Nat := match w with | 0 | 1 => 0xFFFF_FFFF | 2 => 0xFFFF | _ => 0xFF_FFFF

/-- SUB_DATA: an access to the selected subscription word; a write is unstamped (R391). -/
def actSubData (fn : FuncId) (w : Option Word) : Act := look fun s =>
  let i := s.get .fabric FABRIC.SUB_SEL_INDEX
  let k := s.get .fabric FABRIC.SUB_SEL_KIND
  let j := s.get .fabric FABRIC.SUB_SEL_WORD
  if fn.val ≠ 0 then (if w.isNone then setRdata 0 else skip)
  else acts [match w with
      | none => setRdata (s.subWord k i j)
      | some v =>
        let new := v.toNat &&& subMask j
        unstamped .fabric (setWord .subs ((2048 * k + i) * 4 + j) (if j = 3 then Nat.xor new 0xDC0 else new)),
    if s.get .fabric FABRIC.SUB_SEL_AUTOINC = 1 then
      acts [setF .fabric FABRIC.SUB_SEL_WORD (j + 1), if j = 3 then setF .fabric FABRIC.SUB_SEL_INDEX (i + 1) else skip] else skip]
def execSubData (fn : FuncId) (w : Option Word) (s : State) : Res := done (actSubData fn w) s

end Sys2Proof.Machine
end

