-- ==== Sys2Proof/Machine/Guests.lean ====
section
/-! DEFINITION. Guests and their leases (R410 to R415, R423), the host fence (R417 to R420, R424) and the host link (R403, R422). -/

namespace Sys2Proof.Machine

/-! The host fence (R417 to R420) -/

/-- The address a write-back goes to: a porter address with bits [2:0] zero (R424). -/
def State.wbAddr (s : State) (fn : FuncId) : Nat :=
  s.get (.fence fn) FENCE.WB_ADDR_LO * 8 + s.get (.fence fn) FENCE.WB_ADDR_HI * 2 ^ 32

/-- Write bytes at a porter address of a function: host memory, or a place of the device its view shows (R300, R419, R544). -/
def porterStore (fn : FuncId) (a : Nat) (bytes : List Byte) : Act := look fun s =>
  if onHost a then emit (.hostWrite fn (a % 2 ^ 63) bytes)
  else match placeOf a with
    | some x => if s.viewOf fn x && x.writable && !s.wiping x then writeRange (some fn.val) a bytes else skip
    | none => skip

/-- Keep FENCE_RESULT.OUTSTANDING. -/
def showFences (fn : FuncId) : Act := look fun s => setF (.fence fn) FENCE.FENCE_RESULT_OUTSTANDING (s.fence fn).open'.length

/-- The blocks where engines do not see some host write yet. -/
def State.hidingBlocks (s : State) : List Nat := (s.blks.filter fun kv => kv.2.unseen ≠ []).map (·.1)

/-- A fence request covers the host writes its function has made before it (R418). -/
def coverWrites (fn seq : Nat) : Act := look fun s => forEach s.hidingBlocks fun k => updBlk k fun b => { b with
  unseen := b.unseen.map fun u => if u.fn = fn && u.fence.isNone then { u with fence := some seq } else u }

/-- The host writes that a completed fence request covers are visible to engines (R127, R418). -/
def showWrites (fn seq : Nat) : Act := look fun s => forEach s.hidingBlocks fun k => updBlk k fun b => { b with
  unseen := unseenAfter (fun u => u.fn = fn && u.fence = some seq) b.unseen }

/-- A request completes with a status, and the writes it covers are visible unless it was aborted: write-back, then DONE_SEQ, STATUS and FENCE_TAG, then the interrupt (R419). -/
def completeRequest (fn : FuncId) (status : Nat) (r : FenceReq) : Act := look fun s => acts [
  if status = 2 then skip else showWrites fn r.seq,
  if r.wb then porterStore fn (s.wbAddr fn) (leBytes (r.seq + status * 2 ^ 16) 8) else skip,
  setF (.fence fn) FENCE.FENCE_STATUS_DONE_SEQ r.seq, setF (.fence fn) FENCE.FENCE_RESULT_STATUS status,
  setF (.fence fn) ALL.FENCE_TAG_TAG r.tag,
  if r.irq then emit (.msix fn (if fn.val = 0 then 4 else 0)) else skip]

/-- The oldest fence of a function completes. -/
def completeOldest (fn : FuncId) (status : Nat) : Act := look fun s =>
  match (s.fence fn).open' with
  | [] => skip
  | f :: rest => acts [updFence fn fun r => { r with open' := rest }, forEach f.reqs (completeRequest fn status), showFences fn]

/-- A fence's tag records have all been written (R418). -/
def Fence.met (f : Fence) : Bool := f.reqs.all fun r => !r.wait || r.met

/-- A function reaches its FENCE page: the physical function, and a guest that is READY (R406, R424). -/
def State.reachesFence (s : State) (fn : FuncId) : Bool := fn.val = 0 || s.guestReady fn

/-- FENCE_REQ: a request takes the next number, and is merged into the newest while 16 are outstanding (R417, R420). -/
def actFenceReq (fn : FuncId) (v : Word) : Act := look fun s =>
  if !s.reachesFence fn then skip else
  let p := Page.fence fn
  let last := s.get p FENCE.FENCE_STATUS_REQ_SEQ
  let seq := if last = 0xFFFF then 1 else last + 1
  let tag := bitsOf v.toNat 15 0
  let r : FenceReq := ⟨seq, tag, bitOf v.toNat 16 = 1, bitOf v.toNat 17 = 1, bitOf v.toNat 18 = 1, s.led.tags.contains (fn.val, tag)⟩
  let open' := (s.fence fn).open'
  acts [setF p FENCE.FENCE_STATUS_REQ_SEQ seq, coverWrites fn seq,
    if open'.length < 16 then updFence fn fun x => { x with open' := x.open' ++ [⟨[r], s.st⟩] }
    else acts [updFence fn fun x => { x with open' := x.open'.dropLast ++
        (x.open'.getLast?.toList.map fun f => ⟨f.reqs ++ [r], s.st⟩) }, setF p FENCE.FENCE_RESULT_MERGED 1],
    showFences fn]
def execFenceReq (fn : FuncId) (v : Word) (s : State) : Res := done (actFenceReq fn v) s

/-- FENCE_COMPLETE: the oldest fence's conditions hold. -/
def actFenceComplete (fn : FuncId) : Act := look fun s =>
  match (s.fence fn).open' with
  | f :: _ => if f.met then completeOldest fn 0 else skip
  | [] => skip
def execFenceComplete (fn : FuncId) (s : State) : Res := done (actFenceComplete fn) s

/-- FENCE_TIMEOUT: the oldest fence waits and has passed WAIT_LIMIT. -/
def actFenceTimeout (fn : FuncId) : Act := look fun s =>
  let limit := s.get (.fence fn) FENCE.WAIT_LIMIT_UNITS
  match (s.fence fn).open' with
  | f :: _ => if !f.met && limit ≠ 0 && limit * 2 ^ 20 ≤ (s.st - f.arrived).toNat then completeOldest fn 1 else skip
  | [] => skip
def execFenceTimeout (fn : FuncId) (s : State) : Res := done (actFenceTimeout fn) s

/-- FENCE_RESULT_READ: returns the register and clears MERGED. -/
def actFenceResultRead (fn : FuncId) : Act := look fun s =>
  let p := Page.fence fn
  if !s.reachesFence fn then setRdata 0
  else acts [setRdata (s.get p FENCE.FENCE_RESULT_STATUS + s.get p FENCE.FENCE_RESULT_MERGED * 2 ^ 8
      + s.get p FENCE.FENCE_RESULT_OUTSTANDING * 2 ^ 16), setF p FENCE.FENCE_RESULT_MERGED 0]
def execFenceResultRead (fn : FuncId) (s : State) : Res := done (actFenceResultRead fn) s

/-! Leases (R410 to R412) -/

def State.guestState (s : State) (g : Nat) : Nat := s.guestWord g 1 % 8
def State.guestEn (s : State) (g : Nat) : Bool := s.guestWord g 0 % 2 = 1

def setGuestEn (g : Nat) (b : Bool) : Act := setWord .guests (128 * g) (b2n b)
/-- The guest's state changes, and raises its vector 20 (R408, R410). -/
def setGuestState (g st : Nat) : Act := acts [setWord .guests (128 * g + 1) st, emit (.msix g 20)]

/-- The engines a guest's leases name. -/
def State.leasedEngines (s : State) (g : Nat) : List Nat :=
  (upTo 32).flatMap fun w => ((upTo 32).filter fun i => Nat.testBit (s.guestWord g (2 + w)) i).map (32 * w + ·)

/-- The ranges of a guest as (first, length): contexts and weights by region, HBM in units of 1 MiB. -/
def State.ctxRanges (s : State) (g n : Nat) : List (Nat × Nat) :=
  (upTo 4).map fun r => let w := s.guestWord g (34 + 4 * n + r); (bitsOf w 10 0, bitsOf w 26 16)
def State.wgtRanges (s : State) (g n : Nat) : List (Nat × Nat) := let w := s.guestWord g (66 + n); [(bitsOf w 8 0, bitsOf w 24 16)]
def State.hbmRanges (s : State) (g : Nat) : List (Nat × Nat) :=
  [(s.guestWord g 74 % 2 ^ 15, s.guestWord g 75 % 2 ^ 15), (s.guestWord g 76 % 2 ^ 15, s.guestWord g 77 % 2 ^ 15)]

/-- Two lists of ranges overlap somewhere. -/
def rangesMeet (a b : List (Nat × Nat)) : Bool :=
  a.any fun x => b.any fun y => x.2 ≠ 0 && y.2 ≠ 0 && x.1 < y.1 + y.2 && y.1 < x.1 + x.2

/-- The guests with EN = 1 besides `g`. -/
def State.otherGuests (s : State) (g : Nat) : List Nat := ((upTo 64).map (· + 1)).filter fun h => h ≠ g && s.guestEn h

/-- The checks of R411: the FAULT bits of the GUESTS page that a failure sets. -/
def State.leaseFaults (s : State) (g : Nat) : List Nat :=
  let es := s.leasedEngines g
  let others := s.otherGuests g
  let quota := s.get .ledger LEDGER.PF_QUOTA_UNITS + ((g :: others).map fun h => s.guestWord h 78 % 2 ^ 13).sum
  if (others.any fun h => (s.leasedEngines h).any es.contains)
      || es.any fun e => match s.entryOf e with | some r => s.groupGuest r = 0 | none => false then [1]
  else if others.any fun h => (upTo 8).any fun n =>
      rangesMeet (s.ctxRanges g n) (s.ctxRanges h n) || rangesMeet (s.wgtRanges g n) (s.wgtRanges h n) then [1]
  else if (s.hbmRanges g).any (fun x => x.2 ≠ 0 && 0x5C00 < x.1 + x.2)
      || others.any fun h => rangesMeet (s.hbmRanges g) (s.hbmRanges h) then [1]
  else if 8192 < quota then [1, 2]
  else if !es.all s.engStopped then [0] else []

/-- The leases are checked, and the guest starts or stays OFF (R411, R414). -/
def startGuest (g : Nat) : Act := look fun s =>
  match s.leaseFaults g with
  | [] => acts [setGuestEn g true, setGuestState g 1, forEach (s.leasedEngines g) fun e => setF (cellPage e) ALL.GUEST_OWNER_GUEST g]
  | bits => acts [setGuestEn g false, if s.guestState g = 0 then skip else setGuestState g 0, forEach bits (raiseFault .guests)]

/-- GUEST_ENABLE: EN = 1. -/
def actGuestEnable (g : GuestId) : Act := look fun s =>
  let g := g.val + 1
  if s.guestState g = 0 then startGuest g else if s.guestState g = 3 then setGuestEn g true else skip
def execGuestEnable (g : GuestId) (s : State) : Res := done (actGuestEnable g) s

/-- GUEST_READY: the leases are in force. -/
def actGuestReady (g : GuestId) : Act := look fun s => if s.guestState (g.val + 1) = 1 then setGuestState (g.val + 1) 2 else skip
def execGuestReady (g : GuestId) (s : State) : Res := done (actGuestReady g) s

/-! Drains (R413 to R415) -/

/-- A processor is halted, and its program memory and registers are wiped. -/
def dspWipe (k : Nat) : Act := acts [dspStop k .halted, updDsp k fun _ => .init, setF (dspPage k) DSP.IRQ_STATUS_PEND 0,
  clear .mem (pmemAddr k 0) (pmemAddr k 0x2000), clear .tbl (tblKey .poison (pmemMark k 0)) (tblKey .poison (pmemMark k 0x2000))]

/-- Bytes of the memories are wiped to zero, and their poison ends (R308). -/
def wipeBytes (a n : Nat) : Act := acts [clear .mem a (a + n), clear .tbl (tblKey .poison (a / 8)) (tblKey .poison ((a + n) / 8))]

/-- The groups a guest owns. -/
def State.guestGroups (s : State) (g : Nat) : List Nat := (upTo 256).filter fun r => s.grpEnabled r && s.groupGuest r = g

/-- Steps 1 to 4 of a drain; `again` is EN during it. -/
def drainGuest (g : Nat) (again : Bool) : Act := look fun s =>
  let ses := Page.session (Fin.ofNat 64 (g - 1))
  acts [setGuestEn g again, setGuestState g 3,
    forEach (s.leasedEngines g) fun e => look fun s => if s.engIs e .stopped then skip else stopEngine e .stopped,
    look fun s => forEach (s.guestGroups g) fun r => stopGroup r (causeBits [.stopped]) 17,
    forEach (upTo 8) fun n => acts [abortQueue n g, setF ses (SESSION.RING_CTRL_EN n) 0,
      updCapq n fun q => { q with recs := q.recs.filter fun r => r.owner ≠ g }, showQueue n],
    setF ses SESSION.LRING_CTRL_EN 0, updLed fun l => { l with waiting := l.waiting.filter fun r => r.guest ≠ g },
    updTend fun w => { w with pending := w.pending.filter fun u => s.guestOf u.engine ≠ g },
    look fun s => setF .watch WATCH.PENDING_COUNT s.tend.pending.length,
    look fun s => forEach (s.fence g).open' fun _ => completeOldest (Fin.ofNat 65 g) 2,
    forEach ((upTo 64).filter fun k => s.get (dspPage k) ALL.GUEST_OWNER_GUEST = g) dspWipe]

/-- Step 5 of a drain: the leased memories are wiped and the pages lose their owner. -/
def wipeGuest (g : Nat) : Act := look fun s => acts [
  forEach (s.leasedEngines g) fun e => acts [wipeBytes (spadAddr e 0) 0x1_0000, showBytes (blockOf e) (spadAddr e 0) 0x1_0000, setF (cellPage e) ALL.GUEST_OWNER_GUEST 0],
  forEach (upTo 8) fun n => acts [
    forEach (s.ctxRanges g n) fun x => wipeBytes (ctxAddr n (64 * x.1)) (4096 * x.2),
    forEach (s.wgtRanges g n) fun x => wipeBytes (weightAddr n (1024 * x.1)) (4096 * x.2)],
  forEach ((upTo 64).filter fun k => s.get (bankPage k) ALL.GUEST_OWNER_GUEST = g) fun k =>
    acts [wipeBytes (bankAddr k 0) 0x20_0000, showBytes k (bankAddr k 0) 0x20_0000, setF (bankPage k) BANK.POISON_COUNT 0, setF (bankPage k) ALL.GUEST_OWNER_GUEST 0],
  forEach (s.hbmRanges g) fun x => wipeBytes (x.1 * 2 ^ 20) (x.2 * 2 ^ 20),
  forEach ((upTo 64).filter fun k => s.get (dspPage k) ALL.GUEST_OWNER_GUEST = g) fun k => setF (dspPage k) ALL.GUEST_OWNER_GUEST 0]

/-- A drain begins where leases are in force; one under way only takes the new EN. -/
def beginDrain (g : Nat) (again : Bool) : Act := look fun s =>
  if s.guestState g = 1 || s.guestState g = 2 then drainGuest g again
  else if s.guestState g = 3 then setGuestEn g again else setGuestEn g false

/-- GUEST_DISABLE: EN = 0. -/
def actGuestDisable (g : GuestId) : Act := beginDrain (g.val + 1) false
def execGuestDisable (g : GuestId) (s : State) : Res := done (actGuestDisable g) s

/-- GUEST_DRAIN_DONE: the memories are wiped; the guest is OFF, or starts again (R413, R414). -/
def actGuestDrainDone (g : GuestId) : Act := look fun s =>
  let g := g.val + 1
  if s.guestState g ≠ 3 then skip
  else acts [wipeGuest g, if s.guestEn g then startGuest g else setGuestState g 0]
def execGuestDrainDone (g : GuestId) (s : State) : Res := done (actGuestDrainDone g) s

/-- The registers of a page beyond its header return to their reset values. -/
def resetBody (p : Page) : Act := clear .regs ((pageBase p + 0x40) * 32) ((pageBase p + 0x1000) * 32)

/-- VF_FLR: the guest drains and is enabled again; its fence numbers start anew (R413, R417). -/
def actVfFlr (g : GuestId) : Act := acts [
  look fun s => beginDrain (g.val + 1) (s.guestState (g.val + 1) ≠ 0 && s.guestEn (g.val + 1)),
  resetBody (.fence (Fin.ofNat 65 (g.val + 1))), updFence (g.val + 1) fun _ => .init]
def execVfFlr (g : GuestId) (s : State) : Res := done (actVfFlr g) s

/-- SRIOV_DISABLE: VF Enable and NumVFs take new values; guests whose function is gone drain and lose EN (R415). -/
def actSriovDisable (enable : Bool) (numVfs : FuncId) : Act := acts [
  setB .host HOST.VF_STATUS_VF_ENABLE enable, setF .host HOST.VF_STATUS_NUM_VFS numVfs.val,
  forEach ((upTo 64).map (· + 1)) fun g => if enable && g ≤ numVfs.val then skip else beginDrain g false]
def execSriovDisable (enable : Bool) (numVfs : FuncId) (s : State) : Res := done (actSriovDisable enable numVfs) s

/-! GDATA (R423) -/

/-- The writable bits of a lease word. -/
def guestMask (w : Nat) : Nat :=
  if w < 2 then 0 else if w < 34 then 0xFFFF_FFFF else if w < 66 then 0x07FF_07FF else if w < 74 then 0x01FF_01FF
  else if w < 78 then 0x7FFF else if w = 78 then 0x1FFF else 0

/-- A guest's word as it reads: VF_PRESENT follows the SR-IOV capability. -/
def State.guestRead (s : State) (g w : Nat) : Nat :=
  s.guestWord g w + (if w = 1 && s.get .host HOST.VF_STATUS_VF_ENABLE = 1 && g ≤ s.get .host HOST.VF_STATUS_NUM_VFS then 256 else 0)

/-- A write to a guest's word: EN enables or disables, the lease words are accepted only in OFF (R410). -/
def guestWrite (g : GuestId) (w v : Nat) : Act := look fun s =>
  if w = 0 then (if v % 2 = 1 then actGuestEnable g else beginDrain (g.val + 1) false)
  else if guestMask w = 0 then skip
  else if s.guestState (g.val + 1) ≠ 0 then raiseFault .guests 0
  else setWord .guests (128 * (g.val + 1) + w) (v &&& guestMask w)

/-- GDATA: an access to the selected word of a guest. -/
def actGdata (fn : FuncId) (w : Option Word) : Act := look fun s =>
  let g := s.get .guests GUESTS.GSEL_GUEST
  let i := s.get .guests GUESTS.GSEL_WORD
  let ok := fn.val = 0 && 1 ≤ g && g ≤ 64 && i ≤ 78
  acts [match w with
      | none => setRdata (if ok then s.guestRead g i else 0)
      | some v => if ok then guestWrite (Fin.ofNat 64 (g - 1)) i v.toNat else skip,
    if fn.val = 0 && s.get .guests GUESTS.GSEL_AUTOINC = 1 then setF .guests GUESTS.GSEL_WORD (nextWord i 78 7) else skip]
def execGdata (fn : FuncId) (w : Option Word) (s : State) : Res := done (actGdata fn w) s

/-! The host link (R403, R422) -/

/-- HOST_LINK_DOWN: the data link goes down. -/
def actHostLinkDown : Act := acts [setF .host HOST.LINK_STATUS_DL_UP 0, raiseFault .host 0]
def execHostLinkDown (s : State) : Res := done actHostLinkDown s

/-- The width of a link that offers at most `limit`: 1, 4, 8 or 16. -/
def linkWidth (w limit : Nat) : Nat :=
  let m := min w limit
  if 16 ≤ m then 16 else if 8 ≤ m then 8 else if 4 ≤ m then 4 else 1

/-- HOST_LINK_RECOVERY: the link has trained again at a rate and width the device offers. -/
def actHostLinkRecovery (gen : Fin 5) (width : BitVec 5) (refmode : BitVec 2) : Act := look fun s => acts [
  setF .host HOST.LINK_STATUS_GEN (min (gen.val + 1) (max 1 (s.get .host HOST.LINK_LIMIT_MAX_GEN))),
  setF .host HOST.LINK_STATUS_WIDTH (linkWidth width.toNat (s.get .host HOST.LINK_LIMIT_MAX_WIDTH)),
  setF .host HOST.LINK_STATUS_REFMODE refmode.toNat, setF .host HOST.LINK_STATUS_DL_UP 1, countF .host HOST.RECOVERY_COUNT]
def execHostLinkRecovery (gen : Fin 5) (width : BitVec 5) (refmode : BitVec 2) (s : State) : Res :=
  done (actHostLinkRecovery gen width refmode) s

end Sys2Proof.Machine
end

