-- ==== Sys2Proof/Machine/Power.lean ====
section
/-! DEFINITION. Feeds, keepers and switchovers (R426 to R448), the power states (R443, R444), and the resets of the whole device
that power brings with it (R485, R489). -/

namespace Sys2Proof.Machine

/-! Keepers (R431 to R433) -/

/-- KSTATUS.ROLE (R448). -/
inductive Role where
  | off | cold | active | starting
deriving DecidableEq, Repr

def Role.code : Role → Nat
  | .off => 0 | .cold => 1 | .active => 2 | .starting => 3

def feedPage (i : Nat) : Page := .feed (Fin.ofNat 2 i)
def State.roleIs (s : State) (i : Nat) (r : Role) : Bool := s.get (feedPage i) FEED.KSTATUS_ROLE = r.code
def setRole (i : Nat) (r : Role) : Act := setF (feedPage i) FEED.KSTATUS_ROLE r.code

/-- The active stage, and the other one (R447). -/
def State.activeStage (s : State) : Nat := s.get .power POWER.PSTATUS_ACTIVE
def State.otherStage (s : State) : Nat := 1 - s.activeStage

def State.keeper (s : State) (i : Nat) : Keeper := s.power.keepers.getD i .init
def updKeeper (i : Nat) (f : Keeper → Keeper) : Act := look fun s =>
  updPower fun r => { r with keepers := r.keepers.set i (f (s.keeper i)) }

/-- A stage is COLD, its feed has been good for 100 ms, its trims are valid and its last cold check passed (R433). -/
def State.mayArm (s : State) (i : Nat) : Bool :=
  s.roleIs i .cold && s.get (feedPage i) FEED.KSTATUS_GOOD_MS = 100 && s.get (feedPage i) FEED.KSTATUS_TRIMS_VALID = 1
    && (s.keeper i).checked

/-- KSTATUS.ARMED of both stages and PSTATUS.REDUNDANT follow; its fall sets NOT_REDUNDANT (R433). -/
def showArmed : Act := acts [
  forEach [0, 1] fun i => look fun s => setB (feedPage i) FEED.KSTATUS_ARMED (s.mayArm i),
  look fun s =>
    let now := s.mayArm 0 || s.mayArm 1
    acts [setB .power POWER.PSTATUS_REDUNDANT now,
      if s.get .power POWER.PSTATUS_REDUNDANT = 1 && !now then raiseFault .power 2 else skip]]

/-- LANTERN: keeper `i` receives a beat of the other, `missed` beats after the last; 16 consecutive good beats set LANTERN_OK. The
beat carries the sender's readings, and the handover request on which a COLD keeper acts (R431, R434). -/
def actLantern (i : Fin 2) (missed : BitVec 16) (handover : Bool) (r : KeeperReading) : Act := look fun s =>
  let from' := feedPage (1 - i.val)
  let beats := if missed = 0 then (s.keeper i.val).beats + 1 else 1
  acts [modF (feedPage i.val) FEED.LANTERN_MISS_COUNT fun v => min (2 ^ 32 - 1) (v + missed.toNat),
    updKeeper i.val fun k => { k with beats := min 16 beats },
    if 16 ≤ beats then setF (feedPage i.val) FEED.KSTATUS_LANTERN_OK 1 else skip,
    setF from' FEED.FEED_V_MV r.mv.toNat, setF from' FEED.FEED_I_CA r.ca.toNat, setF from' FEED.STAGE_TEMP_DC r.dc.toNat,
    if handover && s.roleIs i.val .cold && !s.flag .power POWER.PSTATUS_SWITCHING then updPower fun p => { p with triggered := true }
    else skip]
def execLantern (i : Fin 2) (missed : BitVec 16) (handover : Bool) (r : KeeperReading) (s : State) : Res :=
  done (actLantern i missed handover r) s

/-- LANTERN_LOST: keeper `i` has missed four consecutive beats. -/
def actLanternLost (i : Fin 2) : Act := acts [
  modF (feedPage i.val) FEED.LANTERN_MISS_COUNT fun v => min (2 ^ 32 - 1) (v + 4),
  updKeeper i.val fun k => { k with beats := 0 }, setF (feedPage i.val) FEED.KSTATUS_LANTERN_OK 0, raiseFault (feedPage i.val) 0]
def execLanternLost (i : Fin 2) (s : State) : Res := done (actLanternLost i) s

/-- A stage's trims are recorded into the mirror, and counted (R432). -/
def recordTrims (i : Nat) (t : Trims) : Act := acts [updKeeper i fun k => { k with mirror := t },
  setF (feedPage i) FEED.KSTATUS_TRIMS_VALID 1, wrapF (feedPage i) FEED.TRIM_VER_VER]

/-- TRIM_RECORD: the ACTIVE stage's trims go into the mirror; into NVM when they have drifted, at most once per hour (R432). -/
def actTrimRecord (t : Trims) (drifted : Bool) (est : BitVec 16) : Act := look fun s =>
  let i := s.activeStage
  let hourOver := match (s.keeper i).copyAt with | some x => 72_000_000_000_000 ≤ (s.st - x).toNat | none => true
  acts [setF .power POWER.POWER_EST_DW est.toNat, if !s.roleIs i .active then skip else acts [recordTrims i t,
    if drifted && hourOver then acts [updKeeper i fun k => { k with copy := t, copyAt := some s.st }, wrapF (feedPage i) FEED.TRIM_VER_VER]
    else skip]]
def execTrimRecord (t : Trims) (drifted : Bool) (est : BitVec 16) (s : State) : Res := done (actTrimRecord t drifted est) s

/-- COLD_CHECK: the COLD stage's check passes, or disarms it (R433). -/
def actColdCheck (pass : Bool) : Act := look fun s =>
  let i := s.otherStage
  if !s.roleIs i .cold then skip else
  acts [updKeeper i fun k => { k with checked := pass },
    if pass then countF (feedPage i) FEED.COLD_CHECKS_PASSES
    else acts [countF (feedPage i) FEED.COLD_CHECKS_FAILS, raiseFault (feedPage i) 4], showArmed]
def execColdCheck (pass : Bool) (s : State) : Res := done (actColdCheck pass) s

/-- STAGE_ARMED: a feed has been good for 100 ms; a stage held OFF becomes COLD, to be armed once its cold check passes (R442). -/
def actStageArmed (i : Fin 2) : Act := look fun s => acts [
  setF (feedPage i.val) FEED.KSTATUS_FEED_GOOD 1, setF (feedPage i.val) FEED.KSTATUS_GOOD_MS 100,
  if s.roleIs i.val .off && s.power.cause.isNone then
    acts [setRole i.val .cold, updKeeper i.val fun k => { k with checked := false }] else skip, showArmed]
def execStageArmed (i : Fin 2) (s : State) : Res := done (actStageArmed i) s

/-- A feed is out of its good range: FEED_GOOD and GOOD_MS fall, UV or OV is set (R433, R448). -/
def feedBad (i mv : Nat) : Act := acts [setF (feedPage i) FEED.FEED_V_MV mv, setF (feedPage i) FEED.KSTATUS_FEED_GOOD 0,
  setF (feedPage i) FEED.KSTATUS_GOOD_MS 0, if mv < 10600 then raiseFault (feedPage i) 1 else skip,
  if 13600 < mv then raiseFault (feedPage i) 2 else skip, showArmed]

/-- FEED_OUT_OF_RANGE: keeper `i` reads its feed outside 10.6 V to 13.6 V. -/
def actFeedOutOfRange (i : Fin 2) (mv : BitVec 16) : Act :=
  if 10600 ≤ mv.toNat && mv.toNat ≤ 13600 then skip else feedBad i.val mv.toNat
def execFeedOutOfRange (i : Fin 2) (mv : BitVec 16) (s : State) : Res := done (actFeedOutOfRange i mv) s

/-! Triggers of a switchover (R434, R435, R440) -/

/-- A switchover can be triggered: the device is powered from a stage, and none runs. -/
def State.mayTrigger (s : State) : Bool :=
  s.roleIs s.activeStage .active && !s.flag .power POWER.PSTATUS_SWITCHING && s.power.cause.isNone && !s.power.unpowered

def trigger (byCold : Bool) : Act := look fun s =>
  if s.mayTrigger then updPower fun p => { p with byCold := byCold && (!p.triggered || p.byCold), triggered := true } else skip

/-- FEED_LOW: the active feed reads below 10.2 V for 2 µs, to its own keeper or to the COLD keeper's sense alone. -/
def actFeedLow (mv : BitVec 16) (byCold : Bool) : Act := look fun s =>
  if 10200 ≤ mv.toNat then skip
  else acts [if byCold then skip else feedBad s.activeStage mv.toNat, trigger byCold]
def execFeedLow (mv : BitVec 16) (byCold : Bool) (s : State) : Res := done (actFeedLow mv byCold) s

/-- FEED_HIGH: the active feed reads above 14.0 V for 2 µs. -/
def actFeedHigh (mv : BitVec 16) : Act := look fun s =>
  if mv.toNat ≤ 14000 then skip else acts [feedBad s.activeStage mv.toNat, trigger false]
def execFeedHigh (mv : BitVec 16) (s : State) : Res := done (actFeedHigh mv) s

/-- STAGE_FAULT: the active stage reports a fault. -/
def actStageFault : Act := look fun s => acts [raiseFault (feedPage s.activeStage) 3, trigger false]
def execStageFault (s : State) : Res := done actStageFault s

/-- VBUS_LOW: VBUS falls below 1.62 V. -/
def actVbusLow (mv : BitVec 12) (byCold : Bool) : Act :=
  if 1620 ≤ mv.toNat then skip else acts [setF .power POWER.VBUS_MV mv.toNat, trigger byCold]
def execVbusLow (mv : BitVec 12) (byCold : Bool) (s : State) : Res := done (actVbusLow mv byCold) s

/-- SWAP: a planned swap requires REDUNDANT = 1 and ENABLE = 1 on the POWER page (R440). -/
def actSwap (fn : FuncId) : Act := forPf fn (look fun s =>
  if s.flag .power POWER.PSTATUS_REDUNDANT && s.flag .power ALL.PAGE_CTRL_ENABLE && s.mayTrigger then trigger false
  else raiseFault .power 5)
def execSwap (fn : FuncId) (s : State) : Res := done (actSwap fn) s

/-! The switchover (R81, R193, R259, R438, R439) -/

/-- Every tone that plays a pulse or a stream loses it, and every flux output its pulse (R193). -/
def endAllPulses : Act := look fun s => acts [
  forEach (s.tones.map (·.1)) endTone,
  forEach (upTo 128) fun f => acts [if (s.output (160 + f)).pulse.isSome then updOutput (160 + f) fun r => { r with pulse := none } else skip,
    showFlux f]]

/-- Whether an event committed before the freeze still acts: the frames run on (R81), and nothing plays or is marked. -/
def EntryKind.ofFrame : EntryKind → Bool
  | .freqSet | .phaseAdd | .phaseSet => true
  | _ => false

/-- An engine's committed entries are lost but for its frame changes; a stream that had not begun frees its slot (R181, R193). -/
def dropCommitted (e : Nat) : Act := look fun s =>
  acts [forEach ((s.eng e).due.filter fun x => x.kind = .streamStart) fun x => freeSlot (blockOf e) x.slot,
    updEng e fun r => { r with due := r.due.filter fun x => x.kind.ofFrame }]

/-- LOAD_SHED: at H+0 the sample domain freezes, the outputs enter HOLD, records end and the COLD stage starts. -/
def actLoadShed : Act := look fun s =>
  if !s.power.triggered || !s.flag .power POWER.PSTATUS_REDUNDANT then skip else
  let c := s.otherStage
  acts [endRecords (upTo 1056) true, updTime fun x => { x with frozen := true, liveAt := none }, setClocks false,
    updPower fun p => { p with shedAt := s.st, returned := false, relocked := false },
    setF .power POWER.PSTATUS_SWITCHING 1, raiseFault .power 0, setRole c .starting,
    if s.power.byCold && s.get (feedPage c) FEED.KSTATUS_LANTERN_OK = 0 then raiseFault (feedPage c) 5 else skip,
    forEach allOutputs fun o => look fun s => if s.cond o = Cond.live.code then
      acts [updOutput (outputNo o) fun r => { r with held := s.lastSample o }, setCond o .hold] else skip,
    forEach (upTo 16) fun m => look fun s => if s.markerCond m = Cond.live.code then setMarkCond m .hold else skip,
    endAllPulses, forEach s.engines dropCommitted, forEach (s.blks.map (·.1)) resumeSlots,
    forEach (s.trigs.map (·.1)) fun u => updTrig u fun r => { r with armed := false }]
def execLoadShed (s : State) : Res := done actLoadShed s

/-- VBUS_RETURN: VBUS is back within ±3 %; the new stage is ACTIVE and the old one OFF. -/
def actVbusReturn (mv : BitVec 12) : Act := look fun s =>
  let old := s.activeStage
  if !s.flag .power POWER.PSTATUS_SWITCHING || s.power.returned then skip else
  acts [setF .power POWER.VBUS_MV mv.toNat, setRole old .off, setRole (1 - old) .active, setF .power POWER.PSTATUS_ACTIVE (1 - old),
    updKeeper old fun k => { k with checked := false }, updPower fun p => { p with returned := true }, showArmed]
def execVbusReturn (mv : BitVec 12) (s : State) : Res := done (actVbusReturn mv) s

/-- CLOCK_RELOCK: the converter clocks relock with the alignment of R42, in a switchover once VBUS has returned, or once REFCLK has (R44). -/
def actClockRelock : Act := look fun s =>
  if s.power.returned then acts [updPower fun p => { p with relocked := true }, setClocks true]
  else if s.flag .power POWER.PSTATUS_SWITCHING || s.get .power POWER.PSTATUS_STATE ≠ 2 then skip
  else setClocks true
def execClockRelock (s : State) : Res := done actClockRelock s

/-- An engine's entries stamped before W0 + 256 are discarded and counted, and their slots are freed (R70); DEPTH falls (R72). -/
def discardFrozen (w0 : Stamp) (e : Nat) : Act := look fun s =>
  let lost (x : Entry) : Bool := !Stamp.future x.stamp (w0 + gateLead)
  let gone := (s.eng e).timetable.filter lost
  acts [forEach gone fun x => acts [countF (cellPage e) CELL.LATE_COUNT_COUNT, countF .timebase TIMEBASE.LATE_TOTAL_COUNT,
      freeSlot (blockOf e) x.slot],
    if gone.isEmpty then skip else setF (cellPage e) CELL.TT_STATUS_LATE 1,
    updEng e fun r => { r with timetable := r.timetable.filter fun x => !lost x }, lowWater e (s.depth e)]

/-! DORMANT, and the state of a device that starts anew (R441, R444, R485, R488, R489) -/

/-- The pages with registers outside the regions. -/
def chipPages : List Page :=
  [.chip, .timebase, .host, .guests, .power, feedPage 0, feedPage 1, .thermal, .security, .fabric] ++ lanes.map portPage
    ++ [.ledger, .watch, .hbm, .nvm]

/-- Every page of the regions. -/
def unitPages : List Page := (upTo 8).flatMap pagesOfRegion

/-- Write into the always-on fault record (R441, R458, R479). -/
def keepRecord (kind : Nat) (at' : Stamp) (detail : List Nat) : Act := look fun s =>
  updPower fun p => { p with records := p.records ++ [⟨kind, s.get .chip CHIP.BOOT_COUNT_COUNT, at', detail⟩] }

/-- Every output and marker falls to its unpowered state, that of INERT (R40). -/
def outputsUnpowered : Act := acts [forEach allOutputs forceInert, forEach (upTo 16) forceMarkInert]

/-- The device enters DORMANT: both stages off, nothing runs, records not in their rings are lost, the host link is down (R325, R441,
R443). -/
def goDormant (c : DormantCause) : Act := look fun s => acts [
  endAllPulses, outputsUnpowered, forEach ((upTo 1024).filter fun e => !s.engIs e .stopped || s.eng e ≠ .init) haltKeep, clear .groups 0 1280,
  updLed fun l => { l with waiting := [] }, forEach (upTo 8) fun n => acts [updCapq n fun q => { q with recs := [] }, showQueue n],
  setRole 0 .off, setRole 1 .off, setF .power POWER.PSTATUS_STATE 0, setF .power POWER.PSTATUS_SWITCHING 0,
  setF .host HOST.LINK_STATUS_DL_UP 0, updTime fun x => { x with frozen := false, liveAt := none }, setClocks false,
  updPower fun p => { p with triggered := false, byCold := false, returned := false, relocked := false, cause := some c, afterGap := none,
                             exitAsked := false, change := none, resetHeld := false }, showArmed]

/-- The counts of spare rows in use of a region's stores, which survive every reset (R309, R313). -/
def spareRows : List Field := [PORTER.SPARE_ROWS_CONTEXT, PORTER.SPARE_ROWS_WEIGHT, PORTER.SPARE_ROWS_LEDGER, PORTER.SPARE_ROWS_CAPTURE]

/-- Fields that a chip reset leaves: what NVM, the always-on domain and the keepers hold (R463, R478, R484, R485, R513, R517). -/
def keptFields : List (Page × Field) :=
  [(.nvm, NVM.LOG_COUNT_HELD), (.nvm, NVM.LOG_COUNT_OVERWRITTEN), (.nvm, NVM.WEAR_PCT), (.chip, CHIP.BOOT_COUNT_COUNT),
    (.security, SECURITY.TAMPER_COUNT_COUNT), (.thermal, THERMAL.LIFE_AVG_DC), (.thermal, THERMAL.LIFE_HOURS_HOURS)]
  ++ (upTo 8).flatMap fun n => spareRows.map fun f => (porterPage n, f)

/-- Fields of the always-on domain and the keepers. -/
def alwaysOnFields : List (Page × Field) :=
  [(.security, SECURITY.DEBUG_FAILS_COUNT), (.power, POWER.PSTATUS_ACTIVE), (.power, POWER.PSTATUS_REDUNDANT),
    (.power, POWER.PSTATUS_SWITCHING), (.power, POWER.PSTATUS_AUX_A_OK), (.power, POWER.PSTATUS_AUX_B_OK), (.power, POWER.VBUS_MV)]
  ++ [0, 1].flatMap fun i => [FEED.KSTATUS_ROLE, FEED.KSTATUS_FEED_GOOD, FEED.KSTATUS_LANTERN_OK, FEED.KSTATUS_ARMED,
    FEED.KSTATUS_TRIMS_VALID, FEED.KSTATUS_GOOD_MS, FEED.FEED_V_MV, FEED.FEED_I_CA, FEED.STAGE_TEMP_DC,
    FEED.TRIM_VER_VER].map fun f => (feedPage i, f)

/-- Words that outlive every reset, in NVM: the fault log's next entry, the slot the boot record names, whether a sealed
identity is held, whether it is to be erased, whether one has ever been made (R473, R480, R492, R517). -/
def nvmWords : List Nat := [0, 2, 3, 4, 5]

/-- The NVM's bytes. -/
def nvmStart : Nat := nvmAddr 0 0
def nvmEnd : Nat := nvmAddr 16 0

/-- The pages of a device that starts read STARTING, while its memories are wiped and until it is brought up (R309, R488, R504); POWER
and FEED pages are those of the always-on domain. -/
def pagesStarting : Act :=
  forEach ((chipPages ++ unitPages).filter fun p => !([Page.power, Page.feed 0, Page.feed 1] : List Page).contains p) fun p => setPage p .starting

/-- Everything returns to its reset value but OTP, NVM and the fields `kept` (R308, R485). -/
def clearDevice (kept : List (Page × Field)) : Act := look fun s => acts [
  clear .regs 0 (2 ^ 60), forEach kept fun x => setF x.1 x.2 (s.get x.1 x.2),
  clear .mem 0 nvmStart, clear .mem nvmEnd (2 ^ 60),
  forEach [Table.groups, .tending, .guests, .tags, .subs, .functions, .units, .measurements, .sensors, .routes, .misc, .poison] fun t =>
    clear .tbl (tblKey t 0) (tblKey t (2 ^ 44)),
  forEach nvmWords fun i => setWord .misc i (s.word .misc i),
  forEach [Part.engs, .tones, .outputs, .groups, .blks, .slots, .trigs, .rxs, .funcs, .formers, .capqs, .coincs, .dsps, .dqs, .links, .fences]
    fun p => clear p 0 (2 ^ 60),
  updTime fun _ => .init, updLed fun _ => .init, updFab fun _ => .init, updTend fun _ => .init,
  updPower fun p => { p with change := none, resetHeld := false, inForce := 0, afterGap := none },
  updStart fun r => { StartState.init with
    retest := (chipPages ++ unitPages).filter fun p => s.pageIs p .quarantined || r.retest.contains p
    calTemp := r.calTemp, resetLow := r.resetLow, scan := r.scan, scanActs := r.scanActs, draws := r.draws },
  setF .hbm HBM.STATUS_WIPING 1, forEach (upTo 8) fun n => setWord .misc (wipeRegion n) 1, pagesStarting]

/-- A chip reset: a cold start follows from the boot ROM (R485, R487, R488). In DORMANT the pulse of RESET_N asks for the exit. -/
def chipReset : Act := look fun s =>
  if s.power.cause.isSome || s.power.unpowered then skip
  else acts [clearDevice (keptFields ++ alwaysOnFields), updStart fun r => { r with fromRom := true }]

/-- A reset of everything that power or the exit from DORMANT brings: the start begins at its first row (R488). -/
def fullReset (kept : List (Page × Field)) : Act := acts [clearDevice kept, updPower fun p => { p with cause := none, exitAsked := false }]

/-- A chip reset by CHIP.RESET_CTRL or by a Function Level Reset waits for W0 in a switchover's gap (R487). -/
def chipResetAfterGap : Act := look fun s =>
  if s.flag .power POWER.PSTATUS_SWITCHING then updPower fun p => { p with resetHeld := true } else chipReset

/-- What the end of a gap releases: a held chip reset, or DORMANT after a SHUTDOWN (R460, R487). -/
def afterGap : Act := look fun s =>
  if s.power.resetHeld then chipReset
  else match s.power.afterGap with
    | some c => goDormant c
    | none => skip

/-- GATE_RESUME: at W0 the gates and the control plane resume; every shot open at H+0 is void with FEED, and each output leaves
HOLD for LIVE 256 ST later unless a higher condition was requested. -/
def actGateResume : Act := look fun s =>
  if !s.flag .power POWER.PSTATUS_SWITCHING || !s.power.relocked then skip else
  let h := s.power.shedAt
  acts [passTo (Stamp.gridUp 5 s.st), look fun s =>
    let w0 := s.st
    acts [updTime fun x => { x with frozen := false, liveAt := some (w0 + gateLead) },
      updPower fun p => { p with triggered := false, byCold := false, returned := false, relocked := false },
      setF .power POWER.PSTATUS_SWITCHING 0, countF .power POWER.SWITCH_COUNT_COUNT,
      setF .power POWER.LAST_GAP_ST (min (2 ^ 20 - 1) (w0 - h).toNat), setPair .power POWER.LAST_H_LO POWER.LAST_H_HI h.toNat,
      forEach s.engines (discardFrozen w0),
      look fun s => forEach s.openGroups fun g => voidGroup g (causeBits [.feed]) true,
      forEach (s.formers.map (·.1)) refill,
      forEach (upTo 8) fun n => look fun s => if (s.capq n).lowSince.isSome then updCapq n fun q => { q with lowSince := some w0 } else skip,
      afterGap]]
def execGateResume (s : State) : Res := done actGateResume s

/-- The switchover is abandoned (R441): every shot group stops, waiting records are lost, and the device enters DORMANT. The record's
code of the cause is not stated. -/
def abandon (mv : Nat) : Act := look fun s =>
  let h := if s.flag .power POWER.PSTATUS_SWITCHING then s.power.shedAt else s.st
  acts [setF .power POWER.VBUS_MV mv, keepRecord 3 h [(Config.freeValue s.free).toNat, mv], drawFree,
    forEach ((upTo 256).filter fun g => s.grpEnabled g) fun g => stopGroup g (causeBits [.feed, .stopped]) 17,
    goDormant (s.power.afterGap.getD .feeds)]

/-- SWITCHOVER_ABANDON: no armed stage, no VBUS within 15 µs of H+0, or VBUS below 1.30 V (R436, R441). -/
def actSwitchoverAbandon (mv : BitVec 12) : Act := look fun s =>
  let switching := s.flag .power POWER.PSTATUS_SWITCHING
  if s.power.cause.isSome || s.power.unpowered then skip
  else if (s.power.triggered && !switching && !s.flag .power POWER.PSTATUS_REDUNDANT)
      || (switching && !s.power.returned && 300000 ≤ (s.st - s.power.shedAt).toNat) || mv.toNat < 1300 then abandon mv.toNat
  else skip
def execSwitchoverAbandon (mv : BitVec 12) (s : State) : Res := done (actSwitchoverAbandon mv) s

/-- BOTH_FEEDS_LOST: with both feeds lost VBUS is abandoned (R441, R444). -/
def actBothFeedsLost (mv : BitVec 12) : Act := look fun s => acts [
  forEach [0, 1] fun i => acts [setF (feedPage i) FEED.KSTATUS_FEED_GOOD 0, setF (feedPage i) FEED.KSTATUS_GOOD_MS 0],
  if s.power.cause.isSome || s.power.unpowered then showArmed else abandon mv.toNat]
def execBothFeedsLost (mv : BitVec 12) (s : State) : Res := done (actBothFeedsLost mv) s

/-- DUAL_START_RESOLVE: a COLD stage that started on its own reading has taken the load; the former ACTIVE stage goes COLD (R437). -/
def actDualStartResolve : Act := look fun s =>
  let old := s.activeStage
  if !s.power.triggered || !s.power.byCold || s.flag .power POWER.PSTATUS_SWITCHING || !s.flag .power POWER.PSTATUS_REDUNDANT
      || s.get (feedPage old) FEED.KSTATUS_FEED_GOOD = 0 then skip else
  acts [setRole old .cold, setRole (1 - old) .active, setF .power POWER.PSTATUS_ACTIVE (1 - old), raiseFault .power 1,
    countF .power POWER.DUAL_COUNT_COUNT,
    if s.get (feedPage (1 - old)) FEED.KSTATUS_LANTERN_OK = 0 then raiseFault (feedPage (1 - old)) 5 else skip,
    updKeeper old fun k => { k with checked := false },
    updPower fun p => { p with triggered := false, byCold := false }, showArmed]
def execDualStartResolve (s : State) : Res := done actDualStartResolve s

/-! AUX (R428, R485, R524) -/

def auxField (i : Nat) : Field := if i = 0 then POWER.PSTATUS_AUX_A_OK else POWER.PSTATUS_AUX_B_OK

/-- AUX_LOST: one AUX input leaves its range. -/
def actAuxLost (i : Fin 2) : Act := acts [setF .power (auxField i.val) 0, raiseFault .power 3]
def execAuxLost (i : Fin 2) (s : State) : Res := done (actAuxLost i) s

/-- AUX_RETURN: the input is within its range again. -/
def actAuxReturn (i : Fin 2) : Act := look fun s => if s.power.unpowered then skip else setF .power (auxField i.val) 1
def execAuxReturn (i : Fin 2) (s : State) : Res := done (actAuxReturn i) s

/-- What the loss of AUX takes beyond a full reset: the keepers, the always-on record and the last-shot entries (R325, R428). -/
def loseAlwaysOn : Act := acts [
  updPower fun p => { PowerState.init with keepers := p.keepers.map fun k => { Keeper.init with copy := k.copy, copyAt := none } },
  clear .tbl (tblKey .lastShot 0) (tblKey .lastShot (2 ^ 44)),
  updStart fun r => { r with scan := .bypass, scanActs := false, resetLow := false }]

/-- POWER_LOSS: both AUX inputs are lost; no state survives but OTP and NVM. -/
def actPowerLoss : Act := acts [fullReset keptFields, loseAlwaysOn, updPower fun p => { p with unpowered := true }]
def execPowerLoss (s : State) : Res := done actPowerLoss s

/-- POWER_ON_RESET: an AUX input rises while both were absent (R485). -/
def actPowerOnReset (i : Fin 2) : Act := look fun s =>
  if s.get .power POWER.PSTATUS_AUX_A_OK = 1 || s.get .power POWER.PSTATUS_AUX_B_OK = 1 then skip
  else acts [fullReset keptFields, loseAlwaysOn, setF .power (auxField i.val) 1]
def execPowerOnReset (i : Fin 2) (s : State) : Res := done (actPowerOnReset i) s

/-! Power states (R443, R444, R490, R491) -/

/-- Every engine is stopped (R547), and every output and marker INERT. -/
def State.allStopped (s : State) : Bool := !s.anyRunning
def State.allInert (s : State) : Bool :=
  allOutputs.all (fun o => s.cond o = Cond.inert.code) && (upTo 16).all fun m => s.markerCond m = Cond.inert.code

/-- Some output or marker is LIVE. -/
def State.anyLive (s : State) : Bool :=
  allOutputs.any (fun o => s.cond o = Cond.live.code) || (upTo 16).any fun m => s.markerCond m = Cond.live.code

/-- PSTATUS.STATE as it reads: READY reads RUNNING while an engine runs or an output is LIVE (R443). -/
def State.powerState (s : State) : Nat :=
  let v := s.get .power POWER.PSTATUS_STATE
  if v = 2 && (s.anyRunning || s.anyLive) then 3 else v

/-- TARGET: a power-state change that the table of R444 allows begins; any other write is refused. -/
def actPowerTarget (fn : FuncId) (v : Fin 4) : Act := forPf fn (look fun s =>
  let now := s.powerState
  if s.get .power ALL.PAGE_CTRL_ENABLE = 0 then skip
  else if s.power.cause = some .target && v.val = 2 then acts [setF .power POWER.PCTRL_TARGET 2, updPower fun p => { p with exitAsked := true }]
  else if s.power.change.isNone && (now = 2 && v.val = 1 && s.allStopped && s.allInert || now = 1 && (v.val = 2 || v.val = 0)) then
    acts [setF .power POWER.PCTRL_TARGET v.val, updPower fun p => { p with change := some v.val }]
  else raiseFault .power 4)
def execPowerTarget (fn : FuncId) (v : Fin 4) (s : State) : Res := done (actPowerTarget fn v) s

/-- Calibration is saved with its die temperature (R491). -/
def saveCalibration (t : BitVec 16) : Act := updStart fun r => { r with calTemp := t.toInt }

/-- POWER_STATE_DONE: the change completes. In STANDBY every page but the chip pages reads OFF, the converter dies are unpowered and
their clocks unlocked, and calibration is saved; a warm start relocks the clocks and loads it, and more than 10 °C away sets CAL_STALE. -/
def actPowerStateDone (dieTemp : BitVec 16) : Act := look fun s =>
  match s.power.change with
  | some 1 => acts [updPower fun p => { p with change := none }, setF .power POWER.PSTATUS_STATE 1, setClocks false, saveCalibration dieTemp,
      updStart fun r => { r with retest := r.retest ++ unitPages.filter fun p => s.pageIs p .quarantined },
      forEach (upTo 32) fun t => look fun s => if s.rxIs t .unavailable then skip else stopCores t .off, forEach unitPages fun p => setPage p .off]
  | some 2 => acts [updPower fun p => { p with change := none }, setF .power POWER.PSTATUS_STATE 2, setClocks true,
      forEach s.start.retest fun p => setPage p .quarantined, updStart fun r => { r with retest := [] },
      if 100 < (dieTemp.toInt - s.start.calTemp).natAbs then acts [setF .chip CHIP.BOOT_STATUS_CAL_STALE 1, raiseFault .chip 2] else skip]
  | some _ => goDormant .target
  | none => skip
def execPowerStateDone (dieTemp : BitVec 16) (s : State) : Res := done (actPowerStateDone dieTemp) s

end Sys2Proof.Machine
end

