-- ==== Sys2Proof/Machine/Thermal.lean ====
section
/-! DEFINITION. Temperature (R449 to R464): sensors, TMAX and T_ext, the thresholds and the trips. Temperatures are in 0.1 °C. -/

namespace Sys2Proof.Machine

/-! Sensors (R449 to R454) -/

/-- A sensor's word, as SENSOR_DATA shows it: DC, BROKEN, CAUSE and FAST (R464). 80 to 83 are the external inputs. -/
def State.sensor (s : State) (i : Nat) : Nat := s.word .sensors i
def State.broken (s : State) (i : Nat) : Bool := bitOf (s.sensor i) 16 = 1
def State.reading (s : State) (i : Nat) : Int := toSigned 16 (s.sensor i)

/-- The sensor whose reading stands in for a broken one: the region sensor, or the partner of a hot-spot sensor. -/
def standIn (i : Nat) : Nat := if i < 64 then 64 + i / 8 else if i % 2 = 0 then i + 1 else i - 1

/-- A broken block or hot-spot sensor whose stand-in is broken has no substitute (R452). -/
def State.noSubstitute (s : State) (i : Nat) : Bool := s.broken i && (i < 64 || 72 ≤ i) && s.broken (standIn i)

/-- What a sensor contributes to TMAX: its reading, its substitute, 150.0 °C, or nothing for a broken region sensor (R449, R452). -/
def State.contribution1 (s : State) (i : Nat) : Option Int :=
  if !s.broken i then some (s.reading i)
  else if 64 ≤ i && i < 72 then none
  else if s.broken (standIn i) then some 1500
  else some (s.reading (standIn i) + 10 * (s.get .thermal THERMAL.TCTRL_SUB_MARGIN : Int))

/-- The highest contribution and its sensor, the lower index on a tie. -/
def State.hottest (s : State) : Int × Nat :=
  ((upTo 80).foldl (fun (a : Option (Int × Nat)) i => match s.contribution1 i, a with
    | some v, some (m, k) => if m < v then some (v, i) else some (m, k)
    | some v, none => some (v, i)
    | none, a => a) none).getD (1500, 0)

def maxOf (d : Int) (l : List Int) : Int := match l with | [] => d | x :: xs => xs.foldl max x

/-- T_ext: the highest present external reading + EXT_RISE, or the highest on-die reading + 10 °C (R453). -/
def State.tExt (s : State) : Int :=
  match ([0, 1, 2, 3].filter fun i => Nat.testBit (s.get .thermal THERMAL.EXT_CFG_PRESENT) i).map fun i => s.reading (80 + i) with
  | [] => maxOf 0 ((upTo 80).map s.reading) + 100
  | l => maxOf 0 l + 10 * (s.get .thermal THERMAL.EXT_CFG_EXT_RISE : Int)

/-- TMAX and MAX_SENSOR are shown; a place no longer watched sets NO_SUB (R452). -/
def showTmax : Act := acts [
  look fun s => acts [setF .thermal THERMAL.TMAX_DC (ofSigned 16 s.hottest.1), setF .thermal THERMAL.TSTATE_MAX_SENSOR s.hottest.2],
  look fun s => if (upTo 80).any s.noSubstitute then raiseFault .thermal 4 else skip]

/-- TSTATE.SOURCE: T_ext until the start is complete, and while EXT_FORCE is honoured, which it is outside FIELD (R454). -/
def showSource : Act := look fun s =>
  setB .thermal THERMAL.TSTATE_SOURCE (s.start.phase ≠ .complete || (s.get .thermal THERMAL.TCTRL_EXT_FORCE = 1 && s.lc ≠ 2))

/-! Thresholds (R455 to R458) -/

/-- The level of WARN, SHED, CRIT and SHUTDOWN: a level above the default is the default. -/
def State.threshold (s : State) (i : Nat) : Int :=
  if i = 0 then 10 * (min 95 (s.get .thermal THERMAL.TCTRL_WARN_LEVEL) : Nat)
  else if i = 1 then 10 * (min 103 (s.get .thermal THERMAL.TCTRL_SHED_LEVEL) : Nat) else if i = 2 then 1100 else 1180

def State.inForce (s : State) (i : Nat) : Bool := Nat.testBit s.power.inForce i

/-- Put a threshold in or out of force; TSTATE.STATE is the highest in force. -/
def setForce (i : Nat) (on : Bool) : Act := acts [
  updPower fun p => { p with inForce := if on then p.inForce ||| 2 ^ i else p.inForce &&& (15 - 2 ^ i) },
  look fun s => setF .thermal THERMAL.TSTATE_STATE (if s.inForce 2 then 3 else if s.inForce 1 then 2 else if s.inForce 0 then 1 else 0)]

/-- CRIT: shots that wait for a replay are delivered UNRECOVERED with THERMAL, and engines without a shot stop (R325, R457, R460). -/
def critBegins : Act := acts [
  look fun s => forEach (s.openGroups.filter fun g => (s.group g).voidedNow) fun g => endByCrit g 0,
  forEach (upTo 1024) fun e => look fun s => if s.engStopped e || s.inShot e then skip else stopEngine e .stopped]

/-- A trip goes into the always-on fault record: LAST_TRIP, then TMAX (R458, R459, R518). -/
def recordTrip (kind sensor : Nat) : Act := look fun s => keepRecord 2 s.st [kind + sensor * 2 ^ 8, s.get .thermal THERMAL.TMAX_DC]

/-- SHUTDOWN: every output mutes, every open attempt ends with THERMAL, and the device enters DORMANT, after the gap of a switchover
if one is in progress (R458, R460). -/
def shutdown : Act := acts [muteAll,
  look fun s => forEach s.openGroups fun g => stopGroup g (causeBits [.thermal]) 17,
  look fun s => recordTrip 1 (s.get .thermal THERMAL.TSTATE_MAX_SENSOR),
  look fun s => if s.flag .power POWER.PSTATUS_SWITCHING then updPower fun p => { p with afterGap := some .trip } else goDormant .trip]

/-! Dwell counts (R456, R461): a word for each sensor, and one for T_ext as number 84, of the consecutive samples, up to 8, with its
contribution at or above each threshold (four bits each) and below each clear level (four bits each, above them) -/

/-- The word of a sensor's dwell counts. -/
def dwellWord (i : Nat) : Nat := 0x100 + i

/-- The count of samples at or above threshold `l`, and of those below its clear level, 2 °C under it (R455). -/
def State.dwell (s : State) (i l : Nat) : Nat := bitsOf (s.word .sensors (dwellWord i)) (4 * l + 3) (4 * l)
def State.cool (s : State) (i l : Nat) : Nat := s.dwell i (4 + l)

/-- A sensor's counts after a sample with contribution `v`. -/
def countDwell (i : Nat) (v : Int) : Act := look fun s =>
  let step (on : Bool) (n : Nat) : Nat := if on then min 8 (n + 1) else 0
  setWord .sensors (dwellWord i) (((upTo 4).map fun l => step (s.threshold l ≤ v) (s.dwell i l) * 2 ^ (4 * l)
    + step (v < s.threshold l - 20) (s.cool i l) * 2 ^ (16 + 4 * l)).sum)

/-- One sample: the sensor's reading, which stays 150.0 °C once it is broken, and the counts of every contribution it makes: its own, and
that of a broken sensor it stands in for (R452, R461). An external sample, or with no external input any sample, is one of T_ext (R453). -/
def takeSample (x : SensorSample) : Act := look fun s =>
  let i := x.1.val
  acts [if s.broken i then skip else setWord .sensors i (s.sensor i / 2 ^ 16 * 2 ^ 16 + x.2.toNat),
    look fun s => forEach ((upTo 80).filter fun k =>
        (k = i && (!s.broken i || s.noSubstitute i)) || (s.broken k && !s.noSubstitute k && standIn k = i)) fun k =>
      match s.contribution1 k with | some v => countDwell k v | none => skip,
    look fun s => if 80 ≤ i || s.get .thermal THERMAL.EXT_CFG_PRESENT = 0 then countDwell 84 s.tExt else skip]

/-- The samples that have come, in order. -/
def takeSamples (l : List SensorSample) : Act := acts [forEach l takeSample, showTmax]

/-- The counts a threshold acts on: those of T_ext, or of every sensor that contributes (R454, R456). -/
def State.dwelling (s : State) : List Nat :=
  if s.get .thermal THERMAL.TSTATE_SOURCE = 1 then [84] else (upTo 80).filter fun i => (s.contribution1 i).isSome

/-- Some count has reached eight samples at or above a threshold. -/
def State.dwellsAt (s : State) (l : Nat) : Bool := s.dwelling.any fun i => s.dwell i l = 8

/-- THRESHOLD_FIRE: eight samples of one sensor at or above a threshold that is not in force, after every lower one has fired. -/
def actThresholdFire (level : Fin 4) (samples : List SensorSample) : Act := acts [takeSamples samples, look fun s =>
  if s.inForce level.val || !s.dwellsAt level.val || s.power.cause.isSome
      || !(upTo level.val).all (fun i => s.inForce i || !s.dwellsAt i) then skip else
  acts [setForce level.val true, wrapF .thermal ALL.EVENT_COUNT_COUNT,
    match level.val with
    | 0 => acts [countF .thermal THERMAL.COUNT_A_WARN, raiseFault .thermal 0]
    | 1 => acts [countF .thermal THERMAL.COUNT_A_SHED, raiseFault .thermal 1]
    | 2 => acts [countF .thermal THERMAL.COUNT_B_CRIT, raiseFault .thermal 2, critBegins]
    | _ => shutdown]]
def execThresholdFire (level : Fin 4) (samples : List SensorSample) (s : State) : Res := done (actThresholdFire level samples) s

/-- THRESHOLD_CLEAR: every sensor's last eight samples lie below the clear level, 2 °C under the threshold (R455, R456). -/
def actThresholdClear (level : Fin 3) (samples : List SensorSample) : Act := acts [takeSamples samples, look fun s =>
  if !s.inForce level.val || !s.dwelling.all (fun i => s.cool i level.val = 8) then skip
  else acts [setForce level.val false, if level.val = 1 then setF .thermal THERMAL.TSTATE_SLACK_THROTTLE 0 else skip]]
def execThresholdClear (level : Fin 3) (samples : List SensorSample) (s : State) : Res := done (actThresholdClear level samples) s

/-- The engines that own a tone of an output, or hold its flux lease, or own a marker. -/
def State.outputOwners (s : State) : AnyOutput → List Nat
  | .dac (.drive d) => (enginesOfBlock (d.val / 2)).filter fun e => (s.ownedTones e).any fun k => k < 1024 && k / 8 = d.val
  | .dac (.probe t) => (enginesOfRegion (t.val / 4)).filter fun e => (s.ownedTones e).any fun k => 1024 ≤ k && k < 2048 && (k - 1024) / 32 = t.val
  | .dac (.flux f) => (enginesOfBlock (f.val / 2)).filter fun e => s.holds e f.val
  | .marker m => (upTo 1024).filter fun e => Nat.testBit (s.get (cellPage e) CELL.MARK_ROUTE_OWN) m.val

/-- CRIT_OUTPUT_MUTE: under CRIT an output mutes once no owning engine has a shot open (R457). -/
def actCritOutputMute (o : AnyOutput) : Act := look fun s =>
  if !s.crit || (s.outputOwners o).any s.inShot then skip
  else match o with
    | .dac o => forceMute o
    | .marker m => forceMarkMute m.val
def execCritOutputMute (o : AnyOutput) (s : State) : Res := done (actCritOutputMute o) s

/-- SENSOR_BROKEN: the sensor reads 150.0 °C with BROKEN and its CAUSE, 1 to 5, until a reset that includes the chip (R451); its dwell counts
end, and its substitute's begin (R461). -/
def actSensorBroken (i : Fin 80) (cause : Fin 5) (samples : List SensorSample) : Act := acts [takeSamples samples, look fun s =>
  if s.broken i.val then skip
  else acts [setWord .sensors (dwellWord i.val) 0, setWord .sensors i.val (1500 + 2 ^ 16 + (cause.val + 1) * 2 ^ 17 + bitOf (s.sensor i.val) 20 * 2 ^ 20), raiseFault .thermal 3],
  showTmax]
def execSensorBroken (i : Fin 80) (cause : Fin 5) (samples : List SensorSample) (s : State) : Res :=
  done (actSensorBroken i cause samples) s

/-- A reading lies within 6 °C below a threshold that is not in force (R450). -/
def State.nearThreshold (s : State) (v : Int) : Bool :=
  [0, 1, 2, 3].any fun i => !s.inForce i && s.threshold i - 60 ≤ v && v < s.threshold i

/-- SENSOR_RATE_CHANGE: FAST follows the sensor's own reading. -/
def actSensorRateChange (i : Fin 80) (samples : List SensorSample) : Act := acts [takeSamples samples,
  look fun s => setWord .sensors i.val (s.sensor i.val % 2 ^ 20 + b2n (s.nearThreshold (s.reading i.val)) * 2 ^ 20)]
def execSensorRateChange (i : Fin 80) (samples : List SensorSample) (s : State) : Res := done (actSensorRateChange i samples) s

/-! HARD TRIP, DORMANT and the lifetime record (R459, R462, R463, R489) -/

/-- HARD_TRIP: the comparator of region or hot-spot sensor 64 + `h` turns both power stages off. -/
def actHardTrip (h : Fin 16) : Act := look fun s =>
  if s.power.unpowered then skip else acts [recordTrip 2 (64 + h.val), goDormant .trip]
def execHardTrip (h : Fin 16) (s : State) : Res := done (actHardTrip h) s

/-- The exit condition of each cause of DORMANT (R462, R489): `ext` is T_ext over the last second, `below` whether every comparator reads
below its level. -/
def State.mayExit (s : State) (ext : Int) (below : Bool) : Bool :=
  ([0, 1].any fun i => s.get (feedPage i) FEED.KSTATUS_FEED_GOOD = 1) &&
  match s.power.cause with
  | some .target => s.power.exitAsked
  | some .trip => ext < 850 && below
  | some .feeds => [0, 1].any fun i => s.get (feedPage i) FEED.KSTATUS_GOOD_MS = 100
  | none => false

/-- DORMANT_EXIT: a cold start begins. -/
def actDormantExit (ext : BitVec 16) (below : Bool) : Act := look fun s =>
  if s.mayExit ext.toInt below && !s.power.unpowered then fullReset (keptFields ++ alwaysOnFields) else skip
def execDormantExit (ext : BitVec 16) (below : Bool) (s : State) : Res := done (actDormantExit ext below) s

/-- LIFE_RECORD: once per hour the time average and the powered hours are written. -/
def actLifeRecord (average : BitVec 16) : Act :=
  acts [setF .thermal THERMAL.LIFE_AVG_DC average.toNat, countF .thermal THERMAL.LIFE_HOURS_HOURS]
def execLifeRecord (average : BitVec 16) (s : State) : Res := done (actLifeRecord average) s

end Sys2Proof.Machine
end

