-- ==== Sys2Proof/Machine/Security.lean ====
section
/-! DEFINITION. Security and life cycle (R465 to R484), the failure of REFCLK (R44), and the test port (R482, R483). -/

namespace Sys2Proof.Machine

/-! Tamper (R478 to R481) -/

/-- Tamper sources as TAMPER_LAST codes them: 1 mesh, 2 supply, 3 REFCLK, 4 temperature, 5 debug. -/
def countTamper (source : Nat) (full : Bool) : Act := acts [countF .security SECURITY.TAMPER_COUNT_COUNT,
  setF .security SECURITY.TAMPER_LAST_SOURCE source, setB .security SECURITY.TAMPER_LAST_FULL full]

/-- A logged event: recorded and counted, nothing wiped. -/
def tamperLog (source : Nat) : Act := acts [countTamper source false, raiseFault .security 0, logFault 4 0x20 0 [source]]

/-- The full response: outputs mute, engines and groups stop, the strongroom is cleared, the record is kept, and the chip is reset
(R479). The measurement registers and every memory are wiped with the reset. -/
def tamperFull (source : Nat) : Act := acts [muteAll,
  look fun s => forEach s.openGroups fun g => stopGroup g (causeBits [.stopped]) 17,
  forEach (upTo 1024) fun e => look fun s => if s.engStopped e then skip else haltCell e .stopped,
  clear .mem (strongAddr 0) (strongAddr 0x4_0000),
  countTamper source true, look fun s => keepRecord 4 s.st [source + 256], chipReset]

/-- A source that draws the full response in FIELD and is logged in the other states. -/
def tamperByState (source : Nat) : Act := look fun s => if s.lc = 2 then tamperFull source else tamperLog source

/-- The sealed identity key is erased (R466, R480). -/
def eraseIdentity : Act := acts [setWord .misc 3 0, setWord .misc 4 0, clear .mem (nvmAddr 4 0) (nvmAddr 5 0)]

/-- MESH_BREACH: the identity key is erased, at the next start where NVM is unpowered, and the full response follows. -/
def actMeshBreach : Act := look fun s =>
  if s.power.unpowered then skip
  else acts [if s.power.cause.isSome then setWord .misc 4 1 else eraseIdentity, tamperFull 1]
def execMeshBreach (s : State) : Res := done actMeshBreach s

/-- SUPPLY_GLITCH: an AUX input is out of 2.90 V to 3.80 V for 20 ns to 10 µs. -/
def actSupplyGlitch : Act := look fun s => if s.power.unpowered then skip else tamperByState 2
def execSupplyGlitch (s : State) : Res := done actSupplyGlitch s

/-- REFCLK_FAIL: ST_VALID clears, the converter clocks lose their lock, every output mutes, every shot in flight is void, and the event is a REFCLK glitch (R44). -/
def actRefclkFail : Act := acts [setF .timebase TIMEBASE.TB_STATUS_ST_VALID 0, setClocks false, raiseFault .timebase 3, muteAll,
  look fun s => forEach s.openGroups fun g => stopGroup g (causeBits [.timebase]) 17,
  look fun s => if s.power.unpowered then skip else tamperByState 3]
def execRefclkFail (s : State) : Res := done actRefclkFail s

/-- T_ext lies within −10 °C to +100 °C (R478, R488). -/
def startTemp (ext : BitVec 16) : Bool := -100 ≤ ext.toInt && ext.toInt ≤ 1000

/-- TEMP_AT_RESET: out of range at the end of a reset or at a cold start, the event is logged and the start is held
until COLD_START finds T_ext within range. -/
def actTempAtReset (ext : BitVec 16) : Act := look fun s =>
  if s.start.phase ≠ .due || startTemp ext || s.start.tempHeld then skip
  else acts [updStart fun r => { r with tempHeld := true }, tamperLog 4]
def execTempAtReset (ext : BitVec 16) (s : State) : Res := done (actTempAtReset ext) s

/-! Measurements of events, and the nonce (R471, R475) -/

/-- M6 measures an event. -/
def measureEvent (kind : Nat) (detail : List Nat) : Act :=
  extendMeasure 6 (Config.eventRecord kind detail) (Config.measureContext [kind])

/-- NONCE is drawn anew. -/
def drawNonce : Act := look fun s => acts [updStart fun r => { r with draws := r.draws + 1 },
  forEach (upTo 8) fun i => setF .security (SECURITY.NONCE_WORD i) (Config.random s.start.draws i).toNat]

/-- NONCE as a number of 32 bytes. -/
def State.nonce (s : State) : Nat := (upTo 8).foldl (fun a i => a + s.get .security (SECURITY.NONCE_WORD i) * 2 ^ (32 * i)) 0

/-! Tokens (R466, R470, R471) -/

/-- The transitions of R466 that a token asks for. -/
def transitions : List (Nat × Nat) := [(0, 1), (1, 2), (1, 3), (2, 3), (1, 4), (2, 4), (3, 4)]

/-- The checks of R470 on a token of a kind, 4 or 5, at byte address `a`: the first failing REASON. -/
def State.tokenReason (s : State) (a kind : Nat) : Option Nat :=
  let p := a + 0x80
  let from' := s.bytes (p + 8) 1
  let dest := s.bytes (p + 9) 1
  match s.imageReason a kind with
  | some r => some r
  | none =>
    if s.payloadLen a ≠ 112 || s.bytes (p + 0xA) 6 ≠ 0 || (!(kind = 4 && from' = 0 && dest = 1) && s.bytes (p + 0x30) 64 ≠ 0) then some 2
    else if s.bytes (p + 0x10) 32 ≠ s.nonce then some 6
    else if from' ≠ s.lc || (if kind = 4 then !transitions.contains (from', dest) else dest ≠ s.lc) then some 7
    else if s.bytes p 8 ≠ s.fuseSerial then some 8
    else none

/-! Security commands (R467, R470, R475 to R477, R484) -/

/-- SRC, SRC_LEN and DST. -/
def State.srcAddr (s : State) : Nat := s.pair .security SECURITY.SRC_LO SECURITY.SRC_HI
def State.srcLen (s : State) : Nat := s.get .security SECURITY.SRC_LEN_BYTES
def State.dstAddr (s : State) : Nat := s.get .security SECURITY.DST_LO * 64 + s.get .security SECURITY.DST_HI * 2 ^ 32
def State.srcRange (s : State) : Bool := hbmRange s.srcAddr s.srcLen

/-- The length of a passport (R476). -/
def passportLen : Nat := 51072

/-- A command is refused at once: REASON RANGE, or BUSY while another is in progress (R470, R477). -/
def refuseSecurity (reason : Nat) : Act := acts [setF .security SECURITY.CMD_STATUS_REASON reason, raiseFault .security 1]

/-- A command begins, with RANGE checked before BUSY. -/
def securityBegin (range : Bool) (cmd : State → Nat → SecurityCmd) (reason : State → Option Nat) : Act := look fun s =>
  if s.flag .security SECURITY.CMD_STATUS_BUSY then
    acts [refuseSecurity (if range then 1 else 0xC),
      match s.start.security with | some (.passport _) => if range then raiseFault .security 2 else skip | _ => skip]
  else acts [setF .security SECURITY.CMD_STATUS_BUSY 1, setF .security SECURITY.CMD_STATUS_DONE 0,
    updStart fun r => { r with security := some (cmd s (if range then (reason s).getD 0 else 0xC)) }]

/-- A command finishes with its REASON, 0 for success. -/
def securityEnd (reason : Nat) : Act := acts [setF .security SECURITY.CMD_STATUS_BUSY 0, setF .security SECURITY.CMD_STATUS_DONE 1,
  setB .security SECURITY.CMD_STATUS_OK (reason = 0), setF .security SECURITY.CMD_STATUS_REASON reason,
  updStart fun r => { r with security := none }, if reason = 0 then skip else raiseFault .security 1]

/-- Every engine is stopped and every output INERT, as a transition requires (R467). -/
def State.atRest (s : State) : Bool := s.allStopped && s.allInert

/-- LC: a transition with the token at SRC. -/
def actLifeCycle (fn : FuncId) : Act := forPf fn (look fun s =>
  securityBegin s.srcRange (fun s r => .transition (s.bytes (s.srcAddr + 0x89) 1) r)
    fun s => if !s.atRest then some 9 else s.tokenReason s.srcAddr 4)
def execLifeCycle (fn : FuncId) (s : State) : Res := done (actLifeCycle fn) s

/-- SCRAP: BLANK to SCRAPPED without a token; ignored in other states. -/
def actScrap (fn : FuncId) : Act := forPf fn (look fun s =>
  if s.lc ≠ 0 then skip else securityBegin true (fun _ r => .transition 4 r) fun s => if s.atRest then none else some 9)
def execScrap (fn : FuncId) (s : State) : Res := done (actScrap fn) s

/-- EXTEND: one of M8 to M15 with the bytes at SRC. -/
def actExtend (fn : FuncId) : Act := forPf fn (look fun s =>
  securityBegin (s.srcRange && 8 ≤ s.get .security SECURITY.EXT_SEL_REG) (fun _ r => .extend r) fun _ => none)
def execExtend (fn : FuncId) (s : State) : Res := done (actExtend fn) s

/-- PASSPORT: refused without a valid identity (R473). -/
def actPassport (fn : FuncId) : Act := forPf fn (look fun s =>
  securityBegin (onHost s.dstAddr || hbmRange s.dstAddr passportLen) (fun _ r => .passport r)
    fun s => if s.flag .security SECURITY.SSTATUS_ID_VALID then none else some 0xA)
def execPassport (fn : FuncId) (s : State) : Res := done (actPassport fn) s

/-- The signed bytes of a passport (R476). -/
def State.passportBody (s : State) : List Byte :=
  let mask := s.get .security SECURITY.PP_CTRL_MASK
  leBytes 0x53534150 4 ++ leBytes 1 2 ++ leBytes s.lc 1 ++ leBytes (s.get .chip CHIP.PART_REV_STEP) 1 ++ leBytes s.fuseSerial 8
    ++ leBytes s.st.toNat 8 ++ leBytes (s.get .chip CHIP.BOOT_COUNT_COUNT) 4 ++ leBytes mask 2 ++ leBytes 0 2
    ++ (upTo 8).flatMap (fun i => leBytes (s.get .security (SECURITY.PP_NONCE_WORD i)) 4)
    ++ s.byteList (nvmAddr 4 0) 64 ++ leBytes s.ownerDigest 64
    ++ (upTo 16).flatMap fun i => leBytes (if Nat.testBit mask i then s.measurement i else 0) 64

/-- The identity's private key, in the strongroom (R474). -/
def State.privateKey (s : State) : List Byte := s.byteList (strongAddr 64) 4032

/-- PASSPORT_DONE: the passport is written to DST in the physical function's view (R300, R477). -/
def actPassportDone : Act := look fun s =>
  match s.start.security with
  | some (.passport r) =>
    acts [if r = 0 then porterStore 0 s.dstAddr (s.passportBody ++ (Config.passportSignature s.privateKey s.passportBody).take 49856) else skip, securityEnd r]
  | _ => skip
def execPassportDone (s : State) : Res := done actPassportDone s

/-- What a transition erases in NVM (R466): into RETURN the identity and an owner configuration; into SCRAPPED every secret and every
image but the boot images. -/
def eraseFor (dest : Nat) : Act := look fun s =>
  if dest = 3 then acts [eraseIdentity, if s.bytes (nvmAddr 3 0x14) 2 = 1 then clear .mem (nvmAddr 3 0) (nvmAddr 4 0) else skip]
  else if dest = 4 then acts [eraseIdentity, clear .mem (nvmAddr 0 0) (nvmAddr 1 0), clear .mem (nvmAddr 3 0) (nvmAddr 4 0)]
  else skip

/-- The fuses of a transition are programmed: LC, and into PROVISIONED the owner's digest (R466, R468). -/
def fuseFor (dest : Nat) : Act := look fun s => acts [
  if dest = 1 then forEach (upTo 16) fun i => setWord .fuses (18 + i) (s.bytes (s.srcAddr + 0x80 + 0x30 + 4 * i) 4) else skip,
  setWord .fuses 34 dest]

/-- SECURITY_CMD_DONE: a transition is recorded, erases, fuses and resets the chip; an extension is made (R467, R475). -/
def actSecurityCmdDone : Act := look fun s =>
  match s.start.security with
  | some (.transition dest r) =>
    if r ≠ 0 then securityEnd r
    else acts [keepRecord 5 s.st [s.lc, dest], eraseFor dest, fuseFor dest, chipReset]
  | some (.extend r) =>
    acts [if r = 0 then extendMeasure (s.get .security SECURITY.EXT_SEL_REG) (s.byteList s.srcAddr s.srcLen)
        (s.pair .security SECURITY.EXT_CTX_LO SECURITY.EXT_CTX_HI) else skip, securityEnd r]
  | _ => skip
def execSecurityCmdDone (s : State) : Res := done actSecurityCmdDone s

/-! Debug (R478, R483) -/

/-- Where the security unit keeps a token that comes through the test port: it is checked there and cleared. -/
def tokenStore : Nat := 0x106_0000_0000

/-- DEBUG_UNLOCK: in FIELD a tamper event; after three failures refused; otherwise a token that passes opens debug, and one that
fails counts and draws the full response. -/
def actDebugUnlock (token : List Byte) : Act := acts [clear .mem tokenStore (tokenStore + 2 ^ 32), storeList tokenStore token, look fun s =>
  if s.lc = 2 then tamperFull 5
  else if s.lc = 4 || s.get .security SECURITY.DEBUG_FAILS_COUNT = 3 then skip
  else match s.tokenReason tokenStore 5 with
    | none => acts [setF .security SECURITY.SSTATUS_DEBUG_OPEN 1, drawNonce, measureEvent 0x100 [s.lc]]
    | some _ => acts [countF .security SECURITY.DEBUG_FAILS_COUNT, tamperFull 5],
  clear .mem tokenStore (tokenStore + 2 ^ 32)]
def execDebugUnlock (token : List Byte) (s : State) : Res := done (actDebugUnlock token) s

/-! Boundary scan (R482) -/

/-- An instruction of the test port; those of the second kind act only while RESET_N is held low, and are BYPASS otherwise. -/
def scan (i : ScanInstr) (needsReset : Bool) : Act := look fun s =>
  updStart fun r => { r with scan := if needsReset && !s.start.resetLow then .bypass else i, scanActs := needsReset && s.start.resetLow }

def actBypass : Act := scan .bypass false
def execBypass (s : State) : Res := done actBypass s
/-- IDCODE returns the part number and the manufacturer code. -/
def actIdcode : Act := acts [scan .idcode false, setRdata (Config.idcode 0x1024).toNat]
def execIdcode (s : State) : Res := done actIdcode s
def actSamplePreload : Act := scan .samplePreload false
def execSamplePreload (s : State) : Res := done actSamplePreload s
def actExtest : Act := scan .extest true
def execExtest (s : State) : Res := done actExtest s
def actClampInstr : Act := scan .clamp true
def execClampInstr (s : State) : Res := done actClampInstr s
def actHighz : Act := scan .highz true
def execHighz (s : State) : Res := done actHighz s
def actExtestPulse : Act := scan .extestPulse true
def execExtestPulse (s : State) : Res := done actExtestPulse s
def actExtestTrain : Act := scan .extestTrain true
def execExtestTrain (s : State) : Res := done actExtestTrain s

/-! M_DATA (R484) -/

/-- M_DATA: the selected word of the selected register; under AUTOINC the word advances, from 15 to 0. -/
def actMData (fn : FuncId) : Act := look fun s =>
  let w := s.get .security SECURITY.M_SEL_WORD
  if fn.val ≠ 0 then setRdata 0
  else acts [setRdata (s.word .measurements (16 * s.get .security SECURITY.M_SEL_REG + w)),
    if s.get .security SECURITY.M_SEL_AUTOINC = 1 then setF .security SECURITY.M_SEL_WORD (nextWord w 15 4) else skip]
def execMData (fn : FuncId) (s : State) : Res := done (actMData fn) s

end Sys2Proof.Machine
end

