-- ==== Sys2Proof/Machine/Startup.lean ====
section
/-! DEFINITION. Starts, resets, firmware and recovery (R485 to R496), and the fault log's reads (R517, R518). -/

namespace Sys2Proof.Machine

/-! Images in NVM (R155, R469, R492): store 0 the standard microcode, 1 and 2 the firmware slots A and B, 3 the configuration,
4 the sealed identity with its public key -/

/-- Byte 0 of a firmware slot. -/
def slotAddr (slot : Nat) : Nat := nvmAddr (1 + slot) 0

/-- EPOCH of a firmware image, and its length (R469). -/
def State.epoch (s : State) (a : Nat) : Nat := s.bytes (a + 0x16) 1
def State.imageLen (s : State) (a : Nat) : Nat := 0x80 + s.payloadLen a + 29792

/-- The checks of R470 on a firmware image. -/
def State.firmwareReason (s : State) (a : Nat) : Option Nat :=
  match s.imageReason a 1 with
  | some r => some r
  | none => if s.epoch a < s.fwFloor || 32 < s.epoch a then some 0xB else none

/-- M0 measures a firmware image, and FW_VERSION names it (R475, R513). -/
def runFirmware (slot : Nat) : Act := look fun s =>
  let a := slotAddr slot
  acts [updStart fun r => { r with slot := slot }, setF .chip CHIP.FW_VERSION_VERSION (s.bytes (a + 0x10) 4),
    extendMeasure 0 (s.byteList a (s.imageLen a)) (Config.measureContext [1, s.epoch a])]

/-- FW_FLOOR rises to the EPOCH of the running firmware (R472). -/
def raiseFloor : Act := look fun s =>
  let e := s.epoch (slotAddr s.start.slot)
  if s.fwFloor < e then acts [setWord .fuses 35 e, setF .security SECURITY.SSTATUS_FW_FLOOR e] else skip

/-- The standard microcode image is loaded into a block (R155, R475). -/
def loadStandard (k : Nat) : Act := look fun s =>
  let a := nvmAddr 0 0
  let p := blockPage k
  acts [copyCells (a + 0x80) (csAddr k 0) 0x8000, setF p BLOCK.UC_ID_VERSION (s.bytes (a + 0x10) 4), setF p BLOCK.UC_INFO_MODES 3,
    setF p BLOCK.UC_INFO_KEY_SLOT 0, setF p BLOCK.UC_INFO_STD 1, extendMeasure 2 (s.byteList a ucImageLen) k]

/-- BOOT_STATUS.STAGE (R514). -/
def setStage (i : Nat) : Act := setF .chip CHIP.BOOT_STATUS_STAGE i

/-! The fault log (R517, R518) -/

/-- An entry of the always-on fault record goes into the fault log (R441, R458, R479). -/
def copyRecord (x : FaultRecord) : Act := look fun s => acts [
  logFault x.kind (if x.kind = 2 then 0x18 else if x.kind = 3 then 0x10 else 0x20) 0 x.detail,
  let i := 16 * (s.word .misc 0 % 4096)
  acts [setWord .faultLog (i + 1) x.boot, setWord .faultLog (i + 2) x.at'.toNat, setWord .faultLog (i + 3) (x.at'.toNat / 2 ^ 32)],
  match x.kind with
  | 2 => acts [setF .thermal THERMAL.LAST_TRIP_KIND (x.detail.getD 0 0), setF .thermal THERMAL.LAST_TRIP_SENSOR (x.detail.getD 0 0 / 2 ^ 8),
      setPair .thermal THERMAL.LAST_TRIP_ST_LO THERMAL.LAST_TRIP_ST_HI x.at'.toNat]
  | 4 => acts [setF .security SECURITY.TAMPER_LAST_SOURCE (x.detail.getD 0 0), setB .security SECURITY.TAMPER_LAST_FULL true,
      measureEvent 4 x.detail]
  | 5 => measureEvent 5 x.detail
  | _ => skip]

/-- The last shot delivered for a group, as a KIND 7 entry (R325). -/
def copyLastShot (g : Nat) : Act := look fun s =>
  if s.word .lastShot (4 * g) = 0 then skip
  else logFault 7 0 0 [s.word .lastShot (4 * g + 1), s.word .lastShot (4 * g + 2), s.word .lastShot (4 * g + 3)]

/-- LOG_DATA: the selected word, counted from the newest entry; under AUTOINC the word advances, then the entry. -/
def actLogData (fn : FuncId) : Act := look fun s =>
  let e := s.get .nvm NVM.LOG_SEL_ENTRY
  let w := s.get .nvm NVM.LOG_SEL_WORD
  if fn.val ≠ 0 then setRdata 0
  else acts [setRdata (if e < s.get .nvm NVM.LOG_COUNT_HELD then s.word .faultLog (16 * ((s.word .misc 0 + 2 ^ 32 - 1 - e) % 4096) + w) else 0),
    if s.get .nvm NVM.LOG_SEL_AUTOINC = 0 then skip
    else acts [setF .nvm NVM.LOG_SEL_WORD (nextWord w 15 4), if w = 15 then setF .nvm NVM.LOG_SEL_ENTRY (e + 1) else skip]]
def execLogData (fn : FuncId) (s : State) : Res := done (actLogData fn) s

/-! The cold start (R488, R489) -/

/-- The keepers at a start from the first row: with both feeds good stage B is measured and goes COLD, and A is ACTIVE; with one, its
stage is. -/
def startKeepers (goodA goodB : Bool) (trimsA trimsB : Trims) : Act := acts [
  setB (feedPage 0) FEED.KSTATUS_FEED_GOOD goodA, setB (feedPage 1) FEED.KSTATUS_FEED_GOOD goodB,
  setRole 0 (if goodA then .active else .off), setRole 1 (if goodA && goodB then .cold else if goodB then .active else .off),
  setF .power POWER.PSTATUS_ACTIVE (if goodA then 0 else 1), setF .power POWER.VBUS_MV 1800,
  if goodA then recordTrims 0 trimsA else skip, if goodB then recordTrims 1 trimsB else skip,
  forEach [0, 1] fun i => updKeeper i fun k => { k with checked := false }, showArmed]

/-- COLD_START: from the always-on domain's start to the boot ROM's, once T_ext is within range and a feed is good; after a chip reset
from the boot ROM's row. -/
def actColdStart (ext : BitVec 16) (goodA goodB : Bool) (trimsA trimsB : Trims) : Act := look fun s =>
  if s.start.phase ≠ .due || s.start.resetLow || s.power.unpowered || s.power.cause.isSome || !startTemp ext
      || (!s.start.fromRom && !goodA && !goodB) then skip else
  acts [updStart fun r => { r with phase := .rom, tempHeld := false }, showSource,
    setOpen .thermal THERMAL.EXT_CFG_PRESENT, setOpen .thermal THERMAL.EXT_CFG_EXT_RISE,
    if s.start.fromRom then skip else startKeepers goodA goodB trimsA trimsB,
    setPage .power .ready, setPage (feedPage 0) .ready, setPage (feedPage 1) .ready,
    setF .chip CHIP.SERIAL_LO s.fuseSerial, setF .chip CHIP.SERIAL_HI (s.fuseSerial / 2 ^ 32),
    setF .chip CHIP.PART_REV_STEP s.fusePart, setF .chip CHIP.PART_REV_ORDER (s.fusePart / 2 ^ 8),
    setF .security SECURITY.SSTATUS_LC_STATE s.lc,
    if 1 ≤ s.lc then countF .chip CHIP.BOOT_COUNT_COUNT else skip,
    extendMeasure 0 Config.bootRom (Config.measureContext []), setStage 5]
def execColdStart (ext : BitVec 16) (goodA goodB : Bool) (trimsA trimsB : Trims) (s : State) : Res :=
  done (actColdStart ext goodA goodB trimsA trimsB) s

/-- The PCIe link trains (R422, R488). -/
def trainLink (gen : Fin 5) (width : BitVec 5) (refmode : BitVec 2) : Act := look fun s => acts [
  setF .host HOST.LINK_STATUS_GEN (min (gen.val + 1) (max 1 (s.get .host HOST.LINK_LIMIT_MAX_GEN))),
  setF .host HOST.LINK_STATUS_WIDTH (linkWidth width.toNat (s.get .host HOST.LINK_LIMIT_MAX_WIDTH)),
  setF .host HOST.LINK_STATUS_REFMODE refmode.toNat, setF .host HOST.LINK_STATUS_DL_UP 1]

/-- A slot whose image fails is logged (R492, R518). -/
def logSlot (slot reason : Nat) : Act := logFault 6 0x01 0 [slot, reason]

/-- FIRMWARE_START: the boot ROM verifies the active slot, then the other, and starts the image that passes, or enters recovery
(R492); the link and the HBM train. In SCRAPPED it goes no further (R465). -/
def actFirmwareStart (gen : Fin 5) (width : BitVec 5) (refmode : BitVec 2) : Act := look fun s =>
  if s.start.phase ≠ .rom || s.lc = 4 then skip else
  let active := s.word .misc 2 % 2
  let other := 1 - active
  let boot (slot : Nat) : Act := acts [updStart fun r => { r with phase := .firmware }, runFirmware slot,
    setF .chip CHIP.BOOT_STATUS_SLOT slot, pagesStarting, setPage .chip .ready, setStage 7]
  acts [setF .chip CHIP.FW_STATUS_ACTIVE active, trainLink gen width refmode, setF .hbm HBM.STATUS_TRAINED 1,
    match s.firmwareReason (slotAddr active) with
    | none => boot active
    | some r =>
      acts [logSlot active r, match s.firmwareReason (slotAddr other) with
        | none => acts [setF .chip CHIP.BOOT_STATUS_FALLBACK 1, raiseFault .chip 1, boot other]
        | some r2 => acts [logSlot other r2, setF .chip CHIP.BOOT_STATUS_RECOVERY 1, raiseFault .chip 3, setPage .chip .ready,
            updStart fun r => { r with phase := .recovery }]]]
def execFirmwareStart (gen : Fin 5) (width : BitVec 5) (refmode : BitVec 2) (s : State) : Res :=
  done (actFirmwareStart gen width refmode) s

/-- The sealing key: SHAKE256 of DEVICE_SECRET and the life-cycle state (R473). -/
def State.sealingKey (s : State) : List Byte := leBytes (Config.shake256 (leBytes s.deviceSecret 32 ++ leBytes s.lc 1)).toNat 64

/-- The bytes of NVM kept for a sealed key, behind the public key (log entry 87). -/
def sealedLen : Nat := 4032

/-- The identity key is generated at the first start in PROVISIONED and sealed into NVM, behind its public key; erased where a breach left
that to the start; the sealing key is formed in the strongroom and the private key unsealed into it (R310, R473, R474, R480). -/
def handleIdentity (sealOk : Bool) : Act := acts [
  look fun s => if s.word .misc 4 = 1 then eraseIdentity
    else if s.lc = 1 && s.word .misc 3 = 0 && s.word .misc 5 = 0 then
      acts [storeList (nvmAddr 4 0) (leBytes (Config.identityKey s.start.draws).toNat 64 ++ Config.sealUp s.sealingKey (Config.privateKey s.start.draws)),
        setWord .misc 3 1, setWord .misc 5 1,
        updStart fun r => { r with draws := r.draws + 1 }]
    else skip,
  look fun s =>
    let valid := (s.lc = 1 || s.lc = 2) && s.word .misc 3 = 1 && sealOk
    acts [setB .security SECURITY.SSTATUS_ID_VALID valid,
      storeList (strongAddr 0) s.sealingKey,
      if valid then storeList (strongAddr 64) (Config.unseal s.sealingKey (s.byteList (nvmAddr 4 64) sealedLen)) else skip]]

/-- Pages whose retest has failed read QUARANTINED, with all they enclose (R24, R504); the others read OFF. -/
def retestPages (ps : List Page) (failing : List Page) : Act := acts [
  forEach ps fun p => setPage p .off,
  forEach (ps.filter failing.contains) fun p => acts [
    match p with
    | .region n => forEach (pagesOfRegion n.val) fun q => setPage q .quarantined
    | .block k => forEach (pagesOfBlock k.val) fun q => setPage q .quarantined
    | p => setPage p .quarantined,
    quarantinePage p]]

/-- COLD_START_READY: memories wiped, the identity handled, the fault record copied, ST zeroed at lock, the standard microcode loaded,
the converters calibrated, quarantined units retested: the device is READY. -/
def actColdStartReady (dieTemp : BitVec 16) (sealOk : Bool) (bad : List Page) : Act := look fun s =>
  if s.start.phase ≠ .firmware then skip else
  acts [setF .hbm HBM.STATUS_WIPING 0, forEach (upTo 8) fun n => setWord .misc (wipeRegion n) 0,
    handleIdentity sealOk, drawNonce,
    setB .security SECURITY.SSTATUS_OWNER_KEY (s.ownerDigest ≠ 0), setF .security SECURITY.SSTATUS_FW_FLOOR s.fwFloor,
    setB .security SECURITY.SSTATUS_DEBUG_OPEN (s.lc = 0),
    forEach s.power.records copyRecord, updPower fun p => { p with records := [] },
    forEach (upTo 256) copyLastShot, clear .tbl (tblKey .lastShot 0) (tblKey .lastShot (2 ^ 44)),
    updTime fun x => { x with coarse := 0, fine := 0, counting := true, lockLost := [] }, setClocks true,
    setF .timebase TIMEBASE.TB_STATUS_ST_VALID 1, forEach (upTo 64) loadStandard, saveCalibration dieTemp,
    forEach (chipPages.filter fun p => p ≠ .fabric && !(lanes.map portPage).contains p) fun p => setPage p .ready,
    forEach (Page.fabric :: lanes.map portPage) fun p => setPage p .off,
    retestPages unitPages (s.start.retest.filter bad.contains),
    setF .nvm NVM.NSTATUS_JOURNAL_OK 1,
    updStart fun r => { r with phase := .complete, fromRom := false, retest := [] }, showSource,
    setF .power POWER.PSTATUS_STATE 2, raiseFloor, setStage 13]
def execColdStartReady (dieTemp : BitVec 16) (sealOk : Bool) (bad : List Page) (s : State) : Res :=
  done (actColdStartReady dieTemp sealOk bad) s

/-! Chip resets (R485, R487) -/

/-- RESET_N: low for 1 µs, or a PCIe conventional reset, resets the chip at once; low also asks for the exit from DORMANT after a TARGET
(R489), and while it stays low no start begins. -/
def actResetN (pin : ResetPin) : Act := look fun s =>
  match pin with
  | .high => updStart fun r => { r with resetLow := false, scanActs := false, scan := if r.scanActs then .bypass else r.scan }
  | .low => acts [updStart fun r => { r with resetLow := true }, if s.power.cause.isSome then updPower fun p => { p with exitAsked := true } else chipReset]
  | .pcie => chipReset
def execResetN (pin : ResetPin) (s : State) : Res := done (actResetN pin) s

/-- RESET_CTRL.CHIP. -/
def actResetCtrlChip (fn : FuncId) : Act := forPf fn chipResetAfterGap
def execResetCtrlChip (fn : FuncId) (s : State) : Res := done (actResetCtrlChip fn) s

/-- PF_FLR: a Function Level Reset of the physical function. -/
def actPfFlr : Act := chipResetAfterGap
def execPfFlr (s : State) : Res := done actPfFlr s

/-! Region and block resets (R485 to R487) -/

/-- The fields of a page that its unit's reset keeps: GUEST_OWNER of a CELL, DSP or BANK page, the spare rows in use (R309). -/
def keptOfPage : Page → List Field
  | .cell _ | .dsp _ | .bank _ => [ALL.GUEST_OWNER_GUEST]
  | .porter _ => spareRows
  | _ => []

/-- The registers of a page return to their reset values but for those kept. -/
def resetPage (p : Page) : Act := look fun s =>
  acts [clear .regs (pageBase p * 32) ((pageBase p + 0x1000) * 32), forEach (keptOfPage p) fun f => setF p f (s.get p f)]

/-- Every engine of a reset stops, and every group with such a member stops with STOPPED (R324, R486). -/
def stopForReset (es : List Nat) : Act := acts [
  look fun s => forEach ((es.map s.groupOf).eraseDups.filter fun g => g < 256 || (s.group g).open') fun g => stopGroup g (causeBits [.stopped]) 17,
  forEach es fun e => haltCell e .stopped]

/-- Return a range of every store that numbers its elements by block, or by engine, to reset. -/
def clearBlock (k : Nat) : Act := acts [
  clear .engs (16 * k) (16 * k + 16), clear .engs (1024 + k) (1025 + k), clear .groups (256 + 16 * k) (256 + 16 * k + 16), clear .blks k (k + 1), clear .dsps k (k + 1),
  clear .outputs (2 * k) (2 * k + 2), clear .outputs (160 + 2 * k) (160 + 2 * k + 2),
  wipeBytes (bankAddr k 0) 0x40_0000, clear .mem (csAddr k 0) (csAddr k 0x2000), clear .mem (pmemAddr k 0) (pmemAddr k 0x2000),
  clear .mem (spareAddr k 0) (spareAddr k 0x1_0000), forEach (enginesOfBlock k) fun e => clear .mem (keptProgAddr e 0) (keptProgAddr e 0x1_0000),
  clear .tbl (tblKey .poison (csMark k 0)) (tblKey .poison (csMark k 0x2000)), clear .tbl (tblKey .poison (pmemMark k 0)) (tblKey .poison (pmemMark k 0x2000)),
  forEach [0x1000 + k, 0x1040 + k, 0x1080 + k] fun i => setWord .misc i 0, forEach (enginesOfBlock k) fun e => setWord .misc (0x1400 + e) 0]

/-- What plays on a block's outputs ends; the frames of its tones survive (R485). -/
def endBlockTones (k : Nat) : Act := forEach ((upTo 16).map (16 * k + ·)) endTone

/-- A block is reset: stopped, INERT, wiped, its registers at their reset values. -/
def resetBlock (k : Nat) : Act := acts [
  stopForReset (enginesOfBlock k), endBlockTones k, forEach (outputsOfBlock k) forceInert,
  look fun s => updStart fun r => { r with retest := (r.retest ++ (pagesOfBlock k).filter fun p => s.pageIs p .quarantined).eraseDups },
  clearBlock k, forEach (pagesOfBlock k) fun p => acts [resetPage p, setPage p .starting], setWord .misc (wipeBlock k) 1]

/-- The parts of a region outside its blocks. -/
def clearRegion (n : Nat) : Act := acts [
  clear .slots (128 * n) (128 * n + 128), clear .slots (1024 + 256 * n) (1024 + 256 * n + 256),
  clear .trigs (128 * n) (128 * n + 128), clear .trigs (1024 + 4 * n) (1024 + 4 * n + 4), clear .trigs (1056 + 2 * n) (1056 + 2 * n + 2),
  clear .rxs (4 * n) (4 * n + 4), clear .funcs (256 * n) (256 * n + 256), clear .formers (128 * n) (128 * n + 128),
  clear .formers (1024 + 4 * n) (1024 + 4 * n + 4), clear .capqs n (n + 1), clear .coincs (8 * n) (8 * n + 8), clear .dqs (65 * n) (65 * n + 65),
  clear .outputs (128 + 4 * n) (128 + 4 * n + 4), clear .outputs (288 + 2 * n) (288 + 2 * n + 2),
  clear .tones (128 * n) (128 * n + 128), clear .tones (1024 + 128 * n) (1024 + 128 * n + 128), clear .tones (2048 + 128 * n) (2048 + 128 * n + 128),
  clear .tbl (tblKey .functions (256 * n * 136)) (tblKey .functions (256 * (n + 1) * 136)),
  clear .tbl (tblKey .units (256 * n * 16)) (tblKey .units (256 * (n + 1) * 16)),
  clear .tbl (tblKey .poison (ledgerMark n 0)) (tblKey .poison (ledgerMark n 0x8_0000)),
  clear .tbl (tblKey .poison (captureMark n 0)) (tblKey .poison (captureMark n 0x8_0000)),
  forEach [0x10C0 + n, 0x10C8 + n, 0x10D0 + n, 0x10D8 + n] fun i => setWord .misc i 0,
  wipeBytes (ctxAddr n 0) 0x400_0000, updLed fun l => { l with waiting := l.waiting.filter fun r => r.region ≠ n }]

/-- REGION_RESET: the region, its eight blocks, its converter die and the frames of its 384 tones; merged into a reset under way. -/
def actRegionReset (fn : FuncId) (n : RegionId) : Act := forPf fn (look fun s =>
  let n := n.val
  if s.start.phase ≠ .complete || s.start.regionsInReset.contains n then skip else
  acts [forEach (upTo 8) fun b => resetBlock (8 * n + b), forEach (probesOfRegion n) forceInert, forEach [2 * n, 2 * n + 1] forceMarkInert,
    forEach ((upTo 128).map (1024 + 128 * n + ·)) endTone,
    look fun s => updStart fun r => { r with
      retest := (r.retest ++ (pagesOfRegion n).filter fun p => s.pageIs p .quarantined).eraseDups
      regionsInReset := n :: r.regionsInReset, blocksInReset := r.blocksInReset.filter fun k => k / 8 ≠ n },
    clearRegion n, forEach ([regionPage n, decPage n, acqPage n, porterPage n] ++ (upTo 4).map fun q => rxPage (4 * n + q))
      fun p => acts [resetPage p, setPage p .starting],
    setWord .misc (wipeRegion n) 1])
def execRegionReset (fn : FuncId) (n : RegionId) (s : State) : Res := done (actRegionReset fn n) s

/-- BLOCK_RST. -/
def actBlockRst (fn : FuncId) (k : BlockId) : Act := forPf fn (look fun s =>
  if s.start.phase ≠ .complete || s.start.blocksInReset.contains k.val || s.start.regionsInReset.contains (k.val / 8) then skip
  else acts [resetBlock k.val, updStart fun r => { r with blocksInReset := k.val :: r.blocksInReset }])
def execBlockRst (fn : FuncId) (k : BlockId) (s : State) : Res := done (actBlockRst fn k) s

/-- A bring-up completes: microcode is loaded, quarantined units are retested, and the pages read OFF (R486). -/
def bringUp (ps : List Page) (ks : List Nat) (bad : List Page) : Act := look fun s => acts [
  forEach ks loadStandard, retestPages ps (s.start.retest.filter fun p => ps.contains p && bad.contains p),
  updStart fun r => { r with retest := r.retest.filter fun p => !ps.contains p }]

/-- REGION_RESET_DONE: the die's clock is locked again. -/
def actRegionResetDone (n : RegionId) (bad : List Page) : Act := look fun s =>
  if !s.start.regionsInReset.contains n.val then skip else
  acts [setWord .misc (wipeRegion n.val) 0, forEach ((upTo 8).map (8 * n.val + ·)) fun k => setWord .misc (wipeBlock k) 0,
    bringUp (pagesOfRegion n.val) ((upTo 8).map (8 * n.val + ·)) bad,
    updTime fun x => { x with lockLost := x.lockLost.filter (· ≠ n.val) }, showLocked,
    updStart fun r => { r with regionsInReset := r.regionsInReset.filter (· ≠ n.val) }]
def execRegionResetDone (n : RegionId) (bad : List Page) (s : State) : Res := done (actRegionResetDone n bad) s

/-- BLOCK_RESET_DONE. -/
def actBlockResetDone (k : BlockId) (bad : List Page) : Act := look fun s =>
  if !s.start.blocksInReset.contains k.val then skip else
  acts [setWord .misc (wipeBlock k.val) 0, bringUp (pagesOfBlock k.val) [k.val] bad,
    updStart fun r => { r with blocksInReset := r.blocksInReset.filter (· ≠ k.val) }]
def execBlockResetDone (k : BlockId) (bad : List Page) (s : State) : Res := done (actBlockResetDone k bad) s

/-! Firmware (R470, R492, R493) -/

/-- FW_SRC and its range (R470). -/
def State.fwSrc (s : State) : Nat := s.pair .chip CHIP.FW_SRC_LO CHIP.FW_SRC_HI
def State.fwRange (s : State) : Bool := hbmRange s.fwSrc (s.get .chip CHIP.FW_LEN_BYTES)

/-- A firmware command begins; another in progress makes it BUSY, after RANGE (R470). -/
def firmwareBegin (c : FirmwareCmd) (range : Bool) : Act := look fun s =>
  if s.flag .chip CHIP.FW_STATUS_BUSY then setF .chip CHIP.FW_STATUS_REASON (if range then 1 else 0xC)
  else acts [setF .chip CHIP.FW_STATUS_BUSY 1, setF .chip CHIP.FW_STATUS_DONE 0, updStart fun r => { r with firmware := some c }]

/-- A firmware command ends with its REASON, 0 for success. -/
def firmwareEnd (reason : Nat) : Act := acts [setF .chip CHIP.FW_STATUS_BUSY 0, setF .chip CHIP.FW_STATUS_DONE 1,
  setB .chip CHIP.FW_STATUS_OK (reason = 0), setF .chip CHIP.FW_STATUS_REASON reason, updStart fun r => { r with firmware := none }]

/-- STAGE. -/
def actFwStage (fn : FuncId) : Act := forPf fn (look fun s =>
  if s.start.phase ≠ .complete then skip else firmwareBegin .stage s.fwRange)
def execFwStage (fn : FuncId) (s : State) : Res := done (actFwStage fn) s

/-- RECOVER, acted on only in recovery. -/
def actFwRecover (fn : FuncId) : Act := forPf fn (look fun s =>
  if s.start.phase ≠ .recovery then skip else firmwareBegin .recover s.fwRange)
def execFwRecover (fn : FuncId) (s : State) : Res := done (actFwRecover fn) s

/-- The image at FW_SRC replaces a slot. -/
def writeSlot (slot : Nat) : Act := look fun s =>
  acts [clear .mem (slotAddr slot) (slotAddr (slot + 1)), copyCells s.fwSrc (slotAddr slot) (s.imageLen s.fwSrc)]

/-- FW_STAGE_DONE: a staged image goes into the inactive slot; a recovered one into slot A, which the boot record then names, and
the chip is reset. -/
def actFwStageDone : Act := look fun s =>
  let reason := if !s.fwRange then some 0xC else s.firmwareReason s.fwSrc
  match s.start.firmware, reason with
  | some .stage, none => acts [writeSlot (1 - s.start.slot), firmwareEnd 0]
  | some .recover, none => acts [writeSlot 0, firmwareEnd 0, setWord .misc 2 0, chipReset]
  | some .stage, some r => firmwareEnd r
  | some .recover, some r => firmwareEnd r
  | _, _ => skip
def execFwStageDone (s : State) : Res := done actFwStageDone s

/-- SWITCH: no group opens a shot until the hold ends (R319). -/
def actFwSwitch (fn : FuncId) : Act := forPf fn (look fun s =>
  if s.start.phase ≠ .complete then skip
  else acts [firmwareBegin .switch true, if s.flag .chip CHIP.FW_STATUS_BUSY then skip else setWord .misc 1 1])
def execFwSwitch (fn : FuncId) (s : State) : Res := done (actFwSwitch fn) s

/-- The hold ends, and groups go on to their next shots. -/
def releaseHold : Act := acts [setWord .misc 1 0, look fun s => forEach ((upTo 256).filter s.grpEnabled ++ (s.groups.filter fun kv => 256 ≤ kv.1).map (·.1)) fun g =>
  look fun s => if (s.group g).open' then skip else continueMembers g,
  forEach (upTo 1024) fun e => look fun s => match (s.eng e).wait with
    | .settle next => if s.inShot e then skip else afterSettle e next
    | _ => skip]

/-- FW_HOLD_REACHED: every group is at its boundary; the image of the other slot takes over, or on a return the old one. -/
def actFwHoldReached : Act := look fun s =>
  if s.word .misc 1 = 0 || s.openGroups ≠ [] then skip else
  let dest := 1 - s.start.slot
  if s.start.reverting then
    acts [runFirmware dest, updStart fun r => { r with reverting := false }, setF .chip CHIP.FW_STATUS_REVERTED 1, raiseFault .chip 0,
      logSlot s.start.slot 0, if s.start.firmware = some .switch then firmwareEnd 0 else skip, releaseHold]
  else match s.firmwareReason (slotAddr dest) with
    | some r => acts [firmwareEnd r, releaseHold]
    | none => acts [runFirmware dest, updStart fun r => { r with confirming := true }, firmwareEnd 0, releaseHold]
def execFwHoldReached (s : State) : Res := done actFwHoldReached s

/-- FW_HOLD_TIMEOUT: a group has not reached its boundary within 1 s; the switch is refused with BUSY. -/
def actFwHoldTimeout : Act := look fun s =>
  if s.word .misc 1 = 0 || s.openGroups = [] then skip
  else acts [if s.start.firmware = some .switch then firmwareEnd 1 else skip, releaseHold]
def execFwHoldTimeout (s : State) : Res := done actFwHoldTimeout s

/-- FW_CONFIRM: the new image is healthy; the boot record names its slot and FW_FLOOR rises if due. -/
def actFwConfirm : Act := look fun s =>
  if !s.start.confirming then skip
  else acts [setWord .misc 2 s.start.slot, setF .chip CHIP.FW_STATUS_ACTIVE s.start.slot, raiseFloor,
    updStart fun r => { r with confirming := false }]
def execFwConfirm (s : State) : Res := done actFwConfirm s

/-- FW_CONFIRM_TIMEOUT: the innkeeper's watchdog returns to the old image at the next hold, which it begins. -/
def actFwConfirmTimeout : Act := look fun s =>
  if !s.start.confirming then skip
  else acts [updStart fun r => { r with confirming := false, reverting := true }, setWord .misc 1 1]
def execFwConfirmTimeout (s : State) : Res := done actFwConfirmTimeout s

end Sys2Proof.Machine
end

