-- ==== Sys2Proof/Machine/Pages.lean ====
section
/-! DEFINITION. The common header of every page: who reaches it, ENABLE and the page states (R25, R446, R504 to R507), QUIESCE_REQ
(R508), FAULT (R510), GUEST_OWNER (R512); the route registers (R30 to R35, R99) and the time registers (R131). -/

namespace Sys2Proof.Machine

/-! Pages and who reaches them (R405, R406, R502, R505, R521) -/

/-- The pages that enclose a page. -/
def enclosers : Page → List Page
  | .transceiver t => [regionPage (t.val / 4)]
  | .decision n | .acquisition n | .porter n => [.region n]
  | .block k => [regionPage (k.val / 8)]
  | .drive d => [blockPage (d.val / 2), regionPage (d.val / 16)]
  | .flux f => [blockPage (f.val / 2), regionPage (f.val / 16)]
  | .dsp k | .bank k => [.block k, regionPage (k.val / 8)]
  | .cell e => [blockPage (e.val / 16), regionPage (e.val / 128)]
  | _ => []

/-- The pages a page encloses. -/
def enclosed : Page → List Page
  | .region n => (pagesOfRegion n.val).drop 1
  | .block k => (pagesOfBlock k.val).drop 1
  | _ => []

/-- A page of a region or of a block. -/
def onUnit : Page → Bool
  | .region _ | .transceiver _ | .decision _ | .acquisition _ | .porter _
  | .block _ | .drive _ | .flux _ | .dsp _ | .bank _ | .cell _ => true
  | _ => false

/-- A page whose ENABLE moves its state (R504). -/
def hasEnable : Page → Bool
  | .fabric | .port _ => true
  | p => onUnit p

/-- In the boot ROM's recovery mode only the CHIP page is shown (R502); the physical function's BAR0 shows its own FENCE instance
alone (R424). -/
def State.pfReaches (s : State) (p : Page) : Bool :=
  (s.start.phase ≠ .recovery || p = .chip) && (match p with | .fence g => g.val = 0 | _ => true)

/-- The pages a guest reaches in full and may write: CELL, DSP, its FENCE and its SESSION page (R406, R521); of a BANK page it reads
only (R312). -/
def State.guestReaches (s : State) (fn : FuncId) : Page → Bool
  | .cell e => s.reachesCell fn e.val
  | .dsp k => s.reachesDsp fn k.val
  | .fence g => g = fn && s.guestReady fn.val
  | .session g => g.val + 1 = fn.val && s.guestReady fn.val
  | _ => false

/-- A function reaches a page's header for writing. -/
def State.reachesPage (s : State) (fn : FuncId) (p : Page) : Bool := if fn.val = 0 then s.pfReaches p else s.guestReaches fn p

def forPage (fn : FuncId) (p : Page) (a : Act) : Act := look fun s => if s.reachesPage fn p then a else skip

/-! Starts and drains of pages (R446, R505) -/

/-- A page that a reset holds in STARTING (R486). -/
def State.pageInReset (s : State) : Page → Bool
  | .region n | .decision n | .acquisition n | .porter n => s.start.regionsInReset.contains n.val
  | .transceiver t => s.start.regionsInReset.contains (t.val / 4)
  | .block k | .dsp k | .bank k => s.start.blocksInReset.contains k.val || s.start.regionsInReset.contains (k.val / 8)
  | .drive d => s.start.blocksInReset.contains (d.val / 2) || s.start.regionsInReset.contains (d.val / 16)
  | .flux f => s.start.blocksInReset.contains (f.val / 2) || s.start.regionsInReset.contains (f.val / 16)
  | .cell e => s.start.blocksInReset.contains (e.val / 16) || s.start.regionsInReset.contains (e.val / 128)
  | _ => false

/-- The OFF pages a page encloses whose ENABLE bit is set come back (R505). -/
def bringBack (p : Page) : Act := forEach (enclosed p) fun q => look fun s =>
  if s.pageIs q .off && s.flag q ALL.PAGE_CTRL_ENABLE then setPage q .starting else skip

/-- What a drain ends on a page (R446): engines stop as under R91, a FAULTED one staying FAULTED (R547), and lose what idle tending
left; outputs and markers go INERT; records end (R259, R507); a port's lanes go INERT (R401); the device leaves the fabric. -/
def drainUnits : Page → Act
  | .cell e => acts [look fun s => stopEngine e.val (if s.engIs e.val .faulted then .faulted else .stopped),
      updEng e.val fun r => { r with tending := false }]
  | .drive d => forceInert (.drive d)
  | .flux f => forceInert (.flux f)
  | .transceiver t => forceInert (.probe t)
  | .acquisition n => acts [forEach [2 * n.val, 2 * n.val + 1] forceMarkInert,
      endRecords ((upTo 128).map (128 * n.val + ·) ++ (upTo 4).map (1024 + 4 * n.val + ·)) false]
  | .port p => portDisable p.val
  | .fabric => leaveFabric
  | _ => skip

/-- One page drains. -/
def drainOne (p : Page) : Act := acts [setPage p .draining, drainUnits p]

/-- A page drains with every page it encloses that is not OFF. -/
def drainPage (p : Page) : Act := acts [
  forEach (enclosed p) fun q => look fun s => if s.pageIs q .starting || s.pageIs q .ready then drainOne q else skip,
  drainOne p]

/-- In STANDBY, ENABLE writes to the pages of regions and blocks are ignored (R443). -/
def State.standbyBars (s : State) (p : Page) : Bool := onUnit p && s.get .power POWER.PSTATUS_STATE < 2

/-- An ENABLE that causes a pace-mode change is noted, and forgotten once no change waits (R145). -/
def notePace (p : Page) (before : State) : Act := look fun s =>
  match p with
  | .cell e =>
    let k := blockOf e
    if !s.pacePending k then updBlk k fun b => { b with paceCell := none }
    else if before.pacePending k then skip else updBlk k fun b => { b with paceCell := some (cellOf e) }
  | _ => skip

/-- ENABLE written 1 (R25, R446, R506); a page without an ENABLE function keeps the bit and nothing else. -/
def enablePage (p : Page) : Act := look fun s =>
  if !hasEnable p then setF p ALL.PAGE_CTRL_ENABLE 1
  else if s.standbyBars p || (p :: enclosers p).any fun q => s.pageIs q .quarantined then skip
  else if s.pageIs p .off then acts [setF p ALL.PAGE_CTRL_ENABLE 1, notePace p s, setPage p .starting, bringBack p]
  else if s.pageIs p .draining then acts [setF p ALL.PAGE_CTRL_ENABLE 1, notePace p s]
  else skip

/-- ENABLE written 0: READY drains; STARTING completes and then drains; DRAINING loses a re-enable (R446). -/
def disablePage (p : Page) : Act := look fun s =>
  if s.standbyBars p && hasEnable p then skip
  else acts [setF p ALL.PAGE_CTRL_ENABLE 0, notePace p s, if hasEnable p && s.pageIs p .ready then drainPage p else skip]

/-- PAGE_ENABLE. -/
def actPageEnable (fn : FuncId) (p : Page) : Act := forPage fn p (enablePage p)
def execPageEnable (fn : FuncId) (p : Page) (s : State) : Res := done (actPageEnable fn p) s

/-- PAGE_DISABLE. -/
def actPageDisable (fn : FuncId) (p : Page) : Act := forPage fn p (disablePage p)
def execPageDisable (fn : FuncId) (p : Page) (s : State) : Res := done (actPageDisable fn p) s

/-- A cell whose ENABLE write caused a pace-mode change that is still to be made (R145). -/
def State.paceHolds (s : State) : Page → Bool
  | .cell e => s.paceHoldsCell e.val
  | _ => false

/-- A page's units are up: held starts act (R89), a port's lanes train (R366). -/
def pageReady (p : Page) : Act := acts [setPage p .ready,
  match p with
  | .cell e => actHeld e.val
  | .port q => portEnable q.val
  | _ => skip]

/-- PAGE_STARTED: a STARTING page reads READY once every page that encloses it is READY; one disabled meanwhile drains. -/
def actPageStarted (p : Page) : Act := look fun s =>
  if !hasEnable p || !s.pageIs p .starting || s.pageInReset p || s.start.phase ≠ .complete then skip
  else if s.get p ALL.PAGE_CTRL_ENABLE = 0 then drainPage p
  else if !(enclosers p).all (fun q => s.pageIs q .ready) || s.paceHolds p then skip
  else pageReady p
def execPageStarted (p : Page) (s : State) : Res := done (actPageStarted p) s

/-- PAGE_DRAINED: the drain of a page, after those of the pages it encloses, ends in OFF, or in STARTING under a re-enable; an enclosed
page comes back with the page that encloses it. -/
def actPageDrained (p : Page) : Act := look fun s =>
  if !s.pageIs p .draining || (enclosed p).any fun q => s.pageIs q .draining then skip
  else if s.flag p ALL.PAGE_CTRL_ENABLE && !(enclosers p).any (fun q => s.pageIs q .off || s.pageIs q .draining) then
    acts [setPage p .starting, bringBack p]
  else setPage p .off
def execPageDrained (p : Page) (s : State) : Res := done (actPageDrained p) s

/-! QUIESCE_REQ (R508) -/

/-- The engines a page holds or encloses. -/
def enginesOn : Page → List Nat
  | .cell e => [e.val]
  | .block k => enginesOfBlock k.val
  | .region n => enginesOfRegion n.val
  | _ => []

/-- QUIESCE_REQ: setting it discards the start requests already held. -/
def actQuiesceReq (p : Page) (on : Bool) : Act := acts [setB p ALL.PAGE_CTRL_QUIESCE_REQ on,
  if on then forEach (enginesOn p) fun e => setF (cellPage e) CELL.STATUS_START_PENDING 0 else skip]
def execQuiesceReq (p : Page) (on : Bool) (s : State) : Res := done (actQuiesceReq p on) s

/-! FAULT (R510) -/

/-- A host write to FAULT clears the bits written 1, and the record when it leaves FAULT at 0x0. -/
def clearFault (p : Page) (v : Word) : Act := look fun s =>
  let left := s.get p ALL.FAULT_BITS &&& (2 ^ 32 - 1 - v.toNat)
  acts [setF p ALL.FAULT_BITS left, if left = 0 then setF p ALL.FAULT_FIRST_VALID 0 else skip]

/-- FAULT_WRITE. -/
def actFaultWrite (fn : FuncId) (p : Page) (v : Word) : Act := forPage fn p (clearFault p v)
def execFaultWrite (fn : FuncId) (p : Page) (v : Word) (s : State) : Res := done (actFaultWrite fn p v) s

/-! Routes (R30 to R35, R99) -/

/-- A CELL register of access code RWL is writable while the page is OFF or the engine stopped (R9, R547). -/
def State.cellOpen (s : State) (e : Nat) : Bool := s.pageIs (cellPage e) .off || s.engStopped e

/-- The engine a route register describes. -/
def routeEngine : RouteReg → Nat
  | .cell e | .read e => e.val

/-- The page a route register lies on. -/
def routePage : RouteReg → Page
  | .cell e => blockPage (blockOf e.val)
  | .read e => regionPage (regionOf e.val)

/-- A route word takes its fields (R32, R34). -/
def putRoute (r : RouteReg) (v : Word) : Act :=
  let p := (routePage r)
  match r with
  | .cell e =>
    let c := cellOf e.val
    acts [setF p (BLOCK.CELL_ROUTE_SLOT c) (bitsOf v.toNat 2 0), setF p (BLOCK.CELL_ROUTE_J c) (bitOf v.toNat 3),
      setF p (BLOCK.CELL_ROUTE_FLUX_DENY c) (bitsOf v.toNat 5 4), setF p (BLOCK.CELL_ROUTE_NONE c) (bitOf v.toNat 30),
      setF p (BLOCK.CELL_ROUTE_EN c) (bitOf v.toNat 31)]
  | .read e =>
    let i := e.val % 128
    acts [setF p (REGION.READ_ROUTE_SLOT i) (bitsOf v.toNat 4 0), setF p (REGION.READ_ROUTE_FEED i) (bitsOf v.toNat 6 5),
      setF p (REGION.READ_ROUTE_NONE i) (bitOf v.toNat 30), setF p (REGION.READ_ROUTE_EN i) (bitOf v.toNat 31)]

/-- Another engine that could own the same tone owns a tone that engine `e` owns (R30). -/
def State.toneClash (s : State) (e : Nat) : Bool :=
  ((enginesOfBlock (blockOf e)).any fun x => x ≠ e && (s.driveTone x).isSome && s.driveTone x = s.driveTone e)
    || (enginesOfRegion (regionOf e)).any fun x => x ≠ e && (s.readTone x).isSome && s.readTone x = s.readTone e

/-- A function reaches the route words of an engine: the physical function, and the READY guest that leases it (R31). -/
def State.reachesRoute (s : State) (fn : FuncId) (e : Nat) : Bool := if fn.val = 0 then s.start.phase ≠ .recovery else s.reachesCell fn e

/-- ROUTE_WRITE: taken while the engine's page is OFF or the engine stopped, and where no tone would be owned twice (R30, R35). -/
def actRouteWrite (fn : FuncId) (r : RouteReg) (v : Word) : Act := look fun s =>
  if !s.reachesRoute fn (routeEngine r) then skip
  else if !(s.pageIs (routePage r) .off || s.engStopped (routeEngine r)) then raiseFault (routePage r) 8
  else if (run (putRoute r v) s).toneClash (routeEngine r) then raiseFault (routePage r) 15
  else putRoute r v
def execRouteWrite (fn : FuncId) (r : RouteReg) (v : Word) (s : State) : Res := done (actRouteWrite fn r v) s

/-- A marker that a word of ownership bits names is owned by another cell or driven by MARK_ATT (R99, R330). -/
def State.markClash (s : State) (e v : Nat) : Bool := (upTo 16).any fun m => Nat.testBit v m &&
  ((upTo 1024).any (fun x => x ≠ e && Nat.testBit (s.get (cellPage x) CELL.MARK_ROUTE_OWN) m)
    || (s.flag .ledger LEDGER.MARK_ATT_EN && s.get .ledger LEDGER.MARK_ATT_MARKER = m))

/-- MARK_ROUTE_WRITE. -/
def actMarkRouteWrite (fn : FuncId) (e : EngineId) (v : Word) : Act := forPage fn (.cell e) (look fun s =>
  if !s.cellOpen e then raiseFault (.cell e) 8
  else if s.markClash e v.toNat then raiseFault (.cell e) 15
  else setF (.cell e) CELL.MARK_ROUTE_OWN v.toNat)
def execMarkRouteWrite (fn : FuncId) (e : EngineId) (v : Word) (s : State) : Res := done (actMarkRouteWrite fn e v) s

/-! Time registers (R131) -/

/-- A write to an RWL register of a CELL page. -/
def forOpenCell (fn : FuncId) (e : EngineId) (a : Act) : Act := forPage fn (.cell e) (look fun s =>
  if s.cellOpen e then a else raiseFault (.cell e) 8)

/-- T_LO_WRITE: the low word waits in the staging word. -/
def actTLoWrite (fn : FuncId) (e : EngineId) (i : Fin 4) (v : Word) : Act :=
  forOpenCell fn e (updEng e fun r => { r with stagedLow := r.stagedLow.set i (some v) })
def execTLoWrite (fn : FuncId) (e : EngineId) (i : Fin 4) (v : Word) (s : State) : Res := done (actTLoWrite fn e i v) s

/-- T_HI_WRITE: T_i takes the high word with the staged low word, or with its own low word where none is staged. -/
def actTHiWrite (fn : FuncId) (e : EngineId) (i : Fin 4) (v : Word) : Act := forOpenCell fn e (look fun s =>
  let low := match ((s.eng e).stagedLow.getD i none) with | some w => w.toNat | none => s.get (.cell e) (CELL.T_LO i)
  acts [setPair (.cell e) (CELL.T_LO i) (CELL.T_HI i) (low + v.toNat * 2 ^ 32),
    updEng e fun r => { r with stagedLow := r.stagedLow.set i none }])
def execTHiWrite (fn : FuncId) (e : EngineId) (i : Fin 4) (v : Word) (s : State) : Res := done (actTHiWrite fn e i v) s

end Sys2Proof.Machine
end

