-- ==== Sys2Proof/Machine/HostReg.lean ====
section
/-! DEFINITION. Register accesses of host software through BAR0 (R9, R11, R498, R499, R520, R521): the decoding of an offset, the write
of a register under its access code, and the registers whose writes are commands, each handed to the command it is. -/

namespace Sys2Proof.Machine

/-- The page of a BAR0 offset, for a function's own BAR0 (R498, R520). -/
def pageAt (fn : FuncId) (x : Nat) : Option Page :=
  if 0x100_0000 ≤ x && x < 0x180_0000 then
    let k := (x - 0x100_0000) / 0x2_0000
    let r := x % 0x2_0000 / 0x1000
    if 16 ≤ r then some (cellPage (16 * k + (r - 16)))
    else match r with
      | 0 => some (blockPage k) | 2 => some (drivePage (2 * k)) | 3 => some (drivePage (2 * k + 1))
      | 4 => some (fluxPage (2 * k)) | 5 => some (fluxPage (2 * k + 1)) | 6 => some (dspPage k) | 8 => some (bankPage k) | _ => none
  else if 0x80_0000 ≤ x && x < 0xA0_0000 then
    let n := (x - 0x80_0000) / 0x4_0000
    let r := x % 0x4_0000 / 0x1000
    match r with
    | 0 => some (regionPage n) | 4 | 5 | 6 | 7 => some (rxPage (4 * n + (r - 4)))
    | 8 => some (decPage n) | 12 => some (acqPage n) | 16 => some (porterPage n) | _ => none
  else if 0x10_1000 ≤ x && x < 0x14_1000 then some (.session (Fin.ofNat 64 ((x - 0x10_1000) / 0x1000)))
  else match x / 0x1000 with
    | 0x00 => some .chip | 0x01 => some .timebase | 0x02 => some (.fence fn) | 0x03 => some .host | 0x04 => some .guests
    | 0x10 => some .power | 0x11 => some (.feed 0) | 0x12 => some (.feed 1) | 0x18 => some .thermal | 0x20 => some .security
    | 0x30 => some .fabric | 0x31 => some (portPage 0) | 0x32 => some (portPage 1) | 0x33 => some (portPage 2) | 0x34 => some (portPage 3)
    | 0x40 => some .ledger | 0x50 => some .watch | 0x60 => some .hbm | 0x70 => some .nvm | _ => none

/-! Plain registers (R9, R11) -/

/-- The fields of a page in the word at an offset. -/
def fieldsAt (p : Page) (off : Nat) : List Field :=
  (pageRows p).filterMap fun r =>
    let d := off - r.field.off
    if off < r.field.off then none
    else if r.stride = 0 then (if d = 0 then some r.field else none)
    else if d % r.stride = 0 && d / r.stride < r.count then some { r.field with off := off } else none

/-- A field of a written word takes its bits under its access code; a W1C bit written 1 clears. -/
def writeField (p : Page) (v : Nat) (f : Field) : Act :=
  let bits := v / 2 ^ f.lo % 2 ^ f.width
  match f.acc with
  | .rw | .rwl => setF p f bits
  | .w1c => modF p f fun old => old &&& (2 ^ f.width - 1 - bits)
  | _ => skip

/-- Whether the RWL registers of a page are writable (R9, R35, R292), and the FAULT bit of an ignored write. -/
def State.rwlOpen (s : State) : Page → Bool
  | .cell e => s.cellOpen e.val
  | .block k => s.pageIs (.block k) .off || (enginesOfBlock k.val).all s.engStopped
  | .dsp k => s.dspOpen k.val
  | _ => true

def rwlBit : Page → Nat
  | .dsp _ => 4
  | _ => 8

/-- A register without a command of its own is stored, or ignored and counted as a fault, under its access code. -/
def writePlain (p : Page) (off : Nat) (v : Nat) : Act := look fun s =>
  let fs := fieldsAt p off
  if fs.any (fun f => f.acc = .rwl) && !s.rwlOpen p then raiseFault p (rwlBit p)
  else forEach fs (writeField p v)

/-! The common header (R503 to R512) -/

/-- A write to PAGE_CTRL: ENABLE, QUIESCE_REQ and FAULT_STOP_EN. -/
def writePageCtrl (p : Page) (v : Nat) : Act := acts [
  if bitOf v 0 = 1 then enablePage p else disablePage p,
  actQuiesceReq p (bitOf v 1 = 1), setF p ALL.PAGE_CTRL_FAULT_STOP_EN (bitOf v 2)]

/-- A write to FAULT_MASK; unmasking a set bit raises the page's fault interrupt, the OR of its unmasked bits (R407). -/
def writeFaultMask (p : Page) (v : Nat) : Act := look fun s => acts [setF p ALL.FAULT_MASK_BITS v,
  look fun t => if s.unmasked p = 0 && t.unmasked p ≠ 0 then faultIrq p else skip]

/-- GUEST_OWNER is written on DSP and BANK pages, by the physical function; 65 to 127 is taken as 0 (R512). -/
def writeOwner (fn : FuncId) (p : Page) (v : Nat) : Act :=
  let g := v % 128
  match p with
  | .dsp _ | .bank _ => if fn.val = 0 then setF p ALL.GUEST_OWNER_GUEST (if g ≤ 64 then g else 0) else skip
  | _ => skip

/-! Command registers -/

/-- The acts of a word's set bits, in ascending order (R546). -/
def perBit (v : Nat) (l : List (Nat × Act)) : Act := forEach l fun x => if Nat.testBit v x.1 then x.2 else skip

/-- Of several commands set in one write only the one of highest condition acts (R191, R204, R545). -/
def highest (v : Nat) : List (Nat × Act) → Act
  | [] => skip
  | (b, a) :: l => if Nat.testBit v b then a else highest v l

/-- OUT_CMD. -/
def writeOutCmd (o : OutputId) (v : Nat) : Act :=
  acts [highest v [(2, actOutDisable o), (1, actOutMute o), (0, actOutEnable o)], perBit v [(3, actOutClrCounts o)]]

/-- The registers of an output's page (R194, R195); `none` for a plain one. -/
def writeOutput (o : OutputId) (off v : Nat) : Option Act :=
  let w := BitVec.ofNat 32 v
  match o, off with
  | o, 0x040 => some (writeOutCmd o v)
  | .flux f, 0x048 => some (actUnstampedWriteApply (.bias f) w)
  | .flux _, 0x058 => some (actOutCfgWrite o .pdCtrl w)
  | .flux _, _ => if 0x060 ≤ off && off < 0x070 then some (actOutCfgWrite o (.pd (Fin.ofNat 4 ((off - 0x060) / 4))) w) else none
  | o, 0x048 => some (actOutCfgWrite o .mode w)
  | o, 0x04C => some (actOutCfgWrite o .fs w)
  | o, 0x050 => some (actUnstampedWriteApply (.outGain o) w)
  | o, 0x058 => some (actUnstampedWriteApply (.jumpLead o) w)
  | _, _ => none

/-- The range of a ring that is to be enabled (R412, R544): usable HBM, a guest's own range, or, for a ledger ring, host memory. -/
def State.captureRangeOk (s : State) (r : RingRegs) : Bool :=
  let a := s.ringBase r
  let n := s.ringSize r
  let b := s.guestWord r.fn 74 % 2 ^ 15 * 2 ^ 20
  hbmRange a n && (r.fn = 0 || (b ≤ a && a + n ≤ b + s.guestWord r.fn 75 % 2 ^ 15 * 2 ^ 20))

def State.ledgerRangeOk (s : State) (r : RingRegs) : Bool :=
  onHost (s.ringBase r) || s.memRange r.fn (s.ringBase r) (s.ringSize r)

/-- A write to a ring's registers, by their place from RING_BASE_LO: base and size only while EN = 0 (R257, R339, R354), an enable of a
range that is not allowed ignored (R412, R544); an ignored write sets `bit`. -/
def writeRing (r : RingRegs) (bit : Nat) (ok : State → Bool) (i v : Nat) : Act := look fun s =>
  let en := s.flag r.page r.en
  let field (f : Field) : Act := writeField r.page v f
  match i with
  | 0 => if en then raiseFault r.page bit else field r.lo
  | 1 => if en then raiseFault r.page bit else field r.hi
  | 2 => if en then raiseFault r.page bit else field r.units
  | 4 => field r.rd
  | 5 => if bitOf v 0 = 1 && !en && !ok s then raiseFault r.page bit else acts [field r.en, field r.irq]
  | _ => skip

/-- A write to a descriptor queue's registers, by their place from DQ_BASE_LO (R302, R313): DQ_SIZE only while EN = 0, EN = 0 ends the
queue, an enable of a range outside what the owner may use is ignored and sets DESC_ERR (R412, R544). -/
def writeQueue (n owner : Nat) (bit i v : Nat) : Act := look fun s =>
  let q := queueRegs n owner
  let en := s.flag q.page q.en
  match i with
  | 0 => writeField q.page v q.lo
  | 1 => writeField q.page v q.hi
  | 2 => if en then skip else writeField q.page v q.size
  | 3 => writeField q.page v q.tail
  | 6 =>
    if bitOf v 0 = 0 then (if en then abortQueue n owner else skip)
    else if en then skip
    else if s.memRange owner (s.descAddr q 0) (32 * s.get q.page q.size) then setF q.page q.en 1
    else raiseFault q.page bit
  | _ => skip

/-- The rings and queues of a SESSION page (R425). -/
def writeSession (g off v : Nat) : Option Act :=
  let i (a : Nat) : Nat := (off - a) % 0x20 / 4
  if 0x040 ≤ off && off < 0x05C then some (writeRing (ledgerRing g) 2 (fun s => s.ledgerRangeOk (ledgerRing g)) ((off - 0x040) / 4) v)
  else if 0x100 ≤ off && off < 0x200 then
    let n := (off - 0x100) / 0x20
    some (writeRing (captureRing n g) 0 (fun s => s.captureRangeOk (captureRing n g)) (i 0x100) v)
  else if 0x200 ≤ off && off < 0x300 then some (writeQueue ((off - 0x200) / 0x20) g 1 (i 0x200) v)
  else none

/-- TB_CTRL: SYNC_MODE, where 3 is ignored; AVS_EN, whose 0 holds VCP at step 0 (R77); SYNC_ARM (R49, R50, R516). A SYNC_ARM refused
while an engine runs loses that bit alone: the word's other fields act (DESIGN CHOICE, log entry 91: R50 says only that the write is
ignored). -/
def writeTbCtrl (fn : FuncId) (v : Nat) : Act := look fun s => acts [
  if v % 4 = 3 then skip else setF .timebase TIMEBASE.TB_CTRL_SYNC_MODE (v % 4),
  if v % 4 = 2 && s.get .timebase TIMEBASE.TB_CTRL_SYNC_MODE ≠ 2 then watchPulses else skip,
  setF .timebase TIMEBASE.TB_CTRL_AVS_EN (bitOf v 8),
  if bitOf v 8 = 0 then setF .timebase TIMEBASE.VCP_STATE_STEP 0 else skip,
  if bitOf v 4 = 1 then actSyncArm fn else skip]

/-- PCTRL: SWAP, and TARGET; a write that sets SWAP and repeats the TARGET in the register asks for no change of state (R444, R446). -/
def writePctrl (fn : FuncId) (v : Nat) : Act := look fun s => acts [
  if bitOf v 8 = 1 && v % 4 = s.get .power POWER.PCTRL_TARGET then skip else actPowerTarget fn (Fin.ofNat 4 v),
  if bitOf v 8 = 1 then actSwap fn else skip]

/-- The registers of the chip-level pages whose writes are commands; `none` for a plain one. -/
def writeChipLevel (fn : FuncId) (p : Page) (off v : Nat) : Option Act :=
  let w := BitVec.ofNat 32 v
  match p, off with
  | .chip, 0x080 => some (if bitOf v 0 = 1 then actResetCtrlChip fn
      else perBit v ((upTo 8).map fun n => (8 + n, actRegionReset fn (Fin.ofNat 8 n))))
  | .chip, 0x084 => some (perBit v ((upTo 32).map fun k => (k, actBlockRst fn (Fin.ofNat 64 k))))
  | .chip, 0x088 => some (perBit v ((upTo 32).map fun k => (k, actBlockRst fn (Fin.ofNat 64 (32 + k)))))
  | .chip, 0x090 => some (perBit v [(0, actFwStage fn), (1, actFwSwitch fn), (2, actFwRecover fn)])
  | .timebase, 0x040 => some (writeTbCtrl fn v)
  | .timebase, 0x068 => some (actClkTrimWrite fn (BitVec.ofNat 8 v))
  | .timebase, 0x07C => some (setF .timebase TIMEBASE.VCP_STATE_VCP_FLOOR (min 28 (bitsOf v 20 16)))
  | .fence _, 0x040 => some (actFenceReq fn w)
  | .guests, 0x044 => some (actGdata fn (some w))
  | .session g, _ => writeSession (g.val + 1) off v
  | .power, 0x040 => some (writePctrl fn v)
  | .thermal, 0x048 => some (acts [writePlain .thermal 0x048 v, showSource])
  | .security, 0x044 => some (perBit v [(0, actLifeCycle fn), (1, actPassport fn), (2, actExtend fn), (3, actScrap fn)])
  | .fabric, 0x040 => some (perBit v [(0, actJoin fn), (1, actLeave fn)])
  | .fabric, 0x068 => some (actTagData fn (some w))
  | .fabric, 0x070 => some (actSubData fn (some w))
  | .port q, 0x040 => some (perBit v [(0, actPortClrCounts fn q)])
  | .port q, 0x04C => some (actSleepCtrlWrite fn q w)
  | .ledger, 0x04C => some (actGrpData fn (some w))
  | .ledger, 0x050 => some (actMarkAttWrite fn w)
  | .ledger, _ => if 0x0C0 ≤ off && off < 0x0DC then
      some (writeRing (ledgerRing 0) 3 (fun s => s.ledgerRangeOk (ledgerRing 0)) ((off - 0x0C0) / 4) v) else none
  | .watch, 0x058 => some (actTendData fn (some w))
  | _, _ => none

/-- Those of the region-level and block-level pages. -/
def writeUnitLevel (fn : FuncId) (p : Page) (off v : Nat) : Option Act :=
  let w := BitVec.ofNat 32 v
  match p, off with
  | .region n, _ => if 0x200 ≤ off && off < 0x400 then
      some (actRouteWrite fn (.read (Fin.ofNat 1024 (128 * n.val + (off - 0x200) / 4))) w) else none
  | .transceiver t, 0x300 => some (acts [highest v [(1, actRxDisable t), (2, actRecal t), (0, actRxEnable t)], perBit v [(3, actRxClrCounts t)]])
  | .transceiver t, 0x31C => some (perBit v [(0, actCorrApply t none)])
  | .transceiver t, _ =>
    if 0x400 ≤ off && off < 0x600 && off % 16 = 0 then
      some (actUnstampedWriteApply (.rxToneCfg t (Fin.ofNat 32 ((off - 0x400) / 16))) w)
    else writeOutput (.probe t) off v
  | .decision n, 0x044 => some (actDfData fn n (some w))
  | .acquisition n, 0x044 => some (actUnitData fn n (some w))
  | .acquisition n, 0x048 => some (actSwTrig fn n (BitVec.ofNat 8 v))
  | .acquisition n, 0x074 =>
    let mark (m : Nat) (b : Nat) : Act :=
      highest v [(b + 2, actMarkDisable (Fin.ofNat 16 m)), (b + 1, actMarkMute (Fin.ofNat 16 m)), (b, actMarkEnable (Fin.ofNat 16 m))]
    some (acts [mark (2 * n.val) 0, mark (2 * n.val + 1) 8])
  | .acquisition n, _ => if 0x058 ≤ off && off < 0x074 then
      some (writeRing (captureRing n.val 0) 2 (fun s => s.captureRangeOk (captureRing n.val 0)) ((off - 0x058) / 4) v) else none
  | .porter n, _ => if 0x040 ≤ off && off < 0x060 then some (writeQueue n.val 0 0 ((off - 0x040) / 4) v) else none
  | .block k, 0x048 => some (perBit v [(0, actUcLoad k), (1, actUcStd k)])
  | .block k, 0x07C => some (perBit v [(0, actLibLoad k)])
  | .block k, _ => if 0x100 ≤ off && off < 0x140 then
      some (actRouteWrite fn (.cell (Fin.ofNat 1024 (16 * k.val + (off - 0x100) / 4))) w) else none
  | .drive d, _ => writeOutput (.drive d) off v
  | .flux f, _ => writeOutput (.flux f) off v
  | .dsp k, 0x040 => some (perBit v [(0, actDspStart fn k), (1, actDspCtrlHalt fn k), (2, actDspAbort fn k), (3, actClrFlags fn k)])
  | .dsp k, 0x048 => if fn.val = 0 then none else some (look fun s =>
      if s.dspOpen k then writeField p v DSP.CFG_START_PC else raiseFault p 4)
  | .dsp k, 0x054 => some (actDspDoorbell fn k w)
  | .dsp k, 0x05C => some (actPmemData fn k (some w))
  | .dsp k, 0x064 => some (actRegData fn k (some w))
  | .cell e, 0x040 => some (acts [if bitOf v 1 = 1 then actStop fn e else skip, if bitOf v 2 = 1 then actClrPending fn e else skip,
      if bitOf v 3 = 1 then actLoad fn e else skip, if bitOf v 0 = 1 then actStart fn e else skip])
  | .cell e, 0x058 => some (actMarkRouteWrite fn e w)
  | .cell e, 0x098 => some (perBit v [(0, actTtClearSlack fn e), (1, actTtClearCounts fn e), (2, actTtClearFlags fn e)])
  | .cell e, 0x148 => some (actDoorbell fn e w)
  | .cell e, _ =>
    if 0x100 ≤ off && off < 0x120 then
      let i := Fin.ofNat 4 ((off - 0x100) / 8)
      some (if off % 8 = 0 then actTLoWrite fn e i w else actTHiWrite fn e i w)
    else none
  | _, _ => none

/-- A write to a register of a page by a function that reaches it. -/
def writeReg (fn : FuncId) (p : Page) (off v : Nat) : Act :=
  match off with
  | 0x004 => writePageCtrl p v
  | 0x00C => clearFault p (BitVec.ofNat 32 v)
  | 0x010 => writeFaultMask p v
  | 0x028 => writeOwner fn p v
  | _ => match writeChipLevel fn p off v with
    | some a => a
    | none => match writeUnitLevel fn p off v with
      | some a => a
      | none => writePlain p off v

/-! Guests (R31, R197, R230, R264, R312, R358, R406, R521) -/

/-- A READY guest leases the engine that owns a drive or probe tone of an output's slot. -/
def State.leasesSlot (s : State) (fn : FuncId) (o : OutputId) (slot : Nat) : Bool :=
  s.guestReady fn.val && (upTo 1024).any fun e => s.guestOf e = fn.val && (s.ownedTones e).contains (outputTone o slot)

/-- A READY guest leases an engine that may lease a flux output (R33). -/
def State.leasesFlux (s : State) (fn : FuncId) (f : FluxId) : Bool :=
  s.guestReady fn.val && (enginesOfBlock (f.val / 2)).any fun e =>
    s.guestOf e = fn.val && !Nat.testBit (s.get (blockPage (f.val / 2)) (BLOCK.CELL_ROUTE_FLUX_DENY (cellOf e))) (f.val % 2)

/-- The tone slot of an offset in the tone registers, or in the readout registers, of an output's page. -/
def slotAt (base off : Nat) : Nat := (off - base) / 16

/-- A register a guest's view lets it write: the route words and data registers check the lease themselves. -/
def State.guestWrites (s : State) (fn : FuncId) (p : Page) (off : Nat) : Bool :=
  match p with
  | .region _ => 0x200 ≤ off && off < 0x400
  | .block _ => 0x100 ≤ off && off < 0x140
  | .drive d => 0x100 ≤ off && off < 0x180 && s.leasesSlot fn (.drive d) (slotAt 0x100 off)
  | .transceiver t => (0x100 ≤ off && off < 0x300 && s.leasesSlot fn (.probe t) (slotAt 0x100 off))
      || (0x400 ≤ off && off < 0x600 && s.reachesTone fn (32 * t.val + slotAt 0x400 off))
  | .flux f => off = 0x050 && s.leasesFlux fn f
  | .acquisition n => (off = 0x040 || off = 0x044 || off = 0x048) && (upTo 128).any fun i => s.reachesTone fn (128 * n.val + i)
  | .ledger => (off = 0x048 || off = 0x04C) && s.guestReady fn.val
  | .watch => (off = 0x054 || off = 0x058) && s.guestReady fn.val
  | p => s.guestReaches fn p

/-- REGISTER_WRITE: an aligned 32-bit write to BAR0 (R499); a write to a reserved offset, or to one the function does not see, is
ignored. -/
def actRegisterWrite (fn : FuncId) (x : BarOffset) (v : Word) : Act := look fun s =>
  match pageAt fn x.toNat with
  | none => skip
  | some p =>
    let off := x.toNat % 0x1000
    if off % 4 ≠ 0 then skip
    else if (if fn.val = 0 then s.pfReaches p else s.guestWrites fn p off) then writeReg fn p off v.toNat else skip
def execRegisterWrite (fn : FuncId) (x : BarOffset) (v : Word) (s : State) : Res := done (actRegisterWrite fn x v) s

end Sys2Proof.Machine
end

