-- ==== Sys2Proof/Machine/Tick.lean ====
section
/-! DEFINITION. What a REFCLK edge does when no command waits (R42, R43): the coarse count moves on, and enqueues and messages
that wait for room go on (R71, R129, R181, R390). -/

namespace Sys2Proof.Machine

/-- The engines that wait for room. -/
def State.roomWaiters (s : State) : List Nat :=
  s.engines.filter fun e => (s.eng e).tail.isSome || (match (s.eng e).wait with
    | .space .. | .send .. => true
    | _ => false)

/-- ST at the next REFCLK edge (R42, R43). -/
def State.nextEdge (s : State) : Stamp := s.time.coarse + 200

/-- The next REFCLK edge is reached, with its samples played. -/
def actTick : Act := acts [
  look fun s => if s.time.counting then passTo s.nextEdge else skip,
  look fun s => if s.time.frozen then skip else forEach s.roomWaiters fun e => acts [resumeStalled e, resumeSend e],
  look fun s => if s.time.frozen then skip else forEach lanes resumeImports,
  look fun s => if s.time.frozen then skip else forEach (s.blks.map (·.1)) resumeSlots]

def execTick (s : State) : Res := done actTick s

end Sys2Proof.Machine
end

