-- ==== Sys2Proof/Machine/Dispatch.lean ====
section
/-! DEFINITION. The dispatch: one arm per command, each one direct call of its meaning. -/

namespace Sys2Proof.Machine

def exec (i : Instr) (s : State) : Host.Outcome State Fault Refusal :=
  match i with
  | .registerWrite fn x v => Sys2Proof.Machine.execRegisterWrite fn x v s
  | .faultWrite fn p v => Sys2Proof.Machine.execFaultWrite fn p v s
  | .pageEnable fn p => Sys2Proof.Machine.execPageEnable fn p s
  | .pageDisable fn p => Sys2Proof.Machine.execPageDisable fn p s
  | .pageStarted p => Sys2Proof.Machine.execPageStarted p s
  | .pageDrained p => Sys2Proof.Machine.execPageDrained p s
  | .quiesceReq p on => Sys2Proof.Machine.execQuiesceReq p on s
  | .routeWrite fn r v => Sys2Proof.Machine.execRouteWrite fn r v s
  | .markRouteWrite fn e v => Sys2Proof.Machine.execMarkRouteWrite fn e v s
  | .tLoWrite fn e j v => Sys2Proof.Machine.execTLoWrite fn e j v s
  | .tHiWrite fn e j v => Sys2Proof.Machine.execTHiWrite fn e j v s
  | .outEnable o => Sys2Proof.Machine.execOutEnable o s
  | .outMute o => Sys2Proof.Machine.execOutMute o s
  | .outDisable o => Sys2Proof.Machine.execOutDisable o s
  | .outClrCounts o => Sys2Proof.Machine.execOutClrCounts o s
  | .outputPowered o => Sys2Proof.Machine.execOutputPowered o s
  | .outCfgWrite o r v => Sys2Proof.Machine.execOutCfgWrite o r v s
  | .outputSettled o => Sys2Proof.Machine.execOutputSettled o s
  | .markEnable m => Sys2Proof.Machine.execMarkEnable m s
  | .markMute m => Sys2Proof.Machine.execMarkMute m s
  | .markDisable m => Sys2Proof.Machine.execMarkDisable m s
  | .unstampedWriteApply r v => Sys2Proof.Machine.execUnstampedWriteApply r v s
  | .csRewriteDone e secondReadFails => Sys2Proof.Machine.execCsRewriteDone e secondReadFails s
  | .pacerSelfcheckFail k => Sys2Proof.Machine.execPacerSelfcheckFail k s
  | .clockLockLoss n => Sys2Proof.Machine.execClockLockLoss n s
  | .networkSelfcheckFail n => Sys2Proof.Machine.execNetworkSelfcheckFail n s
  | .refclkFail => Sys2Proof.Machine.execRefclkFail s
  | .syncPulse => Sys2Proof.Machine.execSyncPulse s
  | .syncArm fn => Sys2Proof.Machine.execSyncArm fn s
  | .syncLost => Sys2Proof.Machine.execSyncLost s
  | .alignAdd => Sys2Proof.Machine.execAlignAdd s
  | .clkTrimWrite fn v => Sys2Proof.Machine.execClkTrimWrite fn v s
  | .trimSettled => Sys2Proof.Machine.execTrimSettled s
  | .stLoRead fn => Sys2Proof.Machine.execStLoRead fn s
  | .syncCaptHiRead fn => Sys2Proof.Machine.execSyncCaptHiRead fn s
  | .ttPeekRead fn e => Sys2Proof.Machine.execTtPeekRead fn e s
  | .ttClearSlack fn e => Sys2Proof.Machine.execTtClearSlack fn e s
  | .ttClearCounts fn e => Sys2Proof.Machine.execTtClearCounts fn e s
  | .ttClearFlags fn e => Sys2Proof.Machine.execTtClearFlags fn e s
  | .release e err => Sys2Proof.Machine.execRelease e err s
  | .toneStart e => Sys2Proof.Machine.execToneStart e s
  | .windowOpen e raws bad => Sys2Proof.Machine.execWindowOpen e raws bad s
  | .freqSet e => Sys2Proof.Machine.execFreqSet e s
  | .phaseAdd e => Sys2Proof.Machine.execPhaseAdd e s
  | .phaseSet e => Sys2Proof.Machine.execPhaseSet e s
  | .mark e => Sys2Proof.Machine.execMark e s
  | .streamStart e => Sys2Proof.Machine.execStreamStart e s
  | .fluxPulse e => Sys2Proof.Machine.execFluxPulse e s
  | .avsIntervalEnd => Sys2Proof.Machine.execAvsIntervalEnd s
  | .anchorPass e => Sys2Proof.Machine.execAnchorPass e s
  | .frameRestore e => Sys2Proof.Machine.execFrameRestore e s
  | .start fn e => Sys2Proof.Machine.execStart fn e s
  | .stop fn e => Sys2Proof.Machine.execStop fn e s
  | .clrPending fn e => Sys2Proof.Machine.execClrPending fn e s
  | .load fn e => Sys2Proof.Machine.execLoad fn e s
  | .loadDone e => Sys2Proof.Machine.execLoadDone e s
  | .nop e => Sys2Proof.Machine.execNop e s
  | .halt e => Sys2Proof.Machine.execHalt e s
  | .movi e a imm => Sys2Proof.Machine.execMovi e a imm s
  | .alu e f a b c => Sys2Proof.Machine.execAlu e f a b c s
  | .alui e f a b imm => Sys2Proof.Machine.execAlui e f a b imm s
  | .cmp e b x => Sys2Proof.Machine.execCmp e b x s
  | .ldl e a b imm ue => Sys2Proof.Machine.execLdl e a b imm ue s
  | .stl e a b imm => Sys2Proof.Machine.execStl e a b imm s
  | .ldb e a b hi imm ue => Sys2Proof.Machine.execLdb e a b hi imm ue s
  | .stb e a b hi imm mismatch => Sys2Proof.Machine.execStb e a b hi imm mismatch s
  | .tset e td ts x => Sys2Proof.Machine.execTset e td ts x s
  | .tnow e td x => Sys2Proof.Machine.execTnow e td x s
  | .play e ix ue mismatch => Sys2Proof.Machine.execPlay e ix ue mismatch s
  | .acquire e ix ue mismatch => Sys2Proof.Machine.execAcquire e ix ue mismatch s
  | .stream e ix ue mismatch => Sys2Proof.Machine.execStream e ix ue mismatch s
  | .setfrq e ts tgt a b toff mismatch => Sys2Proof.Machine.execSetfrq e ts tgt a b toff mismatch s
  | .shiftph e ts set tgt v toff mismatch => Sys2Proof.Machine.execShiftph e ts set tgt v toff mismatch s
  | .signal e ts level m toff mismatch => Sys2Proof.Machine.execSignal e ts level m toff mismatch s
  | .sendm e ts dev tag a doff => Sys2Proof.Machine.execSendm e ts dev tag a doff s
  | .waitst e ts toff => Sys2Proof.Machine.execWaitst e ts toff s
  | .waitstResume e => Sys2Proof.Machine.execWaitstResume e s
  | .lease e rel try1 j => Sys2Proof.Machine.execLease e rel try1 j s
  | .leaseGrant f => Sys2Proof.Machine.execLeaseGrant f s
  | .watch e ts len toff seq => Sys2Proof.Machine.execWatch e ts len toff seq s
  | .watchGrantReturn e noWork => Sys2Proof.Machine.execWatchGrantReturn e noWork s
  | .jump e target => Sys2Proof.Machine.execJump e target s
  | .call e target => Sys2Proof.Machine.execCall e target s
  | .ret e => Sys2Proof.Machine.execRet e s
  | .loop e l form => Sys2Proof.Machine.execLoop e l form s
  | .brd e b remote tone mismatch => Sys2Proof.Machine.execBrd e b remote tone mismatch s
  | .brf e b remote region func mismatch => Sys2Proof.Machine.execBrf e b remote region func mismatch s
  | .brt e b u mismatch => Sys2Proof.Machine.execBrt e b u mismatch s
  | .brm e b dev tag mismatch => Sys2Proof.Machine.execBrm e b dev tag mismatch s
  | .brc e cbit sense target => Sys2Proof.Machine.execBrc e cbit sense target s
  | .decisionArrival e => Sys2Proof.Machine.execDecisionArrival e s
  | .branchResolve e mismatch => Sys2Proof.Machine.execBranchResolve e mismatch s
  | .shot e endShot ts toff differ lead => Sys2Proof.Machine.execShot e endShot ts toff differ lead s
  | .prep e first target => Sys2Proof.Machine.execPrep e first target s
  | .curfew e scope tag => Sys2Proof.Machine.execCurfew e scope tag s
  | .curfewRelease e peerTag peerOpen => Sys2Proof.Machine.execCurfewRelease e peerTag peerOpen s
  | .nopw e m => Sys2Proof.Machine.execNopw e m s
  | .ldi e m => Sys2Proof.Machine.execLdi e m s
  | .mov e m => Sys2Proof.Machine.execMov e m s
  | .microAlu e m => Sys2Proof.Machine.execMicroAlu e m s
  | .addi e m => Sys2Proof.Machine.execAddi e m s
  | .wrs e m => Sys2Proof.Machine.execWrs e m s
  | .ldrc e m => Sys2Proof.Machine.execLdrc e m s
  | .looprc e m => Sys2Proof.Machine.execLooprc e m s
  | .csel e m => Sys2Proof.Machine.execCsel e m s
  | .waitc e m => Sys2Proof.Machine.execWaitc e m s
  | .holdoff e m => Sys2Proof.Machine.execHoldoff e m s
  | .mret e m => Sys2Proof.Machine.execMret e m s
  | .disp e m ue => Sys2Proof.Machine.execDisp e m ue s
  | .haltw e m => Sys2Proof.Machine.execHaltw e m s
  | .faultWord e m => Sys2Proof.Machine.execFaultWord e m s
  | .park e m => Sys2Proof.Machine.execPark e m s
  | .ctxr e m => Sys2Proof.Machine.execCtxr e m s
  | .chk e m => Sys2Proof.Machine.execChk e m s
  | .tstamp e m => Sys2Proof.Machine.execTstamp e m s
  | .ebld e m => Sys2Proof.Machine.execEbld e m s
  | .enq e m ue mismatch => Sys2Proof.Machine.execEnq e m ue mismatch s
  | .twrt e m => Sys2Proof.Machine.execTwrt e m s
  | .rdl e m ue => Sys2Proof.Machine.execRdl e m ue s
  | .wrl e m => Sys2Proof.Machine.execWrl e m s
  | .rdb e m ue => Sys2Proof.Machine.execRdb e m ue s
  | .wrb e m mismatch => Sys2Proof.Machine.execWrb e m mismatch s
  | .reqLease e m => Sys2Proof.Machine.execReqLease e m s
  | .reqCurfew e m => Sys2Proof.Machine.execReqCurfew e m s
  | .reqSendm e m => Sys2Proof.Machine.execReqSendm e m s
  | .reqWatch e m seq => Sys2Proof.Machine.execReqWatch e m seq s
  | .reqShotOpen e m differ lead => Sys2Proof.Machine.execReqShotOpen e m differ lead s
  | .reqShotClose e m => Sys2Proof.Machine.execReqShotClose e m s
  | .reqPrep e m => Sys2Proof.Machine.execReqPrep e m s
  | .brArm e m mismatch => Sys2Proof.Machine.execBrArm e m mismatch s
  | .doorbell fn e v => Sys2Proof.Machine.execDoorbell fn e v s
  | .stopoverTake e => Sys2Proof.Machine.execStopoverTake e s
  | .paceModeChange k => Sys2Proof.Machine.execPaceModeChange k s
  | .ucLoad k => Sys2Proof.Machine.execUcLoad k s
  | .ucStd k => Sys2Proof.Machine.execUcStd k s
  | .ucLoadDone k => Sys2Proof.Machine.execUcLoadDone k s
  | .segmentBoundary o slot => Sys2Proof.Machine.execSegmentBoundary o slot s
  | .streamDataDelivery k slot part uncorrectable => Sys2Proof.Machine.execStreamDataDelivery k slot part uncorrectable s
  | .streamUnderrun o slot => Sys2Proof.Machine.execStreamUnderrun o slot s
  | .integratorLatch u raws bad => Sys2Proof.Machine.execIntegratorLatch u raws bad s
  | .resultPublish u => Sys2Proof.Machine.execResultPublish u s
  | .dfEvaluate n f => Sys2Proof.Machine.execDfEvaluate n f s
  | .dfTriggerEval n f => Sys2Proof.Machine.execDfTriggerEval n f s
  | .dfData fn n w => Sys2Proof.Machine.execDfData fn n w s
  | .dfResultRead fn n => Sys2Proof.Machine.execDfResultRead fn n s
  | .resIqRead fn t slot => Sys2Proof.Machine.execResIqRead fn t slot s
  | .rxEnable t => Sys2Proof.Machine.execRxEnable t s
  | .rxDisable t => Sys2Proof.Machine.execRxDisable t s
  | .recal t => Sys2Proof.Machine.execRecal t s
  | .rxClrCounts t => Sys2Proof.Machine.execRxClrCounts t s
  | .calAttemptEnd t success => Sys2Proof.Machine.execCalAttemptEnd t success s
  | .rxChainFault t => Sys2Proof.Machine.execRxChainFault t s
  | .corrApply t watch => Sys2Proof.Machine.execCorrApply t watch s
  | .corrCopy t => Sys2Proof.Machine.execCorrCopy t s
  | .clamp t first last => Sys2Proof.Machine.execClamp t first last s
  | .triggerFiring u t raws => Sys2Proof.Machine.execTriggerFiring u t raws s
  | .extTriggerFiring ix t levels => Sys2Proof.Machine.execExtTriggerFiring ix t levels s
  | .firingDelivery u mark => Sys2Proof.Machine.execFiringDelivery u mark s
  | .cuEvaluate n ix => Sys2Proof.Machine.execCuEvaluate n ix s
  | .recordTrigger k x delay => Sys2Proof.Machine.execRecordTrigger k x delay s
  | .swTrig fn n unit => Sys2Proof.Machine.execSwTrig fn n unit s
  | .recordEnqueue k raws => Sys2Proof.Machine.execRecordEnqueue k raws s
  | .autoRise n => Sys2Proof.Machine.execAutoRise n s
  | .autoFall n => Sys2Proof.Machine.execAutoFall n s
  | .factorAdopt k => Sys2Proof.Machine.execFactorAdopt k s
  | .ringWrite n owner ue => Sys2Proof.Machine.execRingWrite n owner ue s
  | .unitData fn n w => Sys2Proof.Machine.execUnitData fn n w s
  | .dspStart fn k => Sys2Proof.Machine.execDspStart fn k s
  | .dspCtrlHalt fn k => Sys2Proof.Machine.execDspCtrlHalt fn k s
  | .dspAbort fn k => Sys2Proof.Machine.execDspAbort fn k s
  | .clrFlags fn k => Sys2Proof.Machine.execClrFlags fn k s
  | .dspDoorbell fn k v => Sys2Proof.Machine.execDspDoorbell fn k v s
  | .pmemData fn k w => Sys2Proof.Machine.execPmemData fn k w s
  | .regData fn k w => Sys2Proof.Machine.execRegData fn k w s
  | .dspNop k m => Sys2Proof.Machine.execDspNop k m s
  | .dspHalt k m => Sys2Proof.Machine.execDspHalt k m s
  | .dspIdle k m => Sys2Proof.Machine.execDspIdle k m s
  | .dspReti k m => Sys2Proof.Machine.execDspReti k m s
  | .dspLdi k m => Sys2Proof.Machine.execDspLdi k m s
  | .ldih k m => Sys2Proof.Machine.execLdih k m s
  | .dspAlu k m => Sys2Proof.Machine.execDspAlu k m s
  | .dspAlui k m => Sys2Proof.Machine.execDspAlui k m s
  | .ldw k m => Sys2Proof.Machine.execLdw k m s
  | .ldh k m => Sys2Proof.Machine.execLdh k m s
  | .stw k m => Sys2Proof.Machine.execStw k m s
  | .sth k m => Sys2Proof.Machine.execSth k m s
  | .dspMac k m => Sys2Proof.Machine.execDspMac k m s
  | .dspAcc k m => Sys2Proof.Machine.execDspAcc k m s
  | .dspExt k m => Sys2Proof.Machine.execDspExt k m s
  | .asx k m => Sys2Proof.Machine.execAsx k m s
  | .bexp k m => Sys2Proof.Machine.execBexp k m s
  | .bexp2 k m => Sys2Proof.Machine.execBexp2 k m s
  | .maxi k m => Sys2Proof.Machine.execMaxi k m s
  | .mini k m => Sys2Proof.Machine.execMini k m s
  | .movs k m => Sys2Proof.Machine.execMovs k m s
  | .movt k m => Sys2Proof.Machine.execMovt k m s
  | .dspBr k m => Sys2Proof.Machine.execDspBr k m s
  | .dspCall k m => Sys2Proof.Machine.execDspCall k m s
  | .dspRet k m => Sys2Proof.Machine.execDspRet k m s
  | .dspRpt k m => Sys2Proof.Machine.execDspRpt k m s
  | .dspNotify k m => Sys2Proof.Machine.execDspNotify k m s
  | .dspInterrupt k => Sys2Proof.Machine.execDspInterrupt k s
  | .dspWdog k => Sys2Proof.Machine.execDspWdog k s
  | .watchJobEnd k bank => Sys2Proof.Machine.execWatchJobEnd k bank s
  | .bar2Write fn a data => Sys2Proof.Machine.execBar2Write fn a data s
  | .descriptorFetch n owner => Sys2Proof.Machine.execDescriptorFetch n owner s
  | .descriptorComplete n owner result hostData => Sys2Proof.Machine.execDescriptorComplete n owner result hostData s
  | .dqDisable fn n => Sys2Proof.Machine.execDqDisable fn n s
  | .retestDone m clean repaired => Sys2Proof.Machine.execRetestDone m clean repaired s
  | .scrubWriteback m => Sys2Proof.Machine.execScrubWriteback m s
  | .wipeDone u => Sys2Proof.Machine.execWipeDone u s
  | .libLoad k => Sys2Proof.Machine.execLibLoad k s
  | .libLoadDone k => Sys2Proof.Machine.execLibLoadDone k s
  | .grpData fn w => Sys2Proof.Machine.execGrpData fn w s
  | .markAttWrite fn v => Sys2Proof.Machine.execMarkAttWrite fn v s
  | .shotSettle g idle => Sys2Proof.Machine.execShotSettle g idle s
  | .voidEffect e => Sys2Proof.Machine.execVoidEffect e s
  | .newStart g idle far => Sys2Proof.Machine.execNewStart g idle far s
  | .replayStart g => Sys2Proof.Machine.execReplayStart g s
  | .ledgerRecordWrite owner ue => Sys2Proof.Machine.execLedgerRecordWrite owner ue s
  | .takeoverDone e locals ckptBad => Sys2Proof.Machine.execTakeoverDone e locals ckptBad s
  | .shadowCopyDone k => Sys2Proof.Machine.execShadowCopyDone k s
  | .spareRotate k => Sys2Proof.Machine.execSpareRotate k s
  | .watchProposal e ix version m => Sys2Proof.Machine.execWatchProposal e ix version m s
  | .watchBudgetInterval => Sys2Proof.Machine.execWatchBudgetInterval s
  | .watchIdleStart e seq => Sys2Proof.Machine.execWatchIdleStart e seq s
  | .dacTrimApply o trim => Sys2Proof.Machine.execDacTrimApply o trim s
  | .tendData fn w => Sys2Proof.Machine.execTendData fn w s
  | .laneLoss p l errors => Sys2Proof.Machine.execLaneLoss p l errors s
  | .widthChange p => Sys2Proof.Machine.execWidthChange p s
  | .laneReady p l delay => Sys2Proof.Machine.execLaneReady p l delay s
  | .retrainRestart p l => Sys2Proof.Machine.execRetrainRestart p l s
  | .eyeScanDone p eyes coef => Sys2Proof.Machine.execEyeScanDone p eyes coef s
  | .idleWindowEnd p l idle => Sys2Proof.Machine.execIdleWindowEnd p l idle s
  | .sleepCtrlWrite fn p v => Sys2Proof.Machine.execSleepCtrlWrite fn p v s
  | .autoSleep p => Sys2Proof.Machine.execAutoSleep p s
  | .sleep p l => Sys2Proof.Machine.execSleep p l s
  | .laneWake p l rx => Sys2Proof.Machine.execLaneWake p l rx s
  | .epoch p number => Sys2Proof.Machine.execEpoch p number s
  | .epochBoundary links => Sys2Proof.Machine.execEpochBoundary links s
  | .helloTimer p => Sys2Proof.Machine.execHelloTimer p s
  | .frameSend p => Sys2Proof.Machine.execFrameSend p s
  | .ackTimeout p => Sys2Proof.Machine.execAckTimeout p s
  | .ack p seq => Sys2Proof.Machine.execAck p seq s
  | .nak p seq => Sys2Proof.Machine.execNak p seq s
  | .laneMap p acc rdy echo => Sys2Proof.Machine.execLaneMap p acc rdy echo s
  | .hello p serial chair id port => Sys2Proof.Machine.execHello p serial chair id port s
  | .stub p h => Sys2Proof.Machine.execStub p h s
  | .msg p h tag group shot attempt v => Sys2Proof.Machine.execMsg p h tag group shot attempt v s
  | .startFrame p h tag => Sys2Proof.Machine.execStartFrame p h tag s
  | .trig p h tag fire => Sys2Proof.Machine.execTrig p h tag fire s
  | .dec p h fn index v flags group w => Sys2Proof.Machine.execDec p h fn index v flags group w s
  | .voidFrame p h group attempt shot causes => Sys2Proof.Machine.execVoidFrame p h group attempt shot causes s
  | .readyFrame p h group attempt shot => Sys2Proof.Machine.execReadyFrame p h group attempt shot s
  | .rstart p h group attempt shot start => Sys2Proof.Machine.execRstart p h group attempt shot start s
  | .settle p h group attempt shot => Sys2Proof.Machine.execSettle p h group attempt shot s
  | .openFrame p h group attempt shot => Sys2Proof.Machine.execOpenFrame p h group attempt shot s
  | .joinReq p h serial => Sys2Proof.Machine.execJoinReq p h serial s
  | .admitFrame p h id capture epoch => Sys2Proof.Machine.execAdmitFrame p h id capture epoch s
  | .routes p h bytes => Sys2Proof.Machine.execRoutes p h bytes s
  | .present p h => Sys2Proof.Machine.execPresent p h s
  | .lost p h id => Sys2Proof.Machine.execLost p h id s
  | .leaveFrame p h => Sys2Proof.Machine.execLeaveFrame p h s
  | .syncCapt p h capture => Sys2Proof.Machine.execSyncCapt p h capture s
  | .expiry p h type group => Sys2Proof.Machine.execExpiry p h type group s
  | .member p h id serial => Sys2Proof.Machine.execMember p h id serial s
  | .join fn => Sys2Proof.Machine.execJoin fn s
  | .joinTimeout => Sys2Proof.Machine.execJoinTimeout s
  | .leave fn => Sys2Proof.Machine.execLeave fn s
  | .leaveTimeout => Sys2Proof.Machine.execLeaveTimeout s
  | .portClrCounts fn p => Sys2Proof.Machine.execPortClrCounts fn p s
  | .tagData fn w => Sys2Proof.Machine.execTagData fn w s
  | .subData fn w => Sys2Proof.Machine.execSubData fn w s
  | .fenceReq fn v => Sys2Proof.Machine.execFenceReq fn v s
  | .fenceComplete fn => Sys2Proof.Machine.execFenceComplete fn s
  | .fenceTimeout fn => Sys2Proof.Machine.execFenceTimeout fn s
  | .fenceResultRead fn => Sys2Proof.Machine.execFenceResultRead fn s
  | .gdata fn w => Sys2Proof.Machine.execGdata fn w s
  | .guestEnable g => Sys2Proof.Machine.execGuestEnable g s
  | .guestReady g => Sys2Proof.Machine.execGuestReady g s
  | .guestDisable g => Sys2Proof.Machine.execGuestDisable g s
  | .guestDrainDone g => Sys2Proof.Machine.execGuestDrainDone g s
  | .vfFlr g => Sys2Proof.Machine.execVfFlr g s
  | .sriovDisable enable numVfs => Sys2Proof.Machine.execSriovDisable enable numVfs s
  | .feedLow mv byCold => Sys2Proof.Machine.execFeedLow mv byCold s
  | .feedHigh mv => Sys2Proof.Machine.execFeedHigh mv s
  | .stageFault => Sys2Proof.Machine.execStageFault s
  | .vbusLow mv byCold => Sys2Proof.Machine.execVbusLow mv byCold s
  | .swap fn => Sys2Proof.Machine.execSwap fn s
  | .loadShed => Sys2Proof.Machine.execLoadShed s
  | .vbusReturn mv => Sys2Proof.Machine.execVbusReturn mv s
  | .clockRelock => Sys2Proof.Machine.execClockRelock s
  | .gateResume => Sys2Proof.Machine.execGateResume s
  | .switchoverAbandon mv => Sys2Proof.Machine.execSwitchoverAbandon mv s
  | .dualStartResolve => Sys2Proof.Machine.execDualStartResolve s
  | .lantern ix missed handover r => Sys2Proof.Machine.execLantern ix missed handover r s
  | .lanternLost ix => Sys2Proof.Machine.execLanternLost ix s
  | .trimRecord t drifted est => Sys2Proof.Machine.execTrimRecord t drifted est s
  | .coldCheck pass => Sys2Proof.Machine.execColdCheck pass s
  | .stageArmed ix => Sys2Proof.Machine.execStageArmed ix s
  | .auxLost ix => Sys2Proof.Machine.execAuxLost ix s
  | .powerLoss => Sys2Proof.Machine.execPowerLoss s
  | .powerOnReset ix => Sys2Proof.Machine.execPowerOnReset ix s
  | .bothFeedsLost mv => Sys2Proof.Machine.execBothFeedsLost mv s
  | .powerTarget fn v => Sys2Proof.Machine.execPowerTarget fn v s
  | .powerStateDone dieTemp => Sys2Proof.Machine.execPowerStateDone dieTemp s
  | .thresholdFire level samples => Sys2Proof.Machine.execThresholdFire level samples s
  | .thresholdClear level samples => Sys2Proof.Machine.execThresholdClear level samples s
  | .critOutputMute o => Sys2Proof.Machine.execCritOutputMute o s
  | .sensorBroken ix cause samples => Sys2Proof.Machine.execSensorBroken ix cause samples s
  | .hardTrip h => Sys2Proof.Machine.execHardTrip h s
  | .dormantExit ext below => Sys2Proof.Machine.execDormantExit ext below s
  | .lifeRecord average => Sys2Proof.Machine.execLifeRecord average s
  | .lifeCycle fn => Sys2Proof.Machine.execLifeCycle fn s
  | .passport fn => Sys2Proof.Machine.execPassport fn s
  | .passportDone => Sys2Proof.Machine.execPassportDone s
  | .extend fn => Sys2Proof.Machine.execExtend fn s
  | .scrap fn => Sys2Proof.Machine.execScrap fn s
  | .securityCmdDone => Sys2Proof.Machine.execSecurityCmdDone s
  | .meshBreach => Sys2Proof.Machine.execMeshBreach s
  | .supplyGlitch => Sys2Proof.Machine.execSupplyGlitch s
  | .tempAtReset ext => Sys2Proof.Machine.execTempAtReset ext s
  | .debugUnlock token => Sys2Proof.Machine.execDebugUnlock token s
  | .bypass => Sys2Proof.Machine.execBypass s
  | .idcode => Sys2Proof.Machine.execIdcode s
  | .samplePreload => Sys2Proof.Machine.execSamplePreload s
  | .extest => Sys2Proof.Machine.execExtest s
  | .clampInstr => Sys2Proof.Machine.execClampInstr s
  | .highz => Sys2Proof.Machine.execHighz s
  | .extestPulse => Sys2Proof.Machine.execExtestPulse s
  | .extestTrain => Sys2Proof.Machine.execExtestTrain s
  | .coldStart ext goodA goodB trimsA trimsB => Sys2Proof.Machine.execColdStart ext goodA goodB trimsA trimsB s
  | .firmwareStart gen width refmode => Sys2Proof.Machine.execFirmwareStart gen width refmode s
  | .coldStartReady dieTemp sealOk bad => Sys2Proof.Machine.execColdStartReady dieTemp sealOk bad s
  | .resetN pin => Sys2Proof.Machine.execResetN pin s
  | .resetCtrlChip fn => Sys2Proof.Machine.execResetCtrlChip fn s
  | .regionReset fn n => Sys2Proof.Machine.execRegionReset fn n s
  | .blockRst fn k => Sys2Proof.Machine.execBlockRst fn k s
  | .regionResetDone n bad => Sys2Proof.Machine.execRegionResetDone n bad s
  | .blockResetDone k bad => Sys2Proof.Machine.execBlockResetDone k bad s
  | .fwStage fn => Sys2Proof.Machine.execFwStage fn s
  | .fwStageDone => Sys2Proof.Machine.execFwStageDone s
  | .fwSwitch fn => Sys2Proof.Machine.execFwSwitch fn s
  | .fwHoldReached => Sys2Proof.Machine.execFwHoldReached s
  | .fwHoldTimeout => Sys2Proof.Machine.execFwHoldTimeout s
  | .fwConfirmTimeout => Sys2Proof.Machine.execFwConfirmTimeout s
  | .fwRecover fn => Sys2Proof.Machine.execFwRecover fn s
  | .logData fn => Sys2Proof.Machine.execLogData fn s
  | .mData fn => Sys2Proof.Machine.execMData fn s
  | .scrubRead m found => Sys2Proof.Machine.execScrubRead m found s
  | .watchJobStart k => Sys2Proof.Machine.execWatchJobStart k s
  | .watchYield k => Sys2Proof.Machine.execWatchYield k s
  | .feedOutOfRange ix mv => Sys2Proof.Machine.execFeedOutOfRange ix mv s
  | .auxReturn ix => Sys2Proof.Machine.execAuxReturn ix s
  | .fwConfirm => Sys2Proof.Machine.execFwConfirm s
  | .pfFlr => Sys2Proof.Machine.execPfFlr s
  | .hostLinkDown => Sys2Proof.Machine.execHostLinkDown s
  | .hostLinkRecovery gen width refmode => Sys2Proof.Machine.execHostLinkRecovery gen width refmode s
  | .importDeadlinePass p => Sys2Proof.Machine.execImportDeadlinePass p s
  | .crcFailFrame p => Sys2Proof.Machine.execCrcFailFrame p s
  | .laneTrainFail p l skew => Sys2Proof.Machine.execLaneTrainFail p l skew s
  | .triggerArmed u t raws => Sys2Proof.Machine.execTriggerArmed u t raws s
  | .sensorRateChange ix samples => Sys2Proof.Machine.execSensorRateChange ix samples s

end Sys2Proof.Machine
end

