-- ==== Sys2Proof/Machine/HostRead.lean ====
section
/-! DEFINITION. What host software reads at a BAR0 offset (R9, R11, R406, R513, R520 to R522): the stored fields, the fields a page
computes from other state, and each guest's views. Reads with an effect are commands of their own; this is the value alone. And what it
reads through the BAR2 window (R297 to R299, R307, R309): the table has no command for that read, so its effect on the counters of an
uncorrectable word stands here as an act that no step takes (log entry 120). -/

namespace Sys2Proof.Machine

/-- The stored fields of a word; WO fields and command bits read 0x0. -/
def State.storedWord (s : State) (p : Page) (off : Nat) : Nat :=
  ((fieldsAt p off).map fun f => if f.acc = .wo then 0 else s.get p f * 2 ^ f.lo).sum

/-- Some page of a list has an unmasked FAULT bit. -/
def State.anyFault (s : State) (ps : List Page) : Bool := ps.any fun p => s.unmasked p ≠ 0

/-- A number from its bits, lowest first. -/
def ofBits (l : List Bool) : Nat := l.foldr (fun b n => b2n b + 2 * n) 0

/-- The groups of chip-level pages of FAULT_SUM_CHIP, by bit (R513). -/
def sumPages : List (List Page) :=
  [[.chip], [.timebase], [.fence 0], [.host], [.guests], [.power], [.feed 0], [.feed 1], [.thermal], [.security], [.fabric],
    [portPage 0], [portPage 1], [portPage 2], [portPage 3], [.ledger], [.watch], [.hbm], [.nvm],
    (upTo 64).map fun g => .session (Fin.ofNat 64 g)]

/-- The pages of a region outside its blocks. -/
def regionOwnPages (n : Nat) : List Page := [regionPage n, decPage n, acqPage n, porterPage n] ++ (upTo 4).map fun q => rxPage (4 * n + q)

/-- Samples of a receive input carry OVR or OVR_NB now (R205, R207, R229). -/
def State.ovrNow (s : State) (t : Nat) : Bool :=
  (s.rxIs t .calibrating || s.rxIs t .live) && (s.ovrAt t s.st || s.nbAt t s.st)

/-- A tone's slot is valid (R219). -/
def State.toneValid (s : State) (u : Nat) : Bool := s.toneUsable u && (s.slot u).valid

/-- The data a read command returns. -/
def State.dataOf (s : State) (a : Act) : Nat := (run a s).rdata

/-- The words that read other than as their stored fields. -/
def State.shownWord (s : State) (fn : FuncId) (p : Page) (off : Nat) : Nat :=
  let w := s.storedWord p off
  match p, off with
  | _, 0x000 => w + (pageIdent p).2 * 2 ^ 12 + (pageIdent p).1 * 2 ^ 24
  | .session g, 0x008 => s.guestState (g.val + 1)
  | .chip, 0x050 => ofBits (sumPages.map s.anyFault)
  | .chip, 0x054 => ofBits ((upTo 8).map fun n => s.anyFault (regionOwnPages n))
  | .chip, 0x058 => ofBits ((upTo 32).map fun k => s.anyFault (pagesOfBlock k))
  | .chip, 0x05C => ofBits ((upTo 32).map fun k => s.anyFault (pagesOfBlock (32 + k)))
  | .timebase, 0x048 => s.st.toNat % 2 ^ 32
  | .guests, 0x044 => s.dataOf (actGdata fn none)
  | .power, 0x044 => w - w % 4 + s.powerState
  | .thermal, 0x054 => s.word .sensors (s.get .thermal THERMAL.SENSOR_SEL_INDEX)
  | .security, 0x0C4 => s.dataOf (actMData fn)
  | .port p, 0x074 => w % 2 ^ 16 + min 512 (s.deadlineFrames p.val) * 2 ^ 16
  | .fabric, 0x048 => s.serial % 2 ^ 32
  | .fabric, 0x04C => s.serial / 2 ^ 32
  | .fabric, 0x060 => s.route (s.get .fabric FABRIC.ROUTE_SEL_DEST)
  | .fabric, 0x068 => s.dataOf (actTagData fn none)
  | .fabric, 0x070 => s.dataOf (actSubData fn none)
  | .ledger, 0x04C => s.dataOf (actGrpData fn none)
  | .watch, 0x058 => s.dataOf (actTendData fn none)
  | .watch, 0x05C => s.vset fn.val
  | .nvm, 0x048 => s.dataOf (actLogData fn)
  | .transceiver t, 0x304 => w + b2n (s.ovrNow t.val) * 2 ^ 4
  | .decision n, 0x044 => s.dataOf (actDfData fn n none)
  | .decision n, 0x048 => s.dataOf (actDfResultRead fn n)
  | .decision n, _ => if 0x060 ≤ off && off < 0x070 then
      ofBits ((upTo 32).map fun i => s.toneValid (128 * n.val + 8 * (off - 0x060) + i)) else w
  | .acquisition n, 0x044 => s.dataOf (actUnitData fn n none)
  | .block k, 0x044 => w + b2n (s.pacePending k.val) * 2 + s.paceCells k.val * 2 ^ 16
  | .dsp k, 0x044 => w + (s.dsp k.val).sw / 2 ^ 8 % 16 * 2 ^ 8 + (s.dsp k.val).pc % 2 ^ 13 * 2 ^ 16
  | .dsp k, 0x05C => s.dataOf (actPmemData fn k none)
  | .dsp k, 0x064 => s.dataOf (actRegData fn k none)
  | .cell e, 0x074 => (s.eng e.val).inbox.length
  | .cell e, 0x084 => let d := (s.eng e.val).timetable.length; w + d + b2n (d = 64) * 2 ^ 7
  | .cell e, 0x0A0 => s.dataOf (actTtPeekRead fn e)
  | .cell e, _ =>
    if (0x0C0 ≤ off && off < 0x130 && !s.engStopped e.val) || (0x0A0 ≤ off && off < 0x0B0 && (s.eng e.val).timetable = []) then 0 else w
  | _, _ => w

/-- What a guest sees of the header of a page it sees in part (R521). -/
def partialHeader (off : Nat) : Bool :=
  off = 0x000 || off = 0x008 || off = 0x00C || off = 0x014 || off = 0x018 || off = 0x01C || off = 0x020

/-- A READY guest leases an engine of a list. -/
def State.leasesAny (s : State) (fn : FuncId) (es : List Nat) : Bool := s.guestReady fn.val && es.any fun e => s.guestOf e = fn.val

/-- The words of a page a guest reads (R31, R197, R230, R264, R312, R358, R406, R521). -/
def State.guestReads (s : State) (fn : FuncId) (p : Page) (off : Nat) : Bool :=
  match p with
  | .region n => s.leasesAny fn (enginesOfRegion n.val) && (partialHeader off
      || (0x200 ≤ off && off < 0x400 && s.leasesAny fn [128 * n.val + (off - 0x200) / 4]))
  | .block k => s.leasesAny fn (enginesOfBlock k.val) && (partialHeader off
      || (0x100 ≤ off && off < 0x140 && s.leasesAny fn [16 * k.val + (off - 0x100) / 4]))
  | .drive d => (upTo 8).any (s.leasesSlot fn (.drive d)) && (partialHeader off || off = 0x044 || off = 0x054
      || (0x100 ≤ off && off < 0x180 && s.leasesSlot fn (.drive d) (slotAt 0x100 off)))
  | .transceiver t => ((upTo 32).any fun i => s.reachesTone fn (32 * t.val + i))
      && (partialHeader off || off = 0x304 || off = 0x30C
        || (0x100 ≤ off && off < 0x300 && s.leasesSlot fn (.probe t) (slotAt 0x100 off))
        || (0x400 ≤ off && off < 0x600 && s.reachesTone fn (32 * t.val + slotAt 0x400 off)))
  | .flux f => s.leasesFlux fn f && (partialHeader off || off = 0x044 || off = 0x04C || off = 0x050 || off = 0x054)
  | .acquisition n => ((upTo 128).any fun i => s.reachesTone fn (128 * n.val + i)) && (partialHeader off || off = 0x040 || off = 0x044)
  | .ledger => s.guestReady fn.val && (partialHeader off || off = 0x048 || off = 0x04C)
  | .watch => s.guestReady fn.val && (partialHeader off || off = 0x054 || off = 0x058 || off = 0x05C)
  | .host => s.guestReady fn.val && (partialHeader off || off = 0x040)
  | .bank k => s.guestReady fn.val && s.get (.bank k) ALL.GUEST_OWNER_GUEST = fn.val
      && (off < 0x040 || off = 0x040 || off = 0x048 || off = 0x04C || off = 0x050)
  | p => s.guestReaches fn p

/-- The value a function's aligned 32-bit read of a BAR0 offset returns. -/
def State.hostRead (s : State) (fn : FuncId) (x : BarOffset) : Nat :=
  match pageAt fn x.toNat with
  | none => 0
  | some p =>
    let off := x.toNat % 0x1000
    if off % 4 ≠ 0 then 0
    else if fn.val = 0 then (if s.pfReaches p then s.shownWord fn p off else 0)
    else if !s.guestReads fn p off then 0
    else match p, off with
      | .dsp _, 0x048 => s.shownWord fn p off % 2 ^ 16
      | _, _ => s.shownWord fn p off

/-! The BAR2 window (R297, R299, R307, R309) -/

/-- The place a function's read of a BAR2 offset reaches: none in a reserved range, outside its view, or while the memory is wiped. -/
def State.bar2Place (s : State) (fn : FuncId) (a : Nat) : Option Place :=
  match placeOf a with
  | some x => if (fn.val = 0 || s.guestReady fn.val) && s.viewOf fn x && !s.wiping x then some x else none
  | none => none

/-- The byte a function reads at a BAR2 offset; a checkpoint area shows the checkpoint in its unstated layout (R85). -/
def State.bar2Byte (s : State) (fn : FuncId) (a : Nat) : Byte :=
  match s.bar2Place fn a with
  | some (.spad e off) =>
    if off < 0xFF00 then s.byte a
    else match (s.eng e).ckptNo with
      | some n => BitVec.ofNat 8 ((Config.checkpointWord n ((off - 0xFF00) / 4)).toNat / 2 ^ (8 * (off % 4)))
      | none => s.byte a
  | some _ => s.byte a
  | none => 0

/-- The `n` bytes a function reads from a BAR2 offset, and whether the completion is poisoned (EP). -/
def State.bar2Read (s : State) (fn : FuncId) (a n : Nat) : List Byte × Bool :=
  ((upTo n).map fun i => s.bar2Byte fn (a + i), (upTo n).any fun i => (s.bar2Place fn (a + i)).isSome && s.poisoned (a + i))

/-- The counters of a window read of the 8-byte unit at a BAR2 offset (R312 to R314). -/
def noteWindowRead (fn : FuncId) (a : Nat) : Act := look fun s =>
  match s.bar2Place fn a with
  | some x =>
    if s.poisoned a then (match x with | .spad .. => skip | x => notePlaceUe .window x)
    else if s.word .poison (a / 8) = 3 then notePlaceCorrected x else skip
  | none => skip

end Sys2Proof.Machine
end

