-- ==== Sys2Proof/WellFormed.lean ====
section
/-! DEFINITION. The well-formed commands: operands that name something the device has, and data of the size the spec gives it.
The types of the operands hold the rest of the bounds. -/

namespace Sys2Proof

/-- A page of the register map lies at every 4 KiB of its range; registers are words (R499). -/
def alignedWord (x : BarOffset) : Bool := x.toNat % 4 = 0

/-- An output has a configuration register (R194, R195). -/
def hasCfg : OutputId → OutCfgReg → Bool
  | .flux _, .mode | .flux _, .fs => false
  | .flux _, _ => true
  | _, .pdCtrl | _, .pd _ => false
  | _, _ => true

/-- An unstamped register stands on its page (R194, R195). -/
def hasUnstamped : UnstampedReg → Bool
  | .outGain (.flux _) | .jumpLead (.flux _) => false
  | _ => true

/-- A PCIe width (R422). -/
def linkWidthOk (w : BitVec 5) : Bool := w = 1 || w = 4 || w = 8 || w = 16

/-- A frame index of a class names a tone of the engine's block or region (R61, R98). -/
def frameIndexOk (t : FrameTarget) : Bool := if t.cls = 0 then t.idx.toNat < 16 else t.idx.toNat < 128

/-- The well-formed commands. -/
def wellFormed : Instr → Bool
  | .registerWrite _ x _ => alignedWord x
  | .outCfgWrite o r _ => hasCfg o r
  | .unstampedWriteApply r _ => hasUnstamped r
  | .setfrq _ _ tgt _ _ _ _ => frameIndexOk tgt
  | .shiftph _ _ _ tgt _ _ _ => frameIndexOk tgt
  | .bar2Write _ a data => 0 < data.length && a.toNat + data.length ≤ 2 ^ 36
  | .dec _ _ fn index _ _ _ _ => fn || index.toNat < 1024
  | .eyeScanDone _ eyes _ => eyes.length = 4
  | .routes _ _ bytes => bytes.length = 64
  | .hostLinkRecovery _ width _ | .firmwareStart _ width _ => linkWidthOk width
  | .clamp _ first last => Stamp.atOrAfter last first
  | _ => true

end Sys2Proof
end

