-- ==== Sys2Proof/Safety.lean ====
section
/-! DEFINITION. What counts as a safe run: the canonical form of the state's stores, and outputs cut off from the balls. -/

namespace Sys2Proof.Machine

/-- Numbers strictly rising. -/
def Store.rising {α : Type} : Store α → Bool
  | [] => true
  | [_] => true
  | (a, _) :: (b, w) :: m => a < b && Store.rising ((b, w) :: m)

/-- The canonical form of the state: memory and the word tables list no default value, and every store lists its numbers rising. -/
def State.wf (s : State) : Bool :=
  Memory.wf s.mem && Store.wf 0 s.tbl && Store.rising s.regs
    && Store.wf Engine.init s.engs && Store.wf Tone.init s.tones && Store.wf Output.init s.outputs && Store.wf Group.init s.groups
    && Store.wf Block.init s.blks && Store.wf DecSlot.init s.slots && Store.wf TrigUnit.init s.trigs && Store.wf RxState.init s.rxs
    && Store.wf FuncState.init s.funcs && Store.wf Former.init s.formers && Store.wf CapQueue.init s.capqs
    && Store.wf CoincState.init s.coincs && Store.wf DspState.init s.dsps && Store.wf PorterQueue.init s.dqs
    && Store.wf PortLink.init s.links && Store.wf FenceState.init s.fences

/-- No output and no marker is LIVE: nothing the device plays reaches a ball (R36). -/
def State.silent (s : State) : Bool := !s.anyLive

/-- A run that does nothing but execute its commands: each one answers a next state. -/
def runAll : List Instr → State → Res
  | [], s => .next s
  | c :: cs, s => match exec c s with
    | .next t => runAll cs t
    | .fault f => .fault f
    | .refused r => .refused r

/-! The terms claims use -/

/-- A command completes: it answers a next state, of which `P` holds. -/
def Completes (c : Instr) (s : State) (P : State → Prop) : Prop := ∃ t, exec c s = .next t ∧ P t

/-- The pieces of the state. -/
inductive Piece where
  | pending | regs | mem | tbl | out | rdata | free | time | engs | tones | outputs | groups | blks | led | fab | tend | slots | trigs
  | rxs | funcs | formers | capqs | coincs | dsps | dqs | links | fences | power | start
deriving DecidableEq, Repr

/-- A piece of the state is the same in two states. -/
def Piece.same (s t : State) : Piece → Prop
  | .pending => t.pending = s.pending | .regs => t.regs = s.regs | .mem => t.mem = s.mem | .tbl => t.tbl = s.tbl | .out => t.out = s.out
  | .rdata => t.rdata = s.rdata | .free => t.free = s.free | .time => t.time = s.time | .engs => t.engs = s.engs
  | .tones => t.tones = s.tones | .outputs => t.outputs = s.outputs | .groups => t.groups = s.groups | .blks => t.blks = s.blks
  | .led => t.led = s.led | .fab => t.fab = s.fab | .tend => t.tend = s.tend | .slots => t.slots = s.slots | .trigs => t.trigs = s.trigs
  | .rxs => t.rxs = s.rxs | .funcs => t.funcs = s.funcs | .formers => t.formers = s.formers | .capqs => t.capqs = s.capqs
  | .coincs => t.coincs = s.coincs | .dsps => t.dsps = s.dsps | .dqs => t.dqs = s.dqs | .links => t.links = s.links
  | .fences => t.fences = s.fences | .power => t.power = s.power | .start => t.start = s.start

/-- Every piece of the state but those listed is as before. -/
def Keeps (but : List Piece) (s t : State) : Prop := ∀ x, x ∉ but → x.same s t

/-- Every register field but those listed reads as before. -/
def FieldsKept (but : List (Page × Field)) (s t : State) : Prop :=
  ∀ p f, (∀ x ∈ but, regKey p f ≠ regKey x.1 x.2) → t.get p f = s.get p f

/-- Every register field of every page but those listed reads as before. -/
def PagesKept (but : List Page) (s t : State) : Prop :=
  ∀ p f, p ∉ but → f.off < 4096 → f.lo < 32 → t.get p f = s.get p f

/-- A command's frame: no register field but those listed changes, and no piece of the state but the registers and those listed. -/
def OnlyChanges (but : List (Page × Field)) (ps : List Piece) (s t : State) : Prop := FieldsKept but s t ∧ Keeps (.regs :: ps) s t

/-- The same, by pages: no register field of a page not listed changes. -/
def OnlyPagesChange (but : List Page) (ps : List Piece) (s t : State) : Prop := PagesKept but s t ∧ Keeps (.regs :: ps) s t

/-! The passing of ST (R42, R43, R45) -/

/-- The state once ST has passed to `a`: the samples before it have left the outputs, and what is over at it has ended. -/
def State.passed (s : State) (a : Stamp) : State := run (passTo a) s

/-- The pages that show what plays and what leaves HOLD. -/
def playPages : List Page :=
  (List.finRange 128).map Page.drive ++ (List.finRange 128).map Page.flux ++ (List.finRange 32).map Page.transceiver
    ++ (List.finRange 8).map Page.acquisition ++ (List.finRange 64).map Page.block

/-- What the passing of ST to `a` may do: ST is `a`, or stays where `a` has passed; of the timebase only ST and the end of a HOLD change; the
tones keep their frames; and beside tones, outputs and the blocks' stream slots, only registers that show them change. -/
def Passed (a : Stamp) (s u : State) : Prop :=
  u.st = (if Stamp.future a s.st then a else s.st) ∧
  u.time = { s.time with coarse := u.time.coarse, fine := u.time.fine, liveAt := u.time.liveAt } ∧
  (∀ k, (u.tone k).f = (s.tone k).f ∧ (u.tone k).p = (s.tone k).p) ∧
  OnlyPagesChange playPages [.time, .outputs, .tones, .blks] s u

/-- A command that first lets ST pass to `a`: the passing does no more than `Passed` says, and the command ends in a state of which
`P u` holds, where `u` is the state the passing leaves. -/
def CompletesAt (a : Stamp) (c : Instr) (s : State) (P : State → State → Prop) : Prop :=
  Passed a s (s.passed a) ∧ Completes c s (P (s.passed a))

/-- Every byte of memory outside the `n` bytes from `a` reads as before. -/
def BytesKept (a n : Nat) (s t : State) : Prop := ∀ b, b < a ∨ a + n ≤ b → t.byte b = s.byte b

end Sys2Proof.Machine
end

