-- ==== Sys2Proof/Certificates/Slice0/Obligations.lean ====
section
/-! DEFINITION. The statements put to the provers: what each command does, in which conditions, and what it leaves unchanged; which states
every step keeps; and the state after reset. -/

open Sys2Proof Sys2Proof.Machine

/-- The fields that show the condition of an output. -/
def condFields (o : OutputId) : List (Page × Field) :=
  [condField o, (outputPage o, OUTP.OUT_STATUS_POWERING), (outputPage o, OUTP.OUT_STATUS_SETTLING)]

/-- The fields of a marker's condition. -/
def markFields (m : Fin 16) : List (Page × Field) := [markCond m]

/-- R36, R39, R191, R545: an ENABLE that nothing refuses or delays takes a MUTED output to LIVE, and powers an INERT one, which goes to LIVE
when its DAC core is powered; MUTE and DISABLE take any output to MUTED and INERT and end a powering or waiting ENABLE. MARK_CMD takes a
marker to LIVE, MUTED or INERT (R545); one that is not LIVE is low. Nothing else of the device changes. -/
def Obligations.OutputConditionCommands : Prop :=
  (∀ o s, s.pageIs (outputPage o) .ready → s.crit = false → (s.output (outputNo o)).settling = false →
    Completes (.outEnable o) s fun t =>
      (s.cond o = Cond.muted.code → t.cond o = Cond.live.code) ∧
      (s.cond o = Cond.inert.code → t.cond o = Cond.inert.code ∧ (t.output (outputNo o)).powering = true) ∧
      (s.cond o = Cond.live.code ∨ s.cond o = Cond.hold.code → t = s) ∧
      OnlyChanges (condFields o) [.outputs] s t) ∧
  (∀ o s, (s.output (outputNo o)).powering = true →
    Completes (.outputPowered o) s fun t =>
      t.cond o = (if s.cond o = Cond.inert.code then Cond.live.code else s.cond o) ∧ (t.output (outputNo o)).powering = false ∧
      OnlyChanges (condFields o) [.outputs] s t) ∧
  (∀ o s, Completes (.outMute o) s fun t =>
      t.cond o = Cond.muted.code ∧ (t.output (outputNo o)).powering = false ∧ (t.output (outputNo o)).enableWaits = false ∧
      OnlyChanges (condFields o) [.outputs] s t) ∧
  (∀ o s, Completes (.outDisable o) s fun t =>
      t.cond o = Cond.inert.code ∧ (t.output (outputNo o)).powering = false ∧ (t.output (outputNo o)).enableWaits = false ∧
      OnlyChanges (condFields o) [.outputs] s t) ∧
  (∀ m s, s.pageIs (markPage m) .ready = true → s.pageIs (regionPage (m.val / 2)) .quarantined = false → s.crit = false →
    s.markerCond m ≤ Cond.muted.code →
    Completes (.markEnable m) s fun t =>
      t.markerCond m = Cond.live.code ∧ OnlyChanges (markFields m) [] s t) ∧
  (∀ m s, Completes (.markMute m) s fun t =>
      t.markerCond m = Cond.muted.code ∧ (t.output (markerNo m)).level = false ∧ OnlyChanges (markFields m) [.outputs] s t) ∧
  (∀ m s, Completes (.markDisable m) s fun t =>
      t.markerCond m = Cond.inert.code ∧ (t.output (markerNo m)).level = false ∧ OnlyChanges (markFields m) [.outputs] s t)

/-- The fields a configuration register of an output holds, each with its lowest bit in the word. -/
def cfgFields : OutputId → OutCfgReg → List (Page × Field × Nat)
  | .flux f, .pdCtrl => [(.flux f, FLUX.PD_CTRL_EN, 0)]
  | .flux f, .pd k => [(.flux f, FLUX.PD_A k, 0), (.flux f, FLUX.PD_TAU k, 16)]
  | .flux _, _ => []
  | o, .mode => [(outputPage o, OUTP.OUT_CFG_MODE, 0)]
  | o, .fs => [(outputPage o, OUTP.FS_CODE, 0)]
  | _, _ => []

/-- The page of an unstamped register, and its fields with their lowest bits in the word. -/
def unstampedPage : UnstampedReg → Page
  | .bias f => .flux f
  | .outGain o | .jumpLead o => outputPage o
  | .rxToneCfg t _ => .transceiver t

def unstampedFields : UnstampedReg → List (Page × Field × Nat)
  | .bias f => [(.flux f, FLUX.BIAS_CODE, 0)]
  | .outGain o => [(outputPage o, OUTP.OUT_GAIN_GAIN, 0)]
  | .jumpLead o => [(outputPage o, OUTP.JUMP_LEAD_LEAD, 0)]
  | .rxToneCfg t i => [(.transceiver t, TRANSCEIVER.RX_TONE_CFG_SHIFT i, 0), (.transceiver t, TRANSCEIVER.RX_TONE_CFG_CSHIFT i, 8)]

/-- R19, R165, R188, R191: a write to a configuration register of an INERT or MUTED output is taken and settles; when it has settled,
OUT_STATUS no longer shows it; outside those conditions the write is ignored and sets FAULT.CFG_BUSY; CLR_COUNTS clears the counts; an
unstamped write takes its value and counts in EVENT_COUNT. -/
def Obligations.OutputSettings : Prop :=
  (∀ o r v s, hasCfg o r = true → s.cond o ≤ Cond.muted.code →
    Completes (.outCfgWrite o r v) s fun t =>
      (∀ x ∈ cfgFields o r, t.get x.1 x.2.1 = BitVec.toNat (w := 32) v / 2 ^ x.2.2 % 2 ^ x.2.1.width) ∧
      (t.output (outputNo o)).settling = true ∧
      OnlyChanges (condFields o ++ (cfgFields o r).map fun x => (x.1, x.2.1)) [.outputs] s t ∧ t.cond o = s.cond o) ∧
  (∀ d v s, Cond.muted.code < s.cond (.drive d) → s.stopsOn (.drive d) 0 = false →
    Completes (.outCfgWrite (.drive d) .mode v) s fun t =>
      t.get (.drive d) OUTP.OUT_CFG_MODE = s.get (.drive d) OUTP.OUT_CFG_MODE ∧
      t.get (.drive d) ALL.FAULT_BITS = (s.get (.drive d) ALL.FAULT_BITS ||| 1) % 2 ^ 32 ∧ Keeps [.regs, .out] s t) ∧
  (∀ o s, (s.output (outputNo o)).enableWaits = false →
    Completes (.outputSettled o) s fun t =>
      (t.output (outputNo o)).settling = false ∧ t.cond o = s.cond o ∧ OnlyChanges (condFields o) [.outputs] s t) ∧
  (∀ o s, Completes (.outClrCounts o) s fun t =>
      (∀ f, o = .flux f → t.get (.flux f) FLUX.CLIP_COUNT_COUNT = 0) ∧
      (∀ i, i < slotsOf o → t.get (outputPage o) OUTP.CLIP_COUNT_COUNT = 0 ∧ t.get (outputPage o) (OUTP.TONE_COUNT_UNDERRUN i) = 0 ∧
        t.get (outputPage o) (OUTP.TONE_COUNT_LATE_JUMP i) = 0) ∧
      OnlyPagesChange [outputPage o] [] s t) ∧
  (∀ r v s, hasUnstamped r = true →
    Completes (.unstampedWriteApply r v) s fun t =>
      (∀ x ∈ unstampedFields r, t.get x.1 x.2.1 = BitVec.toNat (w := 32) v / 2 ^ x.2.2 % 2 ^ x.2.1.width) ∧
      t.get (unstampedPage r) ALL.EVENT_COUNT_COUNT = (s.get (unstampedPage r) ALL.EVENT_COUNT_COUNT + 1) % 2 ^ 32 ∧
      OnlyChanges ((unstampedPage r, ALL.EVENT_COUNT_COUNT) :: (unstampedFields r).map fun x => (x.1, x.2.1)) [] s t)

/-- R82, R406: TT_PEEK latches the head entry of the timetable, or 0x0 where there is none, and TT_CLEAR clears the statistics it names, for a
function that reaches the CELL page; one that does not reach it changes nothing but the data of its read, which is 0. -/
def Obligations.TimetableRegisters : Prop :=
  (∀ (fn : FuncId) (e : EngineId) s x rest, s.reachesCell fn e = true → (s.eng e).timetable = x :: rest →
    Completes (.ttPeekRead fn e) s fun t =>
      t.rdata = x.layout % 2 ^ 32 ∧ (∀ i, i < 4 → t.get (.cell e) (CELL.TT_PEEK_WORD i) = x.layout / 2 ^ (32 * i) % 2 ^ 32) ∧
      OnlyPagesChange [.cell e] [.rdata] s t) ∧
  (∀ (fn : FuncId) (e : EngineId) s, s.reachesCell fn e = true → (s.eng e).timetable = [] →
    Completes (.ttPeekRead fn e) s fun t =>
      t.rdata = 0 ∧ (∀ i, i < 4 → t.get (.cell e) (CELL.TT_PEEK_WORD i) = 0) ∧ OnlyPagesChange [.cell e] [.rdata] s t) ∧
  (∀ (fn : FuncId) (e : EngineId) s, s.reachesCell fn e = false →
    Completes (.ttPeekRead fn e) s fun t => t.rdata = 0 ∧ OnlyChanges [] [.rdata] s t) ∧
  (∀ (fn : FuncId) (e : EngineId) s, s.reachesCell fn e = true →
    Completes (.ttClearSlack fn e) s fun t =>
      t.get (.cell e) CELL.SLACK_MIN = 0x7FFFFFFF ∧ OnlyChanges [(.cell e, CELL.SLACK_MIN)] [] s t) ∧
  (∀ (fn : FuncId) (e : EngineId) s, s.reachesCell fn e = true →
    Completes (.ttClearCounts fn e) s fun t =>
      t.get (.cell e) CELL.LATE_COUNT_COUNT = 0 ∧ t.get (.cell e) CELL.STALL_COUNT_COUNT = 0 ∧
      OnlyChanges [(.cell e, CELL.LATE_COUNT_COUNT), (.cell e, CELL.STALL_COUNT_COUNT)] [] s t) ∧
  (∀ (fn : FuncId) (e : EngineId) s, s.reachesCell fn e = true →
    Completes (.ttClearFlags fn e) s fun t =>
      t.get (.cell e) CELL.TT_STATUS_LATE = 0 ∧ t.get (.cell e) CELL.TT_STATUS_ORDER = 0 ∧ t.get (.cell e) CELL.TT_STATUS_BURST = 0 ∧
      OnlyChanges [(.cell e, CELL.TT_STATUS_LATE), (.cell e, CELL.TT_STATUS_ORDER), (.cell e, CELL.TT_STATUS_BURST)] [] s t) ∧
  (∀ (fn : FuncId) (e : EngineId) s c, c = .ttClearSlack fn e ∨ c = .ttClearCounts fn e ∨ c = .ttClearFlags fn e → s.reachesCell fn e = false →
    Completes c s fun t => t = s)

/-- The grids of R64, anchored at ST = 0: 1 ST for drive and probe tones, 32 ST for receive tones, 8 ST for flux outputs, 4 ST for markers. -/
def gridST : TargetClass → Nat
  | .drive | .probe => 1 | .receive => 32 | .flux => 8 | .marker => 4

/-- R64: an entry acts at the first sample of its target's grid at or after its stamp. -/
def OnGrid (x : Entry) : Prop := (actsAt x).toNat % gridST x.cls = 0 ∧ (actsAt x - x.stamp).toNat < gridST x.cls

/-- R60: an engine's checkpoint once the frames of its tones are latched, as they stand in `u`, unless they were latched before. -/
def latchedIn (u : State) (e : EngineId) : Option Checkpoint :=
  (u.eng e).ckpt.map fun c => if c.latched then c else { c with frames := u.framesOf e, latched := true }

/-- R60: a frame change stamped at or after the anchor of its engine's open shot acts after the frames are latched. -/
def latchesFirst (u : State) (e : EngineId) (x : Entry) : Bool :=
  u.inShot e && (u.group (u.groupOf e)).open' && !(u.group (u.groupOf e)).voidedNow
    && Stamp.atOrAfter x.stamp (u.group (u.groupOf e)).begun

/-- A frame change of an entry: its tone's frame becomes `g`, a receive tone keeps the earlier one for the samples records can reach back to;
the entry leaves the engine's committed ones; nothing else of a tone, an engine or the device changes. -/
def FrameChange (e : EngineId) (x : Entry) (g : PhaseFrame → PhaseFrame) (u t : State) : Prop :=
  let k := entryTone e x
  let old : PhaseFrame := ⟨(u.tone k).f, (u.tone k).p⟩
  OnGrid x ∧ t.tone k = { u.tone k with f := (g old).f, p := (g old).p, frames := (t.tone k).frames } ∧
  (2048 ≤ k → (t.tone k).frames = (actsAt x, old) :: (u.tone k).frames.filter fun y => (actsAt x - y.1).toNat < 2 ^ 31) ∧
  (∀ j, j ≠ k → t.tone j = u.tone j) ∧
  t.eng e = { u.eng e with due := dropFirst x (u.eng e).due, ckpt := if latchesFirst u e x then latchedIn u e else (u.eng e).ckpt } ∧
  (∀ j, j ≠ e.val → t.eng j = u.eng j) ∧ OnlyChanges [] [.engs, .tones] u t

/-- R57, R58, R60, R62, R64, R545: the committed entry of its kind that acts next takes effect at the first sample of its target's grid at or
after its stamp: FREQ_SET replaces F, PHASE_ADD adds to P, PHASE_SET replaces P, MARK drives a LIVE marker and leaves one that is not LIVE
low; no other tone, marker or register changes beyond the passing of ST. -/
def Obligations.FrameEvents : Prop :=
  (∀ (e : EngineId) s x, s.nextDue e .freqSet = some x →
    CompletesAt (actsAt x) (.freqSet e) s (FrameChange e x fun g => { g with f := x.operand })) ∧
  (∀ (e : EngineId) s x, s.nextDue e .phaseAdd = some x →
    CompletesAt (actsAt x) (.phaseAdd e) s (FrameChange e x fun g => { g with p := g.p + x.operand.truncate 32 })) ∧
  (∀ (e : EngineId) s x, s.nextDue e .phaseSet = some x →
    CompletesAt (actsAt x) (.phaseSet e) s (FrameChange e x fun g => { g with p := x.operand.truncate 32 })) ∧
  (∀ (e : EngineId) s x, s.nextDue e .mark = some x →
    CompletesAt (actsAt x) (.mark e) s fun u t =>
      OnGrid x ∧
      (u.markerCond (x.index % 16) = Cond.live.code → (t.output (markerNo (x.index % 16))).level = (x.operand.toNat % 2 = 1)) ∧
      (u.markerCond (x.index % 16) ≠ Cond.live.code → t.outputs = u.outputs) ∧
      (∀ k, k ≠ markerNo (x.index % 16) → t.output k = u.output k) ∧
      t.eng e = { u.eng e with due := dropFirst x (u.eng e).due } ∧ (∀ j, j ≠ e.val → t.eng j = u.eng j) ∧
      OnlyChanges [] [.engs, .outputs] u t) ∧
  (∀ (e : EngineId) s, s.nextDue e .freqSet = none → Completes (.freqSet e) s fun t => t = s) ∧
  (∀ (e : EngineId) s, s.nextDue e .phaseAdd = none → Completes (.phaseAdd e) s fun t => t = s) ∧
  (∀ (e : EngineId) s, s.nextDue e .phaseSet = none → Completes (.phaseSet e) s fun t => t = s) ∧
  (∀ (e : EngineId) s, s.nextDue e .mark = none → Completes (.mark e) s fun t => t = s)

/-- The first sample of the word of 32 samples that holds a stamp (R67). -/
def wordOf (t : Stamp) : Stamp := (t >>> 5) <<< 5

/-- When the gate forms the word that holds a stamp: GATE_LEAD, 256 ST, before the word leaves the balls (R67). -/
def formedAt (t : Stamp) : Stamp := wordOf t - 256

/-- The entries of an engine that the gate has released into the word of a stamp (R68). -/
def inWordOf (s : State) (e : EngineId) (t : Stamp) : Nat := if (s.eng e).word = wordOf t then (s.eng e).inWord else 0

/-- No enqueue of a block waits for a stream slot, and no branch unit of it waits for room (R71, R181). -/
def noneWaits (s : State) (k : Nat) : Prop :=
  ∀ i ∈ enginesOfBlock k, (s.eng i).tail = none ∧ ∀ xs td, (s.eng i).wait ≠ .streamSlot xs td

/-- An engine's enqueue does not wait for space in its timetable (R71). -/
def notStalled (s : State) (e : EngineId) : Prop := ∀ xs td, (s.eng e).wait ≠ .space xs td

/-- R72: TT_CTRL.LW_EN makes the low-water stopover pending when DEPTH falls from above LOWWATER to it. -/
def lowWaterPend (e : EngineId) (before after : Nat) (u : State) : Nat :=
  let lw := u.get (.cell e) CELL.TT_CTRL_LOWWATER
  if u.get (.cell e) CELL.TT_CTRL_LW_EN = 1 ∧ u.engStopped e = false ∧ lw < before ∧ after ≤ lw then
    (u.get (.cell e) CELL.SO_STATUS_PEND ||| 8) % 64
  else u.get (.cell e) CELL.SO_STATUS_PEND

/-- R67, R68, R72, R173: the release gate takes the head entry of a timetable when it forms the word of its stamp, moves it to the entries
committed for their stamps and counts it in its word; an entry beyond the envelope budget plays silent and is counted; past eight entries
into one word an entry is dropped, with BURST and the late counts; an uncorrectable entry is a cell fault. With an empty timetable, or
while the sample domain is frozen, nothing is released. -/
def Obligations.Release : Prop :=
  (∀ (e : EngineId) s x rest, (s.eng e).timetable = x :: rest → s.time.frozen = false → notStalled s e → noneWaits s (blockOf e) →
    inWordOf s e x.stamp < 8 → s.envelopeBad e x = false → budgetCheck e x (s.passed (formedAt x.stamp)) = false →
    CompletesAt (formedAt x.stamp) (.release e .none) s fun u t =>
      t.eng e = { u.eng e with timetable := rest, due := (u.eng e).due ++ [{ x with silent := false }], released := some x.stamp,
                                word := wordOf x.stamp, inWord := inWordOf s e x.stamp + 1 } ∧
      (∀ j, j ≠ e.val → t.eng j = u.eng j) ∧
      t.get (.cell e) CELL.SO_STATUS_PEND = lowWaterPend e (rest.length + 1) rest.length u ∧
      OnlyChanges [(.cell e, CELL.SO_STATUS_PEND)] [.engs] u t) ∧
  (∀ (e : EngineId) s x rest, (s.eng e).timetable = x :: rest → s.time.frozen = false → notStalled s e → noneWaits s (blockOf e) →
    inWordOf s e x.stamp < 8 → s.envelopeBad e x = false → s.inShot e = false → budgetCheck e x (s.passed (formedAt x.stamp)) = true →
    CompletesAt (formedAt x.stamp) (.release e .none) s fun u t =>
      t.eng e = { u.eng e with timetable := rest, due := (u.eng e).due ++ [{ x with silent := true }], released := some x.stamp,
                                word := wordOf x.stamp, inWord := inWordOf s e x.stamp + 1 } ∧
      (∀ j, j ≠ e.val → t.eng j = u.eng j) ∧
      t.get (blockPage (blockOf e)) BLOCK.ENV_OVER_COUNT = satInc 32 (u.get (blockPage (blockOf e)) BLOCK.ENV_OVER_COUNT) % 2 ^ 32 ∧
      OnlyChanges [(.cell e, CELL.SO_STATUS_PEND), (blockPage (blockOf e), BLOCK.ENV_OVER_COUNT)] [.engs] u t) ∧
  (∀ (e : EngineId) (err : GateError) s x rest, err ≠ .entry → (s.eng e).timetable = x :: rest → s.time.frozen = false →
    notStalled s e → noneWaits s (blockOf e) → 8 ≤ inWordOf s e x.stamp → s.inShot e = false →
    CompletesAt (formedAt x.stamp) (.release e err) s fun u t =>
      t.eng e = { u.eng e with timetable := rest } ∧ (∀ j, j ≠ e.val → t.eng j = u.eng j) ∧
      t.get (.cell e) CELL.TT_STATUS_BURST = 1 ∧
      t.get (.cell e) CELL.LATE_COUNT_COUNT = satInc 32 (u.get (.cell e) CELL.LATE_COUNT_COUNT) % 2 ^ 32 ∧
      t.get .timebase TIMEBASE.LATE_TOTAL_COUNT = satInc 32 (u.get .timebase TIMEBASE.LATE_TOTAL_COUNT) % 2 ^ 32 ∧
      OnlyChanges [(.cell e, CELL.SO_STATUS_PEND), (.cell e, CELL.TT_STATUS_BURST), (.cell e, CELL.LATE_COUNT_COUNT),
        (.timebase, TIMEBASE.LATE_TOTAL_COUNT), (blockPage (blockOf e), BLOCK.STREAM_STATUS_USED)] [.engs, .blks] u t) ∧
  (∀ (e : EngineId) s x rest, (s.eng e).timetable = x :: rest → s.time.frozen = false → notStalled s e → noneWaits s (blockOf e) →
    inWordOf s e x.stamp < 8 → s.inShot e = false → budgetCheck e x (s.passed (formedAt x.stamp)) = false →
    CompletesAt (formedAt x.stamp) (.release e .envelope) s fun u t =>
      (t.eng e).due = (u.eng e).due ++ [{ x with silent := false }] ∧ OnlyChanges [(.cell e, CELL.SO_STATUS_PEND)] [.engs] u t) ∧
  (∀ (e : EngineId) s x rest, (s.eng e).timetable = x :: rest → s.time.frozen = false → noneWaits s (blockOf e) →
    CompletesAt (formedAt x.stamp) (.release e .entry) s fun u t =>
      t.get (.cell e) ALL.FAULT_BITS = (u.get (.cell e) ALL.FAULT_BITS ||| 2 ^ 0) % 2 ^ 32 ∧ (t.eng e).due = (u.eng e).due) ∧
  (∀ (e : EngineId) (err : GateError) s, (s.eng e).timetable = [] ∨ s.time.frozen = true → Completes (.release e err) s fun t => t = s)

/-- R42, R47, R50, R52, R53, R516: CLK_TRIM is written while no engine runs and every RF and flux output is INERT or MUTED, and settles; reading
ST_LO returns the low word of ST and latches the high word; reading SYNC_CAPT_HI clears SYNC_SEEN; SYNC_ARM arms a LOAD while no engine
runs; SYNC_LOST is set in CAPTURE mode when two periods have passed without a pulse, and once. The commands of a guest, and those refused, change no setting. -/
def Obligations.TimebaseCommands : Prop :=
  (∀ (fn : FuncId) (v : Byte) s, fn.val = 0 → s.anyRunning = false → s.outputsQuiet = true →
    Completes (.clkTrimWrite fn v) s fun t =>
      t.get .timebase TIMEBASE.CLK_TRIM_TRIM = v.toNat ∧ t.get .timebase TIMEBASE.TB_STATUS_TRIM_BUSY = 1 ∧
      OnlyChanges [(.timebase, TIMEBASE.CLK_TRIM_TRIM), (.timebase, TIMEBASE.TB_STATUS_TRIM_BUSY)] [] s t) ∧
  (∀ (fn : FuncId) (v : Byte) s, fn.val = 0 → s.anyRunning = true ∨ s.outputsQuiet = false →
    Completes (.clkTrimWrite fn v) s fun t =>
      t.get .timebase TIMEBASE.CLK_TRIM_TRIM = s.get .timebase TIMEBASE.CLK_TRIM_TRIM ∧
      t.get .timebase ALL.FAULT_BITS = (s.get .timebase ALL.FAULT_BITS ||| 2 ^ 4) % 2 ^ 32 ∧ Keeps [.regs, .out] s t) ∧
  (∀ s, Completes .trimSettled s fun t =>
      t.get .timebase TIMEBASE.TB_STATUS_TRIM_BUSY = 0 ∧ OnlyChanges [(.timebase, TIMEBASE.TB_STATUS_TRIM_BUSY)] [] s t) ∧
  (∀ (fn : FuncId) s, fn.val = 0 → Completes (.stLoRead fn) s fun t =>
      t.rdata = s.st.toNat % 2 ^ 32 ∧ t.get .timebase TIMEBASE.ST_HI = s.st.toNat / 2 ^ 32 ∧
      OnlyChanges [(.timebase, TIMEBASE.ST_LO), (.timebase, TIMEBASE.ST_HI)] [.rdata] s t) ∧
  (∀ (fn : FuncId) s, fn.val = 0 → Completes (.syncCaptHiRead fn) s fun t =>
      t.rdata = s.get .timebase TIMEBASE.SYNC_CAPT_HI ∧ t.get .timebase TIMEBASE.TB_STATUS_SYNC_SEEN = 0 ∧
      OnlyChanges [(.timebase, TIMEBASE.TB_STATUS_SYNC_SEEN)] [.rdata] s t) ∧
  (∀ (fn : FuncId) s, fn.val = 0 → s.anyRunning = false →
    Completes (.syncArm fn) s fun t =>
      t.get .timebase TIMEBASE.TB_CTRL_SYNC_ARM = 1 ∧ OnlyChanges [(.timebase, TIMEBASE.TB_CTRL_SYNC_ARM)] [] s t) ∧
  (∀ (fn : FuncId) s, fn.val = 0 → s.anyRunning = true →
    Completes (.syncArm fn) s fun t =>
      t.get .timebase TIMEBASE.TB_CTRL_SYNC_ARM = s.get .timebase TIMEBASE.TB_CTRL_SYNC_ARM ∧
      t.get .timebase ALL.FAULT_BITS = (s.get .timebase ALL.FAULT_BITS ||| 2 ^ 0) % 2 ^ 32 ∧ Keeps [.regs, .out] s t) ∧
  (∀ s, s.get .timebase TIMEBASE.TB_CTRL_SYNC_MODE = 2 → s.time.counting = true → s.time.syncGone = false →
    CompletesAt (s.time.syncFrom + BitVec.ofNat 64 (2 * s.syncPeriod)) .syncLost s fun u t =>
      t.get .timebase ALL.FAULT_BITS = (u.get .timebase ALL.FAULT_BITS ||| 2 ^ 1) % 2 ^ 32 ∧ t.time = { u.time with syncGone := true } ∧
      OnlyPagesChange [.timebase] [.time, .out] u t) ∧
  (∀ s, s.get .timebase TIMEBASE.TB_CTRL_SYNC_MODE ≠ 2 ∨ s.time.syncGone = true → Completes .syncLost s fun t => t = s) ∧
  (∀ (fn : FuncId) (v : Byte) s c, c = .clkTrimWrite fn v ∨ c = .syncArm fn → fn.val ≠ 0 → Completes c s fun t => t = s)

/-- The smallest slack sample of the interval under way: the largest value where there was none (R75). -/
def intervalMin (s : State) : Int := match s.time.minSlack with | some (m, _) => m | none => 0x7FFFFFFF

/-- The conditions of R77 for lowering VCP at the end of an interval whose smallest slack sample is `m`. -/
def lowersVcp (s : State) (m : Int) : Bool :=
  s.get .timebase TIMEBASE.TB_CTRL_AVS_EN = 1 &&
    (((s.get .timebase TIMEBASE.SLACK_GUARD_GUARD + if s.shed then 0 else s.get .timebase TIMEBASE.SLACK_GUARD_HYST : Nat) : Int) ≤ m) &&
    !s.time.raised && !s.time.lateSeen && s.time.noLower = 0 &&
    s.get .timebase TIMEBASE.VCP_STATE_STEP < s.get .timebase TIMEBASE.VCP_STATE_VCP_FLOOR

/-- R75, R77, R516: at the end of an evaluation interval, one fabric epoch or 2^20 ST in SHED after it began, its smallest slack sample and that sample's engine are shown, VCP is lowered by one
step where every condition of R77 holds and brought to a new floor it lies below, SLACK_LOW clears after an interval with no raise, and
the next interval starts afresh. -/
def Obligations.VoltageScalingInterval : Prop :=
  ∀ s m, m = intervalMin s →
    CompletesAt s.avsEnd .avsIntervalEnd s fun u t =>
      t.get .timebase TIMEBASE.SLACK_MIN_INTERVAL_SLACK = ofSigned 32 m % 2 ^ 32 ∧
      t.get .timebase TIMEBASE.SLACK_MIN_ENGINE_ENGINE =
        (match s.time.minSlack with | some (_, e) => e % 1024 | none => s.get .timebase TIMEBASE.SLACK_MIN_ENGINE_ENGINE) ∧
      (lowersVcp s m = true → t.get .timebase TIMEBASE.VCP_STATE_STEP = (s.get .timebase TIMEBASE.VCP_STATE_STEP + 1) % 32) ∧
      (lowersVcp s m = false → s.get .timebase TIMEBASE.VCP_STATE_VCP_FLOOR < s.get .timebase TIMEBASE.VCP_STATE_STEP →
        t.get .timebase TIMEBASE.VCP_STATE_STEP = s.get .timebase TIMEBASE.VCP_STATE_VCP_FLOOR % 32) ∧
      (lowersVcp s m = false → s.get .timebase TIMEBASE.VCP_STATE_STEP ≤ s.get .timebase TIMEBASE.VCP_STATE_VCP_FLOOR →
        t.get .timebase TIMEBASE.VCP_STATE_STEP = s.get .timebase TIMEBASE.VCP_STATE_STEP) ∧
      (s.time.raised = false → t.get .timebase TIMEBASE.TB_STATUS_SLACK_LOW = 0 ∧ t.get .thermal THERMAL.TSTATE_SLACK_THROTTLE = 0) ∧
      t.time = { u.time with minSlack := none, raised := false, lateSeen := false, noLower := s.time.noLower - 1, avsFrom := u.st } ∧
      OnlyChanges [(.timebase, TIMEBASE.SLACK_MIN_INTERVAL_SLACK), (.timebase, TIMEBASE.SLACK_MIN_ENGINE_ENGINE),
        (.timebase, TIMEBASE.VCP_STATE_STEP), (.timebase, TIMEBASE.TB_STATUS_SLACK_LOW), (.thermal, THERMAL.TSTATE_SLACK_THROTTLE)] [.time] u t

/-- The pulse that an entry's context plays from `g`. -/
def pulseOf (e : EngineId) (x : Entry) (g : Stamp) : Pulse := ⟨x.ctx, g, x.stop, e, x.silent⟩

/-- The stream slot of what streams on a tone lies in its engine's block. -/
def streamPages (x : Tone) : List Page := x.stream.toList.map fun y => blockPage (blockOf y.engine)

/-- R190: a pulse of a higher engine with the same first sample plays on; an earlier one, or one of a lower engine, is cut. -/
def fluxKept (u : State) (f : Nat) (e : EngineId) (g : Stamp) : Bool :=
  match (u.output (160 + f)).pulse with
  | some p => !overAt p.stop g && p.start = g && e.val < p.engine
  | none => false

/-- R167, R170, R171, R187, R190, R194: a TONE_START at its stamp makes its tone play the captured context from the stamp for the context's
duration, in place of what played, with OVERLAP where that still played; a FLUX_PULSE plays from the first flux sample at or after its
stamp, unless a pulse of a higher engine begins there too; a DURATION of 0 plays nothing, and a RATE outside its limits sets RATE_RANGE.
Neither changes a phase frame or another tone or output. -/
def Obligations.PulseEvents : Prop :=
  (∀ (e : EngineId) s x, s.nextDue e .toneStart = some x → entryTone e x < 2048 →
    s.stopsOn (outputPage (toneOutput (entryTone e x)).1) 2 = false →
    CompletesAt (actsAt x) (.toneStart e) s fun u t =>
      t.tone (entryTone e x) =
        { u.tone (entryTone e x) with pulse := if Ctx.duration x.ctx = 0 then none else some (pulseOf e x x.stamp), stream := none } ∧
      (∀ k, k ≠ entryTone e x → t.tone k = u.tone k) ∧
      t.get (outputPage (toneOutput (entryTone e x)).1) (OUTP.TONE_STATUS_PLAYING (toneOutput (entryTone e x)).2)
        = (if Ctx.duration x.ctx = 0 then 0 else 1) ∧
      t.get (outputPage (toneOutput (entryTone e x)).1) (OUTP.TONE_STATUS_OVERLAP (toneOutput (entryTone e x)).2)
        = (if (u.tone (entryTone e x)).playsAt x.stamp then 1
          else u.get (outputPage (toneOutput (entryTone e x)).1) (OUTP.TONE_STATUS_OVERLAP (toneOutput (entryTone e x)).2)) ∧
      t.get (outputPage (toneOutput (entryTone e x)).1) ALL.FAULT_BITS
        = (if playedRate false x.ctx = Ctx.rate x.ctx then u.get (outputPage (toneOutput (entryTone e x)).1) ALL.FAULT_BITS
          else (u.get (outputPage (toneOutput (entryTone e x)).1) ALL.FAULT_BITS ||| 2 ^ 2) % 2 ^ 32) ∧
      t.eng e = { u.eng e with due := dropFirst x (u.eng e).due } ∧ (∀ j, j ≠ e.val → t.eng j = u.eng j) ∧
      OnlyPagesChange (outputPage (toneOutput (entryTone e x)).1 :: streamPages (u.tone (entryTone e x))) [.engs, .tones, .blks, .out] u t) ∧
  (∀ (e : EngineId) s x, s.nextDue e .fluxPulse = some x → s.stopsOn (fluxPage (fluxOf e x.index)) 2 = false →
    CompletesAt (actsAt x) (.fluxPulse e) s fun u t =>
      t.output (160 + fluxOf e x.index) = { u.output (160 + fluxOf e x.index) with
        pulse := if fluxKept u (fluxOf e x.index) e (Stamp.gridUp 3 x.stamp) then (u.output (160 + fluxOf e x.index)).pulse
          else if Ctx.duration x.ctx = 0 ∨ overAt x.stop (Stamp.gridUp 3 x.stamp) then none
          else some (pulseOf e x (Stamp.gridUp 3 x.stamp)) } ∧
      (∀ k, k ≠ 160 + fluxOf e x.index → t.output k = u.output k) ∧
      (fluxKept u (fluxOf e x.index) e (Stamp.gridUp 3 x.stamp) = false → t.get (fluxPage (fluxOf e x.index)) FLUX.FLUX_STATUS_PLAYING
        = (if Ctx.duration x.ctx = 0 ∨ overAt x.stop (Stamp.gridUp 3 x.stamp) then 0 else 1)) ∧
      t.get (fluxPage (fluxOf e x.index)) ALL.FAULT_BITS
        = (if playedRate true x.ctx = Ctx.rate x.ctx then u.get (fluxPage (fluxOf e x.index)) ALL.FAULT_BITS
          else (u.get (fluxPage (fluxOf e x.index)) ALL.FAULT_BITS ||| 2 ^ 2) % 2 ^ 32) ∧
      t.eng e = { u.eng e with due := dropFirst x (u.eng e).due } ∧ (∀ j, j ≠ e.val → t.eng j = u.eng j) ∧
      OnlyPagesChange [fluxPage (fluxOf e x.index)] [.engs, .outputs, .out] u t) ∧
  (∀ (e : EngineId) s, s.nextDue e .toneStart = none → Completes (.toneStart e) s fun t => t = s) ∧
  (∀ (e : EngineId) s, s.nextDue e .fluxPulse = none → Completes (.fluxPulse e) s fun t => t = s)

/-- An engine executes the instructions of its program one at a time. -/
def fetches (s : State) (e : EngineId) : Prop := s.executes e = true ∧ (s.eng e).byMicro = false

/-- The condition flags an instruction may set. -/
def flagFields (e : EngineId) : List (Page × Field) :=
  [(.cell e, CELL.CW_Z), (.cell e, CELL.CW_N), (.cell e, CELL.CW_C), (.cell e, CELL.CW_V)]

/-- FN on two words, in integers (R106): the value `r` that G[A] takes. -/
def fnResult (f : AluFn) (a b r : Word) : Prop :=
  match f with
  | .add => r.toNat = (a.toNat + b.toNat) % 2 ^ 32
  | .sub => r.toNat = (a.toNat + 2 ^ 32 - b.toNat) % 2 ^ 32
  | .and => ∀ i, r.getLsbD i = (a.getLsbD i && b.getLsbD i)
  | .or => ∀ i, r.getLsbD i = (a.getLsbD i || b.getLsbD i)
  | .xor => ∀ i, r.getLsbD i = (a.getLsbD i != b.getLsbD i)
  | .shl => r.toNat = a.toNat * 2 ^ (b.toNat % 32) % 2 ^ 32
  | .shr => r.toNat = a.toNat / 2 ^ (b.toNat % 32)
  | .sar => r.toInt = a.toInt / 2 ^ (b.toNat % 32)
  | .mul => r.toNat = a.toNat * b.toNat % 2 ^ 32
  | .min => r.toInt = min a.toInt b.toInt
  | .max => r.toInt = max a.toInt b.toInt

/-- The flags after FN (R106): Z and N of the result; C and V of an ADD or SUB, as before for every other function. -/
def fnFlags (e : EngineId) (f : AluFn) (a b r : Word) (s t : State) : Prop :=
  t.get (.cell e) CELL.CW_Z = (if r.toNat = 0 then 1 else 0) ∧ t.get (.cell e) CELL.CW_N = (if r.toInt < 0 then 1 else 0) ∧
  t.get (.cell e) CELL.CW_C = (match f with
    | .add => if 2 ^ 32 ≤ a.toNat + b.toNat then 1 else 0
    | .sub => if b.toNat ≤ a.toNat then 1 else 0
    | _ => s.get (.cell e) CELL.CW_C) ∧
  t.get (.cell e) CELL.CW_V = (match f with
    | .add => if r.toInt = a.toInt + b.toInt then 0 else 1
    | .sub => if r.toInt = a.toInt - b.toInt then 0 else 1
    | _ => s.get (.cell e) CELL.CW_V)

/-- R106: NOP, MOVI, ALU, ALUI and CMP of an engine that runs: the destination register takes the value its function gives, the flags
R106 names are set, the PC moves to the next instruction, and nothing else of the device changes. -/
def Obligations.ArithmeticInstructions : Prop :=
  (∀ (e : EngineId) s, fetches s e →
    Completes (.nop e) s fun t => t.pc e = (s.pc e + 1) % 4096 ∧ OnlyChanges [(.cell e, CELL.STATUS_PC)] [] s t) ∧
  (∀ (e : EngineId) (a : Fin 16) (imm : Word) s, fetches s e →
    Completes (.movi e a imm) s fun t =>
      t.greg e a = imm ∧ t.get (.cell e) CELL.CW_Z = (if imm.toNat = 0 then 1 else 0) ∧
      t.get (.cell e) CELL.CW_N = (if imm.toInt < 0 then 1 else 0) ∧ t.pc e = (s.pc e + 1) % 4096 ∧
      OnlyChanges [(.cell e, CELL.STATUS_PC), (.cell e, CELL.G_VALUE a), (.cell e, CELL.CW_Z), (.cell e, CELL.CW_N)] [] s t) ∧
  (∀ (e : EngineId) (f : AluFn) (a b c : Fin 16) s, fetches s e →
    Completes (.alu e f a b c) s fun t =>
      fnResult f (s.greg e b) (s.greg e c) (t.greg e a) ∧ fnFlags e f (s.greg e b) (s.greg e c) (t.greg e a) s t ∧
      t.pc e = (s.pc e + 1) % 4096 ∧
      OnlyChanges ((.cell e, CELL.STATUS_PC) :: (.cell e, CELL.G_VALUE a) :: flagFields e) [] s t) ∧
  (∀ (e : EngineId) (f : AluFn) (a b : Fin 16) (imm : Word) s, fetches s e →
    Completes (.alui e f a b imm) s fun t =>
      fnResult f (s.greg e b) imm (t.greg e a) ∧ fnFlags e f (s.greg e b) imm (t.greg e a) s t ∧
      t.pc e = (s.pc e + 1) % 4096 ∧
      OnlyChanges ((.cell e, CELL.STATUS_PC) :: (.cell e, CELL.G_VALUE a) :: flagFields e) [] s t) ∧
  (∀ (e : EngineId) (b : Fin 16) (x : RegOrImm) s, fetches s e →
    Completes (.cmp e b x) s fun t =>
      (∃ r, fnResult .sub (s.greg e b) (s.regOrImm e x) r ∧ fnFlags e .sub (s.greg e b) (s.regOrImm e x) r s t) ∧
      t.pc e = (s.pc e + 1) % 4096 ∧ OnlyChanges ((.cell e, CELL.STATUS_PC) :: flagFields e) [] s t)

/-- The index of the local word and of the bank word that G[B] + imm32 names (R85, R106). -/
def localAt (s : State) (e : EngineId) (b : Fin 16) (imm : Word) : Nat := ((s.greg e b).toNat + imm.toNat) % 8192
def bankAt (s : State) (e : EngineId) (b : Fin 16) (imm : Word) : Nat := ((s.greg e b).toNat + imm.toNat) % 262144

/-- A local word outside the checkpoint area, and half `hi` of a bank word, as the engines of a block see them (R85, R127). -/
def localSeen (s : State) (e : EngineId) (i : Nat) : Nat := s.seen (blockOf e) (spadAddr e (0x8000 + 4 * i)) 4
def halfSeen (s : State) (e : EngineId) (w : Nat) (hi : Bool) : Nat := s.seen (blockOf e) (bankAddr (blockOf e) w + if hi then 4 else 0) 4

/-- The spare of an engine's block mirrors its scratchpad (R342). -/
def mirrored (s : State) (e : EngineId) : Bool :=
  (s.blk (blockOf e)).copied && (s.blk (blockOf e)).shadow = cellOf e && !(s.blk (blockOf e)).spareUsed

/-- A store of `n` bytes of the value `v` at `a`: the bytes take it, an engine of block `k` sees it at once, no other byte changes but those
of `also`, of the tables only marks of uncorrectable words change, and of the blocks' records only what block `k`'s engines do not see yet. -/
def Stored (k a n v : Nat) (also : Nat → Prop) (s t : State) : Prop :=
  t.bytes a n = v ∧ t.seen k a n = v ∧ (∀ b, b < a ∨ a + n ≤ b → ¬also b → t.byte b = s.byte b) ∧
  (∀ u i, i < 2 ^ 44 → u ≠ Table.poison → t.word u i = s.word u i) ∧
  (∀ b, (b < a ∨ a + n ≤ b) → ¬also b → t.seenByte k b = s.seenByte k b) ∧
  t.blk k = { s.blk k with unseen := (t.blk k).unseen } ∧ (∀ j, j ≠ k → t.blk j = s.blk j)

/-- R26: no mismatch of a spare is reported with the command, or its cell has none in lockstep. -/
def agrees (s : State) (e : EngineId) (mismatch : Bool) : Prop := mismatch = true → s.shadowed e = false

/-- R85, R86, R106, R127, R306, R307, R342: LDL, STL, LDB and STB of an engine that runs: the word read as the engines see it, the bytes
written and no others, with the spare's mirror; an STL that names the checkpoint area writes nothing and sets CKPT_WR; an uncorrectable bank
word reads 0, an uncorrectable local word is a cell fault. TSET and TNOW write their time register. -/
def Obligations.MemoryInstructions : Prop :=
  (∀ (e : EngineId) (a b : Fin 16) (imm : Word) s, fetches s e → s.poisoned (localAddr e (localAt s e b imm)) = false →
    Completes (.ldl e a b imm false) s fun t =>
      (localAt s e b imm < 8128 → (t.greg e a).toNat = localSeen s e (localAt s e b imm)) ∧
      t.pc e = (s.pc e + 1) % 4096 ∧
      OnlyChanges [(.cell e, CELL.STATUS_PC), (.cell e, CELL.G_VALUE a), (bankPage (blockOf e), BANK.SPAD_ECC_CORRECTED)] [] s t) ∧
  (∀ (e : EngineId) (a b : Fin 16) (imm : Word) (ue : Bool) s, fetches s e →
    ue = true ∨ s.poisoned (localAddr e (localAt s e b imm)) = true →
    Completes (.ldl e a b imm ue) s fun t =>
      t.get (.cell e) ALL.FAULT_BITS = (s.get (.cell e) ALL.FAULT_BITS ||| 2 ^ 0) % 2 ^ 32 ∧ t.greg e a = s.greg e a ∧ t.pc e = s.pc e) ∧
  (∀ (e : EngineId) (a b : Fin 16) (imm : Word) s, fetches s e → localAt s e b imm < 8128 →
    Completes (.stl e a b imm) s fun t =>
      Stored (blockOf e) (spadAddr e (0x8000 + 4 * localAt s e b imm)) 4 (s.greg e a).toNat
        (fun b' => mirrored s e = true ∧ spareAddr (blockOf e) (0x8000 + 4 * localAt s e b imm) ≤ b' ∧
          b' < spareAddr (blockOf e) (0x8000 + 4 * localAt s e b imm) + 4) s t ∧
      (mirrored s e = true → t.bytes (spareAddr (blockOf e) (0x8000 + 4 * localAt s e b imm)) 4 = (s.greg e a).toNat) ∧
      t.pc e = (s.pc e + 1) % 4096 ∧ OnlyChanges [(.cell e, CELL.STATUS_PC)] [.mem, .tbl, .blks] s t) ∧
  (∀ (e : EngineId) (a b : Fin 16) (imm : Word) s, fetches s e → 8128 ≤ localAt s e b imm → s.stopsOn (.cell e) 5 = false →
    Completes (.stl e a b imm) s fun t =>
      t.get (.cell e) ALL.FAULT_BITS = (s.get (.cell e) ALL.FAULT_BITS ||| 2 ^ 5) % 2 ^ 32 ∧
      t.pc e = (s.pc e + 1) % 4096 ∧ OnlyPagesChange [.cell e] [.out] s t) ∧
  (∀ (e : EngineId) (a b : Fin 16) (hi : Bool) (imm : Word) s, fetches s e → s.bankBad (blockOf e) (bankAt s e b imm) false = false →
    Completes (.ldb e a b hi imm false) s fun t =>
      (t.greg e a).toNat = halfSeen s e (bankAt s e b imm) hi ∧ t.pc e = (s.pc e + 1) % 4096 ∧
      OnlyChanges [(.cell e, CELL.STATUS_PC), (.cell e, CELL.G_VALUE a), (bankPage (blockOf e), BANK.ECC_CORRECTED)] [] s t) ∧
  (∀ (e : EngineId) (a b : Fin 16) (hi : Bool) (imm : Word) (ue : Bool) s, fetches s e → s.inShot e = false →
    s.bankBad (blockOf e) (bankAt s e b imm) ue = true →
    Completes (.ldb e a b hi imm ue) s fun t =>
      t.greg e a = 0 ∧ t.pc e = (s.pc e + 1) % 4096 ∧ t.get (bankPage (blockOf e)) BANK.UE_ADDR_WORD = bankAt s e b imm ∧
      OnlyPagesChange [.cell e, bankPage (blockOf e)] [.out] s t) ∧
  (∀ (e : EngineId) (a b : Fin 16) (hi : Bool) (imm : Word) (mismatch : Bool) s, fetches s e → agrees s e mismatch →
    Completes (.stb e a b hi imm mismatch) s fun t =>
      Stored (blockOf e) (bankAddr (blockOf e) (bankAt s e b imm) + if hi then 4 else 0) 4 (s.greg e a).toNat (fun _ => False) s t ∧
      t.pc e = (s.pc e + 1) % 4096 ∧
      OnlyChanges [(.cell e, CELL.STATUS_PC), (bankPage (blockOf e), BANK.POISON_COUNT), (bankPage (blockOf e), BANK.INJECT_ARM)]
        [.mem, .tbl, .blks] s t) ∧
  (∀ (e : EngineId) (td ts : Fin 4) (x : RegOrImm) s, fetches s e →
    Completes (.tset e td ts x) s fun t =>
      (t.treg e td).toInt = ((s.treg e ts).toInt + (s.regOrImm e x).toInt).bmod (2 ^ 64) ∧ t.pc e = (s.pc e + 1) % 4096 ∧
      OnlyChanges [(.cell e, CELL.STATUS_PC), (.cell e, CELL.T_LO td), (.cell e, CELL.T_HI td)] [] s t) ∧
  (∀ (e : EngineId) (td : Fin 4) (x : RegOrImm) s, fetches s e →
    Completes (.tnow e td x) s fun t =>
      (t.treg e td - BitVec.ofInt 64 (s.regOrImm e x).toInt).toNat % 32 = 0 ∧
      (t.treg e td - BitVec.ofInt 64 (s.regOrImm e x).toInt - s.st).toNat < 32 ∧ t.pc e = (s.pc e + 1) % 4096 ∧
      OnlyChanges [(.cell e, CELL.STATUS_PC), (.cell e, CELL.T_LO td), (.cell e, CELL.T_HI td)] [] s t)

/-- The source a return point names: the program area, or a library page. -/
def sourceOf (s : State) (e : EngineId) : Nat × Option Nat := (s.pc e, s.page e)

/-- R87, R104, R105, R113, R123: JUMP, CALL, RET, LOOP and BRC move the PC as their fields say; CALL pushes the return point and RET pops it; a
LOOP counts its register down and wraps; PREP writes its declaration into the open shot's checkpoint. Nothing else changes. -/
def Obligations.FlowInstructions : Prop :=
  (∀ (e : EngineId) (target : BitVec 12) s, fetches s e →
    Completes (.jump e target) s fun t => t.pc e = target.toNat ∧ OnlyChanges [(.cell e, CELL.STATUS_PC)] [] s t) ∧
  (∀ (e : EngineId) (target : BitVec 12) s, fetches s e → (s.eng e).stack.length < 8 →
    Completes (.call e (.program target)) s fun t =>
      sourceOf t e = (target.toNat, none) ∧
      (t.eng e) = { s.eng e with stack := ⟨(s.pc e + 1) % 4096, s.page e⟩ :: (s.eng e).stack } ∧
      (∀ j, j ≠ e.val → t.eng j = s.eng j) ∧ OnlyChanges [(.cell e, CELL.STATUS_PC), (.cell e, CELL.STATUS_LIB)] [.engs] s t) ∧
  (∀ (e : EngineId) (w : BitVec 18) s, fetches s e → (s.eng e).stack.length < 8 →
    Completes (.call e (.library w)) s fun t =>
      sourceOf t e = (w.toNat % 4096, some (w.toNat / 4096)) ∧
      (t.eng e).stack = ⟨(s.pc e + 1) % 4096, s.page e⟩ :: (s.eng e).stack ∧
      (∀ j, j ≠ e.val → t.eng j = s.eng j) ∧ OnlyChanges [(.cell e, CELL.STATUS_PC), (.cell e, CELL.STATUS_LIB)] [.engs] s t) ∧
  (∀ (e : EngineId) r rest s, fetches s e → (s.eng e).stack = r :: rest →
    Completes (.ret e) s fun t =>
      sourceOf t e = (r.pc % 4096, r.page) ∧ (t.eng e).stack = rest ∧
      (∀ j, j ≠ e.val → t.eng j = s.eng j) ∧ OnlyChanges [(.cell e, CELL.STATUS_PC), (.cell e, CELL.STATUS_LIB)] [.engs] s t) ∧
  (∀ (e : EngineId) (l : Fin 4) (n : Word) s, fetches s e →
    Completes (.loop e l (.init n)) s fun t =>
      t.lreg e l = n ∧ t.pc e = (s.pc e + 1) % 4096 ∧ OnlyChanges [(.cell e, CELL.STATUS_PC), (.cell e, CELL.L_VALUE l)] [] s t) ∧
  (∀ (e : EngineId) (l : Fin 4) (target : BitVec 12) s, fetches s e →
    Completes (.loop e l (.back target)) s fun t =>
      (t.lreg e l).toNat = ((s.lreg e l).toNat + 0xFFFFFFFF) % 2 ^ 32 ∧
      t.pc e = (if (s.lreg e l).toNat = 1 then (s.pc e + 1) % 4096 else target.toNat) ∧
      OnlyChanges [(.cell e, CELL.STATUS_PC), (.cell e, CELL.L_VALUE l)] [] s t) ∧
  (∀ (e : EngineId) (cbit : Fin 16) (sense : Bool) (target : BitVec 12) s, fetches s e →
    Completes (.brc e cbit sense target) s fun t =>
      t.pc e = (if (bitOf (s.cw e) cbit = 1) = sense then target.toNat else (s.pc e + 1) % 4096) ∧
      OnlyChanges [(.cell e, CELL.STATUS_PC)] [] s t) ∧
  (∀ (e : EngineId) (first : Bool) (target : BitVec 12) s, fetches s e → s.inShot e = true →
    (first = false ∨ s.get (.cell e) CELL.STATUS_ATTEMPT ≠ 1) →
    Completes (.prep e first target) s fun t =>
      (t.eng e) = { s.eng e with ckpt := (s.eng e).ckpt.map fun c => { c with prep := some ⟨target.toNat, s.page e⟩ } } ∧
      (∀ j, j ≠ e.val → t.eng j = s.eng j) ∧ t.pc e = (s.pc e + 1) % 4096 ∧ OnlyChanges [(.cell e, CELL.STATUS_PC)] [.engs] s t) ∧
  (∀ (e : EngineId) (target : BitVec 12) s, fetches s e → s.inShot e = true → s.get (.cell e) CELL.STATUS_ATTEMPT = 1 →
    (s.eng e).stack.length < 8 →
    Completes (.prep e true target) s fun t =>
      sourceOf t e = (target.toNat, s.page e) ∧ (t.eng e).stack = ⟨(s.pc e + 1) % 4096, s.page e⟩ :: (s.eng e).stack ∧
      (t.eng e).ckpt = ((s.eng e).ckpt.map fun c => { c with prep := some ⟨target.toNat, s.page e⟩ }) ∧
      (∀ j, j ≠ e.val → t.eng j = s.eng j) ∧ OnlyChanges [(.cell e, CELL.STATUS_PC), (.cell e, CELL.STATUS_LIB)] [.engs] s t)

/-- The fields a slack sample may change: its engine's statistics and what voltage scaling makes of the sample. -/
def slackFields (e : EngineId) : List (Page × Field) :=
  [(.cell e, CELL.SLACK_LAST), (.cell e, CELL.SLACK_MIN), (.timebase, TIMEBASE.VCP_STATE_STEP), (.timebase, TIMEBASE.TB_STATUS_SLACK_LOW),
    (.timebase, ALL.EVENT_COUNT_COUNT), (.thermal, THERMAL.TSTATE_SLACK_THROTTLE)]

/-- The fields an instruction that enqueues may change. -/
def enqueueFields (e : EngineId) : List (Page × Field) := (.cell e, CELL.STATUS_PC) :: (.cell e, CELL.STATUS_STATE) :: slackFields e

/-- An engine that executes outside a stopover. -/
def fetchesPlain (s : State) (e : EngineId) : Prop := fetches s e ∧ s.get (.cell e) CELL.SO_STATUS_LEVEL = 0

/-- R65, R69, R71: an entry with this stamp is on time and in order, and the timetable has space for it. -/
def takes (s : State) (e : EngineId) (stamp : Stamp) : Prop :=
  256 ≤ Stamp.ahead stamp (Stamp.gridUp 5 s.st) ∧ s.outOfOrder e stamp = false ∧ (s.eng e).timetable.length < 64

/-- What a completed enqueue of entries leaves: they stand at the end of the engine's timetable, the PC is at the next instruction, and
nothing changes but the fields of an enqueue, the fields `but`, this engine's timetable, voltage scaling and its interrupt. -/
def Enqueued (e : EngineId) (xs : List Entry) (but : List (Page × Field)) (ps : List Piece) (s t : State) : Prop :=
  (t.eng e).timetable = (s.eng e).timetable ++ xs ∧ (t.eng e).due = (s.eng e).due ∧ (t.eng e).stack = (s.eng e).stack ∧
  t.get (.cell e) CELL.STATUS_STATE = 1 ∧ (∀ j, j ≠ e.val → t.eng j = s.eng j) ∧ t.pc e = (s.pc e + 1) % 4096 ∧
  OnlyChanges (enqueueFields e ++ but) (.engs :: .time :: .out :: ps) s t

/-- The stamp of a timed instruction: T[TS] + TOFF (R94). -/
def stampOf (s : State) (e : EngineId) (i : Timed) : Stamp := s.treg e i.ts + BitVec.ofNat 64 i.toff.toNat

/-- R93, R109: the context a timed instruction names is within its leases, readable and is `c`. -/
def names (s : State) (e : EngineId) (i : Timed) (c : BitVec 512) : Prop :=
  s.ctxLeased e (s.ctxIndex e i.ctx) = true ∧ s.ctxBad e (s.ctxIndex e i.ctx) none = false ∧ s.context (regionOf e) (s.ctxIndex e i.ctx) = c

/-- The fields a timed instruction writes beside those of its enqueue: the time register where TADV = 1, and the count of context words that
were read corrected (R305, R313). -/
def timeFields (e : EngineId) (i : Timed) : List (Page × Field) :=
  (porterPage (regionOf e), PORTER.CTX_ECC_CORRECTED) :: if i.tadv then [(.cell e, CELL.T_LO i.td), (.cell e, CELL.T_HI i.td)] else []

/-- R61, R93 to R97, R181: PLAY, ACQUIRE and STREAM of an engine that runs, of a legal context on a route the engine owns, enqueue their
entries at T[TS] + TOFF, take a stream slot for a STREAM, and with TADV = 1 write T[TD]. -/
def Obligations.TimedInstructions : Prop :=
  (∀ (e : EngineId) (i : Timed) (mismatch : Bool) c s, fetchesPlain s e → agrees s e mismatch → names s e i c → takes s e (stampOf s e i) → s.routeOk e c = true →
    Ctx.cls c ≤ 1 → Ctx.streamed c = false →
    Completes (.play e i none mismatch) s fun t =>
      Enqueued e [ctxEntry .toneStart (ctxTarget c).1 (ctxTarget c).2 (stampOf s e i) (s.ctxIndex e i.ctx) c] (timeFields e i) [] s t ∧
      (i.tadv = true → t.treg e i.td = stampOf s e i + BitVec.ofNat 64 (Ctx.duration c))) ∧
  (∀ (e : EngineId) (i : Timed) (mismatch : Bool) c s, fetchesPlain s e → agrees s e mismatch → names s e i c → takes s e (stampOf s e i) → s.routeOk e c = true →
    Ctx.cls c = 3 → Ctx.streamed c = false →
    Completes (.play e i none mismatch) s fun t =>
      Enqueued e [ctxEntry .fluxPulse .flux (Ctx.j c) (stampOf s e i) (s.ctxIndex e i.ctx) c] (timeFields e i) [] s t ∧
      (i.tadv = true → t.treg e i.td = stampOf s e i + BitVec.ofNat 64 (Ctx.duration c))) ∧
  (∀ (e : EngineId) (i : Timed) (mismatch : Bool) c s, fetchesPlain s e → agrees s e mismatch → names s e i c →
    takes s e (stampOf s e i + BitVec.ofNat 64 (32 * Ctx.wdelay c)) → s.routeOk e c = true →
    Ctx.cls c = 2 → Ctx.streamed c = false → 1 ≤ Ctx.wlen c → Ctx.wlen c ≤ 4096 → Ctx.probe c = false →
    Completes (.acquire e i none mismatch) s fun t =>
      Enqueued e [ctxEntry .windowOpen .receive (32 * Ctx.feed c + Ctx.slot c) (stampOf s e i + BitVec.ofNat 64 (32 * Ctx.wdelay c))
        (s.ctxIndex e i.ctx) c] (timeFields e i) [] s t ∧
      (i.tadv = true → t.treg e i.td = Stamp.gridUp 5 (stampOf s e i + BitVec.ofNat 64 (32 * Ctx.wdelay c)) + BitVec.ofNat 64 (32 * Ctx.wlen c))) ∧
  (∀ (e : EngineId) (i : Timed) (mismatch : Bool) c s, fetchesPlain s e → agrees s e mismatch → names s e i c → takes s e (stampOf s e i) →
    256 ≤ Stamp.ahead (stampOf s e i + BitVec.ofNat 64 (32 * Ctx.wdelay c)) (Stamp.gridUp 5 s.st) → (s.eng e).timetable.length < 63 →
    s.routeOk e c = true → Ctx.cls c = 2 → Ctx.streamed c = false → 1 ≤ Ctx.wlen c → Ctx.wlen c ≤ 4096 → Ctx.probe c = true →
    Completes (.acquire e i none mismatch) s fun t =>
      Enqueued e [ctxEntry .toneStart .probe (32 * Ctx.feed c + Ctx.slot c) (stampOf s e i) (s.ctxIndex e i.ctx) c,
        ctxEntry .windowOpen .receive (32 * Ctx.feed c + Ctx.slot c) (stampOf s e i + BitVec.ofNat 64 (32 * Ctx.wdelay c))
          (s.ctxIndex e i.ctx) c] (timeFields e i) [] s t ∧
      (i.tadv = true → t.treg e i.td = Stamp.gridUp 5 (stampOf s e i + BitVec.ofNat 64 (32 * Ctx.wdelay c)) + BitVec.ofNat 64 (32 * Ctx.wlen c))) ∧
  (∀ (e : EngineId) (i : Timed) (mismatch : Bool) c s k, fetchesPlain s e → agrees s e mismatch → names s e i c → takes s e (stampOf s e i) → s.routeOk e c = true →
    Ctx.cls c ≤ 1 → Ctx.streamed c = true → k < 8 → (s.blk (blockOf e)).slots.all (fun x => x.1 ≠ k) = true →
    (∀ j, j < k → (s.blk (blockOf e)).slots.any (fun x => x.1 = j) = true) →
    Completes (.stream e i none mismatch) s fun t =>
      Enqueued e [{ ctxEntry .streamStart (ctxTarget c).1 (ctxTarget c).2 (stampOf s e i) (s.ctxIndex e i.ctx) c with slot := some k }]
        ((blockPage (blockOf e), BLOCK.STREAM_STATUS_USED) :: timeFields e i) [.blks] s t ∧
      (t.blk (blockOf e)).slots = (k, e.val) :: (s.blk (blockOf e)).slots ∧
      (∀ j, j ≠ blockOf e → t.blk j = s.blk j) ∧
      (i.tadv = true → t.treg e i.td = stampOf s e i + BitVec.ofNat 64 (Ctx.duration c))) ∧
  (∀ (e : EngineId) (i : Timed) (mismatch : Bool) s c, fetchesPlain s e → agrees s e mismatch →
    c = .play e i none mismatch ∨ c = .acquire e i none mismatch ∨ c = .stream e i none mismatch →
    s.ctxLeased e (s.ctxIndex e i.ctx) = false →
    Completes c s fun t =>
      t.get (.cell e) ALL.FAULT_BITS = (s.get (.cell e) ALL.FAULT_BITS ||| 2 ^ 2) % 2 ^ 32 ∧ t.pc e = s.pc e)

/-- R57, R58, R98, R99, R100, R129: SETFRQ, SHIFTPH and SIGNAL enqueue their frame or marker entry on a tone or marker the engine owns; SENDM
outside a shot queues one message frame for its destination, with its deadline where DOFF is not 0, and with DEV = 0x3F one for every other
device of its group. -/
def Obligations.FrameAndMessageInstructions : Prop :=
  (∀ (e : EngineId) (ts : Fin 4) (tgt : FrameTarget) (a b : Fin 16) (toff : Word) (mismatch : Bool) s, fetchesPlain s e → agrees s e mismatch →
    takes s e (s.treg e ts + BitVec.ofNat 64 toff.toNat) → s.owns e (frameTone e tgt) = true →
    Completes (.setfrq e ts tgt a b toff mismatch) s fun t =>
      Enqueued e [⟨s.treg e ts + BitVec.ofNat 64 toff.toNat, .freqSet, TargetClass.ofCode tgt.cls.val, tgt.idx.toNat,
        BitVec.ofNat 48 ((s.greg e a).toNat % 65536 * 4294967296 + (s.greg e b).toNat), 0, none, false, false⟩] [] [] s t) ∧
  (∀ (e : EngineId) (ts : Fin 4) (set : Bool) (tgt : FrameTarget) (ph : BitVec 16) (toff : BitVec 20) (mismatch : Bool) s, fetchesPlain s e → agrees s e mismatch →
    takes s e (s.treg e ts + BitVec.ofNat 64 toff.toNat) → s.owns e (frameTone e tgt) = true →
    Completes (.shiftph e ts set tgt (.ph ph) toff mismatch) s fun t =>
      Enqueued e [⟨s.treg e ts + BitVec.ofNat 64 toff.toNat, if set then .phaseSet else .phaseAdd, TargetClass.ofCode tgt.cls.val,
        tgt.idx.toNat, BitVec.ofNat 48 (ph.toNat * 65536), 0, none, false, false⟩] [] [] s t) ∧
  (∀ (e : EngineId) (ts : Fin 4) (set : Bool) (tgt : FrameTarget) (a : Fin 16) (toff : BitVec 20) (mismatch : Bool) s, fetchesPlain s e → agrees s e mismatch →
    takes s e (s.treg e ts + BitVec.ofNat 64 toff.toNat) → s.owns e (frameTone e tgt) = true →
    Completes (.shiftph e ts set tgt (.reg a) toff mismatch) s fun t =>
      Enqueued e [⟨s.treg e ts + BitVec.ofNat 64 toff.toNat, if set then .phaseSet else .phaseAdd, TargetClass.ofCode tgt.cls.val,
        tgt.idx.toNat, BitVec.ofNat 48 (s.greg e a).toNat, 0, none, false, false⟩] [] [] s t) ∧
  (∀ (e : EngineId) (ts : Fin 4) (level : Bool) (m : Fin 16) (toff : Word) (mismatch : Bool) s, fetchesPlain s e → agrees s e mismatch →
    takes s e (s.treg e ts + BitVec.ofNat 64 toff.toNat) → Nat.testBit (s.get (.cell e) CELL.MARK_ROUTE_OWN) m = true →
    Completes (.signal e ts level m toff mismatch) s fun t =>
      Enqueued e [⟨s.treg e ts + BitVec.ofNat 64 toff.toNat, .mark, .marker, m.val, if level then 1 else 0, 0, none, false, false⟩]
        [] [] s t) ∧
  (∀ (e : EngineId) (ts : Fin 4) (dev : Fin 64) (tag : BitVec 16) (a : Fin 16) (doff : BitVec 16) s, fetchesPlain s e → dev ≠ 63 →
    s.inShot e = false → s.deadlineFrames (s.routePort dev) < 512 →
    Completes (.sendm e ts dev tag a doff) s fun t =>
      t.fab = { s.fab with sendq := s.fab.sendq ++ [⟨.msg, dev, s.fabricId,
        if doff = 0 then none else some (s.treg e ts + BitVec.ofNat 64 (32 * doff.toNat)), 0xFFFF,
        [tag.toNat, 0xFFFF, 0, 0, (s.greg e a).toNat], none, none⟩] } ∧
      t.pc e = (s.pc e + 1) % 4096 ∧ (t.eng e).wait = .none ∧ (∀ j, j ≠ e.val → t.eng j = s.eng j) ∧
      OnlyChanges [(.cell e, CELL.STATUS_PC), (.cell e, CELL.STATUS_STATE)] [.engs, .fab] s t) ∧
  (∀ (e : EngineId) (ts : Fin 4) (tag : BitVec 16) (a : Fin 16) s, fetchesPlain s e → s.inShot e = false →
    Completes (.sendm e ts 63 tag a 0) s fun t =>
      t.fab = { s.fab with sendq := s.fab.sendq ++ (s.otherDevices (s.groupOf e)).map fun d =>
        ⟨.msg, d, s.fabricId, none, 0xFFFF, [tag.toNat, 0xFFFF, 0, 0, (s.greg e a).toNat], none, none⟩ } ∧
      t.pc e = (s.pc e + 1) % 4096 ∧ OnlyChanges [(.cell e, CELL.STATUS_PC)] [.fab] s t)

/-- What an instruction that waits leaves: its engine waits for `w`, shows `code`, and nothing else changes but `ps` and `but`. -/
def Waits (e : EngineId) (w : Wait) (code : Nat) (but : List (Page × Field)) (ps : List Piece) (s t : State) : Prop :=
  t.eng e = { s.eng e with wait := w } ∧ t.get (.cell e) CELL.STATUS_STATE = code ∧ (∀ j, j ≠ e.val → t.eng j = s.eng j) ∧
  OnlyChanges ((.cell e, CELL.STATUS_STATE) :: but) (.engs :: ps) s t

/-- What the end of a wait leaves: the engine runs again at its next instruction with the record `r`, and nothing else changes but `but` and
`ps`. -/
def Resumes (e : EngineId) (r : Engine) (but : List (Page × Field)) (ps : List Piece) (s t : State) : Prop :=
  t.eng e = r ∧ t.get (.cell e) CELL.STATUS_STATE = 1 ∧ t.pc e = (s.pc e + 1) % 4096 ∧ (∀ j, j ≠ e.val → t.eng j = s.eng j) ∧
  OnlyChanges ((.cell e, CELL.STATUS_STATE) :: (.cell e, CELL.STATUS_PC) :: but) (.engs :: ps) s t

/-- An engine that waits outside a stopover, not for a request of its microprogram. -/
def waitsIn (s : State) (e : EngineId) (w : Wait) : Prop :=
  s.engStopped e = false ∧ (s.eng e).wait = w ∧ (s.eng e).byMicro = false ∧ (s.eng e).micro.reqWait = false ∧
  s.get (.cell e) CELL.SO_STATUS_LEVEL = 0

/-- The fields that name the holder of a flux output's lease. -/
def leaseFields (f : Nat) : List (Page × Field) := [(fluxPage f, FLUX.LEASE_HELD), (fluxPage f, FLUX.LEASE_HOLDER)]

/-- A flux output is leased, or engines wait for it (R102). -/
def leaseBusy (s : State) (f : Nat) : Prop := s.get (fluxPage f) FLUX.LEASE_HELD = 1 ∨ (s.output (160 + f)).waiters ≠ []

/-- The fields that entries of the watch may change as they are enqueued. -/
def watchFields (e : EngineId) : List (Page × Field) :=
  slackFields e ++ [(.cell e, CELL.LATE_COUNT_COUNT), (.timebase, TIMEBASE.LATE_TOTAL_COUNT), (.cell e, CELL.TT_STATUS_LATE),
    (.cell e, CELL.TT_STATUS_ORDER)]

/-- R347: the timetable keeps its entries, and what follows them is the watch's, stamped from `a` to before `b`. -/
def WatchAdds (a b : Stamp) (old new : List Entry) : Prop :=
  new.take old.length = old ∧
  ∀ x ∈ new.drop old.length, x.watch = true ∧ Stamp.atOrAfter x.stamp a = true ∧ Stamp.atOrAfter x.stamp b = false

/-- The window of a grant: LEN tone samples from T[TS] + TOFF (R103). -/
def grantFrom (s : State) (e : EngineId) (ts : Fin 4) (toff : Word) : Stamp := s.treg e ts + BitVec.ofNat 64 toff.toNat
def grantTo (s : State) (e : EngineId) (ts : Fin 4) (len : BitVec 16) (toff : Word) : Stamp :=
  grantFrom s e ts toff + BitVec.ofNat 64 (32 * len.toNat)

/-- R20, R33, R101 to R103, R347, R348: WAITST holds its engine until ST is reached, and the engine then goes on; LEASE takes a free output and
clears CW.LR, waits for one that is held, sets CW.LR with TRY, and releases with REL; a freed output is granted to the engine that asked
first; WATCH outside a shot gives a grant, in whose window the watch may enqueue entries of its own, and whose return, at once where there
is no work or no budget, lets the engine go on; within a shot it only sets WATCH_IN_SHOT. -/
def Obligations.WaitInstructions : Prop :=
  (∀ (e : EngineId) (ts : Fin 4) (toff : Word) s, fetchesPlain s e →
    Completes (.waitst e ts toff) s fun t => Waits e (.until (s.treg e ts + BitVec.ofNat 64 toff.toNat)) 5 [] [] s t) ∧
  (∀ (e : EngineId) a s, waitsIn s e (.until a) → s.time.frozen = false →
    CompletesAt a (.waitstResume e) s fun u t => Resumes e { u.eng e with wait := .none } [] [] u t) ∧
  (∀ (e : EngineId) (try1 : Bool) (j : Fin 2) s, fetches s e → s.fluxDenied e j = false →
    s.holds e (fluxOf e j) = true ∨ ¬leaseBusy s (fluxOf e j) →
    Completes (.lease e false try1 j) s fun t =>
      t.holds e (fluxOf e j) = true ∧ t.get (.cell e) CELL.CW_LR = 0 ∧ t.pc e = (s.pc e + 1) % 4096 ∧
      OnlyChanges ((.cell e, CELL.STATUS_PC) :: (.cell e, CELL.CW_LR) :: leaseFields (fluxOf e j)) [] s t) ∧
  (∀ (e : EngineId) (try1 : Bool) (j : Fin 2) s, fetches s e →
    s.fluxDenied e j = true ∨ (try1 = true ∧ leaseBusy s (fluxOf e j) ∧ s.holds e (fluxOf e j) = false) →
    Completes (.lease e false try1 j) s fun t =>
      t.get (.cell e) CELL.CW_LR = 1 ∧ t.pc e = (s.pc e + 1) % 4096 ∧
      OnlyChanges [(.cell e, CELL.STATUS_PC), (.cell e, CELL.CW_LR)] [] s t) ∧
  (∀ (e : EngineId) (j : Fin 2) s, fetchesPlain s e → s.fluxDenied e j = false → leaseBusy s (fluxOf e j) →
    s.holds e (fluxOf e j) = false →
    Completes (.lease e false false j) s fun t =>
      Waits e (.lease j) 3 [(fluxPage (fluxOf e j), FLUX.LEASE_WAITERS)] [.outputs] s t ∧
      (t.output (160 + fluxOf e j)).waiters = (s.output (160 + fluxOf e j)).waiters ++ [e.val]) ∧
  (∀ (e : EngineId) (try1 : Bool) (j : Fin 2) s, fetches s e →
    Completes (.lease e true try1 j) s fun t =>
      t.holds e (fluxOf e j) = false ∧ t.pc e = (s.pc e + 1) % 4096 ∧
      (s.holds e (fluxOf e j) = false → OnlyChanges [(.cell e, CELL.STATUS_PC)] [] s t) ∧
      OnlyChanges ((.cell e, CELL.STATUS_PC) :: leaseFields (fluxOf e j)) [] s t) ∧
  (∀ (f : FluxId) (e : EngineId) rest j s, s.get (.flux f) FLUX.LEASE_HELD = 0 → (s.output (160 + f.val)).waiters = e.val :: rest →
    waitsIn s e (.lease j) →
    Completes (.leaseGrant f) s fun t =>
      t.get (.flux f) FLUX.LEASE_HELD = 1 ∧ t.get (.flux f) FLUX.LEASE_HOLDER = e.val ∧ (t.output (160 + f.val)).waiters = rest ∧
      t.get (.cell e) CELL.CW_LR = 0 ∧
      Resumes e { s.eng e with wait := .none } ((.cell e, CELL.CW_LR) :: (.flux f, FLUX.LEASE_WAITERS) :: leaseFields f) [.outputs] s t) ∧
  (∀ (e : EngineId) (ts : Fin 4) (len : BitVec 16) (toff : Word) (seq : List WatchStep) s, fetchesPlain s e → s.inShot e = false →
    s.budgetLeft e = true →
    Completes (.watch e ts len toff seq) s fun t =>
      t.eng e = { s.eng e with wait := .grant (grantFrom s e ts toff) (grantTo s e ts len toff), timetable := (t.eng e).timetable,
                                lastStamp := (t.eng e).lastStamp } ∧
      WatchAdds (grantFrom s e ts toff) (grantTo s e ts len toff) (s.eng e).timetable (t.eng e).timetable ∧
      (seq = [] → (t.eng e).timetable = (s.eng e).timetable ∧ t.time = s.time) ∧
      t.get (.cell e) CELL.STATUS_STATE = 7 ∧ (∀ j, j ≠ e.val → t.eng j = s.eng j) ∧
      OnlyChanges ((.cell e, CELL.STATUS_STATE) :: watchFields e) [.engs, .time, .out] s t) ∧
  (∀ (e : EngineId) (ts : Fin 4) (len : BitVec 16) (toff : Word) (seq : List WatchStep) s, fetches s e → s.inShot e = false →
    s.budgetLeft e = false →
    Completes (.watch e ts len toff seq) s fun t => t.pc e = (s.pc e + 1) % 4096 ∧ OnlyChanges [(.cell e, CELL.STATUS_PC)] [] s t) ∧
  (∀ (e : EngineId) (ts : Fin 4) (len : BitVec 16) (toff : Word) (seq : List WatchStep) s, fetches s e → s.inShot e = true →
    s.stopsOn (.cell e) 7 = false →
    Completes (.watch e ts len toff seq) s fun t =>
      t.get (.cell e) ALL.FAULT_BITS = (s.get (.cell e) ALL.FAULT_BITS ||| 2 ^ 7) % 2 ^ 32 ∧ t.pc e = (s.pc e + 1) % 4096 ∧
      OnlyPagesChange [.cell e] [.out] s t) ∧
  (∀ (e : EngineId) (noWork : Bool) a b s, waitsIn s e (.grant a b) → s.time.frozen = false → noWork = true ∨ s.budgetLeft e = false →
    Completes (.watchGrantReturn e noWork) s fun t =>
      Resumes e { s.eng e with wait := .none, grantUsed := (s.eng e).grantUsed + grantTime a b s.st } [] [] s t) ∧
  (∀ (e : EngineId) a b s, waitsIn s e (.grant a b) → s.time.frozen = false → s.budgetLeft e = true →
    CompletesAt b (.watchGrantReturn e false) s fun u t =>
      Resumes e { u.eng e with wait := .none, grantUsed := (u.eng e).grantUsed + grantTime a b u.st } [] [] u t)

/-- The lease fields of the two flux outputs of an engine's block, their waiters, and the engine's own fields that a stop clears. -/
def stopFields (e : EngineId) : List (Page × Field) :=
  [(.cell e, CELL.STATUS_STATE), (.cell e, CELL.STATUS_START_PENDING), (.cell e, CELL.STATUS_IN_SHOT), (.cell e, CELL.STATUS_ATTEMPT),
    (.cell e, CELL.CURFEW_STATUS_WAITING), (.cell e, CELL.CURFEW_STATUS_TAG), (.cell e, CELL.CURFEW_STATUS_SCOPE),
    (.cell e, CELL.SO_STATUS_PEND), (.cell e, CELL.SO_STATUS_LEVEL), (.watch, WATCH.PENDING_COUNT),
    (blockPage (blockOf e), BLOCK.STREAM_STATUS_USED)]
    ++ [0, 1].flatMap fun j => [(fluxPage (fluxOf e j), FLUX.LEASE_HELD), (fluxPage (fluxOf e j), FLUX.LEASE_HOLDER),
      (fluxPage (fluxOf e j), FLUX.LEASE_WAITERS)]

/-- An engine that has come to rest: STOPPED, no request held, no lease held, waiting for nothing. -/
def atRest (e : EngineId) (t : State) : Prop :=
  t.engIs e .stopped = true ∧ t.get (.cell e) CELL.STATUS_START_PENDING = 0 ∧ (t.eng e).wait = .none ∧
  ∀ j, j < 2 → t.holds e (fluxOf e j) = false

/-- The fields a start writes: PC, STATE, source and condition word of the engine, and of each drive or probe tone it owns the muting and
the working lead. -/
def launchFields (s : State) (e : EngineId) : List (Page × Field) :=
  [(.cell e, CELL.STATUS_PC), (.cell e, CELL.STATUS_LIB), (.cell e, CELL.STATUS_STATE), (.cell e, CELL.CW_Z), (.cell e, CELL.CW_N),
    (.cell e, CELL.CW_C), (.cell e, CELL.CW_V), (.cell e, CELL.CW_BT), (.cell e, CELL.CW_LR), (.cell e, CELL.CW_SP), (.cell e, CELL.CW_RP),
    (.cell e, CELL.CW_ATT)]
    ++ ((s.ownedTones e).filter (· < 2048)).flatMap fun k =>
      [(outputPage (toneOutput k).1, OUTP.TONE_STATUS_FAULT_MUTED (toneOutput k).2), (outputPage (toneOutput k).1, OUTP.TONE_LEAD_LEAD_CUR (toneOutput k).2)]

/-- What a start leaves (R88): execution at START_PC with an empty stack and a condition word of `cw`; of the engine's record, what belongs
to its timetable, its shot and its lease stays. -/
def Launched (e : EngineId) (cw : Nat) (s t : State) : Prop :=
  t.engIs e .running = true ∧ t.pc e = s.get (.cell e) CELL.START_PC_PC ∧ t.page e = none ∧ t.cw e = cw ∧ (t.eng e).stack = [] ∧
  (t.eng e).wait = .none ∧ (t.eng e).timetable = (s.eng e).timetable ∧ (t.eng e).due = (s.eng e).due ∧
  ∀ j, j ≠ e.val → t.eng j = s.eng j

/-- The instruction at START_PC has an opcode of R92. -/
def startsListed (s : State) (e : EngineId) : Prop :=
  opListed ((s.instrAt e none (s.get (.cell e) CELL.START_PC_PC)).toNat / 2 ^ 56) = true

/-- R51, R88 to R92, R131, R406, R457, R547: START of a STOPPED engine begins at START_PC with CW clear and the registers kept, and a reserved
opcode there is an ILLEGAL cell fault; one that is not STOPPED, is loading or is not aligned yet holds the request; thermal CRIT refuses and
counts it; STOP stops an engine outside a shot; HALT outside a shot stops it, or restarts it from a held request with CW.SP set;
CLR_PENDING drops the held request; a function that does not reach the page changes nothing. -/
def Obligations.StartAndStop : Prop :=
  (∀ (fn : FuncId) (e : EngineId) s, s.reachesCell fn e = true → s.crit = false → s.startBarred e = false →
    s.pageIs (.cell e) .starting = false → s.loading e = false → s.aligning = false → s.engIs e .stopped = true →
    (s.eng e).tending = false → startsListed s e →
    Completes (.start fn e) s fun t => Launched e 0 s t ∧ OnlyChanges (launchFields s e) [.engs] s t) ∧
  (∀ (fn : FuncId) (e : EngineId) s, s.reachesCell fn e = true → s.crit = false → s.startBarred e = false →
    s.pageIs (.cell e) .starting = false → s.loading e = false → s.aligning = false → s.engIs e .stopped = true → ¬startsListed s e →
    Completes (.start fn e) s fun t =>
      t.get (.cell e) ALL.FAULT_BITS = (s.get (.cell e) ALL.FAULT_BITS ||| 2 ^ 1) % 2 ^ 32 ∧ t.engIs e .running = false) ∧
  (∀ (fn : FuncId) (e : EngineId) s, s.reachesCell fn e = true → s.crit = false → s.startBarred e = false →
    s.engIs e .stopped = false ∨ s.loading e = true ∨ s.aligning = true ∨ s.pageIs (.cell e) .starting = true →
    s.get (.cell e) CELL.STATUS_START_PENDING = 0 →
    Completes (.start fn e) s fun t =>
      t.get (.cell e) CELL.STATUS_START_PENDING = 1 ∧ OnlyChanges [(.cell e, CELL.STATUS_START_PENDING)] [] s t) ∧
  (∀ (fn : FuncId) (e : EngineId) s, s.reachesCell fn e = true → s.crit = true →
    Completes (.start fn e) s fun t =>
      t.get .thermal THERMAL.REFUSED_STARTS_COUNT = min (s.get .thermal THERMAL.REFUSED_STARTS_COUNT + 1) (2 ^ 32 - 1) % 2 ^ 32 ∧
      OnlyChanges [(.thermal, THERMAL.REFUSED_STARTS_COUNT)] [] s t) ∧
  (∀ (fn : FuncId) (e : EngineId) s, s.reachesCell fn e = true → s.inShot e = false → (∀ u ∈ s.tend.pending, u.engine ≠ e.val) →
    Completes (.stop fn e) s fun t =>
      atRest e t ∧ (t.eng e).timetable = [] ∧ (∀ j, j ≠ e.val → j ≠ 1024 + blockOf e → t.eng j = s.eng j) ∧
      OnlyChanges (stopFields e) [.engs, .outputs, .blks, .groups, .tend] s t) ∧
  (∀ (fn : FuncId) (e : EngineId) s, s.reachesCell fn e = true →
    Completes (.clrPending fn e) s fun t =>
      t.get (.cell e) CELL.STATUS_START_PENDING = 0 ∧ OnlyChanges [(.cell e, CELL.STATUS_START_PENDING)] [] s t) ∧
  (∀ (e : EngineId) s, s.executes e = true → s.inShot e = false → s.get (.cell e) CELL.STATUS_START_PENDING = 0 ∨ s.quiesced e = true →
    (∀ u ∈ s.tend.pending, u.engine ≠ e.val) →
    Completes (.halt e) s fun t =>
      atRest e t ∧ (t.eng e).timetable = (s.eng e).timetable ∧ (∀ j, j ≠ e.val → t.eng j = s.eng j) ∧
      OnlyChanges (stopFields e) [.engs, .outputs, .groups, .tend] s t) ∧
  (∀ (e : EngineId) s, s.executes e = true → s.inShot e = false → s.get (.cell e) CELL.STATUS_START_PENDING = 1 → s.quiesced e = false →
    startsListed s e →
    Completes (.halt e) s fun t =>
      Launched e 64 s t ∧ t.get (.cell e) CELL.STATUS_START_PENDING = 0 ∧ OnlyChanges (launchFields s e ++ stopFields e) [.engs, .outputs] s t) ∧
  (∀ (fn : FuncId) (e : EngineId) s c, c = .start fn e ∨ c = .stop fn e ∨ c = .clrPending fn e ∨ c = .load fn e → s.reachesCell fn e = false →
    Completes c s fun t => t = s)

/-- The fields a load reports in. -/
def loadFields (e : EngineId) : List (Page × Field) :=
  [(.cell e, CELL.LOAD_STATUS_BUSY), (.cell e, CELL.LOAD_STATUS_DONE), (.cell e, CELL.LOAD_STATUS_OK), (.cell e, CELL.LOAD_STATUS_REASON),
    (.cell e, CELL.LOAD_STATUS_INDEX)]

/-- R130, R343, R475: a LOAD of a stopped engine begins; one of an engine that is not stopped or of a load in progress is ignored and sets
RWL_WRITE; a load of a wrong length is rejected with REASON 0x08 and leaves memory as it was; one whose image passes every check is copied
into the program area and reported OK. -/
def Obligations.ProgramLoads : Prop :=
  (∀ (fn : FuncId) (e : EngineId) s, s.reachesCell fn e = true → s.engStopped e = true → s.get (.cell e) CELL.LOAD_STATUS_BUSY = 0 →
    Completes (.load fn e) s fun t =>
      t.get (.cell e) CELL.LOAD_STATUS_BUSY = 1 ∧ t.get (.cell e) CELL.LOAD_STATUS_DONE = 0 ∧
      (t.eng e).loadFrom = 8 * s.get (.cell e) CELL.LOAD_SRC_LO + 2 ^ 32 * s.get (.cell e) CELL.LOAD_SRC_HI ∧
      (t.eng e).loadLen = s.get (.cell e) CELL.LOAD_LEN_LEN ∧ (∀ j, j ≠ e.val → t.eng j = s.eng j) ∧
      OnlyChanges (loadFields e) [.engs] s t) ∧
  (∀ (fn : FuncId) (e : EngineId) s, s.reachesCell fn e = true → s.engStopped e = false ∨ s.get (.cell e) CELL.LOAD_STATUS_BUSY = 1 →
    s.stopsOn (.cell e) 8 = false →
    Completes (.load fn e) s fun t =>
      t.get (.cell e) ALL.FAULT_BITS = (s.get (.cell e) ALL.FAULT_BITS ||| 2 ^ 8) % 2 ^ 32 ∧ Keeps [.regs, .out] s t ∧
      t.get (.cell e) CELL.LOAD_STATUS_BUSY = s.get (.cell e) CELL.LOAD_STATUS_BUSY) ∧
  (∀ (e : EngineId) s, s.get (.cell e) CELL.LOAD_STATUS_BUSY = 1 → s.get (.cell e) CELL.STATUS_START_PENDING = 0 →
    (s.eng e).loadLen = 0 ∨ 4096 < (s.eng e).loadLen →
    Completes (.loadDone e) s fun t =>
      t.get (.cell e) CELL.LOAD_STATUS_BUSY = 0 ∧ t.get (.cell e) CELL.LOAD_STATUS_DONE = 1 ∧ t.get (.cell e) CELL.LOAD_STATUS_OK = 0 ∧
      t.get (.cell e) CELL.LOAD_STATUS_REASON = 8 ∧ t.get (.cell e) CELL.LOAD_STATUS_INDEX = 0 ∧ OnlyChanges (loadFields e) [] s t) ∧
  (∀ (e : EngineId) s, s.get (.cell e) CELL.LOAD_STATUS_BUSY = 1 → s.get (.cell e) CELL.STATUS_START_PENDING = 0 →
    0 < (s.eng e).loadLen → (s.eng e).loadLen ≤ 4096 → s.memRange (s.guestOf e) (s.eng e).loadFrom (8 * (s.eng e).loadLen) = true →
    (s.loadFailure e (s.eng e).loadLen false fun i => BitVec.ofNat 64 (s.bytes ((s.eng e).loadFrom + 8 * i) 8)) = none →
    Completes (.loadDone e) s fun t =>
      t.get (.cell e) CELL.LOAD_STATUS_BUSY = 0 ∧ t.get (.cell e) CELL.LOAD_STATUS_DONE = 1 ∧ t.get (.cell e) CELL.LOAD_STATUS_OK = 1 ∧
      (∀ b, b < 8 * (s.eng e).loadLen → t.byte (spadAddr e b) = s.byte ((s.eng e).loadFrom + b)) ∧
      (∀ a, (a < spadAddr e 0 ∨ spadAddr e 0 + 8 * (s.eng e).loadLen ≤ a) →
        (a < keptProgAddr e 0 ∨ keptProgAddr e 0 + 8 * (s.eng e).loadLen ≤ a) → t.byte a = s.byte a) ∧
      OnlyChanges (loadFields e) [.mem, .tbl] s t)

/-- The fields a member's open shot shows. -/
def shotFields (e : EngineId) : List (Page × Field) :=
  [(.cell e, CELL.STATUS_STATE), (.cell e, CELL.STATUS_PC), (.cell e, CELL.STATUS_IN_SHOT), (.cell e, CELL.STATUS_ATTEMPT),
    (.cell e, CELL.CW_RP), (.cell e, CELL.CW_ATT)]

/-- What the closing of a shot leaves (R90, R121, R319): the engine's leases end, and it waits for the settling to go on as `n` says. -/
def Closes (e : EngineId) (n : AfterClose) (s t : State) : Prop :=
  t.eng e = { s.eng e with closed := true, wait := .settle n } ∧ t.get (.cell e) CELL.STATUS_STATE = 6 ∧
  (∀ j, j < 2 → t.holds e (fluxOf e j) = false) ∧ (∀ j, j ≠ e.val → t.eng j = s.eng j) ∧
  OnlyChanges (stopFields e) [.engs, .outputs] s t ∧ t.inShot e = true ∧ t.pc e = s.pc e

/-- T[TS] once SHOT has moved it by TOFF (R121). -/
def movedT (s : State) (e : EngineId) (ts : Fin 4) (toff : Word) : Stamp := s.treg e ts + BitVec.ofNat 64 toff.toNat

/-- R122: the checkpoint a SHOT writes: the engine's registers as SHOT leaves them, the return point after it, no PREP declaration; the
frames are in it where the anchor has passed (R60). -/
def shotCheckpoint (s : State) (e : EngineId) (ts : Fin 4) (toff : Word) (past : Bool) : Checkpoint :=
  { g := (upTo 16).map (s.greg e), t := (upTo 4).map fun i => if i = ts.val then movedT s e ts toff else s.treg e i,
    l := (upTo 4).map (s.lreg e), cw := s.cw e, ret := ⟨(s.pc e + 1) % 4096, s.page e⟩, stack := (s.eng e).stack, prep := none, ts := ts,
    frames := if past then s.framesOf e else [], latched := past }

/-- What a member shows once its shot is open: attempt `n` of its group. -/
def ShotOpen (e : EngineId) (ts : Fin 4) (toff : Word) (n : Nat) (s t : State) : Prop :=
  t.treg e ts = movedT s e ts toff ∧ t.get (.cell e) CELL.STATUS_IN_SHOT = 1 ∧ t.get (.cell e) CELL.STATUS_ATTEMPT = n ∧
  t.get (.cell e) CELL.CW_RP = 0 ∧ t.get (.cell e) CELL.CW_ATT = 1 ∧ t.get (.cell e) CELL.STATUS_STATE = 1 ∧
  t.pc e = (s.pc e + 1) % 4096 ∧ (∀ j, j ≠ e.val → t.eng j = s.eng j) ∧
  OnlyChanges (shotFields e ++ [(.cell e, CELL.T_LO ts), (.cell e, CELL.T_HI ts)]) [.engs, .groups, .tbl, .free, .blks] s t

/-- Nothing holds the group's next shot back (R319, R325, R339, R493, R508). -/
def mayOpenNow (s : State) (e : EngineId) : Prop :=
  s.quiesced e = false ∧ s.crit = false ∧ s.firmwareHold = false ∧ s.ledgerFull (s.groupGuest (s.groupOf e)) = false ∧
  (s.group (s.groupOf e)).mayOpen = true

/-- R317: no difference of the devices' entries is found at the group's first SHOT. -/
def entriesAgree (s : State) (e : EngineId) (differ : Bool) : Prop :=
  differ = true → (s.group (s.groupOf e)).started = true ∨ s.otherDevices (s.groupOf e) = []

/-- R90, R121, R122, R317 to R320, R493: a SHOT or HALT with a shot open closes it, ends the engine's leases and waits for the settling; a SHOT
with END outside a shot goes on; a SHOT without END, where nothing holds its group, opens the group's next shot: it moves T[TS], which the
lead engine makes the anchor, numbers the shot, and writes a checkpoint with no PREP declaration; a member joins a shot its group has open;
a group that is held waits at its shot boundary; devices whose entries differ stop the members and set a FAULT bit. -/
def Obligations.ShotInstructions : Prop :=
  (∀ (e : EngineId) (endShot : Bool) (ts : Fin 4) (toff : Word) (differ : Bool) (lead : Stamp) s, s.executes e = true → s.inShot e = true →
    s.get (.cell e) CELL.SO_STATUS_LEVEL = 0 →
    Completes (.shot e endShot ts toff differ lead) s fun t => Closes e (if endShot then .proceed else .openNext ts toff lead) s t) ∧
  (∀ (e : EngineId) s, s.executes e = true → s.inShot e = true → s.get (.cell e) CELL.SO_STATUS_LEVEL = 0 →
    Completes (.halt e) s fun t => Closes e .halt s t) ∧
  (∀ (e : EngineId) (ts : Fin 4) (toff : Word) (differ : Bool) (lead : Stamp) s, fetchesPlain s e → s.inShot e = false → s.quiesced e = false →
    Completes (.shot e true ts toff differ lead) s fun t => Resumes e { s.eng e with wait := .none } [] [] s t) ∧
  (∀ (e : EngineId) (ts : Fin 4) (toff : Word) (differ : Bool) (lead : Stamp) s, fetchesPlain s e → s.inShot e = false → mayOpenNow s e →
    entriesAgree s e differ → (s.group (s.groupOf e)).open' = false → (s.group (s.groupOf e)).early = [] →
    Completes (.shot e false ts toff differ lead) s fun t =>
      ShotOpen e ts toff 1 s t ∧
      (t.group (s.groupOf e)).open' = true ∧ (t.group (s.groupOf e)).attempt = 1 ∧ (t.group (s.groupOf e)).voidedNow = false ∧
      (t.group (s.groupOf e)).anchor = (if s.groupOf e < 256 && !s.leads (s.groupOf e) then lead else movedT s e ts toff) ∧
      (t.group (s.groupOf e)).begun = (t.group (s.groupOf e)).anchor ∧
      (t.group (s.groupOf e)).shot =
        (if (s.group (s.groupOf e)).started then ((s.group (s.groupOf e)).shot + 1) % 2 ^ 48 else s.shotBase (s.groupOf e)) ∧
      (t.eng e).ckpt = some (shotCheckpoint s e ts toff
        ((t.group (s.groupOf e)).anchored && Stamp.atOrAfter s.st (t.group (s.groupOf e)).begun)) ∧
      (t.eng e).voided = false ∧ (t.eng e).closed = false ∧ (t.eng e).timetable = (s.eng e).timetable ∧ (t.eng e).due = (s.eng e).due ∧
      (∀ g, g ≠ s.groupOf e → t.group g = s.group g)) ∧
  (∀ (e : EngineId) (ts : Fin 4) (toff : Word) (differ : Bool) (lead : Stamp) s, fetchesPlain s e → s.inShot e = false → mayOpenNow s e →
    entriesAgree s e differ → (s.group (s.groupOf e)).open' = true → (s.group (s.groupOf e)).anchored = true →
    (s.group (s.groupOf e)).voidedNow = false → (s.group (s.groupOf e)).attempt < 16 →
    Completes (.shot e false ts toff differ lead) s fun t =>
      ShotOpen e ts toff (s.group (s.groupOf e)).attempt s t ∧ t.groups = s.groups ∧
      (t.eng e).ckpt = some (shotCheckpoint s e ts toff (Stamp.atOrAfter s.st (s.group (s.groupOf e)).begun)) ∧
      (t.eng e).voided = false ∧ (t.eng e).closed = false) ∧
  (∀ (e : EngineId) (ts : Fin 4) (toff : Word) (differ : Bool) (lead : Stamp) s, fetchesPlain s e → s.inShot e = false →
    entriesAgree s e differ → s.quiesced e = false → s.crit = false →
    s.firmwareHold = true ∨ s.ledgerFull (s.groupGuest (s.groupOf e)) = true ∨ (s.group (s.groupOf e)).mayOpen = false →
    Completes (.shot e false ts toff differ lead) s fun t => Waits e (.settle (.openNext ts toff lead)) 6 [] [] s t) ∧
  (∀ (e : EngineId) (ts : Fin 4) (toff : Word) (lead : Stamp) s, fetchesPlain s e → s.inShot e = false → ¬entriesAgree s e true →
    Completes (.shot e false ts toff true lead) s fun t =>
      t.get .ledger ALL.FAULT_BITS = (s.get .ledger ALL.FAULT_BITS ||| 2 ^ 1) % 2 ^ 32 ∧
      ∀ i ∈ s.members (s.groupOf e), t.engStopped i = true)

/-- No enqueue of another engine of the block waits for a stream slot, and no branch unit of one for room (R71, R181). -/
def othersWaitNot (s : State) (e : EngineId) : Prop :=
  ∀ i ∈ enginesOfBlock (blockOf e), i ≠ e.val → (s.eng i).tail = none ∧ ∀ xs td, (s.eng i).wait ≠ .streamSlot xs td

/-- The members of a group on this device have closed the shot, and go on as R319 says. -/
def membersProceed (s : State) (g : Nat) : Prop :=
  ∀ e ∈ s.members g, s.engStopped e = false → (s.eng e).wait = .settle .proceed ∧ s.quiesced e = false

/-- The ledger frame of a kind that a group sends to each of its other devices (R331). -/
def ledgerFrames (s : State) (g : Nat) (kind : FrameKind) (words : List Nat) : List Frame :=
  (s.otherDevices g).map fun d => ⟨kind, d, s.fabricId, none, s.groupId g, words, none, none⟩

/-- R60, R319, R323, R325, R330 to R332, R335, R336: a group whose members have all closed the shot is settled on its lead device once every
other device with a running member has settled: its record is delivered, the shot is over, the members go on and the other devices are
told; another device tells the lead. A passing anchor latches the frames into the checkpoint and the guest's VSET; a void takes effect at a
member, which loses its entries and waits for the new start; the restore point restores the latched frames. -/
def Obligations.ShotEvents : Prop :=
  (∀ (g : GroupNo) (idle : BitVec 64) s, (s.group g).open' = true → s.settledHere g = true → s.ledgerFull (s.groupGuest g) = false →
    s.leads g = true → (∀ d ∈ s.otherDevices g, (s.group g).settledDevs.contains d = true ∨ idle.getLsbD d = true) → membersProceed s g →
    Completes (.shotSettle g idle) s fun t =>
      (t.group g).open' = false ∧ (t.group g).attempt = 0 ∧ (∀ j, j ≠ g.val → t.group j = s.group j) ∧
      t.led.waiting = s.led.waiting ++ [⟨regionOf (s.leadEngine g), s.groupGuest g, s.shotRecord g (b2n (s.group g).unrecovered), none⟩] ∧
      t.fab = { s.fab with sendq := s.fab.sendq ++ ledgerFrames s g .openShot [(s.group g).attempt, (s.group g).shot, 0, 0] } ∧
      (∀ e ∈ s.members g, t.inShot e = false) ∧
      OnlyPagesChange (.ledger :: (s.members g).map cellPage) [.led, .groups, .tbl, .outputs, .engs, .blks, .fab] s t) ∧
  (∀ (g : GroupNo) (idle : BitVec 64) s, (s.group g).open' = true → s.settledHere g = true → s.ledgerFull (s.groupGuest g) = false →
    s.leads g = false → (s.group g).settledDevs.contains s.fabricId = false →
    Completes (.shotSettle g idle) s fun t =>
      t.group g = { s.group g with settledDevs := s.fabricId :: (s.group g).settledDevs, mayOpen := false } ∧
      (∀ j, j ≠ g.val → t.group j = s.group j) ∧
      t.fab = { s.fab with sendq := s.fab.sendq ++
        [⟨.settle, (s.devices g).headD 0, s.fabricId, none, s.groupId g, [(s.group g).attempt, (s.group g).shot, 0, 0], none, none⟩] } ∧
      OnlyChanges [] [.groups, .fab] s t) ∧
  (∀ (g : GroupNo) (idle : BitVec 64) s, (s.group g).open' = true → s.settledHere g = false →
    Completes (.shotSettle g idle) s fun t => t = s) ∧
  (∀ (e : EngineId) s, s.inShot e = true → (s.group (s.groupOf e)).open' = true → (s.group (s.groupOf e)).anchored = true →
    (s.group (s.groupOf e)).voidedNow = false → s.changesBefore e (s.group (s.groupOf e)).begun = false →
    CompletesAt (s.group (s.groupOf e)).begun (.anchorPass e) s fun u t =>
      t.eng e = { u.eng e with ckpt := latchedIn u e } ∧ (∀ j, j ≠ e.val → t.eng j = u.eng j) ∧
      t.group (s.groupOf e) = (if (s.group (s.groupOf e)).vsetTaken then s.group (s.groupOf e)
        else { s.group (s.groupOf e) with vset := s.vset (s.groupGuest (s.groupOf e)), vsetTaken := true }) ∧
      (∀ j, j ≠ s.groupOf e → t.group j = s.group j) ∧
      (∀ m, s.markAtt (s.groupOf e) = some m → u.markerCond m = Cond.live.code →
        (t.output (markerNo m)).level = (1 < (s.group (s.groupOf e)).attempt)) ∧
      (∀ k, (∀ m, s.markAtt (s.groupOf e) = some m → k ≠ markerNo m) → t.output k = u.output k) ∧
      OnlyChanges [] [.engs, .outputs, .groups] u t) ∧
  (∀ (e : EngineId) s, s.inShot e = false ∨ (s.group (s.groupOf e)).voidedNow = true ∨
      s.changesBefore e (s.group (s.groupOf e)).begun = true →
    Completes (.anchorPass e) s fun t => t = s) ∧
  (∀ (e : EngineId) s, s.inShot e = true → (s.group (s.groupOf e)).open' = true → (s.group (s.groupOf e)).voidedNow = true →
    (s.eng e).voided = false → s.engStopped e = false → s.get (.cell e) CELL.SO_STATUS_LEVEL = 0 → othersWaitNot s e →
    Completes (.voidEffect e) s fun t =>
      (t.eng e).timetable = [] ∧ (t.eng e).due = (s.eng e).due ∧ (t.eng e).voided = true ∧ (t.eng e).restored = false ∧
      (t.eng e).wait = .newStart ∧ (t.eng e).branch = none ∧ (t.eng e).tail = none ∧ (t.eng e).ckpt = (s.eng e).ckpt ∧
      t.get (.cell e) CELL.STATUS_STATE = 5 ∧ (∀ j, j < 2 → t.holds e (fluxOf e j) = false) ∧ (∀ i, t.greg e i = s.greg e i) ∧
      (∀ i, t.treg e i = s.treg e i) ∧ (∀ j, j ≠ e.val → t.eng j = s.eng j) ∧ Keeps [.regs, .engs, .blks, .tones, .outputs] s t) ∧
  (∀ (e : EngineId) s c, (s.eng e).ckpt = some c → (s.eng e).voided = true → (s.eng e).restored = false → s.quietTones e = true →
    c.latched = true → (c.frames.map (·.1)).Nodup →
    CompletesAt (Stamp.gridUp 5 (s.quietAt e)) (.frameRestore e) s fun u t =>
      (∀ x ∈ c.frames, (t.tone x.1).f = x.2.f ∧ (t.tone x.1).p = x.2.p) ∧ (∀ k, k ∉ c.frames.map (·.1) → t.tone k = u.tone k) ∧
      t.eng e = { u.eng e with restored := true } ∧ (∀ j, j ≠ e.val → t.eng j = u.eng j) ∧
      OnlyChanges [] [.tones, .engs, .groups, .fab] u t) ∧
  (∀ (e : EngineId) s c, (s.eng e).ckpt = some c → (s.eng e).voided = true → (s.eng e).restored = false → s.quietTones e = true →
    c.latched = false →
    CompletesAt (Stamp.gridUp 5 (s.quietAt e)) (.frameRestore e) s fun u t =>
      t.tones = u.tones ∧ t.eng e = { u.eng e with restored := true, ckpt := some { c with frames := s.framesOf e, latched := true } } ∧
      (∀ j, j ≠ e.val → t.eng j = u.eng j) ∧ OnlyChanges [] [.engs, .groups, .fab] u t)

/-- R327: the fabric hops from a group's lead device to its farthest other one: its routes' HOPS, or `far` where a route says three or more. -/
def farthest (s : State) (g : Nat) (far : Fin 64) : Nat :=
  if ((s.otherDevices g).map s.hopsTo).foldl max 0 = 3 then max 3 far.val else ((s.otherDevices g).map s.hopsTo).foldl max 0

/-- R327: the earliest new start of a void attempt: the replay gap from now, and 0.6 µs a hop more. -/
def earliestStart (s : State) (g : Nat) (far : Fin 64) : Stamp := s.st + BitVec.ofNat 64 (s.replayGap g + 12000 * farthest s g far)

/-- R327: `t` is the smallest anchor + m × 2^GRID, m ≥ 1, that is at least the earliest start. -/
def IsNewStart (s : State) (g : Nat) (from' t : Stamp) : Prop :=
  (t - (s.group g).anchor).toNat % 2 ^ s.gridOf g = 0 ∧ 2 ^ s.gridOf g ≤ (t - (s.group g).anchor).toNat ∧ Stamp.atOrAfter t from' = true ∧
  (2 ^ s.gridOf g < (t - (s.group g).anchor).toNat → Stamp.atOrAfter (t - BitVec.ofNat 64 (2 ^ s.gridOf g)) from' = false)

/-- The return point at which a voided member resumes, its PREP routine or the instruction after its SHOT, and the stack there
(R121, R123). -/
def resumePoint (c : Checkpoint) : ReturnPoint := c.prep.getD c.ret
def resumeStack (c : Checkpoint) : List ReturnPoint := if c.prep.isSome then c.ret :: c.stack else c.stack

/-- A voided member can resume: the instruction there has an opcode of R92, and the stack takes the return point of a PREP routine. -/
def resumable (s : State) (e : Nat) : Prop :=
  match (s.eng e).ckpt with
  | some c => opListed ((s.instrAt e (resumePoint c).page (resumePoint c).pc).toNat / 2 ^ 56) = true ∧ (c.prep.isSome = true → c.stack.length < 8)
  | none => True

/-- What a replay restores at a member from its checkpoint: the registers, the time registers moved by new start − anchor, the place to
resume at, CW.RP and the attempt (R121 to R123). -/
def Replayed (s t : State) (e n : Nat) (delta : Stamp) : Prop :=
  match (s.eng e).ckpt with
  | some c => (∀ i, i < 16 → t.greg e i = c.g.getD i 0) ∧ (∀ i, i < 4 → t.treg e i = c.t.getD i 0 + delta) ∧
      (∀ i, i < 4 → t.lreg e i = c.l.getD i 0) ∧ t.pc e = (resumePoint c).pc % 4096 ∧ t.page e = (resumePoint c).page ∧
      (t.eng e).stack = resumeStack c ∧ (t.eng e).voided = false ∧ (t.eng e).wait = .none ∧ t.get (cellPage e) CELL.CW_RP = 1 ∧
      t.get (cellPage e) CELL.CW_ATT = n ∧ t.get (cellPage e) CELL.STATUS_ATTEMPT = n
  | none => True

/-- R121, R123, R320, R327, R328, R331: on the lead device of a group, once every member is restored, the new start is the smallest multiple of
the grid after the anchor, at least one grid away, that is at least the replay gap and the fabric's delay from now, and the other devices are
told; at the replay's start the next attempt begins there, and every voided member resumes after its SHOT, or in its PREP routine, with its
checkpoint restored and its time registers shifted by new start − anchor. -/
def Obligations.Replay : Prop :=
  (∀ (g : GroupNo) (idle : BitVec 64) (far : Fin 64) s, (s.group g).open' = true → (s.group g).voidedNow = true →
    (s.group g).anchored = true → s.leads g = true → s.readyHere g = true →
    (∀ d ∈ s.otherDevices g, (s.group g).readyDevs.contains d = true ∨ idle.getLsbD d = true) →
    -(2 ^ 62) ≤ Stamp.ahead (earliestStart s g far) (s.group g).anchor →
    Completes (.newStart g idle far) s fun t =>
      IsNewStart s g (earliestStart s g far) (t.group g).newStart ∧
      t.group g = { s.group g with newStart := (t.group g).newStart, startSet := true } ∧ (∀ j, j ≠ g.val → t.group j = s.group j) ∧
      t.fab = { s.fab with
        sendq := s.fab.sendq ++ ledgerFrames s g .rstart [(s.group g).attempt, (s.group g).shot, 0, (t.group g).newStart.toNat] } ∧
      OnlyChanges [] [.groups, .tbl, .fab] s t) ∧
  (∀ (g : GroupNo) (idle : BitVec 64) (far : Fin 64) s, s.leads g = false ∨ s.readyHere g = false ∨ (s.group g).voidedNow = false →
    Completes (.newStart g idle far) s fun t => t = s) ∧
  (∀ (g : GroupNo) s, (s.group g).open' = true → (s.group g).voidedNow = true → (s.group g).startSet = true → s.readyHere g = true →
    (s.group g).attempt < 15 → (s.group g).early = [] →
    (∀ e ∈ s.members g, s.inShot e = true → (s.eng e).voided = true → resumable s e) →
    Completes (.replayStart g) s fun t =>
      (t.group g).attempt = (s.group g).attempt + 1 ∧ (t.group g).begun = (s.group g).newStart ∧ (t.group g).voidedNow = false ∧
      (t.group g).anchor = (s.group g).anchor ∧ (t.group g).causesNow = 0 ∧ (t.group g).vsetTaken = false ∧
      (∀ e ∈ s.members g, s.inShot e = true → (s.eng e).voided = true →
        Replayed s t e ((s.group g).attempt + 1) ((s.group g).newStart - (s.group g).anchor)) ∧
      OnlyPagesChange ((s.members g).map cellPage) [.groups, .engs, .tbl] s t) ∧
  (∀ (g : GroupNo) s, (s.group g).startSet = false ∨ s.readyHere g = false → Completes (.replayStart g) s fun t => t = s)

/-- Every participant of a curfew waits at it, by its own instruction and outside a stopover, with the same tag. -/
def allArrived (s : State) (e : EngineId) (scope : CurfewScope) (tag : BitVec 16) : Prop :=
  e.val ∈ s.participants e scope ∧
  ∀ i ∈ s.participants e scope, (s.eng i).wait = .curfew scope tag.toNat ∧ (s.eng i).byMicro = false ∧ (s.eng i).micro.reqWait = false ∧
    s.get (cellPage i) CELL.SO_STATUS_LEVEL = 0 ∧ s.get (cellPage i) CELL.SO_CTRL_CR_EN = 0

/-- R124 to R126, R338: CURFEW makes its engine wait; when every participant has arrived with the same tag, all go on together with the tag in
FENCE_TAG, and a tag record enters the ledger's stream behind every record delivered before. -/
def Obligations.Curfews : Prop :=
  (∀ (e : EngineId) (scope : CurfewScope) (tag : BitVec 16) s, fetchesPlain s e →
    Completes (.curfew e scope tag) s fun t =>
      Waits e (.curfew scope tag.toNat) 6 [(.cell e, CELL.CURFEW_STATUS_WAITING), (.cell e, CELL.CURFEW_STATUS_TAG),
        (.cell e, CELL.CURFEW_STATUS_SCOPE)] [] s t ∧
      t.get (.cell e) CELL.CURFEW_STATUS_WAITING = 1 ∧ t.get (.cell e) CELL.CURFEW_STATUS_TAG = tag.toNat ∧
      t.get (.cell e) CELL.CURFEW_STATUS_SCOPE = CurfewScope.code scope) ∧
  (∀ (e : EngineId) (scope : CurfewScope) (tag : BitVec 16) (peerOpen : Bool) s, allArrived s e scope tag → s.time.frozen = false →
    s.tend.pending = [] →
    Completes (.curfewRelease e none peerOpen) s fun t =>
      (∀ i ∈ s.participants e scope, (t.eng i).wait = .none ∧ t.pc i = (s.pc i + 1) % 4096 ∧
        t.get (cellPage i) ALL.FENCE_TAG_TAG = tag.toNat ∧ t.get (cellPage i) CELL.CURFEW_STATUS_WAITING = 0 ∧
        t.engIs i .running = true) ∧
      (∀ j, j ∉ s.participants e scope → t.eng j = s.eng j) ∧
      t.led.waiting.dropLast = s.led.waiting ∧ t.led.waiting.getLast?.map (·.tag) = some (some tag.toNat) ∧
      OnlyPagesChange (.watch :: .chip :: blockPage (blockOf e) :: regionPage (regionOf e) :: (s.participants e scope).map cellPage)
        [.engs, .led, .tend] s t) ∧
  (∀ (e : EngineId) (peerTag : Option (BitVec 16)) (peerOpen : Bool) s, (∀ scope tag, (s.eng e).wait ≠ .curfew scope tag) →
    Completes (.curfewRelease e peerTag peerOpen) s fun t => t = s)

/-- The branch that an instruction arms: its source, its reference T[TS], P = T[TS] + 8 × DGAP, whether the engine reached it at or after its
deadline, 640 ST before P, and what its unit stages of the two paths, with T[TS] at P unless KEEP (R113, R141). -/
def Armed (e : EngineId) (b : BranchArgs) (src : BranchSource) (s : State) (x : Branch) : Prop :=
  x.src = src ∧ x.ts = b.ts.val ∧ x.ref = s.treg e b.ts ∧ x.play = s.treg e b.ts + BitVec.ofNat 64 (8 * b.dgap.toNat) ∧
  x.dflt = b.dflt ∧ x.keep = b.keep ∧ x.mask = b.mask.toNat ∧ x.target = b.target.toNat ∧ x.next = (s.pc e + 1) % 4096 ∧
  x.result = none ∧ x.missed = Stamp.atOrAfter s.st (x.play - 640) ∧
  x.taken = s.stagePath e (if b.keep then none else some (b.ts.val, x.play)) (s.instrAt e (s.page e) b.target.toNat) ∧
  x.fallen = s.stagePath e (if b.keep then none else some (b.ts.val, x.play)) (s.instrAt e (s.page e) x.next)

/-- What a branch instruction leaves: its engine waits in WAIT_DECISION with the branch armed; nothing else changes. -/
def Arms (e : EngineId) (b : BranchArgs) (src : BranchSource) (s t : State) : Prop :=
  (match (t.eng e).branch with | some x => Armed e b src s x | none => False) ∧
  t.eng e = { s.eng e with
    branch := (t.eng e).branch, wait := .branch, micro := { (s.eng e).micro with branchDone := false } } ∧
  t.get (.cell e) CELL.STATUS_STATE = 4 ∧ (∀ j, j ≠ e.val → t.eng j = s.eng j) ∧ OnlyChanges [(.cell e, CELL.STATUS_STATE)] [.engs] s t

/-- An engine that may arm a branch: it executes outside a stopover, no mismatch of a spare is found, and its branch unit has finished. -/
def mayArm (s : State) (e : EngineId) (mismatch : Bool) : Prop := fetchesPlain s e ∧ agrees s e mismatch ∧ (s.eng e).tail = none

/-- The decision slot that a source names (R219, R392), and whether it counts as valid for an engine (R219, R220, R392). -/
def slotNamed (s : State) : BranchSource → DecSlot
  | .tone none u => s.slot u
  | .func none n f => s.slot (1024 + 256 * n + f)
  | .tone (some d) u => s.slot (4096 + 4096 * d + u)
  | .func (some d) n f => s.slot (4096 + 4096 * d + 2048 + 256 * n + f)
  | _ => .init

def slotCounts (s : State) (e : EngineId) : BranchSource → Bool
  | .tone none u => s.toneUsable u && s.delivers e [u]
  | .func none n f => s.funcUsable n && s.delivers e (s.funcTones n f)
  | .tone (some d) u => s.groupId (s.groupOf e) = (s.slot (4096 + 4096 * d + u)).group
  | .func (some d) n f => s.groupId (s.groupOf e) = (s.slot (4096 + 4096 * d + 2048 + 256 * n + f)).group
  | _ => false

/-- The branch of an engine waits for its outcome before its deadline (R113). -/
def awaits (s : State) (x : Branch) : Prop := x.missed = false ∧ x.result = none ∧ Stamp.atOrAfter (x.play - 640) s.st = true

/-- The branch of an engine becomes `x`; nothing else changes. -/
def BranchBecomes (e : EngineId) (x : Branch) (s t : State) : Prop :=
  t.eng e = { s.eng e with branch := some x } ∧ (∀ j, j ≠ e.val → t.eng j = s.eng j) ∧ OnlyChanges [] [.engs] s t

/-- An engine waits at its armed branch outside a stopover, and its branch resolves now. -/
def resolvesAt (s : State) (e : EngineId) (x : Branch) (mismatch : Bool) : Prop :=
  (s.eng e).wait = .branch ∧ x.ts < 4 ∧ s.time.frozen = false ∧ s.engStopped e = false ∧ s.get (.cell e) CELL.SO_STATUS_LEVEL = 0 ∧
  agrees s e mismatch

/-- Whether a value takes a branch: MASK[v], for a trigger's outcome the outcome itself (R110, R111, R114). -/
def takenBy (x : Branch) (v : Nat) : Bool :=
  match x.src with
  | .trigger _ => v = 1
  | _ => Nat.testBit x.mask (v % 4)

/-- What the unit has staged of a path, and where the path begins (R141). -/
def pathOf (x : Branch) (taken : Bool) : Staged := if taken then x.taken else x.fallen
def startOf (x : Branch) (taken : Bool) : Nat := if taken then x.target else x.next

/-- The fields that the resolution of a branch writes. -/
def branchFields (e : EngineId) (x : Branch) : List (Page × Field) :=
  [(.cell e, CELL.STATUS_PC), (.cell e, CELL.STATUS_STATE), (.cell e, CELL.CW_BT), (.cell e, CELL.T_LO x.ts), (.cell e, CELL.T_HI x.ts)]

/-- An engine's record once its branch is resolved: the unit is free and shows the outcome, and the engine goes on. -/
def afterBranch (r : Engine) (taken : Bool) : Engine :=
  { r with branch := none, tail := none, wait := .none, micro := { r.micro with branchDone := true, branchTaken := taken } }

/-- A branch resolved as `taken` onto a path none of whose entries are staged: CW.BT, T[TS] := P unless KEEP, and the PC; `r` is the record
of the engine, and `but` the fields written beside those of a branch. -/
def Resolves (e : EngineId) (x : Branch) (taken : Bool) (r : Engine) (but : List (Page × Field)) (s t : State) : Prop :=
  t.pc e = startOf x taken % 4096 ∧ t.get (.cell e) CELL.CW_BT = (if taken then 1 else 0) ∧
  t.treg e x.ts = (if x.keep then s.treg e x.ts else x.play) ∧ t.eng e = afterBranch r taken ∧ t.get (.cell e) CELL.STATUS_STATE = 1 ∧
  (∀ j, j ≠ e.val → t.eng j = s.eng j) ∧ OnlyChanges (branchFields e x ++ but) [.engs] s t

/-- An attempt of a group that a void cause ends: it is open, not void and not the final one, and the device is not in CRIT. -/
def voidable (s : State) (g : Nat) : Prop :=
  (s.group g).open' = true ∧ (s.group g).voidedNow = false ∧ (s.group g).attempt < s.maxAttempts g ∧ s.crit = false

/-- R322, R328: the attempt of a group is void for these causes, and counted; no other group changes. -/
def Voided (g causes : Nat) (s t : State) : Prop :=
  (t.group g).voidedNow = true ∧ (t.group g).causesAll = (s.group g).causesAll ||| causes ∧ (t.group g).entries = [] ∧
  t.get .ledger LEDGER.VOIDED_COUNT = satInc 32 (s.get .ledger LEDGER.VOIDED_COUNT) % 2 ^ 32 ∧ (∀ j, j ≠ g → t.group j = s.group j)

/-- R110 to R118, R141, R154, R219, R220, R321: BRD, BRF, BRT and BRM arm the branch unit and wait in WAIT_DECISION; a result with the matching
window end is taken and a later one makes the branch miss; a trigger's firing in its window, or its progress past it, is its outcome; at its
deadline the branch sets CW.BT, moves T[TS] to P unless KEEP, enqueues what its path's first instruction has staged, and execution goes on
there; a branch that misses outside a shot takes its default and counts; within a shot that may be replayed it voids the attempt, and the
engine waits for the new start. -/
def Obligations.Branches : Prop :=
  (∀ (e : EngineId) (b : BranchArgs) (r : Option (Fin 64)) (u : Fin 1024) (mismatch : Bool) s, mayArm s e mismatch →
    Completes (.brd e b r u mismatch) s (Arms e b (.tone (r.map (·.val)) u.val) s)) ∧
  (∀ (e : EngineId) (b : BranchArgs) (r : Option (Fin 64)) (n : RegionId) (f : Fin 256) (mismatch : Bool) s, mayArm s e mismatch →
    Completes (.brf e b r n f mismatch) s (Arms e b (.func (r.map (·.val)) n.val f.val) s)) ∧
  (∀ (e : EngineId) (b : BranchArgs) (u : TriggerId) (mismatch : Bool) s, mayArm s e mismatch →
    Completes (.brt e b u mismatch) s (Arms e b (.trigger u) s)) ∧
  (∀ (e : EngineId) (b : BranchArgs) (d : Fin 64) (tag : BitVec 16) (mismatch : Bool) s, mayArm s e mismatch →
    Completes (.brm e b d tag mismatch) s (Arms e b (.message d.val tag.toNat) s)) ∧
  (∀ (e : EngineId) s x, (s.eng e).branch = some x → awaits s x → slotCounts s e x.src = true → (slotNamed s x.src).seen = true →
    (slotNamed s x.src).w = x.ref → (slotNamed s x.src).valid = true → (slotNamed s x.src).voids = false →
    Completes (.decisionArrival e) s (BranchBecomes e { x with result := some (slotNamed s x.src).value } s)) ∧
  (∀ (e : EngineId) s x, (s.eng e).branch = some x → awaits s x → slotCounts s e x.src = true → (slotNamed s x.src).seen = true →
    (slotNamed s x.src).w ≠ x.ref → Stamp.atOrAfter (slotNamed s x.src).w x.ref = true →
    Completes (.decisionArrival e) s (BranchBecomes e { x with missed := true } s)) ∧
  (∀ (e : EngineId) u s x, (s.eng e).branch = some x → awaits s x → x.src = .trigger u → x.mask < 16 →
    (s.trig (triggerNo u)).firings.any (fun f => Stamp.atOrAfter f (x.ref - BitVec.ofNat 64 (32 * 2 ^ x.mask)) && Stamp.future x.ref f) = true →
    Completes (.decisionArrival e) s (BranchBecomes e { x with result := some 1 } s)) ∧
  (∀ (e : EngineId) u s x, (s.eng e).branch = some x → awaits s x → x.src = .trigger u → (s.trig (triggerNo u)).firings = [] →
    Stamp.atOrAfter (s.trig (triggerNo u)).progress x.ref = true →
    Completes (.decisionArrival e) s (BranchBecomes e { x with result := some 0 } s)) ∧
  (∀ (e : EngineId) s, (s.eng e).branch = none → Completes (.decisionArrival e) s (· = s)) ∧
  (∀ (e : EngineId) (mismatch : Bool) s x v, (s.eng e).branch = some x → x.result = some v → (∀ d tag, x.src ≠ .message d tag) → x.missed = false →
    resolvesAt s e x mismatch → (pathOf x (takenBy x v)).built = false →
    CompletesAt (x.play - 640) (.branchResolve e mismatch) s fun u t => Resolves e x (takenBy x v) (u.eng e) [] u t) ∧
  (∀ (e : EngineId) (mismatch : Bool) s x m rest, (s.eng e).branch = some x → (s.eng e).inbox = m :: rest → x.src = .message m.dev m.tag →
    Stamp.atOrAfter (x.play - 640) m.arrival = true → x.missed = false → resolvesAt s e x mismatch →
    (pathOf x (Nat.testBit x.mask (m.payload.toNat % 4))).built = false →
    CompletesAt (x.play - 640) (.branchResolve e mismatch) s fun u t =>
      Resolves e x (Nat.testBit x.mask (m.payload.toNat % 4)) { u.eng e with inbox := rest } [] u t) ∧
  (∀ (e : EngineId) (mismatch : Bool) s x v p y, (s.eng e).branch = some x → x.result = some v → p = pathOf x (takenBy x v) →
    p.entries = [y] → (∀ d tag, x.src ≠ .message d tag) → x.missed = false → resolvesAt s e x mismatch → p.built = true → p.fault = none →
    p.ecc = false → y.kind ≠ .streamStart → takes (s.passed (x.play - 640)) e y.stamp →
    CompletesAt (x.play - 640) (.branchResolve e mismatch) s fun u t =>
      t.eng e = { afterBranch (u.eng e) (takenBy x v) with timetable := (u.eng e).timetable ++ [y], lastStamp := some y.stamp } ∧
      t.pc e = (startOf x (takenBy x v) + 1) % 4096 ∧ t.get (.cell e) CELL.CW_BT = (if takenBy x v then 1 else 0) ∧
      (∀ w, p.tWrite = some w → w.1 < 4 → t.treg e w.1 = w.2) ∧
      (p.tWrite.map (·.1) ≠ some x.ts → t.treg e x.ts = (if x.keep then u.treg e x.ts else x.play)) ∧
      t.get (.cell e) CELL.STATUS_STATE = 1 ∧ (∀ j, j ≠ e.val → t.eng j = u.eng j) ∧
      OnlyChanges (branchFields e x ++ slackFields e ++
        p.tWrite.toList.flatMap fun w => [(.cell e, CELL.T_LO (w.1 % 4)), (.cell e, CELL.T_HI (w.1 % 4))]) [.engs, .time, .out] u t) ∧
  (∀ (e : EngineId) (mismatch : Bool) s x, (s.eng e).branch = some x → x.missed = true → s.inShot e = false → resolvesAt s e x mismatch →
    (pathOf x x.dflt).built = false →
    CompletesAt (x.play - 640) (.branchResolve e mismatch) s fun u t =>
      Resolves e x x.dflt { u.eng e with missDue := false } [(.cell e, CELL.DL_MISS_COUNT), (.cell e, CELL.SO_STATUS_PEND)] u t ∧
      t.get (.cell e) CELL.DL_MISS_COUNT = satInc 32 (u.get (.cell e) CELL.DL_MISS_COUNT) % 2 ^ 32 ∧
      t.get (.cell e) CELL.SO_STATUS_PEND = (if u.get (.cell e) CELL.SO_CTRL_DL_EN = 1 then (u.get (.cell e) CELL.SO_STATUS_PEND ||| 2) % 64
        else u.get (.cell e) CELL.SO_STATUS_PEND)) ∧
  (∀ (e : EngineId) (mismatch : Bool) s x, (s.eng e).branch = some x → (x.missed = true ∨ (x.result = none ∧ ∀ d tag, x.src ≠ .message d tag)) →
    s.inShot e = true → resolvesAt s e x mismatch → voidable s (s.groupOf e) → s.otherDevices (s.groupOf e) = [] →
    CompletesAt (x.play - 640) (.branchResolve e mismatch) s fun u t =>
      Voided (s.groupOf e) (if x.remote && (s.group (s.groupOf e)).expired then 132 else 4) u t ∧
      t.eng e = { u.eng e with branch := none, missDue := true, byMicro := false, wait := .newStart,
                                micro := { (u.eng e).micro with branchDone := true, branchTaken := x.dflt } } ∧
      t.pc e = u.pc e ∧ t.get (.cell e) CELL.STATUS_STATE = 5 ∧
      t.get (.cell e) CELL.DL_MISS_COUNT = satInc 32 (u.get (.cell e) CELL.DL_MISS_COUNT) % 2 ^ 32 ∧
      (∀ j, j ≠ e.val → t.eng j = u.eng j) ∧ OnlyPagesChange [.cell e, .ledger] [.engs, .groups, .tbl] u t) ∧
  (∀ (e : EngineId) (mismatch : Bool) s, (s.eng e).branch = none → Completes (.branchResolve e mismatch) s (· = s))

/-- The corrected reads of a block's control store (R132, R160). -/
def csField (e : EngineId) : Page × Field := (blockPage (blockOf e), BLOCK.UC_ECC_CORRECTED)

/-- A cell executes the microword that it reads: it runs, no uncorrectable word holds it, its µPC stands on no reserved word, and the read is
good or corrected (R132, R137). -/
def readsWord (s : State) (e : EngineId) (m : MicroArgs) : Prop :=
  s.runsWords e = true ∧ (s.eng e).micro.csHeld = false ∧ s.csReserved e = false ∧ m.read ≠ .bad

/-- A corrected read of the control store is counted. -/
def ReadCount (e : EngineId) (m : MicroArgs) (s t : State) : Prop :=
  t.get (blockPage (blockOf e)) BLOCK.UC_ECC_CORRECTED =
    (if m.read = .corrected then satInc 16 (s.get (blockPage (blockOf e)) BLOCK.UC_ECC_CORRECTED) % 2 ^ 16
     else s.get (blockPage (blockOf e)) BLOCK.UC_ECC_CORRECTED)

/-- What a microword leaves whose only further effects are on the fields `but` and the pieces `ps`: the cell's micro-state is `x`. -/
def WordEnds (e : EngineId) (m : MicroArgs) (x : Micro) (but : List (Page × Field)) (ps : List Piece) (s t : State) : Prop :=
  t.eng e = { s.eng e with micro := x } ∧ (∀ j, j ≠ e.val → t.eng j = s.eng j) ∧ ReadCount e m s t ∧
  OnlyChanges (csField e :: but) (.engs :: ps) s t

/-- A completed microword: the micro-state of its cell becomes what `f` makes of it, and nothing else of the device changes. -/
def WordDone (e : EngineId) (m : MicroArgs) (f : Micro → Micro) (s t : State) : Prop := WordEnds e m (f (s.eng e).micro) [] [] s t

/-- µPC at `next`, with an open holdoff window one word shorter. -/
def wentTo (next : Nat) (x : Micro) : Micro := { x with upc := next, holdoff := x.holdoff - 1 }

/-- A bit of CELL.FAULT is set by a cell fault. -/
def Faulted (e : EngineId) (bit : Nat) (s t : State) : Prop :=
  t.get (.cell e) ALL.FAULT_BITS = (s.get (.cell e) ALL.FAULT_BITS ||| 2 ^ bit) % 2 ^ 32

/-- The micro-flags after FN (R133): Z and N of the result; C and V of an ADD or SUB, else as before. -/
def microFlagsOk (f : AluFn) (a b r : Word) (old new : Nat) : Prop :=
  Nat.testBit new 0 = decide (r.toNat = 0) ∧ Nat.testBit new 1 = decide (r.toInt < 0) ∧
  Nat.testBit new 2 = (match f with
    | .add => decide (2 ^ 32 ≤ a.toNat + b.toNat) | .sub => decide (b.toNat ≤ a.toNat) | _ => Nat.testBit old 2) ∧
  Nat.testBit new 3 = (match f with
    | .add => decide (r.toInt ≠ a.toInt + b.toInt) | .sub => decide (r.toInt ≠ a.toInt - b.toInt) | _ => Nat.testBit old 3)

/-- A word that computes FN of `a` and `b` into U[i]: the result and the micro-flags are those of R106 and R133, and the routine goes on. -/
def Computes (e : EngineId) (m : MicroArgs) (f : AluFn) (a b : Word) (i : Nat) (s t : State) : Prop :=
  fnResult f a b (aluValue f a b) ∧
  microFlagsOk f a b (aluValue f a b) (s.eng e).micro.mf (t.eng e).micro.mf ∧
  WordDone e m (fun x => wentTo m.next.toNat { x with u := x.u.set i (aluValue f a b), mf := (t.eng e).micro.mf }) s t

/-- The words of R136, with the operands of their rows of the command table. -/
def wordCommands (e : EngineId) (m : MicroArgs) (ue mismatch differ : Bool) (j : Option (Fin 8)) (seq : List WatchStep) (lead : Stamp) : List Instr :=
  [.nopw e m, .ldi e m, .mov e m, .microAlu e m, .addi e m, .wrs e m, .ldrc e m, .looprc e m, .csel e m, .waitc e m, .mret e m,
   .disp e m ue, .haltw e m, .faultWord e m, .park e m, .ctxr e m, .chk e m, .tstamp e m, .ebld e m, .enq e m j mismatch, .twrt e m,
   .rdl e m ue, .wrl e m, .rdb e m ue, .wrb e m mismatch, .holdoff e m, .reqLease e m, .reqCurfew e m, .reqSendm e m, .reqWatch e m seq,
   .reqShotOpen e m differ lead, .reqShotClose e m, .reqPrep e m, .brArm e m mismatch]

/-- R132, R135 to R139, R148: NOPW, LDI, MOV, ALU, ADDI, LDRC, LOOPRC, CSEL, WAITC and HOLDOFF of a cell that executes: the U register, RC and
MF they write, the next address, and nothing else; a 1 in a field marked "—" is illegal, and so is every word of a cell whose µPC stands on
a reserved word of its control store. A corrected read is counted; an uncorrectable one holds the cell, is counted and sets UC_ECC. -/
def Obligations.PlainMicrowords : Prop :=
  (∀ (e : EngineId) m s, readsWord s e m → m.a = 0 → m.b = 0 →
    Completes (.nopw e m) s (WordDone e m (wentTo m.next.toNat) s)) ∧
  (∀ (e : EngineId) m s, readsWord s e m → m.a ≠ 0 ∨ m.b ≠ 0 → Completes (.nopw e m) s (Faulted e 1 s)) ∧
  (∀ (e : EngineId) m s, readsWord s e m → m.a.toNat < 4 →
    Completes (.ldi e m) s (WordDone e m (fun x => wentTo m.next.toNat { x with u := x.u.set m.a.toNat (BitVec.ofNat 32 m.b.toNat) }) s)) ∧
  (∀ (e : EngineId) m s v, s.source e m.a.toNat = some v → readsWord s e m → m.a.toNat < 20 → m.b.toNat < 4 →
    Completes (.mov e m) s (WordDone e m (fun x => wentTo m.next.toNat { x with u := x.u.set m.b.toNat v }) s)) ∧
  (∀ (e : EngineId) m s r rest, (s.eng e).stack = r :: rest → readsWord s e m → m.a = 20 → m.b.toNat < 4 →
    Completes (.mov e m) s fun t =>
      t.eng e = { s.eng e with
        stack := rest, page := r.page.getD (s.eng e).page
        micro := wentTo m.next.toNat { (s.eng e).micro with
          u := (s.eng e).micro.u.set m.b.toNat (BitVec.ofNat 32 (r.pc + if r.page.isSome then 4096 else 0)) } } ∧
      (∀ j, j ≠ e.val → t.eng j = s.eng j) ∧ ReadCount e m s t ∧ OnlyChanges [csField e] [.engs] s t) ∧
  (∀ (e : EngineId) m s, (s.eng e).stack = [] → readsWord s e m → m.a = 20 → m.b.toNat < 4 → Completes (.mov e m) s (Faulted e 4 s)) ∧
  (∀ (e : EngineId) m s v f, s.source e m.a.toNat = some v → AluFn.ofCode (m.b.toNat % 16) = some f → readsWord s e m → m.a.toNat < 20 →
    m.b.toNat < 64 →
    Completes (.microAlu e m) s (Computes e m f (s.ureg e (m.b.toNat / 16)) v (m.b.toNat / 16) s)) ∧
  (∀ (e : EngineId) m s, readsWord s e m → m.a.toNat < 4 →
    Completes (.addi e m) s (Computes e m .add (s.ureg e m.a.toNat) (m.b.signExtend 32) m.a.toNat s)) ∧
  (∀ (e : EngineId) m s, readsWord s e m → m.a = 0 →
    Completes (.ldrc e m) s (WordDone e m (fun x => wentTo m.next.toNat { x with rc := m.b.toNat }) s)) ∧
  (∀ (e : EngineId) m s, readsWord s e m → m.a = 0 → m.b = 0 →
    Completes (.looprc e m) s
      (WordDone e m (fun x => wentTo (m.next.toNat / 2 * 2 + if x.rc ≤ 1 then 0 else 1) { x with rc := x.rc - 1 }) s)) ∧
  (∀ (e : EngineId) m s c, s.condition e m.a.toNat = some c → readsWord s e m → m.b.toNat < 2 →
    Completes (.csel e m) s (WordDone e m (wentTo (m.next.toNat / 2 * 2 + if c = decide (m.b.toNat = 0) then 1 else 0)) s)) ∧
  (∀ (e : EngineId) m s c, s.condition e m.a.toNat = some c → readsWord s e m → m.b.toNat < 2 → (s.eng e).micro.holdoff = 0 →
    s.get (blockPage (blockOf e)) BLOCK.PACE_STATUS_MODE = 0 →
    Completes (.waitc e m) s
      (WordDone e m (fun x => if c = decide (m.b.toNat = 0) then wentTo m.next.toNat x else x) s)) ∧
  (∀ (e : EngineId) m s, readsWord s e m → (s.eng e).micro.holdoff ≠ 0 ∨ s.get (blockPage (blockOf e)) BLOCK.PACE_STATUS_MODE = 1 →
    Completes (.waitc e m) s (Faulted e 1 s)) ∧
  (∀ (e : EngineId) m s, readsWord s e m → m.a = 0 → 1 ≤ m.b.toNat → m.b.toNat ≤ 16 → (s.eng e).micro.holdoff = 0 →
    Completes (.holdoff e m) s (WordDone e m (fun x => { x with upc := m.next.toNat, holdoff := m.b.toNat }) s)) ∧
  (∀ (e : EngineId) m ue mismatch differ j seq lead s, ∀ c ∈ wordCommands e m ue mismatch differ j seq lead,
    s.runsWords e = true → (s.eng e).micro.csHeld = false → m.read = .bad →
    Completes c s fun t =>
      t.eng e = { s.eng e with micro := { (s.eng e).micro with csHeld := true } } ∧ (∀ i, i ≠ e.val → t.eng i = s.eng i) ∧
      t.get (blockPage (blockOf e)) BLOCK.UC_ECC_UNCORRECTED =
        satInc 16 (s.get (blockPage (blockOf e)) BLOCK.UC_ECC_UNCORRECTED) % 2 ^ 16 ∧
      t.get (blockPage (blockOf e)) ALL.FAULT_BITS = (s.get (blockPage (blockOf e)) ALL.FAULT_BITS ||| 2 ^ 17) % 2 ^ 32 ∧
      (s.stopsOn (blockPage (blockOf e)) 17 = false → OnlyPagesChange [blockPage (blockOf e)] [.engs, .out] s t)) ∧
  (∀ (e : EngineId) m ue mismatch differ j seq lead s, ∀ c ∈ wordCommands e m ue mismatch differ j seq lead,
    s.runsWords e = false ∨ (s.eng e).micro.csHeld = true → Completes c s (· = s)) ∧
  (∀ (e : EngineId) m ue mismatch differ j seq lead s, ∀ c ∈ wordCommands e m ue mismatch differ j seq lead,
    s.runsWords e = true → (s.eng e).micro.csHeld = false → m.read ≠ .bad → s.csReserved e = true → Completes c s (Faulted e 1 s))

/-- The bits `hi` to `lo` of an engine's IR. -/
def irBits (s : State) (e : EngineId) (hi lo : Nat) : Nat := (s.eng e).micro.ir.toNat / 2 ^ lo % 2 ^ (hi + 1 - lo)

/-- A time register that takes U‖TLOW, and the fields it takes them in. -/
def timeWord (s : State) (e : EngineId) (v : Word) : Stamp := BitVec.ofNat 64 (v.toNat * 2 ^ 32 + (s.eng e).micro.tLow.toNat)
def tregFields (e : EngineId) (i : Nat) : List (Page × Field) := [(.cell e, CELL.T_LO i), (.cell e, CELL.T_HI i)]

/-- The fields of the condition word. -/
def cwFields (e : EngineId) : List (Page × Field) :=
  flagFields e ++ [(.cell e, CELL.CW_BT), (.cell e, CELL.CW_LR), (.cell e, CELL.CW_SP), (.cell e, CELL.CW_RP), (.cell e, CELL.CW_ATT)]

/-- A WRS of U[b] to destination `a` in a cell that executes. -/
def writesTo (s : State) (e : EngineId) (m : MicroArgs) (a : Nat) : Prop := readsWord s e m ∧ m.a.toNat = a ∧ m.b.toNat < 4

/-- The return point that a word with its source bit in [12] names (R105). -/
def pointOf (page : Nat) (v : Word) : Nat × Option Nat :=
  (v.toNat % 4096, if v.getLsbD 12 then some page else none)

/-- The micro-state that MRET restores from a save slot (R152). -/
def restored (x : SaveSlot) (m : Micro) : Micro := { m with upc := x.upc, u := x.u, mf := x.mf, rc := x.rc, holdoff := 0 }

/-- An MRET that returns from level `n` with the save slot `x`, outside the fault trap. -/
def returnsFrom (s : State) (e : EngineId) (m : MicroArgs) (n : Nat) (x : SaveSlot) : Prop :=
  readsWord s e m ∧ m.a = 0 ∧ m.b = 0 ∧ m.next = 0 ∧ s.get (.cell e) CELL.SO_STATUS_LEVEL = n ∧ 1 ≤ n ∧ n ≤ 2 ∧
  (s.eng e).micro.inFaultTrap = false ∧ (s.eng e).micro.slots[n - 1]? = some x

/-- The PC that DISP dispatches at: PC + 1 where B = 1, else PC. -/
def dispPC (s : State) (e : EngineId) (m : MicroArgs) : Nat := if m.b.toNat = 1 then (s.pc e + 1) % 4096 else s.pc e

/-- A DISP in a cell that executes. -/
def dispatches (s : State) (e : EngineId) (m : MicroArgs) : Prop := readsWord s e m ∧ m.a = 0 ∧ m.b.toNat < 2 ∧ m.next = 0

/-- R90, R92, R105, R136, R139, R151 to R156, R307, R343: WRS writes its destination; MRET restores the saved micro-state, and with the standard
image the trap's routine has marked its source in local word 8,127; DISP moves to the next instruction and enters its routine, and an
uncorrectable instruction of the program is a cell fault; HALTW stops an engine outside a shot and closes an open one; FAULT sets its bit
and leaves the cell FAULTED where no trap is enabled, a curable one beginning a takeover; PARK holds at a curfew and in a grant. -/
def Obligations.SequencingMicrowords : Prop :=
  (∀ (e : EngineId) m s, writesTo s e m 6 → Completes (.wrs e m) s fun t =>
      t.greg e (irBits s e 55 52) = s.ureg e m.b.toNat ∧
      WordEnds e m (wentTo m.next.toNat (s.eng e).micro) [(.cell e, CELL.G_VALUE (irBits s e 55 52))] [] s t) ∧
  (∀ (e : EngineId) m s, writesTo s e m 7 → Completes (.wrs e m) s
      (WordDone e m (fun x => wentTo m.next.toNat { x with tLow := s.ureg e m.b.toNat }) s)) ∧
  (∀ (e : EngineId) m s, writesTo s e m 8 → Completes (.wrs e m) s fun t =>
      t.treg e (irBits s e 53 52) = timeWord s e (s.ureg e m.b.toNat) ∧
      WordEnds e m (wentTo m.next.toNat (s.eng e).micro) (tregFields e (irBits s e 53 52)) [] s t) ∧
  (∀ (e : EngineId) m s, writesTo s e m 9 → Completes (.wrs e m) s fun t =>
      t.treg e (irBits s e 55 54) = timeWord s e (s.ureg e m.b.toNat) ∧
      WordEnds e m (wentTo m.next.toNat (s.eng e).micro) (tregFields e (irBits s e 55 54)) [] s t) ∧
  (∀ (e : EngineId) m s, writesTo s e m 10 → Completes (.wrs e m) s fun t =>
      t.lreg e (irBits s e 55 54) = s.ureg e m.b.toNat ∧
      WordEnds e m (wentTo m.next.toNat (s.eng e).micro) [(.cell e, CELL.L_VALUE (irBits s e 55 54))] [] s t) ∧
  (∀ (e : EngineId) m s, writesTo s e m 11 → Completes (.wrs e m) s fun t =>
      t.cw e = (s.ureg e m.b.toNat).toNat % 2 ^ 12 ∧ WordEnds e m (wentTo m.next.toNat (s.eng e).micro) (cwFields e) [] s t) ∧
  (∀ (e : EngineId) m s p, p = (if irBits s e 63 56 = 0x21 ∧ irBits s e 55 55 = 1 then irBits s e 17 12 else (s.eng e).page) →
    writesTo s e m 12 → Completes (.wrs e m) s fun t =>
      sourceOf t e = pointOf p (s.ureg e m.b.toNat) ∧
      t.eng e = { s.eng e with
        page := (pointOf p (s.ureg e m.b.toNat)).2.getD (s.eng e).page, micro := wentTo m.next.toNat (s.eng e).micro } ∧
      (∀ j, j ≠ e.val → t.eng j = s.eng j) ∧
      OnlyChanges [csField e, (.cell e, CELL.STATUS_PC), (.cell e, CELL.STATUS_LIB)] [.engs] s t) ∧
  (∀ (e : EngineId) m s, writesTo s e m 15 → (s.eng e).stack.length < 8 → Completes (.wrs e m) s fun t =>
      t.eng e = { s.eng e with
        stack := ⟨(pointOf (s.eng e).page (s.ureg e m.b.toNat)).1, (pointOf (s.eng e).page (s.ureg e m.b.toNat)).2⟩ :: (s.eng e).stack
        micro := wentTo m.next.toNat (s.eng e).micro } ∧
      (∀ j, j ≠ e.val → t.eng j = s.eng j) ∧ OnlyChanges [csField e] [.engs] s t) ∧
  (∀ (e : EngineId) m s, writesTo s e m 15 → 8 ≤ (s.eng e).stack.length → Completes (.wrs e m) s (Faulted e 4 s)) ∧
  (∀ (e : EngineId) m n s x, (s.eng e).micro.slots[n - 1]? = some x → returnsFrom s e m n x →
    s.get (blockPage (blockOf e)) BLOCK.UC_INFO_STD = 0 →
    Completes (.mret e m) s fun t =>
      t.get (.cell e) CELL.SO_STATUS_LEVEL = n - 1 ∧ (n = 2 → t.engIs e .stopover = true) ∧
      WordEnds e m (restored x (s.eng e).micro) [(.cell e, CELL.SO_STATUS_LEVEL), (.cell e, CELL.STATUS_STATE)] [] s t) ∧
  (∀ (e : EngineId) m n s x, (s.eng e).micro.slots[n - 1]? = some x → returnsFrom s e m n x →
    s.get (blockPage (blockOf e)) BLOCK.UC_INFO_STD = 1 → s.poisoned (localAddr e 8127) = false → 1 ≤ x.src →
    Completes (.mret e m) s fun t =>
      t.seen (blockOf e) (spadAddr e (0x8000 + 4 * 8127)) 4 = (s.localWord e 8127 ||| BitVec.ofNat 32 (2 ^ x.src)).toNat ∧
      (x.src = 5 → t.seen (blockOf e) (spadAddr e (0x8000 + 4 * 8126)) 4 = s.get (.cell e) CELL.DOORBELL_VALUE % 2 ^ 32) ∧
      t.get (.cell e) CELL.SO_STATUS_LEVEL = n - 1 ∧
      WordEnds e m (restored x (s.eng e).micro) [(.cell e, CELL.SO_STATUS_LEVEL), (.cell e, CELL.STATUS_STATE)] [.mem, .tbl, .blks] s t) ∧
  (∀ (e : EngineId) m s, dispatches s e m → s.page e = none → s.poisoned (spadAddr e (8 * dispPC s e m)) = false →
    opListed ((s.instrAt e none (dispPC s e m)).toNat / 2 ^ 56) = true →
    Completes (.disp e m false) s fun t =>
      t.pc e = dispPC s e m % 4096 ∧
      WordEnds e m { (s.eng e).micro with
          ir := s.instrAt e none (dispPC s e m), upc := (s.instrAt e none (dispPC s e m)).toNat / 2 ^ 56, holdoff := 0 }
        [(.cell e, CELL.STATUS_PC), (bankPage (blockOf e), BANK.SPAD_ECC_CORRECTED)] [] s t) ∧
  (∀ (e : EngineId) m s p, s.page e = some p → dispatches s e m → s.bankBad (blockOf e) (4096 * p + dispPC s e m) false = false →
    opListed ((s.instrAt e (some p) (dispPC s e m)).toNat / 2 ^ 56) = true →
    Completes (.disp e m false) s fun t =>
      t.pc e = dispPC s e m % 4096 ∧
      WordEnds e m { (s.eng e).micro with
          ir := s.instrAt e (some p) (dispPC s e m), upc := (s.instrAt e (some p) (dispPC s e m)).toNat / 2 ^ 56, holdoff := 0 }
        [(.cell e, CELL.STATUS_PC), (bankPage (blockOf e), BANK.ECC_CORRECTED)] [] s t) ∧
  (∀ (e : EngineId) m s, dispatches s e m → s.page e = none → s.poisoned (spadAddr e (8 * dispPC s e m)) = false →
    opListed ((s.instrAt e none (dispPC s e m)).toNat / 2 ^ 56) = false → Completes (.disp e m false) s (Faulted e 1 s)) ∧
  (∀ (e : EngineId) m s, dispatches s e m → s.page e = none → Completes (.disp e m true) s (Faulted e 0 s)) ∧
  (∀ (e : EngineId) m s, readsWord s e m → m.a = 0 → m.b = 0 → (s.eng e).micro.inFaultTrap = false → s.inShot e = false →
    s.get (.cell e) CELL.STATUS_START_PENDING = 0 → (∀ u ∈ s.tend.pending, u.engine ≠ e.val) →
    Completes (.haltw e m) s fun t =>
      atRest e t ∧ (∀ j, j ≠ e.val → t.eng j = s.eng j) ∧ ReadCount e m s t ∧
      OnlyChanges (csField e :: stopFields e) [.engs, .outputs, .groups, .tend] s t) ∧
  (∀ (e : EngineId) m s, readsWord s e m → m.a = 0 → m.b = 0 → (s.eng e).micro.inFaultTrap = false → s.inShot e = true →
    s.get (.cell e) CELL.SO_STATUS_LEVEL = 0 →
    Completes (.haltw e m) s fun t =>
      t.eng e = { s.eng e with
        closed := true, wait := .settle .halt, byMicro := true, micro := { (s.eng e).micro with upc := m.next.toNat, holdoff := 0 } } ∧
      t.get (.cell e) CELL.STATUS_STATE = 6 ∧ (∀ j, j < 2 → t.holds e (fluxOf e j) = false) ∧ (∀ j, j ≠ e.val → t.eng j = s.eng j) ∧
      OnlyChanges (csField e :: stopFields e) [.engs, .outputs] s t) ∧
  (∀ (e : EngineId) m s, readsWord s e m → m.a = 0 → 0 < m.b.toNat → m.b.toNat < 32 → (s.eng e).micro.inFaultTrap = false →
    s.inShot e = false → s.entryOf e = none → (s.group (256 + e.val)).open' = false → s.get (.cell e) CELL.SO_CTRL_FLT_EN = 0 →
    s.stopsOn (.cell e) m.b.toNat = false →
    Completes (.faultWord e m) s fun t =>
      t.engIs e .faulted = true ∧ Faulted e m.b.toNat s t ∧
      t.get (.cell e) CELL.SO_FAULT_UPC_UPC = (s.eng e).micro.upc % 2 ^ 13 ∧ (t.eng e).wait = .none ∧
      (∀ j, j ≠ e.val → j ≠ 1024 + blockOf e → t.eng j = s.eng j) ∧ (∀ i, t.greg e i = s.greg e i) ∧
      Keeps [.regs, .engs, .blks, .tones, .outputs, .groups, .tend, .out] s t) ∧
  (∀ (e : EngineId) m s, readsWord s e m → m.a = 0 → m.b = 0 → (s.eng e).micro.inFaultTrap = false → s.inShot e = false →
    (s.group (s.groupOf e)).voidedNow = false → s.get (.cell e) CELL.SO_CTRL_FLT_EN = 0 → s.stopsOn (.cell e) 0 = false →
    (s.blk (blockOf e)).spareUsed = false → (s.blk (blockOf e)).takeover = none →
    Completes (.faultWord e m) s fun t =>
      t.engIs e .faulted = true ∧ Faulted e 0 s t ∧ t.blk (blockOf e) = { s.blk (blockOf e) with slots := (t.blk (blockOf e)).slots, takeover := some (cellOf e) } ∧
      t.get (.cell e) CELL.SO_FAULT_UPC_UPC = (s.eng e).micro.upc % 2 ^ 13 ∧ (∀ j, j ≠ e.val → t.eng j = s.eng j) ∧
      (∀ i, t.greg e i = s.greg e i) ∧ Keeps [.regs, .engs, .blks, .tones, .out] s t) ∧
  (∀ (e : EngineId) m s, readsWord s e m → (∃ sc tag, (s.eng e).wait = .curfew sc tag) ∨ (∃ a b, (s.eng e).wait = .grant a b) → m.a = 0 → m.b = 0 →
    Completes (.park e m) s (WordDone e m (fun x => { x with holdoff := 0, parked := true }) s)) ∧
  (∀ (e : EngineId) m s, readsWord s e m → (∀ sc tag, (s.eng e).wait ≠ .curfew sc tag) → (∀ a b, (s.eng e).wait ≠ .grant a b) → m.a = 0 → m.b = 0 →
    Completes (.park e m) s (WordDone e m (fun x => { x with upc := m.next.toNat, holdoff := 0 }) s))

/-- The micro-state holds four U registers and a builder set for each level (R133, R134). -/
def buildersOk (s : State) (e : EngineId) : Prop := (s.eng e).micro.builders.length = 3 ∧ s.get (.cell e) CELL.SO_STATUS_LEVEL < 3

/-- The micro-state once the builder set of the present level is `b`, those of the other levels as before, and the routine goes on. -/
def builtMicro (s : State) (e : EngineId) (m : MicroArgs) (b : Builder) : Micro :=
  wentTo m.next.toNat { (s.eng e).micro with builders := (s.eng e).micro.builders.set (s.level e) b }

/-- A completed microword whose routine goes on at NEXT after a change of the cell's builder set of the present level. -/
def Built (e : EngineId) (m : MicroArgs) (f : Builder → Builder) (but : List (Page × Field)) (s t : State) : Prop :=
  t.builder e = f (s.builder e) ∧ WordEnds e m (builtMicro s e m (f (s.builder e))) but [] s t

/-- The entry builder's word with a kind, a target and an operand; its stamp is kept (R63, R136). -/
def ebWith (b : Builder) (k : EntryKind) (cls : TargetClass) (index operand : Nat) : BitVec 128 :=
  BitVec.ofNat 128 (b.eb.toNat / 2 ^ 64 * 2 ^ 64 + k.code * 2 ^ 60 + cls.code * 2 ^ 57 + index % 512 * 2 ^ 48 + operand)

/-- The operand EBLD gives an entry: the context IR names for a context kind, else what EB holds. -/
def ebOperand (s : State) (e : EngineId) (k : EntryKind) (b : Builder) : Nat := if k.usesCtx then s.irCtx e else b.eb.toNat % 2 ^ 48

/-- What EBLD leaves. -/
def EntryBuilt (e : EngineId) (m : MicroArgs) (k : EntryKind) (cls : TargetClass) (index : Nat) (s t : State) : Prop :=
  Built e m (fun b => { b with ebCtx := k.usesCtx, eb := ebWith b k cls index (ebOperand s e k b) }) [] s t

/-- An EBLD of a kind, from IR where `ir` (R136). -/
def builds (s : State) (e : EngineId) (m : MicroArgs) (ir : Bool) : Prop :=
  readsWord s e m ∧ m.a = 0 ∧ buildersOk s e ∧ m.b.toNat / 16 = if ir then 1 else 0

/-- An ENQ word of a cell that executes, with no mismatch of the spare. -/
def enqueues (s : State) (e : EngineId) (m : MicroArgs) (mismatch : Bool) : Prop :=
  readsWord s e m ∧ m.a = 0 ∧ m.b = 0 ∧ buildersOk s e ∧ agrees s e mismatch

/-- The context index IR names (R136). -/
def irIndex (s : State) (e : EngineId) : Nat :=
  if irBits s e 50 50 = 1 then (s.greg e (irBits s e 35 32)).toNat % 2 ^ 17 else irBits s e 48 32

/-- R61, R71, R94, R96 to R99, R109, R136, R181, R307: CTXR reads the context IR names into CB, an uncorrectable one as 0; CHK passes what the checks
allow, and else is the cell fault of R95, R96 or R99; TSTAMP, EBLD and ENQ make an entry and enqueue it; an uncorrectable context enqueues
nothing and voids the shot; TWRT writes T[TD]; a full timetable leaves ENQFAIL. -/
def Obligations.EntryMicrowords : Prop :=
  (∀ (e : EngineId) m s, readsWord s e m → m.a = 0 → m.b = 0 → buildersOk s e → s.ctxLeased e (irIndex s e) = true →
    s.ctxBad e (irIndex s e) none = false →
    Completes (.ctxr e m) s (Built e m (fun b => { b with cb := s.context (regionOf e) (irIndex s e), cbBad := false, cbrdy := true })
      [(porterPage (regionOf e), PORTER.CTX_ECC_CORRECTED)] s)) ∧
  (∀ (e : EngineId) m s, readsWord s e m → m.a = 0 → m.b = 0 → buildersOk s e → s.ctxLeased e (irIndex s e) = true →
    s.ctxBad e (irIndex s e) none = true → s.stopsOn (porterPage (regionOf e)) 1 = false →
    Completes (.ctxr e m) s fun t =>
      t.builder e = { s.builder e with cb := 0, cbBad := true, cbrdy := true } ∧ (t.eng e).micro.upc = m.next.toNat ∧
      t.get (porterPage (regionOf e)) ALL.FAULT_BITS = (s.get (porterPage (regionOf e)) ALL.FAULT_BITS ||| 2) % 2 ^ 32 ∧
      (∀ j, j ≠ e.val → t.eng j = s.eng j) ∧ OnlyPagesChange [porterPage (regionOf e), blockPage (blockOf e)] [.engs, .out] s t) ∧
  (∀ (e : EngineId) m s, readsWord s e m → m.a = 0 → m.b = 0 → s.ctxLeased e (irIndex s e) = false → Completes (.ctxr e m) s (Faulted e 2 s)) ∧
  (∀ (e : EngineId) m op s, (m.b = 0 ∧ op = TimedOp.play) ∨ (m.b = 1 ∧ op = .stream) ∨ (m.b = 2 ∧ op = .acquire) → readsWord s e m → m.a = 0 →
    Completes (.chk e m) s fun t =>
      if classOk op (s.builder e).cb = false then Faulted e 3 s t
      else if s.routeOk e (s.builder e).cb = false then Faulted e 2 s t
      else WordDone e m (wentTo m.next.toNat) s t) ∧
  (∀ (e : EngineId) m s, readsWord s e m → m.a = 0 → m.b = 3 →
    Completes (.chk e m) s fun t =>
      if irBits s e 51 49 < 3 ∧ s.owns e (frameTone e (s.irTarget e)) = true then WordDone e m (wentTo m.next.toNat) s t else Faulted e 2 s t) ∧
  (∀ (e : EngineId) m s, readsWord s e m → m.a = 0 → m.b = 4 →
    Completes (.chk e m) s fun t =>
      if Nat.testBit (s.get (.cell e) CELL.MARK_ROUTE_OWN) (irBits s e 51 48) = true then WordDone e m (wentTo m.next.toNat) s t
      else Faulted e 2 s t) ∧
  (∀ (e : EngineId) m s, readsWord s e m → m.a = 0 → m.b.toNat < 4 → buildersOk s e →
    Completes (.tstamp e m) s
      (Built e m (fun b => { b with eb := BitVec.ofNat 128 ((s.treg e (irBits s e 55 54)
          + BitVec.ofNat 64 (if m.b.toNat % 2 = 1 then irBits s e 19 0 else irBits s e 31 0)
          + (if 2 ≤ m.b.toNat then BitVec.ofNat 64 (32 * Ctx.wdelay b.cb) else 0)).toNat * 2 ^ 64 + b.eb.toNat % 2 ^ 64) }) [] s)) ∧
  (∀ (e : EngineId) m s, writesTo s e m 13 → buildersOk s e →
    Completes (.wrs e m) s
      (Built e m (fun b => { b with eb := BitVec.ofNat 128 (b.eb.toNat / 2 ^ 32 * 2 ^ 32 + (s.ureg e m.b.toNat).toNat) }) [] s)) ∧
  (∀ (e : EngineId) m s, writesTo s e m 14 → buildersOk s e →
    Completes (.wrs e m) s
      (Built e m (fun b => { b with eb := BitVec.ofNat 128 (b.eb.toNat / 2 ^ 48 * 2 ^ 48 + (s.ureg e m.b.toNat).toNat % 65536 * 2 ^ 32
        + b.eb.toNat % 2 ^ 32) }) [] s)) ∧
  (∀ (e : EngineId) m s k, EntryKind.ofCode (m.b.toNat % 16) = some k → builds s e m false → k ≠ .windowOpen →
    Completes (.ebld e m) s (EntryBuilt e m k (ctxTarget (s.builder e).cb).1 (ctxTarget (s.builder e).cb).2 s)) ∧
  (∀ (e : EngineId) m s, m.b = 1 → builds s e m false →
    Completes (.ebld e m) s (EntryBuilt e m .windowOpen .receive (ctxTarget (s.builder e).cb).2 s)) ∧
  (∀ (e : EngineId) m s k, EntryKind.ofCode (m.b.toNat % 16) = some k → builds s e m true → k ≠ .mark →
    Completes (.ebld e m) s (EntryBuilt e m k (TargetClass.ofCode (irBits s e 51 49)) (irBits s e 48 40) s)) ∧
  (∀ (e : EngineId) m s, m.b = 21 → builds s e m true →
    Completes (.ebld e m) s (EntryBuilt e m .mark .marker (irBits s e 51 48) s)) ∧
  (∀ (e : EngineId) m (mismatch : Bool) s x, x = (s.builder e).entry → enqueues s e m mismatch → x.kind ≠ .streamStart →
    (s.builder e).cbBad = false ∨ s.inShot e = false ∨ x.kind.usesCtx = false → takes s e x.stamp →
    Completes (.enq e m none mismatch) s fun t =>
      t.eng e = { s.eng e with
        timetable := (s.eng e).timetable ++ [x], lastStamp := some x.stamp, micro := builtMicro s e m { s.builder e with enqfail := false } } ∧
      (∀ j, j ≠ e.val → t.eng j = s.eng j) ∧ OnlyChanges (csField e :: slackFields e) [.engs, .time, .out] s t) ∧
  (∀ (e : EngineId) m (mismatch : Bool) s x k, x = (s.builder e).entry → s.freeStreamSlot (blockOf e) = some k → enqueues s e m mismatch →
    x.kind = .streamStart → (s.builder e).cbBad = false ∨ s.inShot e = false → takes s e x.stamp →
    Completes (.enq e m none mismatch) s fun t =>
      t.eng e = { s.eng e with
        timetable := (s.eng e).timetable ++ [{ x with slot := some k }], lastStamp := some x.stamp
        micro := builtMicro s e m { s.builder e with enqfail := false } } ∧
      (t.blk (blockOf e)).slots = (k, e.val) :: (s.blk (blockOf e)).slots ∧ (∀ j, j ≠ e.val → t.eng j = s.eng j) ∧
      OnlyChanges (csField e :: (blockPage (blockOf e), BLOCK.STREAM_STATUS_USED) :: slackFields e) [.engs, .time, .out, .blks] s t) ∧
  (∀ (e : EngineId) m (ue : Option (Fin 8)) (mismatch : Bool) s, enqueues s e m mismatch → 64 ≤ (s.eng e).timetable.length →
    Completes (.enq e m ue mismatch) s fun t =>
      Built e m (fun b => { b with enqfail := true }) [(.cell e, CELL.STALL_COUNT_COUNT)] s t ∧
      t.get (.cell e) CELL.STALL_COUNT_COUNT = (if (s.builder e).enqfail then s.get (.cell e) CELL.STALL_COUNT_COUNT
        else satInc 32 (s.get (.cell e) CELL.STALL_COUNT_COUNT) % 2 ^ 32)) ∧
  (∀ (e : EngineId) m (mismatch : Bool) s, enqueues s e m mismatch → (s.eng e).timetable.length < 64 → s.inShot e = true →
    (s.builder e).entry.kind.usesCtx = true → (s.builder e).cbBad = true → voidable s (s.groupOf e) → s.otherDevices (s.groupOf e) = [] →
    Completes (.enq e m none mismatch) s fun t =>
      (t.eng e).timetable = (s.eng e).timetable ∧ (t.eng e).micro = builtMicro s e m { s.builder e with enqfail := false } ∧
      Voided (s.groupOf e) 8 s t ∧ (∀ j, j ≠ e.val → t.eng j = s.eng j) ∧
      OnlyPagesChange [.ledger, blockPage (blockOf e)] [.engs, .groups, .tbl] s t) ∧
  (∀ (e : EngineId) m s, readsWord s e m → m.a = 0 → m.b.toNat < 2 → irBits s e 51 51 = 1 →
    Completes (.twrt e m) s fun t =>
      t.treg e (irBits s e 53 52) = (if m.b.toNat = 1
        then Stamp.gridUp 5 (s.treg e (irBits s e 55 54) + BitVec.ofNat 64 (irBits s e 31 0) + BitVec.ofNat 64 (32 * Ctx.wdelay (s.builder e).cb))
          + BitVec.ofNat 64 (32 * Ctx.wlen (s.builder e).cb)
        else BitVec.ofNat 64 ((s.builder e).eb.toNat / 2 ^ 64) + BitVec.ofNat 64 (Ctx.duration (s.builder e).cb)) ∧
      WordEnds e m (wentTo m.next.toNat (s.eng e).micro) (tregFields e (irBits s e 53 52)) [] s t) ∧
  (∀ (e : EngineId) m s, readsWord s e m → m.a = 0 → m.b.toNat < 2 → irBits s e 51 51 = 0 →
    Completes (.twrt e m) s (WordDone e m (wentTo m.next.toNat) s))

/-- A completed read of a microword: the result U and LRES hold the value, LDONE is set, and the routine goes on at NEXT. -/
def ReadDone (e : EngineId) (m : MicroArgs) (u v : Nat) (but : List (Page × Field)) (s t : State) : Prop :=
  t.builder e = { s.builder e with lres := BitVec.ofNat 64 v, ldone := true } ∧
  WordEnds e m { builtMicro s e m { s.builder e with lres := BitVec.ofNat 64 v, ldone := true } with
    u := (s.eng e).micro.u.set u (BitVec.ofNat 32 v) } but [] s t

/-- R85, R86, R127, R136, R306, R307, R342: RDL, WRL, RDB and WRB address with a U register; a read fills the result U and LRES with what the engines
see, a write stores its bytes and no others, with the spare's mirror; the checkpoint area is not written and sets CKPT_WR; an uncorrectable
local word is a cell fault, an uncorrectable bank word reads 0. -/
def Obligations.MemoryMicrowords : Prop :=
  (∀ (e : EngineId) m s i, i = (s.ureg e m.a.toNat).toNat % 8192 → readsWord s e m → m.a.toNat < 4 → m.b.toNat < 4 → buildersOk s e →
    s.poisoned (localAddr e i) = false → i < 8128 →
    Completes (.rdl e m false) s (ReadDone e m m.b.toNat (localSeen s e i) [(bankPage (blockOf e), BANK.SPAD_ECC_CORRECTED)] s)) ∧
  (∀ (e : EngineId) m (ue : Bool) s i, i = (s.ureg e m.a.toNat).toNat % 8192 → readsWord s e m → m.a.toNat < 4 → m.b.toNat < 4 →
    ue = true ∨ s.poisoned (localAddr e i) = true → Completes (.rdl e m ue) s (Faulted e 0 s)) ∧
  (∀ (e : EngineId) m s i, i = (s.ureg e m.a.toNat).toNat % 8192 → readsWord s e m → m.a.toNat < 4 → m.b.toNat < 4 → i < 8128 →
    Completes (.wrl e m) s fun t =>
      Stored (blockOf e) (spadAddr e (0x8000 + 4 * i)) 4 (s.ureg e m.b.toNat).toNat
        (fun b' => mirrored s e = true ∧ spareAddr (blockOf e) (0x8000 + 4 * i) ≤ b' ∧ b' < spareAddr (blockOf e) (0x8000 + 4 * i) + 4) s t ∧
      (mirrored s e = true → t.bytes (spareAddr (blockOf e) (0x8000 + 4 * i)) 4 = (s.ureg e m.b.toNat).toNat) ∧
      WordEnds e m (wentTo m.next.toNat (s.eng e).micro) [] [.mem, .tbl, .blks] s t) ∧
  (∀ (e : EngineId) m s i, i = (s.ureg e m.a.toNat).toNat % 8192 → readsWord s e m → m.a.toNat < 4 → m.b.toNat < 4 → 8128 ≤ i →
    s.stopsOn (.cell e) 5 = false →
    Completes (.wrl e m) s fun t =>
      Faulted e 5 s t ∧ (t.eng e).micro = wentTo m.next.toNat (s.eng e).micro ∧ (∀ j, j ≠ e.val → t.eng j = s.eng j) ∧
      OnlyPagesChange [.cell e, blockPage (blockOf e)] [.engs, .out] s t) ∧
  (∀ (e : EngineId) m s w, w = (s.ureg e m.a.toNat).toNat % 262144 → readsWord s e m → m.a.toNat < 4 → m.b.toNat < 8 → buildersOk s e →
    s.bankBad (blockOf e) w false = false →
    Completes (.rdb e m false) s
      (ReadDone e m (m.b.toNat % 4) (halfSeen s e w (4 ≤ m.b.toNat)) [(bankPage (blockOf e), BANK.ECC_CORRECTED)] s)) ∧
  (∀ (e : EngineId) m (ue : Bool) s w, w = (s.ureg e m.a.toNat).toNat % 262144 → readsWord s e m → m.a.toNat < 4 → m.b.toNat < 8 → buildersOk s e →
    s.bankBad (blockOf e) w ue = true → s.inShot e = false → s.stopsOn (bankPage (blockOf e)) 0 = false →
    Completes (.rdb e m ue) s fun t =>
      t.builder e = { s.builder e with lres := 0, ldone := true } ∧ t.get (bankPage (blockOf e)) BANK.UE_ADDR_WORD = w ∧
      (t.eng e).micro.upc = m.next.toNat ∧ (∀ j, j ≠ e.val → t.eng j = s.eng j) ∧
      OnlyPagesChange [bankPage (blockOf e), blockPage (blockOf e)] [.engs, .out] s t) ∧
  (∀ (e : EngineId) m (mismatch : Bool) s w, w = (s.ureg e m.a.toNat).toNat % 262144 → readsWord s e m → agrees s e mismatch → m.a.toNat < 4 →
    m.b.toNat < 8 →
    Completes (.wrb e m mismatch) s fun t =>
      Stored (blockOf e) (bankAddr (blockOf e) w + if 4 ≤ m.b.toNat then 4 else 0) 4 (s.ureg e (m.b.toNat % 4)).toNat (fun _ => False) s t ∧
      WordEnds e m (wentTo m.next.toNat (s.eng e).micro)
        [(bankPage (blockOf e), BANK.POISON_COUNT), (bankPage (blockOf e), BANK.INJECT_ARM)] [.mem, .tbl, .blks] s t)

/-- A cell at level 0 whose microword makes a request; an armed branch is one that the engine waits for. -/
def requests (s : State) (e : EngineId) (m : MicroArgs) : Prop :=
  readsWord s e m ∧ m.a = 0 ∧ s.get (.cell e) CELL.SO_STATUS_LEVEL = 0 ∧ ((s.eng e).branching = true → (s.eng e).wait ≠ .none)

/-- The micro-state after a request that has completed, with its UOK. -/
def requested (m : MicroArgs) (ok : Bool) (x : Micro) : Micro := wentTo m.next.toNat { x with udone := true, uok := ok }

/-- The micro-state after a request that is under way. -/
def requesting (m : MicroArgs) (x : Micro) : Micro := wentTo m.next.toNat { x with udone := false, uok := false }

/-- What a request that has completed leaves of its engine's record `r`: UDONE with its UOK; the PC does not move. -/
def Requested (e : EngineId) (m : MicroArgs) (ok : Bool) (r : Engine) (but : List (Page × Field)) (ps : List Piece) (s t : State) : Prop :=
  t.eng e = { r with byMicro := false, micro := requested m ok (s.eng e).micro } ∧ (∀ i, i ≠ e.val → t.eng i = s.eng i) ∧
  OnlyChanges (csField e :: but) (.engs :: ps) s t

/-- What a request that waits leaves: UDONE clear, and the wait. -/
def RequestWaits (e : EngineId) (m : MicroArgs) (w : Wait) (code : Nat) (but : List (Page × Field)) (ps : List Piece) (s t : State) : Prop :=
  t.eng e = { s.eng e with wait := w, byMicro := true, micro := requesting m (s.eng e).micro } ∧ t.get (.cell e) CELL.STATUS_STATE = code ∧
  (∀ i, i ≠ e.val → t.eng i = s.eng i) ∧ OnlyChanges (csField e :: (.cell e, CELL.STATUS_STATE) :: but) (.engs :: ps) s t

/-- The micro-state after an arrival at a curfew or a grant: complete as it is made, its wait left to the routine's PARK (R136, R140). -/
def parksNext (m : MicroArgs) (x : Micro) : Micro := requested m true { x with reqWait := true, parked := false }

/-- The message a SENDM in IR names: its deadline and its frame outside a shot (R100). -/
def irDeadline (s : State) (e : EngineId) : Option Stamp :=
  if irBits s e 27 12 = 0 then none else some (s.treg e (irBits s e 55 54) + BitVec.ofNat 64 (32 * irBits s e 27 12))
def irMessage (s : State) (e : EngineId) (d : Nat) : Frame :=
  ⟨.msg, d, s.fabricId, irDeadline s e, 0xFFFF, [irBits s e 47 32, 0xFFFF, 0, 0, (s.greg e (irBits s e 31 28)).toNat], none, none⟩

/-- The branch that IR names, with its source; none where IR is no branch. -/
def irBranch (s : State) (e : EngineId) : Option (BranchArgs × BranchSource) :=
  match decodeEng e (s.eng e).micro.ir with
  | .ok (.brd _ b r u _) => some (b, .tone (r.map (·.val)) u.val)
  | .ok (.brf _ b r n f _) => some (b, .func (r.map (·.val)) n.val f.val)
  | .ok (.brt _ b u _) => some (b, .trigger u)
  | .ok (.brm _ b d tag _) => some (b, .message d.val tag.toNat)
  | _ => none

/-- The time register and the offset that a SHOT in IR names, and the anchor they give (R121). -/
def irShotT (s : State) (e : EngineId) : Stamp := s.treg e (irBits s e 53 52) + BitVec.ofNat 64 (irBits s e 31 0)

/-- The first ST of the window of a WATCH in IR (R103). -/
def irWindow (s : State) (e : EngineId) : Stamp := s.treg e (irBits s e 55 54) + BitVec.ofNat 64 (irBits s e 31 0)

/-- An engine that waits at no curfew and has no grant. -/
def notParked (s : State) (e : EngineId) : Prop := (∀ sc tag, (s.eng e).wait ≠ .curfew sc tag) ∧ ∀ a b, (s.eng e).wait ≠ .grant a b

/-- R100, R102, R103, R121 to R125, R137, R140, R141: each request of REQ does what its instruction in IR does, and reports UDONE when it has completed,
with UOK; a curfew arrival and a grant are complete as they are made; a request that waits holds UDONE clear; the PC does not move. At a
higher level, and with a reserved curfew scope, a REQ is illegal. -/
def Obligations.RequestMicrowords : Prop :=
  (∀ (e : EngineId) m s j, j = irBits s e 48 48 → requests s e m → irBits s e 55 55 = 1 →
    Completes (.reqLease e m) s fun t =>
      t.holds e (fluxOf e j) = false ∧ (s.holds e (fluxOf e j) = false → t.get (fluxPage (fluxOf e j)) FLUX.LEASE_HELD = s.get (fluxPage (fluxOf e j)) FLUX.LEASE_HELD) ∧
      Requested e m true (s.eng e) (leaseFields (fluxOf e j)) [] s t) ∧
  (∀ (e : EngineId) m s j, j = irBits s e 48 48 → requests s e m → irBits s e 55 55 = 0 → s.fluxDenied e j = false →
    s.holds e (fluxOf e j) = true ∨ ¬leaseBusy s (fluxOf e j) →
    Completes (.reqLease e m) s fun t =>
      t.holds e (fluxOf e j) = true ∧ t.get (.cell e) CELL.CW_LR = 0 ∧
      Requested e m true (s.eng e) ((.cell e, CELL.CW_LR) :: leaseFields (fluxOf e j)) [] s t) ∧
  (∀ (e : EngineId) m s j, j = irBits s e 48 48 → requests s e m → irBits s e 55 55 = 0 →
    s.fluxDenied e j = true ∨ (irBits s e 54 54 = 1 ∧ leaseBusy s (fluxOf e j) ∧ s.holds e (fluxOf e j) = false) →
    Completes (.reqLease e m) s fun t =>
      t.get (.cell e) CELL.CW_LR = 1 ∧ Requested e m false (s.eng e) [(.cell e, CELL.CW_LR)] [] s t) ∧
  (∀ (e : EngineId) m s j, j = irBits s e 48 48 → requests s e m → irBits s e 55 55 = 0 → irBits s e 54 54 = 0 → s.fluxDenied e j = false →
    leaseBusy s (fluxOf e j) → s.holds e (fluxOf e j) = false →
    Completes (.reqLease e m) s fun t =>
      RequestWaits e m (.lease (Fin.ofNat 2 j)) 3 [(fluxPage (fluxOf e j), FLUX.LEASE_WAITERS)] [.outputs] s t ∧
      (t.output (160 + fluxOf e j)).waiters = (s.output (160 + fluxOf e j)).waiters ++ [e.val]) ∧
  (∀ (e : EngineId) m s sc, CurfewScope.ofCode (irBits s e 55 53) = some sc → requests s e m →
    Completes (.reqCurfew e m) s fun t =>
      t.eng e = { s.eng e with wait := .curfew sc (irBits s e 47 32), byMicro := false, micro := parksNext m (s.eng e).micro } ∧
      t.get (.cell e) CELL.STATUS_STATE = 6 ∧ t.get (.cell e) CELL.CURFEW_STATUS_WAITING = 1 ∧
      t.get (.cell e) CELL.CURFEW_STATUS_TAG = irBits s e 47 32 ∧ (∀ i, i ≠ e.val → t.eng i = s.eng i) ∧
      OnlyChanges [csField e, (.cell e, CELL.STATUS_STATE), (.cell e, CELL.CURFEW_STATUS_WAITING), (.cell e, CELL.CURFEW_STATUS_TAG),
        (.cell e, CELL.CURFEW_STATUS_SCOPE)] [.engs] s t) ∧
  (∀ (e : EngineId) m s, requests s e m → CurfewScope.ofCode (irBits s e 55 53) = none → Completes (.reqCurfew e m) s (Faulted e 1 s)) ∧
  (∀ (e : EngineId) m s, requests s e m → irBits s e 53 48 ≠ 63 → s.inShot e = false →
    s.deadlineFrames (s.routePort (irBits s e 53 48)) < 512 ∨ irBits s e 27 12 = 0 →
    Completes (.reqSendm e m) s fun t =>
      t.fab = { s.fab with sendq := s.fab.sendq ++ [irMessage s e (irBits s e 53 48)] } ∧ Requested e m true (s.eng e) [] [.fab] s t) ∧
  (∀ (e : EngineId) m s, requests s e m → irBits s e 53 48 = 63 → s.inShot e = false → irBits s e 27 12 = 0 →
    Completes (.reqSendm e m) s fun t =>
      t.fab = { s.fab with sendq := s.fab.sendq ++ (s.otherDevices (s.groupOf e)).map (irMessage s e) } ∧
      Requested e m true (s.eng e) [] [.fab] s t) ∧
  (∀ (e : EngineId) m s, requests s e m → irBits s e 53 48 ≠ 63 → 512 ≤ s.deadlineFrames (s.routePort (irBits s e 53 48)) →
    irBits s e 27 12 ≠ 0 →
    Completes (.reqSendm e m) s
      (RequestWaits e m (.send [irBits s e 53 48] (irBits s e 47 32) (s.greg e (irBits s e 31 28)) (irDeadline s e)) 1 [] [] s)) ∧
  (∀ (e : EngineId) m (seq : List WatchStep) s a b, a = irWindow s e → b = a + BitVec.ofNat 64 (32 * irBits s e 47 32) → requests s e m →
    s.inShot e = false → s.budgetLeft e = true →
    Completes (.reqWatch e m seq) s fun t =>
      t.eng e = { s.eng e with
        wait := .grant a b, byMicro := false, micro := parksNext m (s.eng e).micro, timetable := (t.eng e).timetable, lastStamp := (t.eng e).lastStamp } ∧
      WatchAdds a b (s.eng e).timetable (t.eng e).timetable ∧ (seq = [] → (t.eng e).timetable = (s.eng e).timetable ∧ t.time = s.time) ∧
      t.get (.cell e) CELL.STATUS_STATE = 7 ∧ (∀ i, i ≠ e.val → t.eng i = s.eng i) ∧
      OnlyChanges (csField e :: (.cell e, CELL.STATUS_STATE) :: watchFields e) [.engs, .time, .out] s t) ∧
  (∀ (e : EngineId) m (seq : List WatchStep) s, requests s e m → s.inShot e = false → s.budgetLeft e = false →
    notParked s e → Completes (.reqWatch e m seq) s (Requested e m true (s.eng e) [] [] s)) ∧
  (∀ (e : EngineId) m (seq : List WatchStep) s, requests s e m → s.inShot e = true → s.stopsOn (.cell e) 7 = false → notParked s e →
    Completes (.reqWatch e m seq) s fun t =>
      Faulted e 7 s t ∧ t.eng e = { s.eng e with byMicro := false, micro := requested m true (s.eng e).micro } ∧
      (∀ i, i ≠ e.val → t.eng i = s.eng i) ∧ OnlyPagesChange [.cell e, blockPage (blockOf e)] [.engs, .out] s t) ∧
  (∀ (e : EngineId) m (differ : Bool) (lead : Stamp) s g, g = s.groupOf e → requests s e m → (s.eng e).branching = false → s.inShot e = false →
    mayOpenNow s e → entriesAgree s e differ → (s.group g).open' = false → (s.group g).early = [] →
    Completes (.reqShotOpen e m differ lead) s fun t =>
      (t.group g).open' = true ∧ (t.group g).attempt = 1 ∧ t.get (.cell e) CELL.STATUS_IN_SHOT = 1 ∧ t.get (.cell e) CELL.STATUS_ATTEMPT = 1 ∧
      (t.group g).anchor = (if g < 256 && !s.leads g then lead else irShotT s e) ∧ t.treg e (irBits s e 53 52) = irShotT s e ∧
      (t.eng e).micro = requested m true (s.eng e).micro ∧ (t.eng e).wait = .none ∧ (t.eng e).byMicro = false ∧ t.pc e = s.pc e ∧
      (∀ i, i ≠ e.val → t.eng i = s.eng i) ∧ (∀ k, k ≠ g → t.group k = s.group k) ∧
      OnlyChanges (csField e :: shotFields e ++ tregFields e (irBits s e 53 52)) [.engs, .groups, .tbl, .free, .blks] s t) ∧
  (∀ (e : EngineId) m (differ : Bool) (lead : Stamp) s, requests s e m → s.inShot e = true →
    Completes (.reqShotOpen e m differ lead) s (Requested e m true (s.eng e) [] [] s)) ∧
  (∀ (e : EngineId) m s, requests s e m → s.inShot e = true →
    Completes (.reqShotClose e m) s fun t =>
      t.eng e = { s.eng e with closed := true, wait := .settle .proceed, byMicro := true, micro := requesting m (s.eng e).micro } ∧
      t.get (.cell e) CELL.STATUS_STATE = 6 ∧ (∀ j, j < 2 → t.holds e (fluxOf e j) = false) ∧ (∀ i, i ≠ e.val → t.eng i = s.eng i) ∧
      OnlyChanges (csField e :: stopFields e) [.engs, .outputs] s t) ∧
  (∀ (e : EngineId) m s, requests s e m → s.inShot e = false →
    Completes (.reqShotClose e m) s (Requested e m true (s.eng e) [] [] s)) ∧
  (∀ (e : EngineId) m s, requests s e m → s.inShot e = true →
    Completes (.reqPrep e m) s
      (Requested e m true { s.eng e with ckpt := (s.eng e).ckpt.map fun c => { c with prep := some ⟨irBits s e 35 24, s.page e⟩ } } [] [] s)) ∧
  (∀ (e : EngineId) m s, requests s e m → s.inShot e = false → Completes (.reqPrep e m) s (Requested e m true (s.eng e) [] [] s)) ∧
  (∀ (e : EngineId) m (mismatch : Bool) s x, irBranch s e = some x → requests s e m → agrees s e mismatch → (s.eng e).tail = none →
    Completes (.brArm e m mismatch) s fun t =>
      (match (t.eng e).branch with | some y => Armed e x.1 x.2 s y | none => False) ∧ t.get (.cell e) CELL.STATUS_STATE = 4 ∧
      t.eng e = { s.eng e with
        branch := (t.eng e).branch, wait := .branch, byMicro := false, micro := requested m true { (s.eng e).micro with branchDone := false } } ∧
      (∀ i, i ≠ e.val → t.eng i = s.eng i) ∧ OnlyChanges [csField e, (.cell e, CELL.STATUS_STATE)] [.engs] s t) ∧
  (∀ (e : EngineId) m (mismatch : Bool) s, irBranch s e = none → requests s e m → agrees s e mismatch →
    Completes (.brArm e m mismatch) s (Requested e m true (s.eng e) [] [] s)) ∧
  (∀ (e : EngineId) m mismatch differ seq lead s, ∀ c ∈ [Instr.reqLease e m, .reqCurfew e m, .reqSendm e m, .reqWatch e m seq,
      .reqShotOpen e m differ lead, .reqShotClose e m, .reqPrep e m, .brArm e m mismatch],
    readsWord s e m → s.get (.cell e) CELL.SO_STATUS_LEVEL ≠ 0 → Completes c s (Faulted e 1 s))

/-- A cell at a boundary at which it may take a stopover (R132, R148, R151). -/
def mayTake (s : State) (e : EngineId) : Prop :=
  s.engStopped e = false ∧ s.time.frozen = false ∧ (s.eng e).micro.csHeld = false ∧ (s.eng e).micro.holdoff = 0

/-- R149 to R151: a doorbell shows its value and, on an engine that is not STOPPED, becomes pending where it is enabled; a pending stopover of
the highest priority is taken at a boundary outside a holdoff window: the micro-state is saved and the vector entered; within a trap only
one of strictly higher priority is, and in the trap of a trap none. -/
def Obligations.Stopovers : Prop :=
  (∀ (fn : FuncId) (e : EngineId) (v : Word) s, s.reachesCell fn e = true → s.engIs e .stopped = true →
    Completes (.doorbell fn e v) s fun t =>
      t.get (.cell e) CELL.DOORBELL_VALUE = v.toNat ∧
      (Nat.testBit (s.get (.cell e) CELL.SO_STATUS_PEND) 5 = false → t.get (.cell e) CELL.SO_STATUS_DB_OVER = 0) ∧
      OnlyChanges [(.cell e, CELL.DOORBELL_VALUE), (.cell e, CELL.SO_STATUS_DB_OVER)] [] s t) ∧
  (∀ (fn : FuncId) (e : EngineId) (v : Word) s, s.reachesCell fn e = true → s.engIs e .stopped = false →
    Nat.testBit (s.get (.cell e) CELL.SO_STATUS_PEND) 5 = false →
    Completes (.doorbell fn e v) s fun t =>
      t.get (.cell e) CELL.DOORBELL_VALUE = v.toNat ∧ t.get (.cell e) CELL.SO_STATUS_DB_OVER = 0 ∧
      (s.get (.cell e) CELL.SO_CTRL_DB_EN = 1 → t.get (.cell e) CELL.SO_STATUS_PEND = (s.get (.cell e) CELL.SO_STATUS_PEND ||| 32) % 64) ∧
      (s.get (.cell e) CELL.SO_CTRL_DB_EN ≠ 1 → t.get (.cell e) CELL.SO_STATUS_PEND = s.get (.cell e) CELL.SO_STATUS_PEND) ∧
      OnlyChanges [(.cell e, CELL.DOORBELL_VALUE), (.cell e, CELL.SO_STATUS_DB_OVER), (.cell e, CELL.SO_STATUS_PEND)] [] s t) ∧
  (∀ (fn : FuncId) (e : EngineId) (v : Word) s, s.reachesCell fn e = true → s.engIs e .stopped = false →
    Nat.testBit (s.get (.cell e) CELL.SO_STATUS_PEND) 5 = true →
    Completes (.doorbell fn e v) s fun t =>
      t.get (.cell e) CELL.DOORBELL_VALUE = v.toNat ∧ t.get (.cell e) CELL.SO_STATUS_DB_OVER = 1 ∧
      OnlyChanges [(.cell e, CELL.DOORBELL_VALUE), (.cell e, CELL.SO_STATUS_DB_OVER)] [] s t) ∧
  (∀ (fn : FuncId) (e : EngineId) (v : Word) s, s.reachesCell fn e = false → Completes (.doorbell fn e v) s fun t => t = s) ∧
  (∀ (e : EngineId) i n s, mayTake s e → s.get (.cell e) CELL.SO_STATUS_LEVEL = n →
    n = 0 ∨ (n = 1 ∧ i < ((s.eng e).micro.slots.getD 0 .init).src) → i < 6 →
    Nat.testBit (s.get (.cell e) CELL.SO_STATUS_PEND) i = true → (∀ j, j < i → Nat.testBit (s.get (.cell e) CELL.SO_STATUS_PEND) j = false) →
    Completes (.stopoverTake e) s fun t =>
      t.eng e = { s.eng e with micro := { (s.eng e).micro with
        upc := 0x40 + i, parked := false
        slots := (s.eng e).micro.slots.set n ⟨(s.eng e).micro.upc, (s.eng e).micro.u, (s.eng e).micro.mf, (s.eng e).micro.rc, i⟩ } } ∧
      t.get (.cell e) CELL.SO_STATUS_LEVEL = n + 1 ∧ t.engIs e .stopover = true ∧
      Nat.testBit (t.get (.cell e) CELL.SO_STATUS_PEND) i = false ∧
      (∀ j, j < 6 → j ≠ i → Nat.testBit (t.get (.cell e) CELL.SO_STATUS_PEND) j = Nat.testBit (s.get (.cell e) CELL.SO_STATUS_PEND) j) ∧
      (n = 0 → t.get (.cell e) CELL.SO_SAVE_UPC_UPC = (s.eng e).micro.upc % 2 ^ 13) ∧
      t.get (.cell e) CELL.SO_COUNT_TAKEN = satInc 32 (s.get (.cell e) CELL.SO_COUNT_TAKEN) % 2 ^ 32 ∧
      (∀ j, j ≠ e.val → t.eng j = s.eng j) ∧
      OnlyChanges [(.cell e, CELL.STATUS_STATE), (.cell e, CELL.SO_STATUS_LEVEL), (.cell e, CELL.SO_STATUS_PEND),
        (.cell e, CELL.SO_SAVE_UPC_UPC), (.cell e, CELL.SO_COUNT_TAKEN)] [.engs] s t) ∧
  (∀ (e : EngineId) s, s.get (.cell e) CELL.SO_STATUS_LEVEL = 2 ∨ (s.eng e).micro.holdoff ≠ 0 ∨ s.get (.cell e) CELL.SO_STATUS_PEND = 0 →
    Completes (.stopoverTake e) s (· = s))

/-- The fields a control-store load reports in. -/
def ucFields (k : BlockId) : List (Page × Field) :=
  [(.block k, BLOCK.UC_STATUS_BUSY), (.block k, BLOCK.UC_STATUS_DONE), (.block k, BLOCK.UC_STATUS_OK), (.block k, BLOCK.UC_STATUS_REASON),
    (.block k, BLOCK.UC_STATUS_ADDR)]

/-- A pace mode that waits to be made in a block whose engines allow it (R142, R145). -/
def paceDue (s : State) (k : BlockId) (want : Nat) : Prop :=
  want = (if 8 < s.paceCells k ∨ s.get (.block k) BLOCK.PACE_CTRL_PIN_PACED = 1 then 1 else 0) ∧
  s.get (.block k) BLOCK.PACE_STATUS_MODE ≠ want ∧ s.blockIdle k = true

/-- R142, R145, R146, R155, R157 to R159: UC_CTRL.LOAD and STD begin a load; a load from outside the usable HBM is rejected and leaves the
control store as it was; the standard image is accepted while no cell runs, and replaces the control store; a pending pace change that
the image declares is made once every engine of the block is stopped or parked at a curfew, and the cell it held in STARTING passes to
READY; one that the image does not declare sets PACE_IMAGE. -/
def Obligations.ControlStore : Prop :=
  (∀ (k : BlockId) s, s.get (.block k) BLOCK.UC_STATUS_BUSY = 0 →
    Completes (.ucLoad k) s fun t =>
      t.get (.block k) BLOCK.UC_STATUS_BUSY = 1 ∧ t.get (.block k) BLOCK.UC_STATUS_DONE = 0 ∧
      (t.blk k).ucFrom = some (s.pair (.block k) BLOCK.UC_SRC_LO BLOCK.UC_SRC_HI) ∧ (∀ j, j ≠ k.val → t.blk j = s.blk j) ∧
      OnlyChanges (ucFields k) [.blks] s t) ∧
  (∀ (k : BlockId) s, s.get (.block k) BLOCK.UC_STATUS_BUSY = 0 →
    Completes (.ucStd k) s fun t =>
      t.get (.block k) BLOCK.UC_STATUS_BUSY = 1 ∧ (t.blk k).ucFrom = none ∧ (∀ j, j ≠ k.val → t.blk j = s.blk j) ∧
      OnlyChanges (ucFields k) [.blks] s t) ∧
  (∀ (k : BlockId) s c, c = .ucLoad k ∨ c = .ucStd k → s.get (.block k) BLOCK.UC_STATUS_BUSY = 1 → Completes c s fun t => t = s) ∧
  (∀ (k : BlockId) s a, (s.blk k).ucFrom = some a → s.get (.block k) BLOCK.UC_STATUS_BUSY = 1 → 0x5_C000_0000 < a + 62688 →
    (∀ i, i < 16 → s.get (cellPage (16 * k.val + i)) CELL.STATUS_START_PENDING = 0) →
    Completes (.ucLoadDone k) s fun t =>
      t.get (.block k) BLOCK.UC_STATUS_BUSY = 0 ∧ t.get (.block k) BLOCK.UC_STATUS_DONE = 1 ∧ t.get (.block k) BLOCK.UC_STATUS_OK = 0 ∧
      t.get (.block k) BLOCK.UC_STATUS_REASON = 11 ∧ OnlyChanges (ucFields k) [] s t) ∧
  (∀ (k : BlockId) s, s.get (.block k) BLOCK.UC_STATUS_BUSY = 1 → (s.blk k).ucFrom = none → (s.blk k).ucBusy = false →
    (∀ i, i < 16 → s.get (cellPage (16 * k.val + i)) CELL.STATUS_START_PENDING = 0) →
    Completes (.ucLoadDone k) s fun t =>
      t.get (.block k) BLOCK.UC_STATUS_BUSY = 0 ∧ t.get (.block k) BLOCK.UC_STATUS_OK = 1 ∧ t.get (.block k) BLOCK.UC_INFO_STD = 1 ∧
      t.get (.block k) BLOCK.UC_INFO_MODES = 3 ∧ (∀ b, b < 32768 → t.byte (csAddr k 0 + b) = s.byte (nvmAddr 0 0 + 0x80 + b)) ∧
      BytesKept (csAddr k 0) 32768 s t ∧
      OnlyChanges ((.block k, BLOCK.UC_ID_VERSION) :: (.block k, BLOCK.UC_INFO_MODES) :: (.block k, BLOCK.UC_INFO_KEY_SLOT) ::
        (.block k, BLOCK.UC_INFO_STD) :: ucFields k) [.mem, .tbl] s t) ∧
  (∀ (k : BlockId) want s, paceDue s k want → Nat.testBit (s.get (.block k) BLOCK.UC_INFO_MODES) want = true →
    (∀ i, i < 16 → s.pageIs (cellPage (16 * k.val + i)) .starting = false) →
    Completes (.paceModeChange k) s fun t =>
      t.get (.block k) BLOCK.PACE_STATUS_MODE = want ∧ t.blk k = { s.blk k with paceCell := none } ∧ (∀ j, j ≠ k.val → t.blk j = s.blk j) ∧
      OnlyChanges [(.block k, BLOCK.PACE_STATUS_MODE)] [.blks] s t) ∧
  (∀ (k : BlockId) want s c, (s.blk k).paceCell = some c → c < 16 → paceDue s k want →
    Nat.testBit (s.get (.block k) BLOCK.UC_INFO_MODES) want = true →
    s.pageIs (cellPage (16 * k.val + c)) .starting = true → s.get (cellPage (16 * k.val + c)) ALL.PAGE_CTRL_ENABLE = 1 →
    s.get (cellPage (16 * k.val + c)) CELL.STATUS_START_PENDING = 0 → s.pageIs (.block k) .ready = true →
    s.pageIs (regionPage (k.val / 8)) .ready = true →
    Completes (.paceModeChange k) s fun t =>
      t.get (.block k) BLOCK.PACE_STATUS_MODE = want ∧ t.pageIs (cellPage (16 * k.val + c)) .ready = true ∧
      OnlyChanges [(.block k, BLOCK.PACE_STATUS_MODE), (cellPage (16 * k.val + c), ALL.PAGE_STATE_STATE)] [.blks] s t) ∧
  (∀ (k : BlockId) want s, paceDue s k want → Nat.testBit (s.get (.block k) BLOCK.UC_INFO_MODES) want = false →
    s.stopsOn (.block k) 16 = false →
    Completes (.paceModeChange k) s fun t =>
      t.get (.block k) ALL.FAULT_BITS = (s.get (.block k) ALL.FAULT_BITS ||| 2 ^ 16) % 2 ^ 32 ∧
      t.get (.block k) BLOCK.PACE_STATUS_MODE = s.get (.block k) BLOCK.PACE_STATUS_MODE ∧ OnlyPagesChange [.block k] [.out] s t) ∧
  (∀ (k : BlockId) s, s.blockIdle k = false ∨ s.pacePending k = false → Completes (.paceModeChange k) s (· = s))

/-- The tone of an output's slot plays a stream. -/
def playing (s : State) (o : OutputId) (slot : Fin 32) (x : Streaming) : Prop :=
  (∀ f, o ≠ .flux f) ∧ (s.tone (outputTone o slot)).stream = some x

/-- The stream of one tone becomes `y`, which its output shows; nothing else changes but `ps`. -/
def StreamBecomes (o : OutputId) (slot : Fin 32) (y : Option Streaming) (pages : List Page) (ps : List Piece) (s t : State) : Prop :=
  t.tone (outputTone o slot) = { s.tone (outputTone o slot) with stream := y } ∧ (∀ k, k ≠ outputTone o slot → t.tone k = s.tone k) ∧
  OnlyPagesChange (outputPage o :: pages) (.tones :: ps) s t

/-- The stamp at which a stream started by an entry ends: S + DURATION, or earlier where a void has ended the engine's streams (R174, R186). -/
def streamEnd (s : State) (e : EngineId) (x : Entry) : Stamp :=
  match (s.eng e).streamsEnd with | some c => Stamp.earlier x.stop c | none => x.stop

/-- A stream that enters descriptor `a` at `t`; its window holds the opening data that were fetched, at most LEAD_MAX of them (R176, R182). -/
def entersAt (s : State) (x : Streaming) (a : Nat) (t : Stamp) (opening : Option Bool) : Streaming :=
  let upTo := if opening.isSome then t + BitVec.ofNat 64 (min (segSamples (s.segDesc a) x.ctx) (leadMax x.ctx)) else t
  { x with seg := a, segStart := t, rep := 0, upTo := upTo, rotten := if opening = some true then [(t, upTo)] else [],
           openNext := none, openJump := none }

/-- The stream an entry starts, before its first segment. -/
def streamOf (e : EngineId) (x : Entry) (stop : Stamp) : Streaming :=
  ⟨x.ctx, x.stamp, stop, e, x.slot.getD 0, Ctx.envAddr x.ctx, x.stamp, 0, none, [], x.stamp, none, none, [], [], x.silent⟩

/-- The opening data fetched for a STREAM that waits in its slot (R181). -/
def primedFor (s : State) (k : Nat) (slot : Option Nat) : Option Bool := ((s.blk k).primed.find? fun y => some y.1 = slot).map (·.2)

/-- A STREAM_START with no valid target of its own for what the output then shows: the tone's page and slot. -/
def startsOn (s : State) (e : EngineId) (x : Entry) : Prop :=
  entryTone e x < 2048 ∧ s.stopsOn (tonePage (entryTone e x)) 2 = false

/-- The boundary of a stream: the sample after the current repetition's last. -/
def boundary (s : State) (x : Streaming) : Stamp := s.segLast x + 1

/-- A held request that came too late for a boundary is in time for the next (R179). -/
def heldOn (y : Streaming) : Streaming := { y with jump := y.jump.map fun j => { j with verdict := some false } }

/-- R171, R174 to R186, R307, R321: STREAM_START starts a stream in place of what played, or is a jump request of a tone that streams; a DURATION
of 0 plays nothing, an invalid descriptor sets BADSEG; at a boundary the stream takes a jump that is in time, plays its next repetition, goes
to NEXT, or ends, its slot going free; a word formed without its data is counted, the first of a run doubles LEAD_CUR up to LEAD_MAX, and a
shot is voided; delivered data extend the window of the stream, at most LEAD_MAX ahead, or open what follows it. -/
def Obligations.Streams : Prop :=
  (∀ (e : EngineId) s x, s.nextDue e .streamStart = some x → startsOn s e x →
    ((s.passed (actsAt x)).tone (entryTone e x)).streamsAt x.stamp = false → Ctx.duration x.ctx ≠ 0 → overAt (streamEnd s e x) x.stamp = false →
    Ctx.envAddr x.ctx ≠ segEnd → s.segValid e (Ctx.envAddr x.ctx) x.ctx = true →
    CompletesAt (actsAt x) (.streamStart e) s fun u t =>
      t.tone (entryTone e x) = { u.tone (entryTone e x) with
        pulse := none
        stream := some (entersAt u (streamOf e x (streamEnd s e x)) (Ctx.envAddr x.ctx) x.stamp (primedFor u (blockOf e) x.slot)) } ∧
      (∀ j, j ≠ entryTone e x → t.tone j = u.tone j) ∧
      t.get (tonePage (entryTone e x)) (OUTP.TONE_STATUS_STREAMING (toneSlot (entryTone e x))) = 1 ∧
      t.get (tonePage (entryTone e x)) (OUTP.TONE_STATUS_OVERLAP (toneSlot (entryTone e x))) =
        (if (u.tone (entryTone e x)).playsAt x.stamp then 1
         else u.get (tonePage (entryTone e x)) (OUTP.TONE_STATUS_OVERLAP (toneSlot (entryTone e x)))) ∧
      t.get (tonePage (entryTone e x)) (OUTP.TONE_LEAD_LEAD_CUR (toneSlot (entryTone e x))) =
        min (u.get (tonePage (entryTone e x)) (OUTP.TONE_LEAD_LEAD_CUR (toneSlot (entryTone e x)))) (leadMax x.ctx) % 2 ^ 20 ∧
      t.get (tonePage (entryTone e x)) ALL.FAULT_BITS
        = (if playedRate false x.ctx = Ctx.rate x.ctx then u.get (tonePage (entryTone e x)) ALL.FAULT_BITS
          else (u.get (tonePage (entryTone e x)) ALL.FAULT_BITS ||| 2 ^ 2) % 2 ^ 32) ∧
      t.eng e = { u.eng e with due := dropFirst x (u.eng e).due } ∧ (∀ j, j ≠ e.val → t.eng j = u.eng j) ∧
      OnlyPagesChange (tonePage (entryTone e x) :: streamPages (u.tone (entryTone e x))) [.engs, .tones, .blks, .out] u t) ∧
  (∀ (e : EngineId) s x, s.nextDue e .streamStart = some x → startsOn s e x →
    ((s.passed (actsAt x)).tone (entryTone e x)).streamsAt x.stamp = false → Ctx.duration x.ctx = 0 ∨ overAt (streamEnd s e x) x.stamp = true →
    noneWaits s (blockOf e) →
    CompletesAt (actsAt x) (.streamStart e) s fun u t =>
      t.tone (entryTone e x) = { u.tone (entryTone e x) with pulse := none, stream := none } ∧
      (t.blk (blockOf e)).slots.all (fun y => x.slot ≠ some y.1) = true ∧
      t.eng e = { u.eng e with due := dropFirst x (u.eng e).due } ∧ (∀ j, j ≠ e.val → t.eng j = u.eng j) ∧
      OnlyPagesChange (tonePage (entryTone e x) :: blockPage (blockOf e) :: streamPages (u.tone (entryTone e x))) [.engs, .tones, .blks, .out] u t) ∧
  (∀ (e : EngineId) s x, s.nextDue e .streamStart = some x → startsOn s e x →
    ((s.passed (actsAt x)).tone (entryTone e x)).streamsAt x.stamp = false → Ctx.duration x.ctx ≠ 0 → overAt (streamEnd s e x) x.stamp = false →
    Ctx.envAddr x.ctx ≠ segEnd → s.segValid e (Ctx.envAddr x.ctx) x.ctx = false → s.inShot e = false → noneWaits s (blockOf e) →
    CompletesAt (actsAt x) (.streamStart e) s fun u t =>
      t.get (tonePage (entryTone e x)) (OUTP.TONE_STATUS_BADSEG (toneSlot (entryTone e x))) = 1 ∧
      t.tone (entryTone e x) = { u.tone (entryTone e x) with pulse := none, stream := none } ∧ (∀ j, j ≠ e.val → t.eng j = u.eng j) ∧
      OnlyPagesChange (tonePage (entryTone e x) :: blockPage (blockOf e) :: streamPages (u.tone (entryTone e x))) [.engs, .tones, .blks, .out] u t) ∧
  (∀ (e : EngineId) s x y, s.nextDue e .streamStart = some x → ((s.passed (actsAt x)).tone (entryTone e x)).stream = some y → startsOn s e x →
    overAt y.stop x.stamp = false → y.jump = none → noneWaits s (blockOf y.engine) →
    CompletesAt (actsAt x) (.streamStart e) s fun u t =>
      t.tone (entryTone e x) = { u.tone (entryTone e x) with stream := some { y with
        jump := some ⟨x.stamp, Ctx.envAddr x.ctx, true, x.slot, lateFor (u.jumpLead (entryTone e x)) x.stamp (u.segLast y)⟩ } } ∧
      (∀ j, j ≠ entryTone e x → t.tone j = u.tone j) ∧
      t.get (tonePage (entryTone e x)) (OUTP.TONE_STATUS_JUMP_HELD (toneSlot (entryTone e x))) = 1 ∧
      (lateFor (u.jumpLead (entryTone e x)) x.stamp (u.segLast y) = some true →
        t.get (tonePage (entryTone e x)) (OUTP.TONE_COUNT_LATE_JUMP (toneSlot (entryTone e x))) =
          satInc 16 (u.get (tonePage (entryTone e x)) (OUTP.TONE_COUNT_LATE_JUMP (toneSlot (entryTone e x)))) % 2 ^ 16) ∧
      t.eng e = { u.eng e with due := dropFirst x (u.eng e).due } ∧ (∀ j, j ≠ e.val → t.eng j = u.eng j) ∧
      OnlyPagesChange [tonePage (entryTone e x)] [.engs, .tones] u t) ∧
  (∀ (e : EngineId) s, s.nextDue e .streamStart = none → Completes (.streamStart e) s (· = s)) ∧
  (∀ o slot s x y, (s.tone (outputTone o slot)).stream = some x → ((s.passed (boundary s x)).tone (outputTone o slot)).stream = some y →
    playing s o slot x → s.time.frozen = false → y.jump.all (fun j => j.verdict = some true) = true → Stamp.atOrAfter (boundary s x) x.stop = false →
    y.rep < Seg.rep (s.segDesc y.seg) →
    CompletesAt (boundary s x) (.segmentBoundary o slot) s fun u t =>
      StreamBecomes o slot (some { heldOn y with segStart := boundary s x, rep := y.rep + 1 }) [] [] u t) ∧
  (∀ o slot s x y, (s.tone (outputTone o slot)).stream = some x → ((s.passed (boundary s x)).tone (outputTone o slot)).stream = some y →
    playing s o slot x → s.time.frozen = false → y.jump.all (fun j => j.verdict = some true) = true → Stamp.atOrAfter (boundary s x) x.stop = false →
    y.rep = Seg.rep (s.segDesc y.seg) → Seg.next (s.segDesc y.seg) ≠ segEnd → s.segValid y.engine (Seg.next (s.segDesc y.seg)) y.ctx = true →
    CompletesAt (boundary s x) (.segmentBoundary o slot) s fun u t =>
      StreamBecomes o slot (some (entersAt u (heldOn y) (Seg.next (u.segDesc y.seg)) (boundary s x) y.openNext)) [] [] u t) ∧
  (∀ o slot s x y j, (s.tone (outputTone o slot)).stream = some x → ((s.passed (boundary s x)).tone (outputTone o slot)).stream = some y →
    y.jump = some j → playing s o slot x → s.time.frozen = false → j.verdict = some false →
    Stamp.atOrAfter (boundary s x) x.stop = false → j.target ≠ segEnd → s.segValid y.engine j.target y.ctx = true → noneWaits s (blockOf y.engine) →
    CompletesAt (boundary s x) (.segmentBoundary o slot) s fun u t =>
      StreamBecomes o slot (some (entersAt u { y with jump := none, slot := j.slot.getD y.slot } j.target (boundary s x)
        (if j.slot.isSome then primedFor u (blockOf y.engine) j.slot else y.openJump))) [blockPage (blockOf y.engine)] [.blks] u t ∧
      (j.slot.isSome = true → (t.blk (blockOf y.engine)).slots = (u.blk (blockOf y.engine)).slots.filter fun z => z.1 ≠ y.slot)) ∧
  (∀ o slot s x, (s.tone (outputTone o slot)).stream = some x → playing s o slot x → s.time.frozen = false →
    Stamp.atOrAfter (boundary s x) x.stop = true → noneWaits s (blockOf x.engine) →
    CompletesAt x.stop (.segmentBoundary o slot) s fun u t =>
      StreamBecomes o slot none [blockPage (blockOf x.engine)] [.blks] u t ∧
      (t.blk (blockOf x.engine)).slots.all (fun y => y.1 ≠ x.slot) = true) ∧
  (∀ o slot s x y, (s.tone (outputTone o slot)).stream = some x → ((s.passed (boundary s x)).tone (outputTone o slot)).stream = some y →
    playing s o slot x → s.time.frozen = false → y.jump = none → Stamp.atOrAfter (boundary s x) x.stop = false →
    y.rep = Seg.rep (s.segDesc y.seg) → Seg.next (s.segDesc y.seg) = segEnd → noneWaits s (blockOf y.engine) →
    CompletesAt (boundary s x) (.segmentBoundary o slot) s fun u t =>
      StreamBecomes o slot none [blockPage (blockOf y.engine)] [.blks] u t ∧
      (t.blk (blockOf y.engine)).slots.all (fun z => z.1 ≠ y.slot) = true) ∧
  (∀ o slot s, (s.tone (outputTone o slot)).stream = none → Completes (.segmentBoundary o slot) s (· = s)) ∧
  (∀ o (slot : Fin 32) s x p i, (s.tone (outputTone o slot)).stream = some x → p = outputPage o → i = toneSlot (outputTone o slot) → playing s o slot x →
    s.time.frozen = false → s.inShot x.engine = false → x.zero.contains s.formedWord = false → wordLacks (s.lacks x) s.formedWord = true →
    CompletesAt (s.formedWord - 256) (.streamUnderrun o slot) s fun u t =>
      t.get p (OUTP.TONE_COUNT_UNDERRUN i) = satInc 16 (u.get p (OUTP.TONE_COUNT_UNDERRUN i)) % 2 ^ 16 ∧
      t.get p (OUTP.TONE_LEAD_LEAD_CUR i) = (if x.zero.contains (s.formedWord - 32) then u.get p (OUTP.TONE_LEAD_LEAD_CUR i)
        else min (2 * u.get p (OUTP.TONE_LEAD_LEAD_CUR i)) (leadMax x.ctx) % 2 ^ 20) ∧
      StreamBecomes o slot ((u.tone (outputTone o slot)).stream.map fun y => { y with
        zero := s.formedWord :: y.zero.filter fun v => Stamp.atOrAfter v (wordOf s.st) }) [] [] u t) ∧
  (∀ o slot s x, (s.tone (outputTone o slot)).stream = some x → playing s o slot x → s.time.frozen = false → s.inShot x.engine = true →
    voidable s (s.groupOf x.engine) → s.otherDevices (s.groupOf x.engine) = [] → x.zero.contains s.formedWord = false →
    wordLacks (s.lacks x) s.formedWord = true →
    CompletesAt (s.formedWord - 256) (.streamUnderrun o slot) s fun u t =>
      Voided (s.groupOf x.engine) (if wordLacks (s.spoilt x) s.formedWord then 10 else 2) u t ∧ t.engs = u.engs ∧
      OnlyPagesChange [outputPage o, .ledger] [.tones, .groups, .tbl] u t) ∧
  (∀ o slot s x, (s.tone (outputTone o slot)).stream = some x → x.zero.contains s.formedWord = true ∨ wordLacks (s.lacks x) s.formedWord = false →
    Completes (.streamUnderrun o slot) s (· = s)) ∧
  (∀ (k : BlockId) (slot : Fin 8) part (bad : Bool) s key x, s.slotTone k slot = some key → (s.tone key).stream = some x → part ≠ .target →
    Completes (.streamDataDelivery k slot part bad) s fun t =>
      t.tone key = { s.tone key with stream := some (match part with
        | .current bound =>
          let last := Stamp.later x.upTo (Stamp.earlier bound (s.st + BitVec.ofNat 64 (leadMax x.ctx)))
          { x with upTo := last, rotten := if bad then (x.upTo, last) :: x.rotten else x.rotten }
        | .next => { x with openNext := some bad }
        | .jump => { x with openJump := some bad }
        | .target => x) } ∧
      (∀ j, j ≠ key → t.tone j = s.tone j) ∧ OnlyChanges [] [.tones] s t) ∧
  (∀ (k : BlockId) (slot : Fin 8) (bad : Bool) s, s.slotTone k slot = none → (s.blk k).slots.any (fun y => y.1 = slot.val) = true →
    Completes (.streamDataDelivery k slot .target bad) s fun t =>
      t.blk k = { s.blk k with primed := (slot.val, bad) :: (s.blk k).primed.filter fun y => y.1 ≠ slot.val } ∧
      (∀ j, j ≠ k.val → t.blk j = s.blk j) ∧ OnlyChanges [] [.blks] s t) ∧
  (∀ (k : BlockId) (slot : Fin 8) part (bad : Bool) s, s.slotTone k slot = none → part ≠ .target →
    Completes (.streamDataDelivery k slot part bad) s (· = s))

/-- The header fields a FAULT bit writes (R510). -/
def faultRegs (p : Page) : List (Page × Field) :=
  [(p, ALL.FAULT_BITS), (p, ALL.FAULT_FIRST_INDEX), (p, ALL.FAULT_FIRST_VALID), (p, ALL.FAULT_ST_LO), (p, ALL.FAULT_ST_HI),
   (p, ALL.EVENT_COUNT_COUNT)]

/-- FAULT bit `i` of a page is set, beside those that were. -/
def Raised (p : Page) (i : Nat) (s t : State) : Prop := t.get p ALL.FAULT_BITS = (s.get p ALL.FAULT_BITS ||| 2 ^ i) % 2 ^ 32

/-- The condition of a receive input, and the frame of a command that changes nothing else but `ps` and `but`. -/
def RxBecomes (i : FeedlineId) (c : RxCond) (but : List (Page × Field)) (ps : List Piece) (s t : State) : Prop :=
  t.get (.transceiver i) TRANSCEIVER.RX_STATUS_COND = c.code ∧
  OnlyChanges ((.transceiver i, TRANSCEIVER.RX_STATUS_COND) :: but) ps s t

/-- The fields of the shadow set and its status. -/
def corrFields (i : FeedlineId) : List (Page × Field) :=
  [(.transceiver i, TRANSCEIVER.CORR_OFS_OFS0), (.transceiver i, TRANSCEIVER.CORR_OFS_OFS1), (.transceiver i, TRANSCEIVER.CORR_GAIN_GAIN0),
   (.transceiver i, TRANSCEIVER.CORR_GAIN_GAIN1), (.transceiver i, TRANSCEIVER.CORR_SKEW_SKEW), (.transceiver i, TRANSCEIVER.CORR_STATUS_PEND)]

/-- The record of a receive input whose recalibration for a chain fault, if there was one, is over at `t` (R204, R252). -/
def recalOver (r : RxState) (t : Stamp) : RxState :=
  { r with faultRecal := false, recals := if r.faultRecal then (r.recalFrom, t) :: r.recals else r.recals }

/-- The record of a receive input whose cores have stopped sampling at `t`: no run of clamped samples tags a later one (R207). -/
def coresStopped (r : RxState) (t : Stamp) : RxState :=
  { recalOver r t with runs := r.runs.map fun x => { x with cut := some (x.cut.getD t) } }

/-- The shadow set of corrections, as written (R202). -/
def shadowSet (s : State) (i : FeedlineId) : Correction :=
  ⟨s.get (.transceiver i) TRANSCEIVER.CORR_OFS_OFS0, s.get (.transceiver i) TRANSCEIVER.CORR_OFS_OFS1,
    s.get (.transceiver i) TRANSCEIVER.CORR_GAIN_GAIN0, s.get (.transceiver i) TRANSCEIVER.CORR_GAIN_GAIN1,
    s.get (.transceiver i) TRANSCEIVER.CORR_SKEW_SKEW⟩

/-- A receive input whose cores sample (R204, R207). -/
def samples (s : State) (i : FeedlineId) : Prop := s.rxIs i .calibrating = true ∨ s.rxIs i .live = true

/-- R21, R201, R202, R204, R205, R207, R291, R356: the conditions of a receive input as the table of R204 gives them, with its refusal and its
three attempts; the apply request and the copy of the corrections, which the samples use from then on; the watch trims only where its
switches and a lent processor let it; a run of clamped samples is tagged and counted once, and a clamped sample bypasses the corrections. -/
def Obligations.ReceiveInputs : Prop :=
  (∀ i s, s.pageIs (.transceiver i) .ready = true → s.rxIs i .off = true →
    Completes (.rxEnable i) s fun t => RxBecomes i .calibrating [] [] s t) ∧
  (∀ i s, s.pageIs (.transceiver i) .ready = false ∨ s.rxIs i .unavailable = true → s.stopsOn (.transceiver i) 4 = false →
    Completes (.rxEnable i) s fun t => Raised (.transceiver i) 4 s t ∧ OnlyChanges (faultRegs (.transceiver i)) [.out] s t) ∧
  (∀ i s, s.rxIs i .unavailable = false →
    Completes (.rxDisable i) s fun t =>
      RxBecomes i .off [(acqPage (i.val / 4), ACQUISITION.TRUNC_COUNT_COUNT)] [.rxs, .formers] s t ∧
      (s.rxIs i .live = false → t.formers = s.formers ∧ RxBecomes i .off [] [.rxs] s t) ∧
      t.rx i = coresStopped (s.rx i) s.st ∧ (∀ j, j ≠ i.val → t.rx j = s.rx j)) ∧
  (∀ i s, s.rxIs i .unavailable = true → Completes (.rxDisable i) s fun t => t = s) ∧
  (∀ i s, s.rxIs i .live = true →
    Completes (.recal i) s fun t =>
      RxBecomes i .calibrating [(acqPage (i.val / 4), ACQUISITION.TRUNC_COUNT_COUNT)] [.formers] s t) ∧
  (∀ i s, s.rxIs i .live = false → Completes (.recal i) s (· = s)) ∧
  (∀ i s, Completes (.rxClrCounts i) s fun t =>
      t.get (.transceiver i) TRANSCEIVER.OVR_COUNT_EVENTS = 0 ∧ t.get (.transceiver i) TRANSCEIVER.OVR_COUNT_FLAGGED = 0 ∧
      OnlyChanges [(.transceiver i, TRANSCEIVER.OVR_COUNT_EVENTS), (.transceiver i, TRANSCEIVER.OVR_COUNT_FLAGGED)] [] s t) ∧
  (∀ i s, s.rxIs i .calibrating = true →
    Completes (.calAttemptEnd i true) s fun t =>
      t.get (.transceiver i) TRANSCEIVER.RX_STATUS_FAILS = 0 ∧ t.rx i = recalOver (s.rx i) s.st ∧ (∀ j, j ≠ i.val → t.rx j = s.rx j) ∧
      RxBecomes i .live [(.transceiver i, TRANSCEIVER.RX_STATUS_FAILS)] [.rxs, .formers] s t) ∧
  (∀ i s, s.rxIs i .calibrating = true → s.get (.transceiver i) TRANSCEIVER.RX_STATUS_FAILS ≤ 2 →
    Completes (.calAttemptEnd i false) s fun t =>
      t.get (.transceiver i) TRANSCEIVER.RX_STATUS_FAILS = s.get (.transceiver i) TRANSCEIVER.RX_STATUS_FAILS + 1 ∧
      t.rx i = (if s.get (.transceiver i) TRANSCEIVER.RX_STATUS_FAILS = 2 then coresStopped (s.rx i) s.st else s.rx i) ∧
      RxBecomes i (if s.get (.transceiver i) TRANSCEIVER.RX_STATUS_FAILS = 2 then .unavailable else .calibrating)
        [(.transceiver i, TRANSCEIVER.RX_STATUS_FAILS)] [.rxs] s t) ∧
  (∀ i b s, s.rxIs i .calibrating = false → Completes (.calAttemptEnd i b) s (· = s)) ∧
  (∀ i s, samples s i → s.stopsOn (.transceiver i) 3 = false →
    Completes (.rxChainFault i) s fun t =>
      Raised (.transceiver i) 3 s t ∧
      t.rx i = (if (s.rx i).faultRecal then s.rx i else { s.rx i with faultRecal := true, recalFrom := s.st }) ∧
      (∀ u, u < 32 → (t.tone (rxTone (32 * i + u))).window =
        ((s.tone (rxTone (32 * i + u))).window.map fun w => { w with flags := w.flags ||| 2 ^ flagRxFault })) ∧
      RxBecomes i .calibrating ((acqPage (i.val / 4), ACQUISITION.TRUNC_COUNT_COUNT) :: faultRegs (.transceiver i))
        [.rxs, .formers, .tones, .out] s t) ∧
  (∀ i s, Completes (.corrApply i none) s fun t =>
      t.get (.transceiver i) TRANSCEIVER.CORR_STATUS_PEND = 1 ∧
      t.rx i = { s.rx i with applyBy := some ((s.rx i).applyBy.getD (s.st + BitVec.ofNat 64 (2 ^ 20))), applyWatch := false } ∧
      (∀ j, j ≠ i.val → t.rx j = s.rx j) ∧ OnlyChanges [(.transceiver i, TRANSCEIVER.CORR_STATUS_PEND)] [.rxs] s t) ∧
  (∀ i s x, s.get (.transceiver i) TRANSCEIVER.RX_CTRL_TRIM_LOCK = 1 ∨ s.get .watch WATCH.WCTRL_TRACK_TRIM = 0 ∨ s.watchWorks (i.val / 4) = false →
    Completes (.corrApply i (some x)) s fun t => t = s) ∧
  (∀ i s ofs gain skew, s.get (.transceiver i) TRANSCEIVER.RX_CTRL_TRIM_LOCK = 0 → s.get .watch WATCH.WCTRL_TRACK_TRIM = 1 →
    s.watchWorks (i.val / 4) = true →
    Completes (.corrApply i (some (ofs, gain, skew))) s fun t =>
      shadowSet t i = ⟨ofs.toNat % 2 ^ 16, ofs.toNat / 2 ^ 16, gain.toNat % 2 ^ 16, gain.toNat / 2 ^ 16, skew.toNat⟩ ∧
      t.get (.transceiver i) TRANSCEIVER.CORR_STATUS_PEND = 1 ∧
      t.rx i = { s.rx i with applyBy := some ((s.rx i).applyBy.getD (s.st + BitVec.ofNat 64 (2 ^ 20))), applyWatch := true } ∧
      OnlyChanges (corrFields i) [.rxs] s t) ∧
  (∀ i s limit, (s.rx i).applyBy = some limit → s.windowsOpen i = false ∨ Stamp.atOrAfter s.st limit = true →
    CompletesAt (Stamp.gridUp 5 s.st) (.corrCopy i) s fun u t =>
      t.rx i = { s.rx i with
        active := shadowSet s i, earlier := (u.st, (s.rx i).active) :: (s.rx i).earlier.filter (fun x => (u.st - x.1).toNat < 2 ^ 31), applyBy := none } ∧
      t.corrAt i u.st = shadowSet s i ∧
      t.get (.transceiver i) TRANSCEIVER.CORR_STATUS_PEND = 0 ∧
      t.get (.transceiver i) TRANSCEIVER.CORR_STATUS_WATCH = (if (s.rx i).applyWatch then 1 else 0) ∧
      (∀ k, (∀ v, v < 32 → k ≠ rxTone (32 * i + v)) → t.tone k = u.tone k) ∧
      (∀ v, v < 32 → (t.tone (rxTone (32 * i + v))).window =
        ((u.tone (rxTone (32 * i + v))).window.map fun w => { w with flags := w.flags ||| 2 ^ flagCorrChg })) ∧
      OnlyChanges [(.transceiver i, TRANSCEIVER.CORR_STATUS_PEND), (.transceiver i, TRANSCEIVER.CORR_STATUS_WATCH)] [.rxs, .tones] u t) ∧
  (∀ i s limit, (s.rx i).applyBy = some limit → s.windowsOpen i = true → Stamp.atOrAfter s.st limit = false →
    Completes (.corrCopy i) s (· = s)) ∧
  (∀ i s, (s.rx i).applyBy = none → Completes (.corrCopy i) s (· = s)) ∧
  (∀ i s first last, samples s i → Stamp.atOrAfter last first = true → (s.rx i).runs = [] →
    CompletesAt first (.clamp i first last) s fun u t =>
      t.rx i = { s.rx i with runs := [⟨first, last, none⟩] } ∧ (∀ j, j ≠ i.val → t.rx j = s.rx j) ∧
      t.get (.transceiver i) TRANSCEIVER.OVR_COUNT_EVENTS = satInc 16 (u.get (.transceiver i) TRANSCEIVER.OVR_COUNT_EVENTS) % 2 ^ 16 ∧
      OnlyChanges [(.transceiver i, TRANSCEIVER.OVR_COUNT_EVENTS)] [.rxs] u t) ∧
  (∀ i first last s x rest, (s.rx i).runs = x :: rest → samples s i → Stamp.atOrAfter last first = true → x.cut = none →
    Stamp.atOrAfter (x.last + 400) first = true →
    CompletesAt first (.clamp i first last) s fun u t =>
      t.rx i = { s.rx i with runs := { x with last := Stamp.later x.last last } :: rest } ∧ OnlyChanges [] [.rxs] u t) ∧
  (∀ i first last s, ¬samples s i → Completes (.clamp i first last) s (· = s)) ∧
  (∀ i (n : Stamp) (r : BitVec 12) (s : State), r.toInt = 2047 ∨ r.toInt = -2048 →
    s.coreValue i n r = if r.toInt = 2047 then 32767 else -32768) ∧
  (∀ i (n : Stamp) (r : BitVec 12) (s : State), r.toInt ≠ 2047 → r.toInt ≠ -2048 →
    s.coreValue i n r = satSigned 16 (roundAway (((16 * r.toInt
        - toSigned 16 (if n.toNat % 2 = 0 then (s.corrAt i n).ofs0 else (s.corrAt i n).ofs1))
      * (if n.toNat % 2 = 0 then (s.corrAt i n).gain0 else (s.corrAt i n).gain1) : Int) / 2 ^ 14)))

/-- The device flags a result (R205, R207, R213, R216): those its window carries, OVR and OVR_NB over the samples of the window, SAT, VALID. -/
def resultOk (s : State) (u : Fin 1024) (r : Latched) : Bool :=
  Nat.testBit r.flags flagValid && !s.rxIs (u.val / 32) .unavailable && !s.pageIs (regionPage (u.val / 128)) .quarantined

/-- One part of an IQ point (R213): sat16 of the rounded quotient, as its 16 bits. -/
def iqPart (z : Int) (shift : Nat) : Nat := ofSigned 16 (satSigned 16 (roundAway ((z : Rat) / 2 ^ (15 + shift))))

/-- A window of an engine counts in its open shot (R319). -/
def countsInShot (s : State) (e : EngineId) : Bool :=
  s.inShot e && (s.group (s.groupOf e)).open' && !(s.group (s.groupOf e)).voidedNow && !(s.eng e).voided

/-- The window that a WINDOW_OPEN opens at `g` (R97, R211). -/
def windowOf (s : State) (e : EngineId) (x : Entry) (g : Stamp) : OpenWindow :=
  ⟨x.ctx, g, g + BitVec.ofNat 64 (32 * Ctx.wlen x.ctx), e, if (s.rx ((entryTone e x - 2048) / 32)).faultRecal then 2 ^ flagRxFault else 0, [],
    if countsInShot s e then some ((s.group (s.groupOf e)).shot, (s.group (s.groupOf e)).attempt) else none⟩

/-- The fields a result's publication may change beside its IQ point and the counts of stale evaluations. -/
def publishFields (p : Page) (i : Nat) : List (Page × Field) :=
  [(p, TRANSCEIVER.RES_IQ_I i), (p, TRANSCEIVER.RES_IQ_Q i), (p, TRANSCEIVER.OVR_COUNT_FLAGGED)]
    ++ (List.range 8).map fun n => (decPage n, DECISION.DF_STALE_COUNT)

/-- The IQ point of a latched sum (R213). -/
def pointOfResult (s : State) (u : Fin 1024) (r : Latched) : Int × Int :=
  let sh := 15 + s.get (rxPage (u.val / 32)) (TRANSCEIVER.RX_TONE_CFG_SHIFT (u.val % 32))
  (satSigned 16 (roundAway ((r.i : Rat) / 2 ^ sh)), satSigned 16 (roundAway ((r.q : Rat) / 2 ^ sh)))

/-- The samples of a window whose weights read well. -/
def weightsGood (s : State) (x : OpenWindow) (n : Nat) : Prop := ∀ i, i < n → s.badWeight x none i = false

/-- R97, R210, R211, R213, R216, R218, R222, R225, R229, R231: a WINDOW_OPEN opens its window on the receive grid, closing one still open with CUT,
and counts in the shot its engine has open; at W the integrator latches Z, the weighted sum of the tone samples; a result is published with
its IQ point, STATE, W and flags, to the watch too where it trains; a decision function is evaluated from its inputs; DF_DATA, DF_RESULT and
RES_IQ access what their select registers name. -/
def Obligations.WindowsAndResults : Prop :=
  (∀ (e : EngineId) raws bad s x, s.nextDue e .windowOpen = some x → ((s.passed (actsAt x)).tone (entryTone e x)).window = none →
    CompletesAt (actsAt x) (.windowOpen e raws bad) s fun u t =>
      t.tone (entryTone e x) = { u.tone (entryTone e x) with window := some (windowOf s e x (Stamp.gridUp 5 x.stamp)) } ∧
      (∀ k, k ≠ entryTone e x → t.tone k = u.tone k) ∧
      t.group (s.groupOf e) = (if countsInShot s e then { s.group (s.groupOf e) with windows := (s.group (s.groupOf e)).windows + 1 }
        else s.group (s.groupOf e)) ∧
      (∀ k, k ≠ s.groupOf e → t.group k = s.group k) ∧
      t.eng e = { u.eng e with due := dropFirst x (u.eng e).due } ∧ (∀ j, j ≠ e.val → t.eng j = u.eng j) ∧
      OnlyChanges [] [.engs, .tones, .groups] u t) ∧
  (∀ (e : EngineId) raws s x o, s.nextDue e .windowOpen = some x → ((s.passed (actsAt x)).tone (entryTone e x)).window = some o →
    Stamp.atOrAfter o.close (Stamp.gridUp 5 x.stamp) = true → o.close ≠ Stamp.gridUp 5 x.stamp → 2048 ≤ entryTone e x →
    weightsGood s o ((Stamp.gridUp 5 x.stamp - o.opened).toNat / 32) →
    CompletesAt (actsAt x) (.windowOpen e raws none) s fun u t =>
      (t.tone (entryTone e x)).latched.dropLast = (u.tone (entryTone e x)).latched ∧
      (t.tone (entryTone e x)).latched.getLast?.map (fun r => (r.opened, r.w, Nat.testBit r.flags flagCut)) =
        some (o.opened, Stamp.gridUp 5 x.stamp, true) ∧
      (t.tone (entryTone e x)).window = some (windowOf s e x (Stamp.gridUp 5 x.stamp)) ∧
      (∀ k, k ≠ entryTone e x → t.tone k = u.tone k) ∧ (∀ j, j ≠ e.val → t.eng j = u.eng j) ∧
      OnlyChanges [(porterPage (regionOf o.engine), PORTER.WGT_ECC_CORRECTED)] [.engs, .tones, .groups] u t) ∧
  (∀ (e : EngineId) raws bad s, s.nextDue e .windowOpen = none → Completes (.windowOpen e raws bad) s (· = s)) ∧
  (∀ (u : Fin 1024) raws s x n, (s.tone (rxTone u)).window = some x → n = (x.close - x.opened).toNat / 32 → s.time.frozen = false →
    (∀ i, i < n → tooHigh ((s.tone (rxTone u)).frameAt (x.sampleAt i)).f = false) → weightsGood s x n →
    CompletesAt x.close (.integratorLatch u raws none) s fun v t =>
      t.tone (rxTone u) = { v.tone (rxTone u) with
        window := none
        latched := (s.tone (rxTone u)).latched ++ [⟨x.opened, x.close, x.ctx, x.engine, (s.integrate u x raws none n).1,
          (s.integrate u x raws none n).2, x.flags ||| b2n (s.rxIs (u.val / 32) .live), x.shot⟩]
        mixed := (t.tone (rxTone u)).mixed } ∧
      (∀ k, k ≠ rxTone u → t.tone k = v.tone k) ∧
      OnlyChanges [(porterPage (regionOf x.engine), PORTER.WGT_ECC_CORRECTED)] [.tones] v t) ∧
  (∀ (u : Fin 1024) raws bad s, (s.tone (rxTone u)).window = none ∨ s.time.frozen = true →
    Completes (.integratorLatch u raws bad) s (· = s)) ∧
  (∀ (u : Fin 1024) (x : OpenWindow) raws (s : State), s.integrate u x raws none 0 = (0, 0)) ∧
  (∀ (u : Fin 1024) (x : OpenWindow) raws (s : State) n y wi wq, s.badWeight x none n = false →
    y = s.toneSample u (x.opened - 512) raws (Ctx.df x.ctx) (Ctx.dp x.ctx) (x.opened + BitVec.ofNat 64 (32 * n)) →
    wi = toSigned 16 (s.weightFor x n ((Ctx.wptr x.ctx + n) % 2 ^ 19)) → wq = toSigned 16 (s.weightFor x n ((Ctx.wptr x.ctx + n) % 2 ^ 19) / 2 ^ 16) →
    s.integrate u x raws none (n + 1) =
      ((s.integrate u x raws none n).1 + (wi * y.1 - wq * y.2), (s.integrate u x raws none n).2 + (wi * y.2 + wq * y.1))) ∧
  (∀ (u : Fin 1024) s r rest p, (s.tone (rxTone u)).latched = r :: rest → p = rxPage (u.val / 32) →
    s.get p TRANSCEIVER.RX_CTRL_OVR_VOID = 0 →
    CompletesAt (r.w + 640) (.resultPublish u) s fun v t =>
      t.tone (rxTone u) = { v.tone (rxTone u) with latched := rest } ∧ (∀ k, k ≠ rxTone u → t.tone k = v.tone k) ∧
      t.get p (TRANSCEIVER.RES_IQ_I (u.val % 32)) = iqPart r.i (s.get p (TRANSCEIVER.RX_TONE_CFG_SHIFT (u.val % 32))) % 2 ^ 16 ∧
      t.get p (TRANSCEIVER.RES_IQ_Q (u.val % 32)) = iqPart r.q (s.get p (TRANSCEIVER.RX_TONE_CFG_SHIFT (u.val % 32))) % 2 ^ 16 ∧
      (t.slot u).w = r.w ∧ (t.slot u).valid = resultOk s u r ∧ (t.slot u).seen = true ∧ (t.slot u).voids = false ∧
      (resultOk s u r = false → (t.slot u).value = 0) ∧
      (resultOk s u r = true → ((t.slot u).value, (t.slot u).conf) = discriminate (Ctx.disc r.ctx)
        (s.get p (TRANSCEIVER.RX_TONE_CFG_CSHIFT (u.val % 32))) (pointOfResult s u r).1 (pointOfResult s u r).2) ∧
      (∀ k, k ≠ u.val → t.slot k = s.slot k) ∧
      t.tend = (if s.trains u then { s.tend with points := s.tend.points ++ [⟨u, r.w, (pointOfResult s u r).1, (pointOfResult s u r).2⟩] }
        else s.tend) ∧
      OnlyChanges (publishFields p (u.val % 32)) [.tones, .funcs, .slots, .groups, .fab, .tend] v t) ∧
  (∀ (u : Fin 1024) s r rest, (s.tone (rxTone u)).latched = r :: rest →
    (s.group (s.groupOf r.engine)).open' = true → (s.group (s.groupOf r.engine)).voidedNow = false →
    r.shot = some ((s.group (s.groupOf r.engine)).shot, (s.group (s.groupOf r.engine)).attempt) →
    s.get (rxPage (u.val / 32)) TRANSCEIVER.RX_CTRL_OVR_VOID = 0 →
    CompletesAt (r.w + 640) (.resultPublish u) s fun _ t =>
      (t.group (s.groupOf r.engine)).windows = (s.group (s.groupOf r.engine)).windows - 1 ∧
      (t.group (s.groupOf r.engine)).entries.length = (s.group (s.groupOf r.engine)).entries.length + 1 ∧
      (∀ k, k ≠ s.groupOf r.engine → t.group k = s.group k)) ∧
  (∀ (u : Fin 1024) s r rest, (s.tone (rxTone u)).latched = r :: rest → s.get (rxPage (u.val / 32)) TRANSCEIVER.RX_CTRL_OVR_VOID = 1 →
    Nat.testBit r.flags flagRxFault = true → s.inShot r.engine = true → voidable s (s.groupOf r.engine) →
    CompletesAt (r.w + 640) (.resultPublish u) s fun v t =>
      Voided (s.groupOf r.engine) (causeBits [.ovr]) v t ∧ (t.slot u).voids = true) ∧
  (∀ (u : Fin 1024) s, (s.tone (rxTone u)).latched = [] → Completes (.resultPublish u) s (· = s)) ∧
  (∀ (n : RegionId) (f : Fin 256) s ev rest k, k = 256 * n.val + f.val → (s.func k).ready = ev :: rest → ev.bad = false →
    (ev.held.all fun h => h.2.2.1 && s.toneUsable (selUnit (s.selector n f h.1))) = true →
    Completes (.dfEvaluate n f) s fun t =>
      (t.slot (1024 + k)).value = bitOf (s.funcWord n f ((ev.held.map fun h => h.2.1 * 2 ^ h.1).sum / 32))
        ((ev.held.map fun h => h.2.1 * 2 ^ h.1).sum % 32) ∧
      (t.slot (1024 + k)).w = ev.wa ∧ (t.slot (1024 + k)).valid = true ∧ t.func k = { s.func k with ready := rest } ∧
      (∀ j, j ≠ 1024 + k → t.slot j = s.slot j) ∧ (∀ j, j ≠ k → t.func j = s.func j) ∧ OnlyChanges [] [.funcs, .slots, .fab] s t) ∧
  (∀ (n : RegionId) (f : Fin 256) s ev rest k, k = 256 * n.val + f.val → (s.func k).ready = ev :: rest → ev.bad = true →
    Completes (.dfEvaluate n f) s fun t =>
      (t.slot (1024 + k)).valid = false ∧ (t.slot (1024 + k)).value = 0 ∧ t.func k = { s.func k with ready := rest } ∧
      OnlyChanges [] [.funcs, .slots, .fab] s t) ∧
  (∀ (fn : FuncId) (n : RegionId) s i, fn.val = 0 → i = s.get (.decision n) DECISION.DF_SEL_WORD → i < 136 →
    Completes (.dfData fn n none) s fun t =>
      t.rdata = s.funcWord n (s.get (.decision n) DECISION.DF_SEL_FUNC) i ∧
      t.get (.decision n) DECISION.DF_SEL_WORD = (if s.get (.decision n) DECISION.DF_SEL_AUTOINC = 1 then (if i = 135 then 0 else i + 1) else i) ∧
      OnlyChanges [(.decision n, DECISION.DF_SEL_WORD)] [.rdata] s t) ∧
  (∀ (fn : FuncId) (n : RegionId) (v : Word) s i f, fn.val = 0 → i = s.get (.decision n) DECISION.DF_SEL_WORD → i < 128 →
    f = s.get (.decision n) DECISION.DF_SEL_FUNC → s.dfMode n f = 0 →
    Completes (.dfData fn n (some v)) s fun t =>
      t.funcWord n f i = v.toNat ∧ (∀ g w, w < 136 → (g, w) ≠ (f, i) → t.funcWord n g w = s.funcWord n g w) ∧
      OnlyChanges [(.decision n, DECISION.DF_SEL_WORD)] [.tbl] s t) ∧
  (∀ (fn : FuncId) (n : RegionId) (v : Word) s i f, fn.val = 0 → i = s.get (.decision n) DECISION.DF_SEL_WORD → i < 134 →
    f = s.get (.decision n) DECISION.DF_SEL_FUNC → s.dfMode n f ≠ 0 →
    Completes (.dfData fn n (some v)) s fun t =>
      Raised (.decision n) 0 s t ∧ OnlyChanges ((.decision n, DECISION.DF_SEL_WORD) :: faultRegs (.decision n)) [.out] s t) ∧
  (∀ (fn : FuncId) (n : RegionId) s f k, fn.val = 0 → f = s.get (.decision n) DECISION.DF_SEL_FUNC → k = 256 * n.val + f →
    Completes (.dfResultRead fn n) s fun t =>
      t.rdata = (s.slot (1024 + k)).value % 2 + 2 * b2n (s.funcValid n f) + bitsOf (s.slot (1024 + k)).flags 3 1 * 4
        + min (s.func k).waiting.length 7 * 2 ^ 8 ∧
      t.get (.decision n) DECISION.DF_W_LO = (s.slot (1024 + k)).w.toNat % 2 ^ 32 ∧
      t.get (.decision n) DECISION.DF_W_HI = (s.slot (1024 + k)).w.toNat / 2 ^ 32 ∧
      OnlyChanges [(.decision n, DECISION.DF_W_LO), (.decision n, DECISION.DF_W_HI)] [.rdata] s t) ∧
  (∀ (fn : FuncId) (i : FeedlineId) (slot : Fin 32) s u, u = 32 * i.val + slot.val → s.reachesTone fn u = true →
    Completes (.resIqRead fn i slot) s fun t =>
      t.rdata = s.get (.transceiver i) (TRANSCEIVER.RES_IQ_I slot) + s.get (.transceiver i) (TRANSCEIVER.RES_IQ_Q slot) * 2 ^ 16 ∧
      t.get (.transceiver i) (TRANSCEIVER.RES_TAG_STATE slot) = (s.slot u).value % 4 ∧
      t.get (.transceiver i) (TRANSCEIVER.RES_TAG_CONF slot) = (s.slot u).conf % 256 ∧
      t.get (.transceiver i) (TRANSCEIVER.RES_TAG_VALID slot) = bitOf (s.slot u).flags 0 % 2 ∧
      t.get (.transceiver i) (TRANSCEIVER.RES_W_W slot) = (s.slot u).w.toNat % 2 ^ 32 ∧
      OnlyPagesChange [.transceiver i] [.rdata] s t) ∧
  (∀ (fn : FuncId) (i : FeedlineId) (slot : Fin 32) s, s.reachesTone fn (32 * i.val + slot.val) = false →
    Completes (.resIqRead fn i slot) s fun t => t.rdata = 0 ∧ OnlyChanges [] [.rdata] s t)

/-- Every word of every trigger, coincidence and exporting unit but one reads as before. -/
def UnitWordsKept (n unit w : Nat) (s t : State) : Prop :=
  ∀ n' u' w', u' < 256 → w' < 16 → (n', u', w') ≠ (n, unit, w) → t.unitWord n' u' w' = s.unitWord n' u' w'

/-- Nothing waits for a trigger unit's firings: no engine start, no coincidence unit, no exporting slot. -/
def noUsers (s : State) (u : TriggerId) : Prop :=
  s.startedBy u = [] ∧ s.enabledUnits .coinc = [] ∧ s.enabledUnits .exporter = []

/-- A tone once its stream has got the jump request of a firing at `x`: it comes 1,024 ST later, for the JUMP of the segment that plays. -/
def toldOf (x : Stamp) (s : State) (k : Nat) : Tone :=
  { s.tone k with stream := (s.tone k).stream.map fun y =>
      { y with coming := y.coming ++ [⟨x + 1024, Seg.jump (s.segDesc y.seg), false, none, none⟩] } }

/-- A unit's firing at `x` is counted and waits for its delivery, and the streams whose segment names the unit get its jump request. -/
def Fired (u : TriggerId) (x : Stamp) (s t : State) : Prop :=
  t.trig (triggerNo u) = { s.trig (triggerNo u) with armed := false, waiting := (s.trig (triggerNo u)).waiting ++ [x] } ∧
  (∀ k, k ≠ triggerNo u → t.trig k = s.trig k) ∧
  (∀ k, t.tone k = if k ∈ s.jumpedBy u then toldOf x s k else s.tone k) ∧
  t.unitWord (trigPlace u).1 (trigPlace u).2 7 = satInc 32 (s.unitWord (trigPlace u).1 (trigPlace u).2 7) % 2 ^ 32 ∧
  UnitWordsKept (trigPlace u).1 (trigPlace u).2 7 s t ∧ OnlyChanges [] [.trigs, .tbl, .tones] s t

/-- The edge rule of a unit at `x`: the value arms it, or fires it (R235). -/
def armedBy (s : State) (u : TriggerId) (x : Stamp) (raws : List (BitVec 12)) : Bool :=
  armsAt (bitOf (s.trigCfg u) 4 = 1) (s.unitLevel u) (s.unitHyst u) (s.unitValue u x raws)
def firedBy (s : State) (u : TriggerId) (x : Stamp) (raws : List (BitVec 12)) : Bool :=
  firesAt (bitOf (s.trigCfg u) 4 = 1) (s.unitLevel u) (s.unitValue u x raws)

/-- A unit's oldest firing `x` has been delivered. -/
def Delivered (u : TriggerId) (x : Stamp) (rest : List Stamp) (s t : State) : Prop :=
  t.trig (triggerNo u) = { s.trig (triggerNo u) with
    waiting := rest, firings := keepFirings x (s.trig (triggerNo u)).firings, progress := Stamp.later (s.trig (triggerNo u)).progress x } ∧
  ∀ k, k ≠ triggerNo u → t.trig k = s.trig k

/-- R178, R224, R234 to R242: a value that arms a unit arms it; a unit that is armed, or that the same value arms, fires where the value crosses
LEVEL, is disarmed and counted, and sends a jump request to the streams that name it; an external input fires after GLITCH + 1 samples at
the level of POL; firings are delivered oldest first, then progress marks, and an event reaches the coincidence unit that names its source,
or is counted late there; a trigger-mode function and a coincidence unit evaluate each multiple of 32 and fire on a 0-to-1 change of their
output. -/
def Obligations.TriggerUnits : Prop :=
  (∀ u x raws s, (∀ i, u ≠ .ext i) → s.evaluates u x = true → armedBy s u x raws = true →
    CompletesAt x (.triggerArmed u x raws) s fun u' t =>
      t.trig (triggerNo u) = { s.trig (triggerNo u) with armed := true } ∧ (∀ k, k ≠ triggerNo u → t.trig k = s.trig k) ∧
      OnlyChanges [] [.trigs] u' t) ∧
  (∀ u x raws s, s.evaluates u x = false ∨ armedBy s u x raws = false → Completes (.triggerArmed u x raws) s (· = s)) ∧
  (∀ u x raws s, Store.wf Tone.init s.tones = true → (∀ i, u ≠ .ext i) → s.evaluates u x = true →
    (s.trig (triggerNo u)).armed = true ∨ armedBy s u x raws = true → firedBy s u x raws = true →
    CompletesAt x (.triggerFiring u x raws) s (Fired u x)) ∧
  (∀ u x raws s, s.evaluates u x = false ∨ firedBy s u x raws = false ∨
      ((s.trig (triggerNo u)).armed = false ∧ armedBy s u x raws = false) →
    Completes (.triggerFiring u x raws) s (· = s)) ∧
  (∀ (i : Fin 16) x levels more g a s, Store.wf Tone.init s.tones = true → s.evaluates (.ext i) x = true →
    g = bitsOf (s.trigCfg (.ext i)) 19 16 → a = x + BitVec.ofNat 64 (4 * g) →
    levels = (!decide (bitOf (s.trigCfg (.ext i)) 4 = 0)) :: (List.replicate (g + 1) (decide (bitOf (s.trigCfg (.ext i)) 4 = 0)) ++ more) →
    CompletesAt a (.extTriggerFiring i x levels) s (Fired (.ext i) x)) ∧
  (∀ (i : Fin 16) x levels s, levels.length < bitsOf (s.trigCfg (.ext i)) 19 16 + 2 →
    Completes (.extTriggerFiring i x levels) s (· = s)) ∧
  (∀ u s x rest, (s.trig (triggerNo u)).waiting = x :: rest → noUsers s u →
    Completes (.firingDelivery u none) s fun t => Delivered u x rest s t ∧ OnlyChanges [] [.trigs] s t) ∧
  (∀ u s x rest (n : RegionId) (i : Fin 8) k j, (s.trig (triggerNo u)).waiting = x :: rest → s.startedBy u = [] →
    s.enabledUnits .exporter = [] → s.enabledUnits .coinc = [256 * n.val + 136 + i.val] → k = 8 * n.val + i.val → j < 8 →
    (∀ m, m < 8 → (selEvent (s.unitWord n (136 + i.val) (2 + m)) = some (.trig (triggerNo u)) ↔ m = j)) →
    Stamp.atOrAfter (s.coinc k).at' (Stamp.gridUp 5 x) = false →
    Completes (.firingDelivery u none) s fun t =>
      Delivered u x rest s t ∧
      t.coinc k = { s.coinc k with events := (j, x) :: (s.coinc k).events.filter fun e => !Stamp.atOrAfter (s.coinc k).at' (e.2 + 8160) } ∧
      (∀ m, m ≠ k → t.coinc m = s.coinc m) ∧ OnlyChanges [] [.trigs, .coincs] s t) ∧
  (∀ u s x rest (n : RegionId) (i : Fin 8) k j, (s.trig (triggerNo u)).waiting = x :: rest → s.startedBy u = [] →
    s.enabledUnits .exporter = [] → s.enabledUnits .coinc = [256 * n.val + 136 + i.val] → k = 8 * n.val + i.val → j < 8 →
    (∀ m, m < 8 → (selEvent (s.unitWord n (136 + i.val) (2 + m)) = some (.trig (triggerNo u)) ↔ m = j)) →
    Stamp.atOrAfter (s.coinc k).at' (Stamp.gridUp 5 x) = true →
    Completes (.firingDelivery u none) s fun t =>
      Delivered u x rest s t ∧ t.unitWord n (136 + i.val) 11 = satInc 32 (s.unitWord n (136 + i.val) 11) % 2 ^ 32 ∧
      UnitWordsKept n (136 + i.val) 11 s t ∧ OnlyChanges [] [.trigs, .tbl] s t) ∧
  (∀ u s, (s.trig (triggerNo u)).waiting = [] → Completes (.firingDelivery u none) s (· = s)) ∧
  (∀ u s m, (∀ x ∈ (s.trig (triggerNo u)).waiting, Stamp.atOrAfter m x = false) → Stamp.atOrAfter s.st m = true →
    Completes (.firingDelivery u (some m)) s fun t =>
      t.trig (triggerNo u) = { s.trig (triggerNo u) with progress := Stamp.later (s.trig (triggerNo u)).progress m } ∧
      (∀ k, k ≠ triggerNo u → t.trig k = s.trig k) ∧ OnlyChanges [] [.trigs] s t) ∧
  (∀ u s m, (∃ x ∈ (s.trig (triggerNo u)).waiting, Stamp.atOrAfter m x = true) ∨ Stamp.atOrAfter s.st m = false →
    Completes (.firingDelivery u (some m)) s (· = s)) ∧
  (∀ (n : RegionId) (f : Fin 256) s k e i u, k = 256 * n.val + f.val → e = (s.func k).at' + 32 → s.dfMode n f = 2 → i < 12 →
    selTrigger (s.selector n f i) = some u → (∀ j, j < 12 → j ≠ i → selTrigger (s.selector n f j) = none) →
    Stamp.atOrAfter (s.trig (triggerNo u)).progress e = true → Stamp.atOrAfter s.st e = true →
    (s.trig (triggerNo u)).firings.any (heldAt (bitsOf (s.trigCfg u) 15 8) e) = true →
    bitOf (s.funcWord n f (2 ^ i / 32)) (2 ^ i % 32) = 1 → (s.func k).out = false →
    s.enabledUnits .coinc = [] → s.enabledUnits .exporter = [] →
    Completes (.dfTriggerEval n f) s fun t =>
      t.func k = { s.func k with at' := e, out := true, firings := keepFirings e (s.func k).firings } ∧
      (∀ j, j ≠ k → t.func j = s.func j) ∧ OnlyChanges [] [.funcs] s t) ∧
  (∀ (n : RegionId) (f : Fin 256) s k e, k = 256 * n.val + f.val → e = (s.func k).at' + 32 → s.dfMode n f = 2 →
    (∀ i u, i < 12 → selTrigger (s.selector n f i) = some u → Stamp.atOrAfter (s.trig (triggerNo u)).progress e = true ∧
      (s.trig (triggerNo u)).firings.any (heldAt (bitsOf (s.trigCfg u) 15 8) e) = false) →
    Stamp.atOrAfter s.st e = true → bitOf (s.funcWord n f 0) 0 = 0 →
    Completes (.dfTriggerEval n f) s fun t =>
      t.func k = { s.func k with at' := e, out := false } ∧ (∀ j, j ≠ k → t.func j = s.func j) ∧ OnlyChanges [] [.funcs] s t) ∧
  (∀ (n : RegionId) (f : Fin 256) s, s.dfMode n f ≠ 2 ∨ Stamp.atOrAfter s.st ((s.func (256 * n.val + f.val)).at' + 32) = false →
    Completes (.dfTriggerEval n f) s (· = s)) ∧
  (∀ (n : RegionId) (i : Fin 8) s k e, k = 8 * n.val + i.val → e = (s.coinc k).at' + 32 → bitOf (s.unitWord n (136 + i.val) 0) 0 = 1 →
    Stamp.atOrAfter s.st (e + BitVec.ofNat 64 (s.unitWord n (136 + i.val) 1)) = true →
    (s.coinc k).events = [] → bitsOf (s.unitWord n (136 + i.val) 0) 2 1 = 0 →
    Completes (.cuEvaluate n i) s fun t =>
      t.coinc k = { s.coinc k with at' := e, out := false } ∧ (∀ j, j ≠ k → t.coinc j = s.coinc j) ∧ OnlyChanges [] [.coincs] s t) ∧
  (∀ (n : RegionId) (i : Fin 8) s k e j x, k = 8 * n.val + i.val → e = (s.coinc k).at' + 32 → bitOf (s.unitWord n (136 + i.val) 0) 0 = 1 →
    Stamp.atOrAfter s.st (e + BitVec.ofNat 64 (s.unitWord n (136 + i.val) 1)) = true → bitsOf (s.unitWord n (136 + i.val) 0) 2 1 = 0 →
    j < 8 → (selEvent (s.unitWord n (136 + i.val) (2 + j))).isSome = true → (j, x) ∈ (s.coinc k).events →
    heldAt (bitsOf (s.unitWord n (136 + i.val) 0) 15 8) e x = true → (s.coinc k).out = false → s.enabledUnits .exporter = [] →
    Completes (.cuEvaluate n i) s fun t =>
      t.coinc k = { s.coinc k with at' := e, out := true, firings := keepFirings e (s.coinc k).firings } ∧
      t.unitWord n (136 + i.val) 10 = satInc 32 (s.unitWord n (136 + i.val) 10) % 2 ^ 32 ∧ UnitWordsKept n (136 + i.val) 10 s t ∧
      (∀ m, m ≠ k → t.coinc m = s.coinc m) ∧ OnlyChanges [] [.coincs, .tbl] s t) ∧
  (∀ (n : RegionId) (i : Fin 8) s, bitOf (s.unitWord n (136 + i.val) 0) 0 = 0 ∨
      Stamp.atOrAfter s.st ((s.coinc (8 * n.val + i.val)).at' + 32 + BitVec.ofNat 64 (s.unitWord n (136 + i.val) 1)) = false →
    Completes (.cuEvaluate n i) s (· = s))

/-- PRE_EFF, POST_EFF and PRE_ACT of a former for a trigger at `x` with path delay `l` (R248, R256). -/
def stepsIn (s : State) (k : Nat) : Nat := (s.former k).dl - s.baseDecim k
def preEff (s : State) (k : Nat) : Nat := s.formerWord k 5 / 2 ^ stepsIn s k
def postEff (s : State) (k : Nat) : Nat := max 1 ((s.formerWord k 4 + (2 ^ stepsIn s k - 1)) / 2 ^ stepsIn s k)
def preAct (s : State) (k l : Nat) (x : Stamp) : Nat :=
  min (preEff s k) (min (4096 - delaySamples (gridAt k (s.former k).dl) l)
    (if Stamp.atOrAfter (Stamp.gridUp (gridAt k (s.former k).dl) x) (s.former k).heldFrom
      then (Stamp.gridUp (gridAt k (s.former k).dl) x - (s.former k).heldFrom).toNat / 2 ^ gridAt k (s.former k).dl else 0))

/-- A former has opened a record of kind `kind` for a trigger at `x` with path delay `l` (R248). -/
def Opened (k kind : Nat) (x : Stamp) (l : Nat) (s t : State) : Prop :=
  (∃ r, (t.former k).record = some r ∧ r.kind = kind ∧ r.x = x ∧ r.g = Stamp.gridUp (gridAt k (s.former k).dl) x ∧
    r.preAct = preAct s k l x ∧ r.len = preAct s k l x + postEff s k ∧ r.flags = (if preAct s k l x < preEff s k then 8 else 0) ∧ r.missed = 0) ∧
  (t.former k).dl = (s.former k).dl ∧ (t.former k).heldFrom = (s.former k).heldFrom ∧ (∀ j, j ≠ k → t.former j = s.former j) ∧ OnlyChanges [] [.formers] s t

/-- The fields in which a region shows its capture queue. -/
def queueFields (n : Nat) : List (Page × Field) := [(acqPage n, ACQUISITION.Q_STATUS_FILL)]

/-- A former that holds a record takes a further trigger at `x` (R249, R250): the record it holds after. -/
def extendedBy (s : State) (k : Nat) (r : OpenRecord) (x : Stamp) : OpenRecord :=
  { r with len := min 65536 (max r.len (Stamp.ahead (Stamp.gridUp (gridAt k (s.former k).dl) x) r.g / 2 ^ gridAt k r.dl
      + r.preAct + postEff s k).toNat), flags := r.flags ||| 2 }

/-- A record trigger at `x` is the next one of its source for former `k`, with a path delay it may have (R246). -/
def triggers (s : State) (k : Nat) (x : Stamp) (d : BitVec 32) : Prop :=
  s.forming k = true ∧ s.sourceFired k x = true ∧ (∀ y, (s.former k).last = some y → Stamp.atOrAfter x y = true ∧ x ≠ y) ∧
  d.toNat ≤ s.longestDelay k

/-- The word of UNIT_SEL after an access to UNIT_DATA (R261). -/
def WordAfter (n : RegionId) (s t : State) : Prop :=
  t.get (.acquisition n) ACQUISITION.UNIT_SEL_WORD = if s.get (.acquisition n) ACQUISITION.UNIT_SEL_AUTOINC = 1
    then (s.get (.acquisition n) ACQUISITION.UNIT_SEL_WORD + 1) % 16 else s.get (.acquisition n) ACQUISITION.UNIT_SEL_WORD

/-- An owner's oldest record `x` of `n` can go to its ring `r` now, without wrapping. -/
def ringReady (s : State) (n : RegionId) (owner : FuncId) (x : CapRecord) (r : RingRegs) : Prop :=
  (s.capq n).recs.find? (fun y => y.owner = owner.val) = some x ∧ r = captureRing n owner ∧ s.pageIs (.region n) .ready = true ∧
  s.ringTakes r x.bytes.length = true ∧ x.bytes ≠ [] ∧ s.get r.page r.wr + x.bytes.length < s.ringSize r

/-- An owner's oldest record has left the queue of region `n` for its ring. -/
def RecordGone (n : RegionId) (owner : FuncId) (x : CapRecord) (r : RingRegs) (s t : State) : Prop :=
  t.get r.page r.wr = (s.get r.page r.wr + x.bytes.length) % 2 ^ 32 ∧ (t.capq n).recs = dropOwner owner (s.capq n).recs ∧
  (∀ j, j ≠ n.val → t.capq j = s.capq j)

/-- R246 to R250, R254 to R258, R261 to R264: a record trigger opens a record, extends one under EXTEND, and under IGNORE is counted; one with
too long a path is counted late; a complete record enters the queue in its former's turn, and leaves it for its owner's ring when the ring
has space, in the device or in host memory; AUTO rises and falls; a new factor is adopted with no record open; UNIT_DATA writes a word of a
disabled unit, and reads it, and each access to it advances the word. -/
def Obligations.Capture : Prop :=
  (∀ (k : Fin 1056) x d s, triggers s k x d → delaySamples (gridAt k (s.former k).dl) d.toNat < 4096 → (s.former k).record = none →
    Completes (.recordTrigger k x d) s fun t => Opened k (s.capTsrc k) x d.toNat s t ∧ (t.former k).last = some x) ∧
  (∀ (k : Fin 1056) x d s r, triggers s k x d → delaySamples (gridAt k (s.former k).dl) d.toNat < 4096 →
    (s.former k).record = some r → s.capExtend k = false →
    Completes (.recordTrigger k x d) s fun t =>
      t.former k = { s.former k with last := some x, record := some { r with missed := satInc 16 r.missed, flags := r.flags ||| 1 } } ∧
      t.unitWord (formerPlace k).1 (formerPlace k).2 8 = satInc 32 (s.unitWord (formerPlace k).1 (formerPlace k).2 8) % 2 ^ 32 ∧
      UnitWordsKept (formerPlace k).1 (formerPlace k).2 8 s t ∧ (∀ j, j ≠ k.val → t.former j = s.former j) ∧ OnlyChanges [] [.formers, .tbl] s t) ∧
  (∀ (k : Fin 1056) x d s r, triggers s k x d → delaySamples (gridAt k (s.former k).dl) d.toNat < 4096 →
    (s.former k).record = some r → s.capExtend k = true → r.ended = false → r.len ≠ 65536 →
    Completes (.recordTrigger k x d) s fun t =>
      t.former k = { s.former k with last := some x, record := some (extendedBy s k r x) } ∧
      (∀ j, j ≠ k.val → t.former j = s.former j) ∧ OnlyChanges [] [.formers] s t) ∧
  (∀ (k : Fin 1056) x d s, triggers s k x d → 4096 ≤ delaySamples (gridAt k (s.former k).dl) d.toNat →
    Completes (.recordTrigger k x d) s fun t =>
      t.former k = { s.former k with last := some x } ∧
      t.unitWord (formerPlace k).1 (formerPlace k).2 9 = satInc 32 (s.unitWord (formerPlace k).1 (formerPlace k).2 9) % 2 ^ 32 ∧
      UnitWordsKept (formerPlace k).1 (formerPlace k).2 9 s t ∧ (∀ j, j ≠ k.val → t.former j = s.former j) ∧ OnlyChanges [] [.formers, .tbl] s t) ∧
  (∀ (k : Fin 1056) x d s, s.forming k = false ∨ s.sourceFired k x = false ∨ s.longestDelay k < d.toNat →
    Completes (.recordTrigger k x d) s (· = s)) ∧
  (∀ (fn : FuncId) (n : RegionId) (unit : BitVec 8) s k, formerOf n unit.toNat = some k → s.reachesUnit fn n unit.toNat = true →
    s.forming k = true → (s.former k).record = none →
    Completes (.swTrig fn n unit) s fun t =>
      Opened k 4 ((s.st >>> gridAt k (s.former k).dl) <<< gridAt k (s.former k).dl) 0 s t ∧ (t.former k).last = (s.former k).last) ∧
  (∀ (fn : FuncId) (n : RegionId) (unit : BitVec 8) s, formerOf n unit.toNat = none ∨ s.reachesUnit fn n unit.toNat = false →
    Completes (.swTrig fn n unit) s (· = s)) ∧
  (∀ (k : Fin 1056) raws s r n, (s.former k).record = some r → n = (formerPlace k).1 → s.nextWriter n = some (formerPlace k).2 →
    Completes (.recordEnqueue k raws) s fun t =>
      (t.former k) = { s.former k with record := none } ∧ (∀ j, j ≠ k.val → t.former j = s.former j) ∧
      (t.capq n).recs = (s.capq n).recs ++ [⟨r.owner, s.recordBytes k r raws⟩] ∧ (t.capq n).turn = (formerPlace k).2 + 1 ∧
      (∀ j, j ≠ n → t.capq j = s.capq j) ∧
      t.get (acqPage n) ACQUISITION.Q_STATUS_FILL =
        (s.queueFill n + (s.recordBytes k r raws).length) % 2 ^ ACQUISITION.Q_STATUS_FILL.width ∧
      t.formerWord k 10 = (s.formerWord k 10 + 1) % 2 ^ 32 ∧ UnitWordsKept n (formerPlace k).2 10 s t ∧
      OnlyChanges (queueFields n) [.formers, .capqs, .tbl] s t) ∧
  (∀ (k : Fin 1056) raws s, (s.former k).record = none ∨ s.nextWriter (formerPlace k).1 ≠ some (formerPlace k).2 →
    Completes (.recordEnqueue k raws) s (· = s)) ∧
  (∀ (n : RegionId) s x a, 3145728 < s.queueFill n → s.get (.acquisition n) ACQUISITION.Q_STATUS_AUTO < 8 →
    (s.capq n).lastRise = some x → a = x + 2000000 →
    CompletesAt a (.autoRise n) s fun u t =>
      t.get (.acquisition n) ACQUISITION.Q_STATUS_AUTO = s.get (.acquisition n) ACQUISITION.Q_STATUS_AUTO + 1 ∧
      t.capq n = { s.capq n with lastRise := some t.st } ∧ (∀ j, j ≠ n.val → t.capq j = s.capq j) ∧
      OnlyChanges [(.acquisition n, ACQUISITION.Q_STATUS_AUTO), (.acquisition n, ACQUISITION.Q_STEPS_DOWN)] [.capqs] u t) ∧
  (∀ (n : RegionId) s, 3145728 < s.queueFill n → s.get (.acquisition n) ACQUISITION.Q_STATUS_AUTO < 8 → (s.capq n).lastRise = none →
    Completes (.autoRise n) s fun t =>
      t.get (.acquisition n) ACQUISITION.Q_STATUS_AUTO = s.get (.acquisition n) ACQUISITION.Q_STATUS_AUTO + 1 ∧
      t.capq n = { s.capq n with lastRise := some s.st } ∧ (∀ j, j ≠ n.val → t.capq j = s.capq j) ∧
      OnlyChanges [(.acquisition n, ACQUISITION.Q_STATUS_AUTO), (.acquisition n, ACQUISITION.Q_STEPS_DOWN)] [.capqs] s t) ∧
  (∀ (n : RegionId) s, s.queueFill n ≤ 3145728 ∨ 8 ≤ s.get (.acquisition n) ACQUISITION.Q_STATUS_AUTO →
    Completes (.autoRise n) s (· = s)) ∧
  (∀ (n : RegionId) s x a, (s.capq n).lowSince = some x → s.get (.acquisition n) ACQUISITION.Q_STATUS_AUTO ≤ 15 → a = x + 20000000 →
    CompletesAt a (.autoFall n) s fun u t =>
      t.get (.acquisition n) ACQUISITION.Q_STATUS_AUTO = s.get (.acquisition n) ACQUISITION.Q_STATUS_AUTO - 1 ∧
      t.capq n = { s.capq n with lowSince := some (Stamp.later a u.st) } ∧ (∀ j, j ≠ n.val → t.capq j = s.capq j) ∧
      OnlyChanges [(.acquisition n, ACQUISITION.Q_STATUS_AUTO), (.acquisition n, ACQUISITION.Q_STEPS_UP)] [.capqs] u t) ∧
  (∀ (n : RegionId) s, (s.capq n).lowSince = none → Completes (.autoFall n) s (· = s)) ∧
  (∀ (k : Fin 1056) s, (s.former k).record = none → (s.former k).dl ≠ s.factorFor k →
    Completes (.factorAdopt k) s fun t =>
      t.former k = { s.former k with dl := s.factorFor k, heldFrom := s.st } ∧ (∀ j, j ≠ k.val → t.former j = s.former j) ∧
      OnlyChanges [] [.formers] s t) ∧
  (∀ (k : Fin 1056) s, (s.former k).record.isSome = true ∨ (s.former k).dl = s.factorFor k → Completes (.factorAdopt k) s (· = s)) ∧
  (∀ (n : RegionId) (owner : FuncId) s x r a, ringReady s n owner x r → s.ringBase r < 2 ^ 40 → a = s.ringBase r + s.get r.page r.wr →
    Completes (.ringWrite n owner none) s fun t =>
      RecordGone n owner x r s t ∧ t.byteList a x.bytes.length = x.bytes ∧ BytesKept a x.bytes.length s t ∧
      (∀ u i, i < 2 ^ 44 → u ≠ Table.poison → t.word u i = s.word u i) ∧
      OnlyChanges ((r.page, r.wr) :: (r.page, r.wait) :: queueFields n) [.mem, .tbl, .out, .capqs] s t) ∧
  (∀ (n : RegionId) (owner : FuncId) s x r a, ringReady s n owner x r → s.ringBase r % 2 ^ 63 < 2 ^ 62 →
    bitOf (s.ringBase r) 63 = 1 → a = s.ringBase r % 2 ^ 63 + s.get r.page r.wr →
    Completes (.ringWrite n owner none) s fun t =>
      RecordGone n owner x r s t ∧ t.out.take (s.out.length + 1) = s.out ++ [.hostWrite owner.val a x.bytes] ∧
      OnlyChanges ((r.page, r.wr) :: (r.page, r.wait) :: queueFields n) [.out, .capqs] s t) ∧
  (∀ (n : RegionId) (owner : FuncId) (unit : Fin 4097) (w : BitVec 19) s x r a, ringReady s n owner x r → s.ringBase r < 2 ^ 40 →
    64 * unit.val + 64 ≤ x.bytes.length → a = s.ringBase r + s.get r.page r.wr →
    Completes (.ringWrite n owner (some (unit, w))) s fun t =>
      RecordGone n owner x r s t ∧ t.byteList (a + 64 * unit.val) 64 = List.replicate 64 0 ∧
      t.byteList a (64 * unit.val) = x.bytes.take (64 * unit.val) ∧ BytesKept a x.bytes.length s t ∧
      t.get (.porter n) PORTER.QUEUE_ECC_UNCORRECTED = satInc PORTER.QUEUE_ECC_UNCORRECTED.width (s.get (.porter n) PORTER.QUEUE_ECC_UNCORRECTED)
        % 2 ^ PORTER.QUEUE_ECC_UNCORRECTED.width ∧
      t.get (.porter n) PORTER.UE_ADDR_STORE = 3 ∧
      t.get (.porter n) PORTER.UE_ADDR_OFFSET = 8 * w.toNat % 2 ^ PORTER.UE_ADDR_OFFSET.width ∧
      OnlyChanges ([(r.page, r.wr), (r.page, r.wait), (.porter n, PORTER.QUEUE_ECC_UNCORRECTED), (.porter n, PORTER.UE_ADDR_STORE),
        (.porter n, PORTER.UE_ADDR_OFFSET)] ++ queueFields n ++ faultRegs (.porter n)) [.mem, .tbl, .out, .capqs] s t) ∧
  (∀ (n : RegionId) (owner : FuncId) ue s x r, (s.capq n).recs.find? (fun y => y.owner = owner.val) = some x → r = captureRing n owner →
    s.pageIs (.region n) .ready = true → s.ringTakes r x.bytes.length = false →
    Completes (.ringWrite n owner ue) s fun t => t.get r.page r.wait = 1 ∧ OnlyChanges [(r.page, r.wait)] [] s t) ∧
  (∀ (n : RegionId) (owner : FuncId) ue s, (s.capq n).recs.find? (fun y => y.owner = owner.val) = none ∨ s.pageIs (.region n) .ready = false →
    Completes (.ringWrite n owner ue) s (· = s)) ∧
  (∀ (fn : FuncId) (n : RegionId) s u i, u = s.get (.acquisition n) ACQUISITION.UNIT_SEL_UNIT → i = s.get (.acquisition n) ACQUISITION.UNIT_SEL_WORD →
    Completes (.unitData fn n none) s fun t =>
      t.rdata = (if fn.val = 0 ∨ (s.reachesUnit fn n u = true ∧ i ≤ 10) then s.unitRead n u i else 0) ∧ WordAfter n s t ∧
      OnlyChanges [(.acquisition n, ACQUISITION.UNIT_SEL_WORD)] [.rdata] s t) ∧
  (∀ (fn : FuncId) (n : RegionId) (v : Word) s u i, u = s.get (.acquisition n) ACQUISITION.UNIT_SEL_UNIT →
    i = s.get (.acquisition n) ACQUISITION.UNIT_SEL_WORD → s.reachesUnit fn n u = false ∨ (fn.val ≠ 0 ∧ 10 < i) →
    Completes (.unitData fn n (some v)) s fun t =>
      WordAfter n s t ∧ OnlyChanges [(.acquisition n, ACQUISITION.UNIT_SEL_WORD)] [] s t) ∧
  (∀ (fn : FuncId) (n : RegionId) (v : Word) s u i, u = s.get (.acquisition n) ACQUISITION.UNIT_SEL_UNIT →
    i = s.get (.acquisition n) ACQUISITION.UNIT_SEL_WORD → s.reachesUnit fn n u = true → u < 128 → i = 1 ∨ i = 2 ∨ i = 4 ∨ i = 5 →
    bitOf (s.unitWord n u 0) 0 = 0 → bitOf (s.unitWord n u 3) 0 = 0 →
    Completes (.unitData fn n (some v)) s fun t =>
      t.unitWord n u i = v.toNat &&& unitMask u i ∧ UnitWordsKept n u i s t ∧ WordAfter n s t ∧
      OnlyChanges [(.acquisition n, ACQUISITION.UNIT_SEL_WORD)] [.tbl] s t) ∧
  (∀ (fn : FuncId) (n : RegionId) (v : Word) s u i, u = s.get (.acquisition n) ACQUISITION.UNIT_SEL_UNIT →
    i = s.get (.acquisition n) ACQUISITION.UNIT_SEL_WORD → s.reachesUnit fn n u = true → u < 128 → i = 1 ∨ i = 2 →
    bitOf (s.unitWord n u 0) 0 = 1 →
    Completes (.unitData fn n (some v)) s fun t =>
      Raised (.acquisition n) 0 s t ∧ WordAfter n s t ∧
      OnlyChanges ((.acquisition n, ACQUISITION.UNIT_SEL_WORD) :: faultRegs (.acquisition n)) [.out] s t)

/-- A processor is about to run an instruction: it is RUNNING, and no interrupt is due before it (R282, R287). -/
def dspNext (s : State) (k : BlockId) : Prop := s.dspIs k .running = true ∧ s.dspIrqDue k = false ∧ s.time.frozen = false

/-- Besides, no HALT waits, its fetch is good, and its opcode is none of the reserved ones: an instruction of a legal encoding retires (R282,
R285, R287 to R289). -/
def retires (s : State) (k : BlockId) (m : DspArgs) : Prop :=
  dspNext s k ∧ s.fetchBad k m = false ∧ s.dspReserved k = false ∧ (s.dsp k).haltReq = false

/-- An instruction retires with the effect `f` on the processor, whose outstanding load has become visible: PC advances, RETIRED counts, and
nothing else changes but `but` and `ps`. -/
def Retired (k : BlockId) (f : DspState → DspState) (but : List (Page × Field)) (ps : List Piece) (s t : State) : Prop :=
  t.dsp k = (f (s.dsp k).commit).advance ∧ (∀ j, j ≠ k.val → t.dsp j = s.dsp j) ∧
  t.get (.dsp k) DSP.RETIRED_COUNT = (s.get (.dsp k) DSP.RETIRED_COUNT + 1) % 2 ^ 32 ∧
  OnlyChanges ((.dsp k, DSP.RETIRED_COUNT) :: but) (.dsps :: ps) s t

/-- The flags of R106 in SW [3:0] after FN with result `r`: `z` is their new value, `old` their old one. -/
def dspFlags (f : AluFn) (a b r : Word) (old z : Nat) : Prop :=
  z < 16 ∧ bitOf z 0 = (if r.toNat = 0 then 1 else 0) ∧ bitOf z 1 = (if r.toInt < 0 then 1 else 0) ∧
  bitOf z 2 = (match f with
    | .add => if 2 ^ 32 ≤ a.toNat + b.toNat then 1 else 0
    | .sub => if b.toNat ≤ a.toNat then 1 else 0
    | _ => bitOf old 2) ∧
  bitOf z 3 = (match f with
    | .add => if r.toInt = a.toInt + b.toInt then 0 else 1
    | .sub => if r.toInt = a.toInt - b.toInt then 0 else 1
    | _ => bitOf old 3)

/-- FN on two words into a data register, with its flags. -/
def DspFn (k : BlockId) (fn : AluFn) (a b : Word) (d : Nat) (s t : State) : Prop :=
  ∃ r z, fnResult fn a b r ∧ dspFlags fn a b r (s.dsp k).commit.sw z ∧
    Retired k (fun y => { y.setD d r with sw := y.sw / 16 * 16 + z }) [] [] s t

/-- An exact result `v` into accumulator `i` (R270). -/
def AccTakes (k : BlockId) (i : Nat) (v : Int) (s t : State) : Prop :=
  (-(2 ^ 39) ≤ v → v < 2 ^ 39 → Retired k (fun y => { y with a := y.a.set i (BitVec.ofInt 40 v) }) [] [] s t) ∧
  (v < -(2 ^ 39) ∨ 2 ^ 39 ≤ v → bitOf (s.dsp k).sw 5 = 0 →
    Retired k (fun y => { y with a := y.a.set i (BitVec.ofInt 40 v), sw := y.sw ||| 2 ^ (8 + i) }) [] [] s t) ∧
  (v < -(2 ^ 39) → bitOf (s.dsp k).sw 5 = 1 →
    Retired k (fun y => { y with a := y.a.set i (BitVec.ofInt 40 (-(2 ^ 39))), sw := y.sw ||| 2 ^ (8 + i) }) [] [] s t) ∧
  (2 ^ 39 ≤ v → bitOf (s.dsp k).sw 5 = 1 →
    Retired k (fun y => { y with a := y.a.set i (BitVec.ofInt 40 (2 ^ 39 - 1)), sw := y.sw ||| 2 ^ (8 + i) }) [] [] s t)

/-- R106, R265, R269 to R274, R279 to R281: the arithmetic and move instructions of a block signal processor, each with its result, its flags and
its frame: no other register of the processor, and nothing outside it but RETIRED, changes. -/
def Obligations.DspArithmetic : Prop :=
  (∀ k m s, retires s k m → m.w = 0 → Completes (.dspNop k m) s fun t => Retired k (fun y => y) [] [] s t) ∧
  (∀ k m s, retires s k m →
    Completes (.dspLdi k m) s fun t => Retired k (fun y => y.setD (Dw.d m.w) (BitVec.ofInt 32 (Dw.imm22 m.w))) [] [] s t) ∧
  (∀ k m s, retires s k m →
    Completes (.ldih k m) s fun t => Retired k (fun y => y.setD (Dw.d m.w)
      (BitVec.ofNat 32 (((s.dsp k).reg (Dw.d m.w)).toNat % 2 ^ 16 + Dw.f m.w 15 0 * 2 ^ 16))) [] [] s t) ∧
  (∀ k m s fn, retires s k m → AluFn.ofCode (Dw.f m.w 13 10) = some fn → zeroBits m.w 9 0 = true →
    Completes (.dspAlu k m) s fun t => DspFn k fn ((s.dsp k).reg (Dw.s m.w)) ((s.dsp k).reg (Dw.t m.w)) (Dw.d m.w) s t) ∧
  (∀ k m s fn, retires s k m → AluFn.ofCode (Dw.f m.w 17 14) = some fn →
    Completes (.dspAlui k m) s fun t => DspFn k fn ((s.dsp k).reg (Dw.s m.w)) (BitVec.ofInt 32 (Dw.imm14 m.w)) (Dw.d m.w) s t) ∧
  (∀ k m s i p, retires s k m → Dw.f m.w 24 23 ≤ 2 → zeroBits m.w 22 22 = true → zeroBits m.w 10 0 = true → i = Dw.acc m.w →
    p = macProduct (halfOf ((s.dsp k).reg (Dw.s m.w)) (Dw.f m.w 17 17)) (halfOf ((s.dsp k).reg (Dw.f m.w 16 13)) (Dw.f m.w 12 12))
      (Dw.f m.w 11 11 = 1) →
    Completes (.dspMac k m) s fun t => AccTakes k i
      (if Dw.f m.w 24 23 = 0 then p else if Dw.f m.w 24 23 = 1 then (s.dsp k).accum i + p else (s.dsp k).accum i - p) s t) ∧
  (∀ k m s i v, retires s k m → zeroBits m.w 17 5 = true → i = Dw.acc m.w →
    (Dw.f m.w 24 22 = 0 ∧ v = 0) ∨ (Dw.f m.w 24 22 = 1 ∧ v = ((s.dsp k).reg (Dw.s m.w)).toInt) ∨
      (Dw.f m.w 24 22 = 2 ∧ v = (s.dsp k).accum i + ((s.dsp k).reg (Dw.s m.w)).toInt) ∨
      (Dw.f m.w 24 22 = 3 ∧ v = (s.dsp k).accum i - ((s.dsp k).reg (Dw.s m.w)).toInt) ∨
      (Dw.f m.w 24 22 = 4 ∧ v = halfOf ((s.dsp k).reg (Dw.s m.w)) 0 * 2 ^ 16) ∨
      (Dw.f m.w 24 22 = 5 ∧ v = (s.dsp k).accum i / 2 ^ Dw.sh m.w) ∨ (Dw.f m.w 24 22 = 6 ∧ v = (s.dsp k).accum i * 2 ^ Dw.sh m.w) →
    Completes (.dspAcc k m) s fun t => AccTakes k i v s t) ∧
  (∀ k m s v w, retires s k m → zeroBits m.w 19 5 = true → v = roundShift (s.dsp k).rnd (Dw.sh m.w) ((s.dsp k).accum (Dw.f m.w 21 21)) →
    w = (if Dw.f m.w 20 20 = 1 then 32 else 16) →
    Completes (.dspExt k m) s fun t =>
      (satSigned w v = v → Retired k (fun y => y.setD (Dw.d m.w) (BitVec.ofInt 32 v)) [] [] s t) ∧
      (satSigned w v ≠ v → Retired k (fun y => { y.setD (Dw.d m.w) (BitVec.ofInt 32 (satSigned w v)) with sw := y.sw ||| 2 ^ 10 }) [] [] s t)) ∧
  (∀ k m s sh (f : Nat → Int → Int), retires s k m → zeroBits m.w 9 0 = true → sh = 16 + ((s.dsp k).reg (Dw.f m.w 13 10)).toNat % 16 →
    (∀ c sg, f c sg = roundShift (s.dsp k).rnd sh (halfOf ((s.dsp k).reg (Dw.t m.w)) c * 2 ^ 16 + sg * (s.dsp k).accum c)) →
    (∀ c, c < 2 → satSigned 16 (f c 1) = f c 1 ∧ satSigned 16 (f c (-1)) = f c (-1)) →
    Completes (.asx k m) s fun t => Retired k (fun y =>
      (y.setD (Dw.d m.w) (packHalves (f 0 1) (f 1 1))).setD (Dw.s m.w) (packHalves (f 0 (-1)) (f 1 (-1)))) [] [] s t) ∧
  (∀ k m s sh (f : Nat → Int → Int), retires s k m → zeroBits m.w 9 0 = true → sh = 16 + ((s.dsp k).reg (Dw.f m.w 13 10)).toNat % 16 →
    (∀ c sg, f c sg = roundShift (s.dsp k).rnd sh (halfOf ((s.dsp k).reg (Dw.t m.w)) c * 2 ^ 16 + sg * (s.dsp k).accum c)) →
    (∃ c sg, c < 2 ∧ (sg = 1 ∨ sg = -1) ∧ satSigned 16 (f c sg) ≠ f c sg) →
    Completes (.asx k m) s fun t => Retired k (fun y =>
      { (y.setD (Dw.d m.w) (packHalves (satSigned 16 (f 0 1)) (satSigned 16 (f 1 1)))).setD (Dw.s m.w)
          (packHalves (satSigned 16 (f 0 (-1))) (satSigned 16 (f 1 (-1)))) with sw := y.sw ||| 2 ^ 10 }) [] [] s t) ∧
  (∀ k m s, retires s k m → zeroBits m.w 9 0 = true →
    Completes (.bexp k m) s fun t => Retired k (fun y => y.setD (Dw.d m.w)
      (BitVec.ofNat 32 (min ((s.dsp k).reg (Dw.d m.w)).toNat (headroom 32 ((s.dsp k).reg (Dw.s m.w)).toInt)))) [] [] s t) ∧
  (∀ k m s, retires s k m → zeroBits m.w 9 0 = true →
    Completes (.bexp2 k m) s fun t => Retired k (fun y => y.setD (Dw.d m.w)
      (BitVec.ofNat 32 (min ((s.dsp k).reg (Dw.d m.w)).toNat (min (headroom 16 (halfOf ((s.dsp k).reg (Dw.s m.w)) 0))
        (headroom 16 (halfOf ((s.dsp k).reg (Dw.s m.w)) 1)))))) [] [] s t) ∧
  (∀ k m s c d, retires s k m → zeroBits m.w 9 0 = true → d = Dw.d m.w → d % 2 = 0 →
    (c = .maxi k m ∧ ((s.dsp k).reg d).toInt < ((s.dsp k).reg (Dw.s m.w)).toInt) ∨
      (c = .mini k m ∧ ((s.dsp k).reg (Dw.s m.w)).toInt < ((s.dsp k).reg d).toInt) →
    Completes c s fun t => Retired k (fun y =>
      { (y.setD d ((s.dsp k).reg (Dw.s m.w))).setD (d + 1) (s.dsp k).xc with xc := (s.dsp k).xc + 1 }) [] [] s t) ∧
  (∀ k m s c d, retires s k m → zeroBits m.w 9 0 = true → d = Dw.d m.w → d % 2 = 0 →
    (c = .maxi k m ∧ ((s.dsp k).reg (Dw.s m.w)).toInt ≤ ((s.dsp k).reg d).toInt) ∨
      (c = .mini k m ∧ ((s.dsp k).reg d).toInt ≤ ((s.dsp k).reg (Dw.s m.w)).toInt) →
    Completes c s fun t => Retired k (fun y => { y with xc := (s.dsp k).xc + 1 }) [] [] s t) ∧
  (∀ k m s v, retires s k m → zeroBits m.w 21 6 = true → (s.dsp k).sysRead (s.get (.dsp k) DSP.DOORBELL_VALUE) (Dw.f m.w 5 0) = some v →
    Completes (.movs k m) s fun t => Retired k (fun y => y.setD (Dw.d m.w) (BitVec.ofNat 32 v)) [] [] s t) ∧
  (∀ k m s y, retires s k m → zeroBits m.w 21 6 = true →
    (s.dsp k).commit.sysWrite (Dw.f m.w 5 0) ((s.dsp k).reg (Dw.d m.w)).toNat = some y →
    Completes (.movt k m) s fun t => Retired k (fun _ => y) [] [] s t)

/-- No word table but the poison marks changes. -/
def WordsKept (s t : State) : Prop := ∀ u i, i < 2 ^ 44 → u ≠ Table.poison → t.word u i = s.word u i

/-- A processor has stopped: its outstanding load is in its register, and its PC, delay slots and repeat are dropped. -/
def AtRest (y : DspState) : DspState := { y.commit with slots := 0, target := none, toLr := false, rpt := none, haltReq := false }

/-- A processor fault (R289): FAULTED, with the instruction's index, and FAULT bit `bit`. -/
def DspFaulted (k : BlockId) (bit : Nat) (but : List (Page × Field)) (s t : State) : Prop :=
  t.dspIs k .faulted = true ∧ t.get (.dsp k) DSP.FAULT_PC_PC = (s.dsp k).pc % 2 ^ 13 ∧ Raised (.dsp k) bit s t ∧ t.dsp k = AtRest (s.dsp k) ∧
  (∀ j, j ≠ k.val → t.dsp j = s.dsp j) ∧
  OnlyChanges ((.dsp k, DSP.STATUS_STATE) :: (.dsp k, DSP.FAULT_PC_PC) :: faultRegs (.dsp k) ++ but) [.dsps, .out] s t

/-- The commands that spell one instruction of block `k`'s processor: those that read its bank, and the others. -/
def dspReads (k : BlockId) (m : DspArgs) : List Instr := [.ldw k m, .ldh k m]
def dspCommands (k : BlockId) (m : DspArgs) : List Instr :=
  [.dspNop k m, .dspHalt k m, .dspIdle k m, .dspReti k m, .dspLdi k m, .ldih k m, .dspAlu k m, .dspAlui k m, .stw k m, .sth k m, .dspMac k m,
   .dspAcc k m, .dspExt k m, .asx k m, .bexp k m, .bexp2 k m, .maxi k m, .mini k m, .movs k m, .movt k m, .dspBr k m, .dspCall k m, .dspRet k m,
   .dspRpt k m, .dspNotify k m] ++ dspReads k m

/-- The half word of a block's bank that a processor's address names: the byte address of its word. -/
def dspByte (k : BlockId) (a : BitVec 19) : Nat := bankAddr k (a.toNat / 2) + 4 * (a.toNat % 2)

/-- A memory instruction of a legal addressing mode accesses the word at `a` and leaves its address registers as `y`. -/
def accesses (s : State) (k : BlockId) (m : DspArgs) (a : BitVec 19) (y : DspState) : Prop :=
  retires s k m ∧ Dw.f m.w 17 16 ≠ 3 ∧ (s.dsp k).access (s.dsp k).commit m.w = (a, y)

/-- The counters a bank access may change. -/
def accessFields (k : BlockId) : List (Page × Field) := [(.dsp k, DSP.BANK_WAITS_COUNT), (bankPage k, BANK.ECC_CORRECTED)]

/-- The fields that a processor's store to its bank may change. -/
def dspStoreFields (k : BlockId) : List (Page × Field) :=
  [(.dsp k, DSP.BANK_WAITS_COUNT), (bankPage k, BANK.POISON_COUNT), (bankPage k, BANK.INJECT_ARM)]

/-- The word a processor reads at `a` is good, and what it is. -/
def goodWord (s : State) (k : BlockId) (m : DspArgs) (a : BitVec 19) : Prop := s.bankBad k (a.toNat / 2) m.bankBad = false
def dspWord (s : State) (k : BlockId) (a : BitVec 19) : Word := BitVec.ofNat 32 (s.bytes (dspByte k a) 4)

/-- PMEM_SEL.ADDR after an access to PMEM_DATA (R292). -/
def PmemAfter (k : BlockId) (s t : State) : Prop :=
  t.get (.dsp k) DSP.PMEM_SEL_ADDR = if s.get (.dsp k) DSP.PMEM_SEL_AUTOINC = 1
    then (s.get (.dsp k) DSP.PMEM_SEL_ADDR + 1) % 8192 else s.get (.dsp k) DSP.PMEM_SEL_ADDR

/-- R275, R280, R282, R289, R292, R306, R312: the memory instructions of a block signal processor read and write the word, or its selected half,
that Pi and AM name, and update Pi; a loaded register becomes visible one instruction later; an uncorrectable word is a fault; PMEM_DATA and
REG_DATA reach program memory and the registers of a processor at rest. -/
def Obligations.DspMemory : Prop :=
  (∀ k m s a y, accesses s k m a y → goodWord s k m a →
    Completes (.ldw k m) s (Retired k (fun _ => { y with load := some (Dw.d m.w, dspWord s k a) }) (accessFields k) [] s)) ∧
  (∀ k m s a y, accesses s k m a y → goodWord s k m a →
    Completes (.ldh k m) s
      (Retired k (fun _ => { y with load := some (Dw.d m.w, BitVec.ofInt 32 (halfOf (dspWord s k a) (Dw.f m.w 18 18))) }) (accessFields k) [] s)) ∧
  (∀ k m s a y c, accesses s k m a y → ¬goodWord s k m a → c ∈ dspReads k m →
    Completes c s fun t =>
      DspFaulted k 2 ([(.dsp k, DSP.BANK_WAITS_COUNT), (bankPage k, BANK.ECC_UNCORRECTED), (bankPage k, BANK.UE_ADDR_WORD),
        (bankPage k, BANK.UE_ADDR_READER)] ++ faultRegs (bankPage k)) s t ∧
      t.get (bankPage k) BANK.UE_ADDR_WORD = a.toNat / 2 ∧ t.get (bankPage k) BANK.UE_ADDR_READER = 1) ∧
  (∀ k m s a y, accesses s k m a y →
    Completes (.stw k m) s fun t =>
      Stored k (dspByte k a) 4 ((s.dsp k).reg (Dw.d m.w)).toNat (fun _ => False) s t ∧
      Retired k (fun _ => y) (dspStoreFields k) [.mem, .tbl, .blks] s t) ∧
  (∀ k m s a y, accesses s k m a y →
    Completes (.sth k m) s fun t =>
      Stored k (dspByte k a + 2 * Dw.f m.w 18 18) 2 (((s.dsp k).reg (Dw.d m.w)).toNat % 2 ^ 16) (fun _ => False) s t ∧
      Retired k (fun _ => y) (dspStoreFields k) [.mem, .tbl, .blks] s t) ∧
  (∀ (fn : FuncId) (k : BlockId) (v : Word) s i, s.reachesDsp fn k = true → s.dspOpen k = true → i = s.get (.dsp k) DSP.PMEM_SEL_ADDR →
    Completes (.pmemData fn k (some v)) s fun t =>
      t.bytes (pmemAddr k i) 4 = v.toNat ∧ BytesKept (pmemAddr k i) 4 s t ∧ WordsKept s t ∧ PmemAfter k s t ∧
      OnlyChanges [(.dsp k, DSP.PMEM_SEL_ADDR)] [.mem, .tbl] s t) ∧
  (∀ (fn : FuncId) (k : BlockId) s i, s.reachesDsp fn k = true → i = s.get (.dsp k) DSP.PMEM_SEL_ADDR →
    Completes (.pmemData fn k none) s fun t =>
      t.rdata = (if s.dspIs k .halted ∨ s.dspIs k .faulted then s.bytes (pmemAddr k i) 4 else 0) ∧ PmemAfter k s t ∧
      OnlyChanges [(.dsp k, DSP.PMEM_SEL_ADDR)] [.rdata] s t) ∧
  (∀ (fn : FuncId) (k : BlockId) (v : Word) s i, s.reachesDsp fn k = true → s.dspOpen k = true → i = s.get (.dsp k) DSP.REG_SEL_REG → i < 16 →
    Completes (.regData fn k (some v)) s fun t =>
      t.dsp k = (s.dsp k).setD i v ∧ (∀ j, j ≠ k.val → t.dsp j = s.dsp j) ∧ OnlyChanges [] [.dsps] s t) ∧
  (∀ (fn : FuncId) (k : BlockId) (v : Word) s i y, s.reachesDsp fn k = true → s.dspOpen k = true → i = s.get (.dsp k) DSP.REG_SEL_REG →
    16 ≤ i → (s.dsp k).sysWrite (i - 16) v.toNat = some y →
    Completes (.regData fn k (some v)) s fun t => t.dsp k = y ∧ (∀ j, j ≠ k.val → t.dsp j = s.dsp j) ∧ OnlyChanges [] [.dsps] s t) ∧
  (∀ (fn : FuncId) (k : BlockId) s i, s.reachesDsp fn k = true → i = s.get (.dsp k) DSP.REG_SEL_REG → i < 16 →
    Completes (.regData fn k none) s fun t =>
      t.rdata = (if s.dspIs k .halted ∨ s.dspIs k .faulted then ((s.dsp k).reg i).toNat else 0) ∧ OnlyChanges [] [.rdata] s t) ∧
  (∀ (fn : FuncId) (k : BlockId) s c, s.reachesDsp fn k = false → c = .pmemData fn k none ∨ c = .regData fn k none →
    Completes c s fun t => t.rdata = 0 ∧ OnlyChanges [] [.rdata] s t) ∧
  (∀ (fn : FuncId) (k : BlockId) (v : Word) s c, s.reachesDsp fn k = true → s.dspOpen k = false →
    c = .pmemData fn k (some v) ∨ c = .regData fn k (some v) →
    Completes c s fun t => Raised (.dsp k) 4 s t ∧ OnlyChanges (faultRegs (.dsp k)) [.out] s t)

/-- A processor at a boundary: no delay slot is left and no repeat is under way. -/
def atBoundary (s : State) (k : BlockId) : Prop := (s.dsp k).slots = 0 ∧ (s.dsp k).rpt = none

/-- The encodings of R285 that are illegal although their opcode is not reserved. -/
def dspIllegal (k : BlockId) (m : DspArgs) (c : Instr) : Prop :=
  (c ∈ [Instr.dspNop k m, .dspHalt k m, .dspIdle k m, .dspReti k m, .dspRet k m, .dspNotify k m] ∧ m.w ≠ 0) ∨
  (c = .dspAlu k m ∧ (AluFn.ofCode (Dw.f m.w 13 10) = none ∨ zeroBits m.w 9 0 = false)) ∨ (c = .dspAlui k m ∧ AluFn.ofCode (Dw.f m.w 17 14) = none) ∨
  (c ∈ [Instr.ldw k m, .ldh k m, .stw k m, .sth k m] ∧ Dw.f m.w 17 16 = 3) ∨
  (c = .dspMac k m ∧ (Dw.f m.w 24 23 = 3 ∨ zeroBits m.w 22 22 = false ∨ zeroBits m.w 10 0 = false)) ∨
  (c = .dspAcc k m ∧ (Dw.f m.w 24 22 = 7 ∨ zeroBits m.w 17 5 = false)) ∨ (c = .dspExt k m ∧ zeroBits m.w 19 5 = false) ∨
  (c ∈ [Instr.asx k m, .bexp k m, .bexp2 k m] ∧ zeroBits m.w 9 0 = false) ∨
  (c ∈ [Instr.maxi k m, .mini k m] ∧ (zeroBits m.w 9 0 = false ∨ Dw.d m.w % 2 = 1)) ∨
  (c = .movs k m ∧ (42 ≤ Dw.f m.w 5 0 ∨ zeroBits m.w 21 6 = false)) ∨ (c = .movt k m ∧ (41 ≤ Dw.f m.w 5 0 ∨ zeroBits m.w 21 6 = false)) ∨
  (c ∈ [Instr.dspBr k m, .dspCall k m] ∧ branchLegal m.w = false)

/-- R265, R280, R283 to R289: branches act after two delay slots; RPT repeats its body; HALT, IDLE and RETI; NOTIFY sets its flag and sends its
interrupt; the pending source of the highest priority is taken; a reserved opcode, an illegal encoding, a branch in a delay slot or a repeat,
an uncorrectable fetch and the watchdog are faults; a processor that does not run, or that has an interrupt to take, executes nothing. -/
def Obligations.DspFlow : Prop :=
  (∀ k m s, retires s k m → atBoundary s k → branchLegal m.w = true →
    Completes (.dspBr k m) s fun t =>
      t.dsp k = { (s.dsp k).commit with
        pc := ((s.dsp k).pc + 1) % 8192, slots := 2, target := if dspCond (s.dsp k).sw (Dw.d m.w) then some (Dw.f m.w 12 0) else none } ∧
      OnlyChanges [(.dsp k, DSP.RETIRED_COUNT)] [.dsps] s t) ∧
  (∀ k m s, retires s k m → atBoundary s k → branchLegal m.w = true →
    Completes (.dspCall k m) s fun t =>
      t.dsp k = { (s.dsp k).commit with
        pc := ((s.dsp k).pc + 1) % 8192, lr := ((s.dsp k).pc + 3) % 8192, slots := 2, target := some (Dw.f m.w 12 0) } ∧
      OnlyChanges [(.dsp k, DSP.RETIRED_COUNT)] [.dsps] s t) ∧
  (∀ k m s, retires s k m → atBoundary s k → m.w = 0 →
    Completes (.dspRet k m) s fun t =>
      t.dsp k = { (s.dsp k).commit with pc := ((s.dsp k).pc + 1) % 8192, slots := 2, target := none, toLr := true } ∧
      OnlyChanges [(.dsp k, DSP.RETIRED_COUNT)] [.dsps] s t) ∧
  (∀ k m s, retires s k m → (s.dsp k).slots = 1 → m.w = 0 →
    Completes (.dspNop k m) s fun t =>
      (t.dsp k).pc = (if (s.dsp k).toLr = true then (s.dsp k).lr else (s.dsp k).target.getD (((s.dsp k).pc + 1) % 8192)) ∧
      (t.dsp k).slots = 0 ∧ (t.dsp k).target = none ∧ (t.dsp k).toLr = false) ∧
  (∀ k m s, retires s k m → (s.dsp k).slots = 1 → (s.dsp k).toLr = true → m.w.toNat % 2 ^ 22 = 34 →
    Completes (.movt k m) s fun t => (t.dsp k).pc = ((s.dsp k).reg (Dw.d m.w)).toNat % 2 ^ 13 ∧ (t.dsp k).slots = 0) ∧
  (∀ k m s, retires s k m → atBoundary s k → (s.dsp k).pc + 1 + Dw.f m.w 24 20 ≤ 8191 →
    Completes (.dspRpt k m) s fun t =>
      t.dsp k = { (s.dsp k).commit with
        pc := ((s.dsp k).pc + 1) % 8192,
        rpt := some ((s.dsp k).pc + 1, (s.dsp k).pc + 1 + Dw.f m.w 24 20,
          if Dw.f m.w 25 25 = 1 then ((s.dsp k).reg (Dw.f m.w 19 16)).toNat % 2 ^ 16 else Dw.f m.w 15 0) } ∧
      OnlyChanges [(.dsp k, DSP.RETIRED_COUNT)] [.dsps] s t) ∧
  (∀ k m s a n, retires s k m → (s.dsp k).slots = 0 → (s.dsp k).rpt = some (a, (s.dsp k).pc, n + 1) → m.w = 0 →
    Completes (.dspNop k m) s fun t => (t.dsp k).pc = a ∧ (t.dsp k).rpt = some (a, (s.dsp k).pc, n)) ∧
  (∀ k m s, retires s k m → atBoundary s k → m.w = 0 →
    Completes (.dspHalt k m) s fun t =>
      t.dspIs k .halted = true ∧ t.dsp k = AtRest { (s.dsp k).commit with pc := ((s.dsp k).pc + 1) % 8192 } ∧
      OnlyChanges [(.dsp k, DSP.RETIRED_COUNT), (.dsp k, DSP.STATUS_STATE)] [.dsps] s t) ∧
  (∀ k m s, retires s k m → atBoundary s k → m.w = 0 →
    Completes (.dspIdle k m) s fun t =>
      t.get (.dsp k) DSP.STATUS_STATE = (if s.get (.dsp k) DSP.IRQ_STATUS_PEND = 0 then DspRun.idle.code else DspRun.running.code) ∧
      t.dsp k = { (s.dsp k).commit with pc := ((s.dsp k).pc + 1) % 8192 } ∧
      OnlyChanges [(.dsp k, DSP.RETIRED_COUNT), (.dsp k, DSP.STATUS_STATE)] [.dsps] s t) ∧
  (∀ k m s, retires s k m → atBoundary s k → m.w = 0 → bitsOf (s.dsp k).isw 7 6 ≠ 3 →
    Completes (.dspReti k m) s fun t =>
      t.dsp k = { (s.dsp k).commit with sw := (s.dsp k).isw % 2 ^ 12, pc := (s.dsp k).ipc } ∧
      OnlyChanges [(.dsp k, DSP.RETIRED_COUNT)] [.dsps] s t) ∧
  (∀ k m s, retires s k m → m.w = 0 →
    Completes (.dspNotify k m) s fun t =>
      t.get (.dsp k) DSP.STATUS_NOTIFY = 1 ∧ Emit.msix 0 (96 + k) ∈ t.out ∧ Retired k (fun y => y) [(.dsp k, DSP.STATUS_NOTIFY)] [.out] s t) ∧
  (∀ (k : BlockId) s i, s.dspIs k .running = true → s.time.frozen = false → Nat.testBit (s.dsp k).sw 4 = true → atBoundary s k → i < 3 →
    bitOf (s.get (.dsp k) DSP.IRQ_STATUS_PEND) i = 1 → (∀ j, j < i → bitOf (s.get (.dsp k) DSP.IRQ_STATUS_PEND) j = 0) →
    s.get (.dsp k) DSP.IRQ_STATUS_PEND < 8 →
    Completes (.dspInterrupt k) s fun t =>
      t.get (.dsp k) DSP.IRQ_STATUS_PEND = s.get (.dsp k) DSP.IRQ_STATUS_PEND - 2 ^ i ∧
      t.dsp k = { (s.dsp k).commit with ipc := (s.dsp k).pc, isw := (s.dsp k).sw, sw := (s.dsp k).sw - 16, pc := 4 * (i + 1) } ∧
      (∀ j, j ≠ k.val → t.dsp j = s.dsp j) ∧ OnlyChanges [(.dsp k, DSP.IRQ_STATUS_PEND)] [.dsps] s t) ∧
  (∀ (k : BlockId) s, s.dspIs k .running = false ∨ s.dspIrqDue k = false ∨ s.time.frozen = true → Completes (.dspInterrupt k) s (· = s)) ∧
  (∀ k m s c, dspNext s k → s.fetchBad k m = false → dspIllegal k m c ∨ (s.dspReserved k = true ∧ c ∈ dspCommands k m) →
    Completes c s (DspFaulted k 0 [] s)) ∧
  (∀ k m s c, dspNext s k → s.fetchBad k m = false → ¬atBoundary s k →
    c ∈ [Instr.dspBr k m, .dspCall k m, .dspRet k m, .dspRpt k m, .dspHalt k m, .dspIdle k m, .dspReti k m] →
    Completes c s (DspFaulted k 0 [] s)) ∧
  (∀ k m s c, dspNext s k → s.fetchBad k m = true → c ∈ dspCommands k m → Completes c s (DspFaulted k 1 [] s)) ∧
  (∀ k m s c, s.dspIs k .running = false ∨ s.dspIrqDue k = true ∨ s.time.frozen = true → c ∈ dspCommands k m → Completes c s (· = s)) ∧
  (∀ (k : BlockId) s, s.dspIs k .running = true →
    Completes (.dspWdog k) s fun t => t.dspIs k .faulted = true ∧ Nat.testBit (t.get (.dsp k) ALL.FAULT_BITS) 3 = true ∧
      t.pageIs (.block k) .quarantined = true) ∧
  (∀ (k : BlockId) s, s.dspIs k .running = false → Completes (.dspWdog k) s (· = s))

/-- The fields of a processor's state and its host flags. -/
def dspRunFields (k : BlockId) : List (Page × Field) :=
  [(.dsp k, DSP.STATUS_STATE), (.dsp k, DSP.STATUS_ABORTED), (.dsp k, DSP.IRQ_STATUS_PEND)]

/-- R286, R288, R290 to R293, R406, R475: START begins a processor at rest at CFG.START_PC and measures its program into M5; HALT stops it at a
boundary and ABORT at once, both clearing the pending sources; the doorbell; a watch job takes a lent processor at rest, unless the watch is
paused, and returns it with its words in the top 64 KiB of the bank, a command held meanwhile acting then; YIELD raises its source; a function that does not reach the page changes nothing. -/
def Obligations.DspControl : Prop :=
  (∀ (fn : FuncId) (k : BlockId) s, s.reachesDsp fn k = true → s.pageIs (.dsp k) .ready = true → s.dspIs k .halted = true ∨ s.dspIs k .faulted = true →
    Completes (.dspStart fn k) s fun t =>
      t.dspIs k .running = true ∧ t.dsp k = { AtRest (s.dsp k) with pc := s.get (.dsp k) DSP.CFG_START_PC } ∧
      t.get (.dsp k) DSP.STATUS_ABORTED = 0 ∧ (∀ j, j ≠ k.val → t.dsp j = s.dsp j) ∧
      (∀ u i, i < 2 ^ 44 → u ≠ Table.measurements ∨ i < 80 ∨ 96 ≤ i → t.word u i = s.word u i) ∧
      OnlyChanges [(.dsp k, DSP.STATUS_STATE), (.dsp k, DSP.STATUS_ABORTED)] [.dsps, .tbl] s t) ∧
  (∀ (fn : FuncId) (k : BlockId) s, s.reachesDsp fn k = true → s.dspIs k .running = true ∨ s.dspIs k .idle = true → atBoundary s k →
    Completes (.dspCtrlHalt fn k) s fun t =>
      t.dspIs k .halted = true ∧ t.dsp k = AtRest (s.dsp k) ∧ t.get (.dsp k) DSP.IRQ_STATUS_PEND = 0 ∧
      (∀ j, j ≠ k.val → t.dsp j = s.dsp j) ∧ OnlyChanges (dspRunFields k) [.dsps] s t) ∧
  (∀ (fn : FuncId) (k : BlockId) s, s.reachesDsp fn k = true → s.dspIs k .running = true ∨ s.dspIs k .idle = true → ¬atBoundary s k →
    Completes (.dspCtrlHalt fn k) s fun t =>
      t.dsp k = { s.dsp k with haltReq := true } ∧ t.get (.dsp k) DSP.IRQ_STATUS_PEND = 0 ∧
      OnlyChanges [(.dsp k, DSP.IRQ_STATUS_PEND)] [.dsps] s t) ∧
  (∀ (fn : FuncId) (k : BlockId) s, s.reachesDsp fn k = true → s.dspIs k .running = false → s.dspIs k .idle = false →
    Completes (.dspCtrlHalt fn k) s fun t => t.get (.dsp k) DSP.IRQ_STATUS_PEND = 0 ∧ OnlyChanges [(.dsp k, DSP.IRQ_STATUS_PEND)] [] s t) ∧
  (∀ k m s, dspNext s k → s.fetchBad k m = false → s.dspReserved k = false → m.w = 0 →
    (s.dsp k).haltReq = true → (s.dsp k).slots = 1 → (s.dsp k).rpt = none →
    Completes (.dspNop k m) s fun t => t.dspIs k .halted = true ∧ (t.dsp k).haltReq = false) ∧
  (∀ (fn : FuncId) (k : BlockId) s, s.reachesDsp fn k = true → s.dspIs k .running = true ∨ s.dspIs k .idle = true →
    Completes (.dspAbort fn k) s fun t =>
      t.dspIs k .halted = true ∧ t.dsp k = AtRest (s.dsp k) ∧ t.get (.dsp k) DSP.STATUS_ABORTED = 1 ∧
      t.get (.dsp k) DSP.IRQ_STATUS_PEND = 0 ∧ (∀ j, j ≠ k.val → t.dsp j = s.dsp j) ∧ OnlyChanges (dspRunFields k) [.dsps] s t) ∧
  (∀ (fn : FuncId) (k : BlockId) s c, s.reachesDsp fn k = true → s.dspIs k .watch = true → (c = .dspStart fn k ∧ s.pageIs (.dsp k) .ready = true) ∨ c = .dspAbort fn k →
    Completes c s fun t =>
      t.dsp k = { s.dsp k with heldStart := some (c = .dspStart fn k) } ∧ t.get (.dsp k) DSP.STATUS_START_HELD = 1 ∧
      (∀ j, j ≠ k.val → t.dsp j = s.dsp j) ∧ OnlyChanges [(.dsp k, DSP.STATUS_START_HELD)] [.dsps] s t) ∧
  (∀ (fn : FuncId) (k : BlockId) s, s.pageIs (.dsp k) .ready = false ∨ s.dspIs k .running = true ∨ s.dspIs k .idle = true →
    Completes (.dspStart fn k) s (· = s)) ∧
  (∀ (fn : FuncId) (k : BlockId) s, s.reachesDsp fn k = true → s.dspIs k .halted = true ∨ s.dspIs k .faulted = true →
    Completes (.dspAbort fn k) s fun t => t.get (.dsp k) DSP.IRQ_STATUS_PEND = 0 ∧ OnlyChanges [(.dsp k, DSP.IRQ_STATUS_PEND)] [] s t) ∧
  (∀ (fn : FuncId) (k : BlockId) s, s.reachesDsp fn k = true →
    Completes (.clrFlags fn k) s fun t =>
      t.get (.dsp k) DSP.STATUS_NOTIFY = 0 ∧ t.dsp k = { s.dsp k with sw := (s.dsp k).sw &&& 0xFF } ∧
      (∀ j, j ≠ k.val → t.dsp j = s.dsp j) ∧ OnlyChanges [(.dsp k, DSP.STATUS_NOTIFY)] [.dsps] s t) ∧
  (∀ (fn : FuncId) (k : BlockId) (v : Word) s, s.reachesDsp fn k = true → s.dspIs k .idle = true → Nat.testBit (s.get (.dsp k) DSP.IRQ_EN_EN) 1 = true →
    Completes (.dspDoorbell fn k v) s fun t =>
      t.get (.dsp k) DSP.DOORBELL_VALUE = v.toNat ∧ t.get (.dsp k) DSP.IRQ_STATUS_PEND = (s.get (.dsp k) DSP.IRQ_STATUS_PEND ||| 2) % 8 ∧
      t.dspIs k .running = true ∧
      t.get (.dsp k) DSP.IRQ_STATUS_DB_OVER = (if Nat.testBit (s.get (.dsp k) DSP.IRQ_STATUS_PEND) 1 then 1 else 0) ∧
      OnlyChanges [(.dsp k, DSP.DOORBELL_VALUE), (.dsp k, DSP.IRQ_STATUS_PEND), (.dsp k, DSP.IRQ_STATUS_DB_OVER), (.dsp k, DSP.STATUS_STATE)] [] s t) ∧
  (∀ (fn : FuncId) (k : BlockId) (v : Word) s, s.reachesDsp fn k = true → Nat.testBit (s.get (.dsp k) DSP.IRQ_EN_EN) 1 = false →
    Completes (.dspDoorbell fn k v) s fun t =>
      t.get (.dsp k) DSP.DOORBELL_VALUE = v.toNat ∧ OnlyChanges [(.dsp k, DSP.DOORBELL_VALUE), (.dsp k, DSP.IRQ_STATUS_DB_OVER)] [] s t) ∧
  (∀ (fn : FuncId) (k : BlockId) (v : Word) s c, s.reachesDsp fn k = false →
    c = .dspStart fn k ∨ c = .dspCtrlHalt fn k ∨ c = .dspAbort fn k ∨ c = .clrFlags fn k ∨ c = .dspDoorbell fn k v ∨
      c = .pmemData fn k (some v) ∨ c = .regData fn k (some v) →
    Completes c s fun t => t = s) ∧
  (∀ (k : BlockId) s, s.dspIs k .halted = true → s.get (.dsp k) DSP.CFG_WATCH_EN = 1 → s.shed = false →
    Completes (.watchJobStart k) s fun t => t.dspIs k .watch = true ∧ OnlyChanges [(.dsp k, DSP.STATUS_STATE)] [] s t) ∧
  (∀ (k : BlockId) s, s.dspIs k .halted = false ∨ s.get (.dsp k) DSP.CFG_WATCH_EN ≠ 1 ∨ s.shed = true →
    Completes (.watchJobStart k) s (· = s)) ∧
  (∀ (k : BlockId) bank s, s.dspIs k .watch = true → (s.dsp k).heldStart = none →
    Completes (.watchJobEnd k bank) s fun t =>
      t.dspIs k .halted = true ∧ t.dsp k = s.dsp k ∧ t.get (.dsp k) DSP.STATUS_START_HELD = 0 ∧
      BytesKept (bankAddr k 0 + 0x1F0000) 0x10000 s t ∧ WordsKept s t ∧ (∀ j, j ≠ k.val → t.dsp j = s.dsp j ∧ t.blk j = s.blk j) ∧
      t.blk k = { s.blk k with unseen := (t.blk k).unseen } ∧
      OnlyChanges [(.dsp k, DSP.STATUS_STATE), (.dsp k, DSP.STATUS_START_HELD), (bankPage k, BANK.POISON_COUNT), (bankPage k, BANK.INJECT_ARM)]
        [.dsps, .mem, .tbl, .blks] s t) ∧
  (∀ (k : BlockId) i (v : Word) s, s.dspIs k .watch = true →
    Completes (.watchJobEnd k [(i, v)]) s fun t => t.bytes (bankAddr k 0 + 0x1F0000 + 4 * i.toNat) 4 = v.toNat) ∧
  (∀ (k : BlockId) bank s, s.dspIs k .watch = true → (s.dsp k).heldStart = some true →
    Completes (.watchJobEnd k bank) s fun t =>
      t.dspIs k .running = true ∧ (t.dsp k).pc = s.get (.dsp k) DSP.CFG_START_PC ∧ (t.dsp k).heldStart = none) ∧
  (∀ (k : BlockId) bank s, s.dspIs k .watch = true → (s.dsp k).heldStart = some false →
    Completes (.watchJobEnd k bank) s fun t =>
      t.dspIs k .halted = true ∧ t.get (.dsp k) DSP.IRQ_STATUS_PEND = 0 ∧ (t.dsp k).heldStart = none) ∧
  (∀ (k : BlockId) bank s, s.dspIs k .watch = false → Completes (.watchJobEnd k bank) s (· = s)) ∧
  (∀ (k : BlockId) s, s.get (.dsp k) DSP.CFG_WATCH_EN ≠ 1 ∨ s.shed = true ∨ (s.dspIs k .running = false ∧ s.dspIs k .idle = false) ∨
      Nat.testBit (s.get (.dsp k) DSP.IRQ_EN_EN) 2 = false →
    Completes (.watchYield k) s (· = s)) ∧
  (∀ (k : BlockId) s, s.get (.dsp k) DSP.CFG_WATCH_EN = 1 → s.shed = false → s.dspIs k .running = true ∨ s.dspIs k .idle = true →
    Nat.testBit (s.get (.dsp k) DSP.IRQ_EN_EN) 2 = true →
    Completes (.watchYield k) s fun t =>
      t.get (.dsp k) DSP.IRQ_STATUS_PEND = (s.get (.dsp k) DSP.IRQ_STATUS_PEND ||| 4) % 8 ∧ t.dspIs k .running = true ∧
      OnlyChanges [(.dsp k, DSP.IRQ_STATUS_PEND), (.dsp k, DSP.STATUS_STATE)] [] s t)

/-- The fields of a queue's registers that its porter moves. -/
def queueMoves (q : QueueRegs) (n : Nat) : List (Page × Field) :=
  [(q.page, q.head), (q.page, q.done), (q.page, q.last), (q.page, q.en), (q.page, q.inflight), (porterPage n, PORTER.DQ_STATUS_INFLIGHT)]

/-- The result fields of a library load. -/
def libFields (k : BlockId) : List (Page × Field) :=
  [(.block k, BLOCK.LIB_STATUS_BUSY), (.block k, BLOCK.LIB_STATUS_DONE), (.block k, BLOCK.LIB_STATUS_OK), (.block k, BLOCK.LIB_STATUS_REASON),
   (.block k, BLOCK.LIB_STATUS_INDEX)]

/-- A function may use the BAR2 window: the physical function, or a READY guest (R299). -/
def opensBar2 (s : State) (fn : FuncId) : Prop := fn.val = 0 ∨ s.guestReady fn = true

/-- R127, R298: bytes that host software of `fn` has written to block `k`'s memories at `a`: engines of the block go on seeing what stood there
until a fence of `fn` shows them, and see every other byte as before. -/
def HiddenFrom (k a n : Nat) (fn : FuncId) (s t : State) : Prop :=
  (∀ b, t.seenByte k b = s.seenByte k b) ∧
  t.blk k = { s.blk k with unseen := (s.blk k).unseen ++ (upTo n).map fun i => ⟨fn.val, none, a + i, s.byte (a + i)⟩ } ∧
  ∀ j, j ≠ k → t.blk j = s.blk j

/-- A queue's oldest descriptor `d` has completed with a status: its STATUS word is written, DQ_DONE moves on, and only LAST and, of a status
that is no success, the fault registers change besides. -/
def DescEnds (n : RegionId) (owner : FuncId) (rest : List (BitVec 256)) (status z : Nat) (s t : State) : Prop :=
  t.bytes z 4 = status + 2 ^ 31 ∧ (t.dq (queueNo n owner)).fetched = rest ∧ (∀ j, j ≠ queueNo n owner → t.dq j = s.dq j) ∧
  t.get (queueRegs n owner).page (queueRegs n owner).done = s.nextDesc (queueRegs n owner) (s.get (queueRegs n owner).page (queueRegs n owner).done) % 2 ^ 12 ∧
  (status ≠ 0 → t.get (queueRegs n owner).page (queueRegs n owner).last = status ∧ Raised (porterPage n) 0 s t)

/-- The oldest fetched descriptor `d` of a queue, its registers, and where its STATUS word stands. -/
def oldestDesc (s : State) (n : RegionId) (owner : FuncId) (d : BitVec 256) (rest : List (BitVec 256)) (z : Nat) : Prop :=
  (s.dq (queueNo n owner)).fetched = d :: rest ∧
  z = s.descAddr (queueRegs n owner) (s.get (queueRegs n owner).page (queueRegs n owner).done) + 0x1C ∧
  s.descInReach n owner (s.get (queueRegs n owner).page (queueRegs n owner).done) = true ∧ Desc.notify d.toNat = false

/-- The fields of a queue's registers and of its faults. -/
def queueFaults (n : RegionId) (owner : FuncId) : List (Page × Field) :=
  queueMoves (queueRegs n owner) n ++ faultRegs (porterPage n) ++ faultRegs (queueRegs n owner).page

/-- R127, R297 to R304, R307, R309, R311, R412, R544: a BAR2 write stores the bytes its function's view shows, and nothing else, and an engine goes on
seeing a bank or scratchpad as it was until a fence; a porter fetches the next descriptor of the queue whose turn it is, moves the bytes of
the oldest, writes its status and advances DQ_DONE, or stops at an uncorrectable unit; disabling a queue aborts it; a library load is checked
and its image written into its page. -/
def Obligations.MemoriesAndPorters : Prop :=
  (∀ (fn : FuncId) (a : BitVec 36) data s, opensBar2 s fn → a.toNat + data.length ≤ hbmEnd → s.get .hbm HBM.STATUS_WIPING = 0 →
    (∀ i, i < data.length → s.hbmView fn (a.toNat + i) 1 = true) →
    Completes (.bar2Write fn a data) s fun t =>
      t.byteList a.toNat data.length = data ∧ BytesKept a.toNat data.length s t ∧ WordsKept s t ∧ OnlyChanges [] [.mem, .tbl] s t) ∧
  (∀ (fn : FuncId) (a : BitVec 36) data s k w, fn.val = 0 → data.length = 8 → a.toNat = bankAddr k w → k < 64 → w < 262144 →
    s.wipingBlock k = false →
    Completes (.bar2Write fn a data) s fun t =>
      t.byteList a.toNat 8 = data ∧ BytesKept a.toNat 8 s t ∧ WordsKept s t ∧ HiddenFrom k a.toNat 8 fn s t ∧
      OnlyChanges [(bankPage k, BANK.POISON_COUNT), (bankPage k, BANK.INJECT_ARM)] [.mem, .tbl, .blks] s t) ∧
  (∀ (fn : FuncId) (a : BitVec 36) data s (e : EngineId) b, opensBar2 s fn → data.length = 8 → a.toNat = spadAddr e b → b % 8 = 0 →
    0x8000 ≤ b → b < 0xFF00 → fn.val = 0 ∨ s.guestOf e = fn.val → s.wipingBlock (blockOf e) = false →
    Completes (.bar2Write fn a data) s fun t =>
      t.byteList a.toNat 8 = data ∧
      (∀ c, c < a.toNat ∨ a.toNat + 8 ≤ c → ¬(mirrored s e = true ∧ spareAddr (blockOf e) b ≤ c ∧ c < spareAddr (blockOf e) b + 8) →
        t.byte c = s.byte c) ∧
      WordsKept s t ∧ HiddenFrom (blockOf e) a.toNat 8 fn s t ∧ OnlyChanges [] [.mem, .tbl, .blks] s t) ∧
  (∀ (fn : FuncId) (a : BitVec 36) data s (n : RegionId) i, opensBar2 s fn → data.length = 8 → a.toNat = ctxAddr n 0 + 8 * i → i < 2 ^ 20 →
    s.ctxView fn n (i / 8) = true → s.word .misc (wipeRegion n) = 0 →
    Completes (.bar2Write fn a data) s fun t =>
      t.byteList a.toNat 8 = data ∧ BytesKept a.toNat 8 s t ∧ WordsKept s t ∧ OnlyChanges [] [.mem, .tbl] s t) ∧
  (∀ (fn : FuncId) (a : BitVec 36) data s (n : RegionId) i, fn.val = 0 → data.length = 4 → a.toNat = weightAddr n 0 + 4 * i → i < 2 ^ 19 →
    s.word .misc (wipeRegion n) = 0 → s.wf = true →
    Completes (.bar2Write fn a data) s fun t =>
      t.byteList a.toNat 4 = data ∧ BytesKept a.toNat 4 s t ∧ WordsKept s t ∧
      (∀ k, t.tone k = match (s.tone k).window with
        | some w => if regionOf w.engine = n then
            { s.tone k with window := some { w with olds := w.olds ++ [(s.integrated w, i, s.bytes (weightAddr n i) 4)] } } else s.tone k
        | none => s.tone k) ∧
      OnlyChanges [] [.mem, .tbl, .tones] s t) ∧
  (∀ (fn : FuncId) (a : BitVec 36) (v : Byte) s, fn.val = 0 → placeOf a.toNat = none → Completes (.bar2Write fn a [v]) s fun t => t = s) ∧
  (∀ (fn : FuncId) (a : BitVec 36) (v : Byte) s x, placeOf a.toNat = some x →
    s.viewOf fn x = false ∨ x.writable = false ∨ s.wiping x = true ∨ (fn.val ≠ 0 ∧ s.guestReady fn.val = false) →
    Completes (.bar2Write fn a [v]) s fun t => t = s) ∧
  (∀ (n : RegionId) (owner : FuncId) s, s.nextQueue n ≠ some owner.val ∨ 256 ≤ s.inflight n ∨ s.pageIs (.porter n) .ready = false →
    Completes (.descriptorFetch n owner) s (· = s)) ∧
  (∀ (n : RegionId) (owner : FuncId) s q, q = queueRegs n owner → s.nextQueue n = some owner.val →
    s.inflight n < 256 → s.pageIs (.porter n) .ready = true →
    Completes (.descriptorFetch n owner) s fun t =>
      (t.capq n).dqTurn = (owner.val + 1) % 65 ∧ (t.capq n).recs = (s.capq n).recs ∧ (∀ j, j ≠ n.val → t.capq j = s.capq j) ∧
      (t.dq (queueNo n owner)).fetched = (s.dq (queueNo n owner)).fetched ++ [BitVec.ofNat 256 (s.hbmBytes (s.descAddr q (s.get q.page q.head)) 32)] ∧
      t.get q.page q.head = (s.get q.page q.head + 1) % max 1 (s.get q.page q.size) % 2 ^ 12 ∧
      (∀ j, j ≠ queueNo n owner → t.dq j = s.dq j) ∧
      OnlyChanges [(q.page, q.head), (q.page, q.inflight), (porterPage n, PORTER.DQ_STATUS_INFLIGHT)] [.dqs, .capqs] s t) ∧
  (∀ (n : RegionId) (owner : FuncId) host s d rest z src dst len, oldestDesc s n owner d rest z →
    s.descReason n owner d.toNat = none → src = Desc.src d.toNat → dst = Desc.dst d.toNat → len = Desc.len d.toNat →
    Desc.irq d.toNat = false → src + len ≤ hbmEnd → dst + len ≤ hbmEnd →
    (∀ i, i < len / 8 → s.poisoned (src + 8 * i) = false) → dst + len ≤ z ∨ z + 4 ≤ dst →
    Completes (.descriptorComplete n owner .ok host) s fun t =>
      t.byteList dst len = s.byteList src len ∧ DescEnds n owner rest 0 z s t ∧
      (∀ b, b < dst ∨ dst + len ≤ b → b < z ∨ z + 4 ≤ b → t.byte b = s.byte b) ∧ WordsKept s t ∧
      OnlyChanges ((.hbm, HBM.ECC_CORRECTED) :: queueMoves (queueRegs n owner) n) [.mem, .tbl, .dqs] s t) ∧
  (∀ (n : RegionId) (owner : FuncId) host s d rest z src dst len, oldestDesc s n owner d rest z →
    s.descReason n owner d.toNat = none → src = Desc.src d.toNat → dst = Desc.dst d.toNat → len = Desc.len d.toNat →
    src + len ≤ hbmEnd → onHost dst = true → (∀ i, i < len / 8 → s.poisoned (src + 8 * i) = false) →
    Completes (.descriptorComplete n owner .ok host) s fun t =>
      t.out.take (s.out.length + 1) = s.out ++ [.hostWrite owner.val (dst % 2 ^ 63) (s.byteList src len)] ∧
      DescEnds n owner rest 0 z s t ∧ BytesKept z 4 s t ∧ WordsKept s t ∧
      OnlyChanges ((.hbm, HBM.ECC_CORRECTED) :: queueMoves (queueRegs n owner) n) [.mem, .tbl, .dqs, .out] s t) ∧
  (∀ (n : RegionId) (owner : FuncId) host s d rest z src dst len, oldestDesc s n owner d rest z →
    s.descReason n owner d.toNat = none → src = Desc.src d.toNat → dst = Desc.dst d.toNat → len = Desc.len d.toNat →
    onHost src = true → dst + len ≤ hbmEnd → host.length = len → dst + len ≤ z ∨ z + 4 ≤ dst →
    Completes (.descriptorComplete n owner .ok host) s fun t =>
      t.byteList dst len = host ∧ DescEnds n owner rest 0 z s t ∧
      (∀ b, b < dst ∨ dst + len ≤ b → b < z ∨ z + 4 ≤ b → t.byte b = s.byte b) ∧ WordsKept s t ∧
      OnlyChanges (queueMoves (queueRegs n owner) n) [.mem, .tbl, .dqs, .out] s t) ∧
  (∀ (n : RegionId) (owner : FuncId) host s d rest z src dst len i k, oldestDesc s n owner d rest z →
    s.descReason n owner d.toNat = none → src = Desc.src d.toNat → dst = Desc.dst d.toNat → len = Desc.len d.toNat →
    src + len ≤ hbmEnd → dst + len ≤ hbmEnd → i < len / 8 → s.poisoned (src + 8 * i) = true →
    (∀ j, j < i → s.poisoned (src + 8 * j) = false) → k = (src + 8 * i) / 64 * 64 - src → dst + len ≤ z ∨ z + 4 ≤ dst →
    Completes (.descriptorComplete n owner .ok host) s fun t =>
      t.byteList dst k = s.byteList src k ∧ DescEnds n owner rest 3 z s t ∧
      (∀ b, b < dst ∨ dst + k ≤ b → b < z ∨ z + 4 ≤ b → t.byte b = s.byte b) ∧ WordsKept s t ∧
      t.get .hbm HBM.ECC_UNCORRECTED = satInc HBM.ECC_UNCORRECTED.width (s.get .hbm HBM.ECC_UNCORRECTED) % 2 ^ HBM.ECC_UNCORRECTED.width ∧
      t.get .hbm HBM.UE_ADDR_LO = (src + 8 * i) / 8 * 8 % 2 ^ HBM.UE_ADDR_LO.width ∧ Raised .hbm 0 s t) ∧
  (∀ (n : RegionId) (owner : FuncId) host result s d rest z r, oldestDesc s n owner d rest z → s.descReason n owner d.toNat = some r →
    Completes (.descriptorComplete n owner result host) s fun t =>
      DescEnds n owner rest r z s t ∧ BytesKept z 4 s t ∧ (owner.val ≠ 0 → Raised (queueRegs n owner).page 1 s t) ∧
      WordsKept s t ∧ OnlyChanges (queueFaults n owner) [.mem, .tbl, .dqs, .out] s t) ∧
  (∀ (n : RegionId) (owner : FuncId) host result s, (s.dq (queueNo n owner)).fetched = [] →
    Completes (.descriptorComplete n owner result host) s (· = s)) ∧
  (∀ (fn : FuncId) (n : RegionId) s q, q = queueRegs n fn → s.get q.page q.en = 1 → fn.val = 0 ∨ s.guestReady fn.val = true →
    Completes (.dqDisable fn n) s fun t =>
      t.get q.page q.en = 0 ∧ (t.dq (queueNo n fn)).fetched = [] ∧ t.get q.page q.head = s.get q.page q.tail % 2 ^ 12 ∧
      ((s.dq (queueNo n fn)).fetched = [] → s.get q.page q.head = s.get q.page q.tail → OnlyChanges (queueMoves q n) [.dqs] s t)) ∧
  (∀ (fn : FuncId) (n : RegionId) s d z, oldestDesc s n fn d [] z → s.get (queueRegs n fn).page (queueRegs n fn).en = 1 → opensBar2 s fn →
    s.get (queueRegs n fn).page (queueRegs n fn).head = s.get (queueRegs n fn).page (queueRegs n fn).tail →
    Completes (.dqDisable fn n) s fun t =>
      DescEnds n fn [] 6 z s t ∧ BytesKept z 4 s t ∧ WordsKept s t ∧ OnlyChanges (queueFaults n fn) [.mem, .tbl, .dqs, .out] s t) ∧
  (∀ (fn : FuncId) (n : RegionId) s, s.get (queueRegs n fn).page (queueRegs n fn).en = 0 ∨ ¬opensBar2 s fn →
    Completes (.dqDisable fn n) s (· = s)) ∧
  (∀ (k : BlockId) s, s.get (.block k) BLOCK.LIB_STATUS_BUSY = 0 →
    Completes (.libLoad k) s fun t =>
      t.get (.block k) BLOCK.LIB_STATUS_BUSY = 1 ∧ t.get (.block k) BLOCK.LIB_STATUS_DONE = 0 ∧
      t.blk k = { s.blk k with
        libFrom := s.get (.block k) BLOCK.LIB_SRC_LO * 8 + s.get (.block k) BLOCK.LIB_SRC_HI * 2 ^ 32,
        libDst := s.get (.block k) BLOCK.LIB_DST_PAGE, libLen := s.get (.block k) BLOCK.LIB_DST_LEN } ∧
      (∀ j, j ≠ k.val → t.blk j = s.blk j) ∧ OnlyChanges (libFields k) [.blks] s t) ∧
  (∀ (k : BlockId) s, s.get (.block k) BLOCK.LIB_STATUS_BUSY = 1 →
    Completes (.libLoad k) s fun t => Raised (.block k) 8 s t ∧ OnlyChanges (faultRegs (.block k)) [.out] s t) ∧
  (∀ (k : BlockId) s, s.get (.block k) BLOCK.LIB_STATUS_BUSY = 0 → Completes (.libLoadDone k) s (· = s)) ∧
  (∀ (k : BlockId) s, s.get (.block k) BLOCK.LIB_STATUS_BUSY = 1 → s.libInUse k (s.blk k).libDst = false →
    (s.blk k).libLen = 0 ∨ 4096 < (s.blk k).libLen →
    Completes (.libLoadDone k) s fun t =>
      t.get (.block k) BLOCK.LIB_STATUS_BUSY = 0 ∧ t.get (.block k) BLOCK.LIB_STATUS_DONE = 1 ∧ t.get (.block k) BLOCK.LIB_STATUS_OK = 0 ∧
      t.get (.block k) BLOCK.LIB_STATUS_REASON = 8 ∧ OnlyChanges (libFields k) [] s t) ∧
  (∀ (k : BlockId) s, s.get (.block k) BLOCK.LIB_STATUS_BUSY = 1 → s.libInUse k (s.blk k).libDst = true →
    Completes (.libLoadDone k) s fun t =>
      t.get (.block k) BLOCK.LIB_STATUS_BUSY = 0 ∧ t.get (.block k) BLOCK.LIB_STATUS_DONE = 1 ∧ t.get (.block k) BLOCK.LIB_STATUS_OK = 0 ∧
      t.get (.block k) BLOCK.LIB_STATUS_REASON = 10 ∧ OnlyChanges (libFields k) [] s t) ∧
  (∀ (k : BlockId) s b, b = s.blk k → s.get (.block k) BLOCK.LIB_STATUS_BUSY = 1 → s.libInUse k b.libDst = false → 1 ≤ b.libLen → b.libLen ≤ 4096 →
    b.libDst < 64 → b.libFrom + 8 * b.libLen ≤ hbmEnd →
    s.loadFailure (16 * k) b.libLen true (fun i => BitVec.ofNat 64 (s.bytes (b.libFrom + 8 * i) 8)) = none →
    Completes (.libLoadDone k) s fun t =>
      t.get (.block k) BLOCK.LIB_STATUS_BUSY = 0 ∧ t.get (.block k) BLOCK.LIB_STATUS_DONE = 1 ∧ t.get (.block k) BLOCK.LIB_STATUS_OK = 1 ∧
      t.byteList (bankAddr k (4096 * b.libDst)) (8 * b.libLen) = s.byteList b.libFrom (8 * b.libLen) ∧
      BytesKept (bankAddr k (4096 * b.libDst)) (8 * b.libLen) s t ∧
      (∀ i, i < 8 * b.libLen → t.seenByte k (bankAddr k (4096 * b.libDst) + i) = t.byte (bankAddr k (4096 * b.libDst) + i)) ∧
      t.blk k = { b with unseen := (t.blk k).unseen } ∧ (∀ j, j ≠ k.val → t.blk j = s.blk j) ∧
      (∀ u i, i < 2 ^ 44 → u ≠ Table.poison → u ≠ .measurements ∨ i < 64 ∨ 80 ≤ i → t.word u i = s.word u i) ∧
      OnlyChanges ((bankPage k, BANK.POISON_COUNT) :: (bankPage k, BANK.INJECT_ARM) :: libFields k) [.mem, .tbl, .blks] s t)

/-- A word of a memory reads as 0x0 and is poisoned (R306). -/
def PoisonedAt (a : Nat) (s t : State) : Prop :=
  t.bytes a 8 = 0 ∧ t.poisoned a = true ∧ BytesKept a 8 s t ∧ ∀ u i, i < 2 ^ 44 → (u, i) ≠ (Table.poison, a / 8) → t.word u i = s.word u i

/-- A block is quarantined with the pages it encloses, and none of its outputs is LIVE (R22, R504). -/
def BlockOut (k : Nat) (t : State) : Prop :=
  (∀ p ∈ pagesOfBlock k, t.pageIs p .quarantined = true) ∧ ∀ o ∈ outputsOfBlock k, t.cond o ≠ Cond.live.code

/-- A region is quarantined with the pages it encloses, and none of its outputs is LIVE. -/
def RegionOut (n : Nat) (t : State) : Prop :=
  (∀ p ∈ pagesOfRegion n, t.pageIs p .quarantined = true) ∧ ∀ o ∈ outputsOfRegion n, t.cond o ≠ Cond.live.code

/-- The registers that count the passes of a memory's scrub (R312, R314). -/
def passField (m : MemWord) : List (Page × Field) :=
  match m with | .bank k _ => [(.bank k, BANK.SCRUB_PASSES)] | .hbm _ => [(.hbm, HBM.SCRUB_PASSES)] | _ => []

/-- The scrub of a memory has read word `m`: it goes on after it, and the passes that end there are counted; of the word tables only its
position and the marks `marks` change. -/
def Scrubbed (m : MemWord) (marks : List Nat) (s t : State) : Prop :=
  t.word .misc (scrubWord m) = (if wordIndex m + 1 = wordCount m then 0 else wordIndex m + 1) ∧
  (∀ x ∈ passField m, t.get x.1 x.2 = (s.get x.1 x.2 + (if wordIndex m < s.word .misc (scrubWord m) then 1 else 0)
    + (if wordIndex m + 1 = wordCount m then 1 else 0)) % 2 ^ x.2.width) ∧
  ∀ u i, i < 2 ^ 44 → (u, i) ≠ (Table.misc, scrubWord m) → u ≠ .poison ∨ i ∉ marks → t.word u i = s.word u i

/-- R21, R22, R132, R305 to R307, R309, R312 to R314: scrub goes through a memory, counts its passes and what it corrects, and marks what it cannot
read; what it corrected is written back unless it was written since; a word that passes its retest is poisoned, one that fails it takes a
spare row, or its block, its region or its page of the HBM out of use; the faults that quarantine a block or a region; a wipe ends. -/
def Obligations.MemoryFaults : Prop :=
  (∀ m s, wordIndex m < wordCount m →
    Completes (.scrubRead m .clean) s fun t => Scrubbed m [] s t ∧ OnlyChanges (passField m) [.tbl] s t) ∧
  (∀ m s c, wordIndex m < wordCount m → wordCounter m = some c →
    Completes (.scrubRead m .corrected) s fun t =>
      Scrubbed m [wordMark m] s t ∧ t.get c.1 c.2 = satInc c.2.width (s.get c.1 c.2) % 2 ^ c.2.width ∧
      t.word .poison (wordMark m) = (if s.word .poison (wordMark m) = 0 then 3 else s.word .poison (wordMark m)) ∧
      OnlyChanges (c :: passField m) [.tbl] s t) ∧
  (∀ (n : RegionId) w v s c, c = .context n w ∨ c = .weight n v → s.pageIs (.region n) .quarantined = false →
    Completes (.scrubRead c .decoder) s fun t => RegionOut n t) ∧
  (∀ m found s, wordCount m ≤ wordIndex m → Completes (.scrubRead m found) s (· = s)) ∧
  (∀ (k : BlockId) w s, s.knownBad (.bank k w) = false →
    Completes (.scrubRead (.bank k w) .bad) s fun t =>
      t.get (.bank k) BANK.ECC_UNCORRECTED = satInc BANK.ECC_UNCORRECTED.width (s.get (.bank k) BANK.ECC_UNCORRECTED) % 2 ^ BANK.ECC_UNCORRECTED.width ∧
      t.get (.bank k) BANK.UE_ADDR_WORD = w.toNat ∧ t.get (.bank k) BANK.UE_ADDR_READER = 5 ∧ Raised (.bank k) 0 s t ∧
      t.poisoned (bankAddr k w.toNat) = true ∧ Scrubbed (.bank k w) [bankAddr k w.toNat / 8] s t ∧
      OnlyChanges ((.bank k, BANK.ECC_UNCORRECTED) :: (.bank k, BANK.UE_ADDR_WORD) :: (.bank k, BANK.UE_ADDR_READER) ::
        (.bank k, BANK.SCRUB_PASSES) :: faultRegs (.bank k)) [.tbl, .out] s t) ∧
  (∀ (n : RegionId) w s, s.knownBad (.context n w) = false →
    Completes (.scrubRead (.context n w) .bad) s fun t =>
      t.get (.porter n) PORTER.UE_ADDR_OFFSET = 8 * w.toNat % 2 ^ PORTER.UE_ADDR_OFFSET.width ∧ t.get (.porter n) PORTER.UE_ADDR_STORE = 0 ∧
      Raised (.porter n) 1 s t ∧ t.poisoned (ctxAddr n 0 + 8 * w.toNat) = true ∧
      Scrubbed (.context n w) [(ctxAddr n 0 + 8 * w.toNat) / 8] s t ∧
      OnlyChanges ((.porter n, PORTER.CTX_ECC_UNCORRECTED) :: (.porter n, PORTER.UE_ADDR_OFFSET) :: (.porter n, PORTER.UE_ADDR_STORE) ::
        faultRegs (.porter n)) [.tbl, .out] s t) ∧
  (∀ m s, wordIndex m < wordCount m → s.knownBad m = true →
    Completes (.scrubRead m .bad) s fun t => Scrubbed m [] s t ∧ OnlyChanges (passField m) [.tbl] s t) ∧
  (∀ m s, s.word .poison (wordMark m) = 3 →
    Completes (.scrubWriteback m) s fun t =>
      t.word .poison (wordMark m) = 0 ∧ (∀ u i, i < 2 ^ 44 → (u, i) ≠ (Table.poison, wordMark m) → t.word u i = s.word u i) ∧
      OnlyChanges [] [.tbl] s t) ∧
  (∀ m s, s.word .poison (wordMark m) ≠ 3 → Completes (.scrubWriteback m) s (· = s)) ∧
  (∀ m clean r s, s.knownBad m = true → Completes (.retestDone m clean r) s (· = s)) ∧
  (∀ (n : RegionId) w r s, s.knownBad (.context n w) = false →
    Completes (.retestDone (.context n w) true r) s fun t => PoisonedAt (ctxAddr n 0 + 8 * w.toNat) s t ∧ OnlyChanges [] [.mem, .tbl] s t) ∧
  (∀ (n : RegionId) w v r s m, m = .ledger n w ∨ m = .capture n v → s.knownBad m = false →
    Completes (.retestDone m true r) s fun t =>
      t.word .poison (wordMark m) = 1 ∧ (∀ u i, i < 2 ^ 44 → (u, i) ≠ (Table.poison, wordMark m) → t.word u i = s.word u i) ∧
      OnlyChanges [] [.tbl] s t) ∧
  (∀ (k : BlockId) w clean r s, s.knownBad (.program k w) = false →
    Completes (.retestDone (.program k w) clean r) s fun t =>
      t.bytes (pmemAddr k w.toNat) 4 = 0 ∧ BytesKept (pmemAddr k w.toNat) 4 s t ∧ t.word .poison (pmemMark k w.toNat) = 1 ∧
      WordsKept s t ∧ OnlyChanges [] [.mem, .tbl] s t) ∧
  (∀ (k : BlockId) w r s, s.knownBad (.bank k w) = false →
    Completes (.retestDone (.bank k w) true r) s fun t =>
      PoisonedAt (bankAddr k w.toNat) s t ∧ t.get (.bank k) BANK.POISON_COUNT = (s.get (.bank k) BANK.POISON_COUNT + 1) % 2 ^ BANK.POISON_COUNT.width ∧
      OnlyChanges [(.bank k, BANK.POISON_COUNT)] [.mem, .tbl] s t) ∧
  (∀ (k : BlockId) w r s, s.knownBad (.bank k w) = false → s.pageIs (.block k) .quarantined = false →
    Completes (.retestDone (.bank k w) false r) s fun t => Nat.testBit (t.get (.bank k) ALL.FAULT_BITS) 1 = true ∧ BlockOut k t) ∧
  (∀ (n : RegionId) w r s, s.knownBad (.context n w) = false → s.get (.porter n) PORTER.SPARE_ROWS_CONTEXT < 32 →
    Completes (.retestDone (.context n w) false r) s fun t =>
      PoisonedAt (ctxAddr n 0 + 8 * w.toNat) s t ∧ t.get (.porter n) PORTER.SPARE_ROWS_CONTEXT = s.get (.porter n) PORTER.SPARE_ROWS_CONTEXT + 1 ∧
      Raised (.porter n) 2 s t ∧ OnlyChanges ((.porter n, PORTER.SPARE_ROWS_CONTEXT) :: faultRegs (.porter n)) [.mem, .tbl, .out] s t) ∧
  (∀ (n : RegionId) w r s, s.knownBad (.ledger n w) = false → 32 ≤ s.get (.porter n) PORTER.SPARE_ROWS_LEDGER →
    s.pageIs (.region n) .quarantined = false →
    Completes (.retestDone (.ledger n w) false r) s fun t => RegionOut n t) ∧
  (∀ w s a, wordAddr (.hbm w) = some a → s.knownBad (.hbm w) = false →
    Completes (.retestDone (.hbm w) false false) s fun t =>
      t.bytes a 8 = 0 ∧ (∀ b, b / 4096 = a / 4096 → t.poisoned b = true) ∧
      t.get .hbm HBM.POISON_PAGES = satInc HBM.POISON_PAGES.width (s.get .hbm HBM.POISON_PAGES) % 2 ^ HBM.POISON_PAGES.width ∧
      OnlyChanges ((.hbm, HBM.POISON_PAGES) :: faultRegs .hbm) [.mem, .tbl, .out] s t) ∧
  (∀ w s a, wordAddr (.hbm w) = some a → s.knownBad (.hbm w) = false →
    Completes (.retestDone (.hbm w) false true) s fun t =>
      PoisonedAt a s t ∧ Raised .hbm 1 s t ∧ OnlyChanges (faultRegs .hbm) [.mem, .tbl, .out] s t) ∧
  (∀ s, Completes (.wipeDone .hbm) s fun t => t.get .hbm HBM.STATUS_WIPING = 0 ∧ OnlyChanges [(.hbm, HBM.STATUS_WIPING)] [] s t) ∧
  (∀ (n : RegionId) s, Completes (.wipeDone (.region n)) s fun t =>
    t.word .misc (wipeRegion n) = 0 ∧ (∀ u i, i < 2 ^ 44 → (u, i) ≠ (Table.misc, wipeRegion n) → t.word u i = s.word u i) ∧ OnlyChanges [] [.tbl] s t) ∧
  (∀ (k : BlockId) s, Completes (.wipeDone (.block k)) s fun t =>
    t.word .misc (wipeBlock k) = 0 ∧ (∀ u i, i < 2 ^ 44 → (u, i) ≠ (Table.misc, wipeBlock k) → t.word u i = s.word u i) ∧ OnlyChanges [] [.tbl] s t) ∧
  (∀ (e : EngineId) s, (s.micro e).csHeld = true →
    Completes (.csRewriteDone e false) s fun t =>
      t.eng e = { s.eng e with micro := { (s.eng e).micro with csHeld := false } } ∧ (∀ j, j ≠ e.val → t.eng j = s.eng j) ∧
      OnlyChanges [] [.engs] s t) ∧
  (∀ (e : EngineId) s, (s.micro e).csHeld = true → s.pageIs (blockPage (blockOf e)) .quarantined = false →
    Completes (.csRewriteDone e true) s fun t => BlockOut (blockOf e) t) ∧
  (∀ (e : EngineId) again s, (s.micro e).csHeld = false → Completes (.csRewriteDone e again) s (· = s)) ∧
  (∀ (k : BlockId) s, s.pageIs (.block k) .quarantined = false →
    Completes (.pacerSelfcheckFail k) s fun t => BlockOut k t ∧ t.time = s.time) ∧
  (∀ (k : BlockId) s, s.pageIs (.block k) .quarantined = true → Completes (.pacerSelfcheckFail k) s fun t => t = s) ∧
  (∀ (n : RegionId) s, s.pageIs (.region n) .quarantined = false →
    Completes (.clockLockLoss n) s fun t => RegionOut n t ∧ t.get .timebase TIMEBASE.TB_STATUS_LOCKED = 0 ∧ n.val ∈ t.time.lockLost) ∧
  (∀ (n : RegionId) s, s.pageIs (.region n) .quarantined = false →
    Completes (.networkSelfcheckFail n) s fun t => RegionOut n t ∧ t.time = s.time) ∧
  (∀ (n : RegionId) s, s.pageIs (.region n) .quarantined = true → Completes (.networkSelfcheckFail n) s fun t => t = s)

/-- Every word of every table but the listed words of one reads as before. -/
def WordsBut (u : Table) (is : List Nat) (s t : State) : Prop := ∀ v i, i < 2 ^ 44 → v ≠ u ∨ i ∉ is → t.word v i = s.word v i

/-- The members of an entry, before and after word `i` takes `v`, are all stopped (R355). -/
def membersStopped (s : State) (g i v : Nat) : Prop := ∀ e, e ∈ s.members g ∨ e ∈ s.membersAfter g i v → s.engStopped e = true

/-- The entry is disabled after the write of `v` to word `i`. -/
def staysDisabled (s : State) (g i v : Nat) : Prop := (if i = 0 then v else s.grpWord g 0) % 2 = 0

/-- R26, R27, R315, R330, R336, R339, R342, R343, R355, R358, R418: GRP_DATA reads a word of the selected entry, and writes one where every
member is stopped and no engine would stand in two enabled entries, else a FAULT bit tells why not; MARK_ATT; a record that fits goes to its
owner's ring with SEQ filled in, one that does not waits; the spare shadows a cell, moves on, and takes its place. -/
def Obligations.LedgerAndSpares : Prop :=
  (∀ (fn : FuncId) s g i, g = s.get .ledger LEDGER.GRP_SEL_GROUP → i = s.get .ledger LEDGER.GRP_SEL_WORD → s.reachesGroup fn g = true →
    Completes (.grpData fn none) s fun t =>
      t.rdata = (if i < 48 then s.grpWord g i else 0) ∧
      (s.get .ledger LEDGER.GRP_SEL_AUTOINC = 1 → t.get .ledger LEDGER.GRP_SEL_WORD = if i = 47 then 0 else (i + 1) % 64) ∧
      (s.get .ledger LEDGER.GRP_SEL_AUTOINC = 0 → t.get .ledger LEDGER.GRP_SEL_WORD = i) ∧
      OnlyChanges [(.ledger, LEDGER.GRP_SEL_WORD)] [.rdata] s t) ∧
  (∀ (fn : FuncId) s, s.reachesGroup fn (s.get .ledger LEDGER.GRP_SEL_GROUP) = false →
    Completes (.grpData fn none) s fun t => t.rdata = 0 ∧ OnlyChanges [] [.rdata] s t) ∧
  (∀ (fn : FuncId) (v : Word) s, s.reachesGroup fn (s.get .ledger LEDGER.GRP_SEL_GROUP) = false → Completes (.grpData fn (some v)) s fun t => t = s) ∧
  (∀ (fn : FuncId) (v : Word) s g i x, g = s.get .ledger LEDGER.GRP_SEL_GROUP → i = s.get .ledger LEDGER.GRP_SEL_WORD → g < 256 → i < 48 →
    s.reachesGroup fn g = true → grpMask i ≠ 0 → x = v.toNat &&& grpMask i →
    (fn.val = 0 ∨ ∀ e ∈ engineBits i v.toNat, s.guestOf e = fn.val) →
    membersStopped s g i x → (staysDisabled s g i x ∨ ∀ e ∈ s.membersAfter g i x, s.memberElsewhere g e = false) →
    (i = 0 → x % 2 = 1 → (∀ e ∈ s.membersAfter g i x, s.guestOf e = x / 2 ^ 8 % 2 ^ 7) ∧ s.grpWord g 1 % 2 ^ 16 ≠ 0xFFFF) →
    Completes (.grpData fn (some v)) s fun t =>
      t.grpWord g i = x ∧ WordsBut .groups ((i :: [7, 8, 9, 10, 11]).map (64 * g + ·)) s t ∧
      (i = 0 → x % 2 = 1 → s.grpEnabled g = false → t.group g = Group.init) ∧ (∀ h, h ≠ g → t.group h = s.group h) ∧
      OnlyChanges [(.ledger, LEDGER.GRP_SEL_WORD)] [.tbl, .groups] s t) ∧
  (∀ (v : Word) s g i x e, g = s.get .ledger LEDGER.GRP_SEL_GROUP → i = s.get .ledger LEDGER.GRP_SEL_WORD → i < 48 →
    grpMask i ≠ 0 → x = v.toNat &&& grpMask i → e ∈ s.members g ∨ e ∈ s.membersAfter g i x → s.engStopped e = false →
    Completes (.grpData 0 (some v)) s fun t =>
      Raised .ledger 1 s t ∧ OnlyChanges ((.ledger, LEDGER.GRP_SEL_WORD) :: faultRegs .ledger) [.out] s t) ∧
  (∀ (v : Word) s g i x e, g = s.get .ledger LEDGER.GRP_SEL_GROUP → i = s.get .ledger LEDGER.GRP_SEL_WORD → i < 48 →
    grpMask i ≠ 0 → x = v.toNat &&& grpMask i → membersStopped s g i x → ¬ staysDisabled s g i x →
    e ∈ s.membersAfter g i x → s.memberElsewhere g e = true →
    Completes (.grpData 0 (some v)) s fun t =>
      Raised .ledger 0 s t ∧ OnlyChanges ((.ledger, LEDGER.GRP_SEL_WORD) :: faultRegs .ledger) [.out] s t) ∧
  (∀ (v : Word) s, v.toNat % 2 = 0 ∨ s.markOwned (v.toNat / 2 ^ 4 % 2 ^ 4) = false →
    Completes (.markAttWrite 0 v) s fun t =>
      t.get .ledger LEDGER.MARK_ATT_EN = v.toNat % 2 ∧ t.get .ledger LEDGER.MARK_ATT_MARKER = v.toNat / 2 ^ 4 % 2 ^ 4 ∧
      t.get .ledger LEDGER.MARK_ATT_GROUP = v.toNat / 2 ^ 8 % 2 ^ 8 ∧
      OnlyChanges [(.ledger, LEDGER.MARK_ATT_EN), (.ledger, LEDGER.MARK_ATT_MARKER), (.ledger, LEDGER.MARK_ATT_GROUP)] [] s t) ∧
  (∀ (v : Word) s, v.toNat % 2 = 1 → s.markOwned (v.toNat / 2 ^ 4 % 2 ^ 4) = true →
    Completes (.markAttWrite 0 v) s fun t => Raised .ledger 2 s t ∧ OnlyChanges (faultRegs .ledger) [.out] s t) ∧
  (∀ (owner : FuncId) s r ring wr, ring = ledgerRing owner → wr = s.get ring.page ring.wr →
    s.led.waiting.find? (fun r => r.guest = owner.val) = some r → 64 ≤ r.bytes.length → s.ringTakes ring r.bytes.length = true →
    onHost (s.ringBase ring + wr) = true → wr + r.bytes.length ≤ s.ringSize ring →
    Completes (.ledgerRecordWrite owner none) s fun t =>
      (∃ after, t.out = s.out ++ .hostWrite owner.val ((s.ringBase ring + wr) % 2 ^ 63)
          (r.bytes.take 0x28 ++ leBytes (s.word .misc (seqWord owner)) 4 ++ r.bytes.drop 0x2C) :: after) ∧
      t.get ring.page ring.wr = (wr + r.bytes.length) % s.ringSize ring % 2 ^ ring.wr.width ∧
      t.word .misc (seqWord owner) = (s.word .misc (seqWord owner) + 1) % 2 ^ 32 ∧ WordsBut .misc [seqWord owner] s t ∧
      t.led.waiting = dropRecord owner s.led.waiting ∧ (∀ x, r.tag = some x → (owner.val, x) ∈ t.led.tags) ∧
      (∀ x, r.tag = some x → ∀ f ∈ (t.fence owner).open', ∀ q ∈ f.reqs, q.tag = x → q.met = true) ∧
      (r.tag = none → t.led.tags = s.led.tags ∧ t.fences = s.fences) ∧
      OnlyChanges [(ring.page, ring.wr), (ring.page, ring.wait)] [.led, .tbl, .out, .fences] s t) ∧
  (∀ (owner : FuncId) (u : Fin 514) (w : BitVec 19) s r ring wr, ring = ledgerRing owner → wr = s.get ring.page ring.wr →
    s.led.waiting.find? (fun r => r.guest = owner.val) = some r → 64 ≤ r.bytes.length → s.ringTakes ring r.bytes.length = true →
    onHost (s.ringBase ring + wr) = true → wr + r.bytes.length ≤ s.ringSize ring → r.tag = none → 64 * u.val + 64 ≤ r.bytes.length →
    Completes (.ledgerRecordWrite owner (some (u, w))) s fun t =>
      (∃ after z, t.out = s.out ++ .hostWrite owner.val ((s.ringBase ring + wr) % 2 ^ 63) z :: after ∧ z.length = r.bytes.length ∧
        (∀ i, 64 * u.val ≤ i → i < 64 * u.val + 64 → i ≠ 0xE → z.getD i 0 = 0) ∧ bitOf (z.getD 0xE 0).toNat 6 = 1 ∧
        (∀ i, i < 64 * u.val ∨ 64 * u.val + 64 ≤ i → i ≠ 0xE → i < 0x28 ∨ 0x2C ≤ i → z.getD i 0 = r.bytes.getD i 0)) ∧
      t.led.waiting = dropRecord owner s.led.waiting ∧
      t.get (porterPage r.region) PORTER.LEDGER_ECC_UNCORRECTED = satInc PORTER.LEDGER_ECC_UNCORRECTED.width
        (s.get (porterPage r.region) PORTER.LEDGER_ECC_UNCORRECTED) % 2 ^ PORTER.LEDGER_ECC_UNCORRECTED.width ∧
      t.get (porterPage r.region) PORTER.UE_ADDR_STORE = 2 ∧
      t.get (porterPage r.region) PORTER.UE_ADDR_OFFSET = 8 * w.toNat % 2 ^ PORTER.UE_ADDR_OFFSET.width ∧ Raised (porterPage r.region) 1 s t) ∧
  (∀ (owner : FuncId) ue s r ring, ring = ledgerRing owner → s.led.waiting.find? (fun r => r.guest = owner.val) = some r →
    s.ringTakes ring r.bytes.length = false →
    Completes (.ledgerRecordWrite owner ue) s fun t => t.get ring.page ring.wait = 1 ∧ OnlyChanges [(ring.page, ring.wait)] [] s t) ∧
  (∀ (owner : FuncId) ue s, (∀ r ∈ s.led.waiting, r.guest ≠ owner.val) → Completes (.ledgerRecordWrite owner ue) s fun t => t = s) ∧
  (∀ (k : BlockId) s b c, b = s.blk k → s.wf = true → b.spareUsed = false → b.copied = false → b.takeover = none → b.shadow < 16 →
    ((∃ i, i < 16 ∧ c = (b.shadow + i) % 16 ∧ s.inShot (16 * k + c) = true ∧ ∀ j, j < i → s.inShot (16 * k + (b.shadow + j) % 16) = false) ∨
      (c = b.shadow ∧ ∀ j, j < 16 → s.inShot (16 * k + j) = false)) →
    Completes (.shadowCopyDone k) s fun t =>
      (∀ i, i < 0x10000 → t.byte (spareAddr k i) = s.byte (spadAddr (16 * k + c) i)) ∧ BytesKept (spareAddr k 0) 0x10000 s t ∧
      t.blk k = { b with copied := true, shadow := c } ∧ (∀ j, j ≠ k.val → t.blk j = s.blk j) ∧ OnlyChanges [] [.mem, .blks] s t) ∧
  (∀ (k : BlockId) s, (s.blk k).spareUsed = true ∨ (s.blk k).copied = true ∨ (s.blk k).takeover ≠ none →
    Completes (.shadowCopyDone k) s fun t => t = s) ∧
  (∀ (k : BlockId) s b i, b = s.blk k → b.spareUsed = false → b.running = true → 2 ^ 20 ≤ b.shadowShots → i < 16 →
    s.inShot (16 * k + (b.shadow + 1 + i) % 16) = true → (∀ j, j < i → s.inShot (16 * k + (b.shadow + 1 + j) % 16) = false) →
    Completes (.spareRotate k) s fun t =>
      t.blk k = { b with shadow := (b.shadow + 1 + i) % 16, shadowShots := 0, copied := false, running := false } ∧
      (∀ j, j ≠ k.val → t.blk j = s.blk j) ∧ OnlyChanges [] [.blks] s t) ∧
  (∀ (k : BlockId) s, (s.blk k).shadowShots < 2 ^ 20 ∨ (s.blk k).spareUsed = true ∨ (s.blk k).running = false ∨
      (∀ i, i < 16 → s.inShot (16 * k + i) = false) →
    Completes (.spareRotate k) s (· = s)) ∧
  (∀ (e : EngineId) locals s b, b = s.blk (blockOf e) → s.wf = true → b.takeover = some (cellOf e) → s.inShot e = false →
    s.engIs e .faulted = true → s.leads (s.groupOf e) = true → s.get (.cell e) CELL.STATUS_LIB = 0 →
    opListed (s.bytes (keptProgAddr e (8 * (s.pc e % 4096))) 8 / 2 ^ 56) = true →
    Completes (.takeoverDone e locals false) s fun t =>
      (∀ i, i < 0x8000 → t.byte (spadAddr e i) = s.byte (keptProgAddr e i)) ∧
      (∀ w ∈ locals, t.bytes (spadAddr e (0x8000 + 8 * w.toNat)) 8 = 0 ∧ t.poisoned (spadAddr e (0x8000 + 8 * w.toNat)) = true) ∧
      (∀ i, i < 0x8000 → (∀ w ∈ locals, i / 8 ≠ w.toNat) → t.byte (spadAddr e (0x8000 + i)) = s.byte (spadAddr e (0x8000 + i))) ∧
      BytesKept (spadAddr e 0) 0x10000 s t ∧
      t.blk (blockOf e) = { b with spareUsed := true, takeover := none, copied := false, running := false } ∧
      (∀ j, j ≠ blockOf e → t.blk j = s.blk j) ∧ t.eng (1024 + blockOf e) = Engine.init ∧
      (∀ j, j ≠ e.val → j ≠ 1024 + blockOf e → t.eng j = s.eng j) ∧
      t.get (.cell e) ALL.PAGE_STATE_SPARED = 1 ∧ t.engIs e .faulted = false ∧
      t.get .ledger LEDGER.TAKEOVERS_COUNT = satInc 32 (s.get .ledger LEDGER.TAKEOVERS_COUNT) % 2 ^ 32) ∧
  (∀ (e : EngineId) locals s, (s.blk (blockOf e)).takeover = some (cellOf e) → s.inShot e = false → s.engIs e .faulted = true →
    s.leads (s.groupOf e) = true →
    Completes (.takeoverDone e locals true) s fun t => t.engIs e .stopped = true ∧ t.get (.cell e) ALL.PAGE_STATE_SPARED = 1) ∧
  (∀ (e : EngineId) locals bad s, (s.blk (blockOf e)).takeover ≠ some (cellOf e) → Completes (.takeoverDone e locals bad) s fun t => t = s)

/-- The pending updates that are not of one context. -/
def otherUpdates (s : State) (n i : Nat) : List Update := s.tend.pending.filter fun x => x.region ≠ n || x.index ≠ i

/-- A proposal is held: it replaces what the store had for its context (R350). The points `used` have gone into it. -/
def Held (u : Update) (used : IqPoint → Bool) (s t : State) : Prop :=
  t.tend = { s.tend with pending := otherUpdates s u.region u.index ++ [u], points := s.tend.points.filter fun p => !used p } ∧
  t.get .watch WATCH.PENDING_COUNT = ((otherUpdates s u.region u.index).length + 1) % 2 ^ 13 ∧
  OnlyChanges [(.watch, WATCH.PENDING_COUNT), (.watch, WATCH.CLIPPED_COUNT)] [.tend, .free] s t

/-- The context of an engine that a proposal reads: tended, not locked, on a route the engine owns; and the watch has a processor of its
region, and is not paused (R80, R291). -/
def proposes (s : State) (e : EngineId) (i : BitVec 17) (m : WatchValue) : Prop :=
  s.watchWorks (regionOf e) = true ∧ s.tends e i.toNat m = true ∧ Ctx.wlock (s.context (regionOf e) i.toNat) = false ∧ s.routeOk e (s.context (regionOf e) i.toNat) = true

/-- The watch may begin idle tending on an engine (R80, R347). -/
def idleTends (s : State) (e : EngineId) : Prop :=
  s.engIs e .stopped = true ∧ s.get .watch WATCH.WCTRL_IDLE_EN = 1 ∧ s.pageIs (.cell e) .ready = true ∧ s.shed = false

/-- R80, R291, R345 to R353, R356 to R358: a proposal of enough confidence, formed on a lent processor of its region and clipped to the step limit, is
held with the VERSION it read, in place of an older one of its context; one of less is counted, one of a locked context is dropped, one off
the engine's route is skipped; the accounting interval turns over; idle tending begins on a stopped engine, with the watch's own entries; a
trim is applied to an idle output; TEND_DATA. -/
def Obligations.Watch : Prop :=
  (∀ (e : EngineId) i ver df sigma s c d d', c = s.context (regionOf e) i.toNat → proposes s e i (.freq df sigma) →
    0 < s.get .watch WATCH.DF_STEP_STEP →
    s.get .watch WATCH.CONF_MIN_CONF ≤ confidence sigma (s.get .watch WATCH.DF_STEP_STEP * 2 ^ 24) 0 →
    (otherUpdates s (regionOf e) i.toNat).length < 4096 → s.engIs e .stopped = false →
    d = toSigned 48 (df - Ctx.df c).toNat →
    d' = max (-(s.get .watch WATCH.DF_STEP_STEP * 2 ^ 24 : Nat) : Int) (min (s.get .watch WATCH.DF_STEP_STEP * 2 ^ 24 : Nat) d) →
    Completes (.watchProposal e i ver (.freq df sigma)) s fun t =>
      Held ⟨regionOf e, i.toNat, e, ver.toNat, some (ofSigned 48 (toSigned 48 (Ctx.df c).toNat + d')), none⟩ (fun _ => false) s t ∧
      t.get .watch WATCH.CLIPPED_COUNT = if d = d' then s.get .watch WATCH.CLIPPED_COUNT else satInc 32 (s.get .watch WATCH.CLIPPED_COUNT) % 2 ^ 32) ∧
  (∀ (e : EngineId) i ver bounds sc st s c, c = s.context (regionOf e) i.toNat → proposes s e i (.disc bounds sc st) →
    0 < s.get .watch WATCH.DISC_STEP_C → 0 < s.get .watch WATCH.DISC_STEP_THETA →
    s.get .watch WATCH.CONF_MIN_CONF ≤ confidence sc (s.get .watch WATCH.DISC_STEP_C) 0 →
    s.get .watch WATCH.CONF_MIN_CONF ≤ confidence st (s.get .watch WATCH.DISC_STEP_THETA) 0 →
    (otherUpdates s (regionOf e) i.toNat).length < 4096 → s.engIs e .stopped = false →
    Completes (.watchProposal e i ver (.disc bounds sc st)) s fun t =>
      Held ⟨regionOf e, i.toNat, e, ver.toNat, none,
        some (clipDisc (Ctx.disc c) bounds.toNat (s.get .watch WATCH.DISC_STEP_C) (s.get .watch WATCH.DISC_STEP_THETA)).1⟩
        (fun p => s.readTone e = some p.tone) s t) ∧
  (∀ (e : EngineId) i ver df sigma s, proposes s e i (.freq df sigma) → 0 < s.get .watch WATCH.DF_STEP_STEP →
    confidence sigma (s.get .watch WATCH.DF_STEP_STEP * 2 ^ 24) 0 < s.get .watch WATCH.CONF_MIN_CONF →
    Completes (.watchProposal e i ver (.freq df sigma)) s fun t =>
      t.get .watch WATCH.REJ_CONF_COUNT = satInc 32 (s.get .watch WATCH.REJ_CONF_COUNT) % 2 ^ 32 ∧
      OnlyChanges [(.watch, WATCH.REJ_CONF_COUNT)] [.free] s t) ∧
  (∀ (e : EngineId) i ver m s, s.watchWorks (regionOf e) = false ∨ s.tends e i.toNat m = false ∨
      Ctx.wlock (s.context (regionOf e) i.toNat) = true →
    Completes (.watchProposal e i ver m) s (· = s)) ∧
  (∀ (e : EngineId) i ver m s, s.watchWorks (regionOf e) = true → s.tends e i.toNat m = true → Ctx.wlock (s.context (regionOf e) i.toNat) = false →
    s.routeOk e (s.context (regionOf e) i.toNat) = false →
    Completes (.watchProposal e i ver m) s fun t =>
      t.get .watch WATCH.SKIPPED_COUNT = satInc 32 (s.get .watch WATCH.SKIPPED_COUNT) % 2 ^ 32 ∧
      OnlyChanges [(.watch, WATCH.SKIPPED_COUNT)] [] s t) ∧
  (∀ s (e : EngineId) a, a = BitVec.ofNat 64 ((s.tend.interval + 1) * 2 ^ 34) → s.wf = true → s.eng e ≠ Engine.init →
    CompletesAt a .watchBudgetInterval s fun u t =>
      t.tend = { s.tend with interval := s.tend.interval + 1 } ∧
      (s.inShot e = true → t.eng e = { s.eng e with
        openTimeLast := (s.eng e).openTime + (u.st - (s.eng e).shotOpenedAt).toNat, openTime := 0, shotOpenedAt := u.st, grantUsed := 0 }) ∧
      (s.inShot e = false → t.eng e = { s.eng e with openTimeLast := (s.eng e).openTime, openTime := 0, grantUsed := 0 }) ∧
      OnlyChanges [] [.tend, .engs] u t) ∧
  (∀ (e : EngineId) s, idleTends s e →
    Completes (.watchIdleStart e []) s fun t =>
      t.eng e = { s.eng e with tending := true } ∧ (∀ j, j ≠ e.val → t.eng j = s.eng j) ∧ OnlyChanges [] [.engs] s t) ∧
  (∀ (e : EngineId) seq s, idleTends s e →
    Completes (.watchIdleStart e seq) s fun t =>
      t.eng e = { s.eng e with tending := true, timetable := (t.eng e).timetable, lastStamp := (t.eng e).lastStamp } ∧
      WatchAdds s.st (s.st + 2 ^ 62) (s.eng e).timetable (t.eng e).timetable ∧ (∀ j, j ≠ e.val → t.eng j = s.eng j)) ∧
  (∀ (e : EngineId) seq s, ¬idleTends s e → Completes (.watchIdleStart e seq) s (· = s)) ∧
  (∀ (o : OutputId) (v : Word) s, s.watchWorks (outputRegion o) = true → s.get .watch WATCH.WCTRL_TRACK_TRIM = 1 →
    (∀ k ∈ tonesOf o, (s.tone k).pulse = none ∧ (s.tone k).stream = none) → (s.output (outputNo o)).pulse = none → s.cond o ≠ Cond.hold.code →
    Completes (.dacTrimApply o v) s fun t =>
      t.output (outputNo o) = { s.output (outputNo o) with trim := v } ∧ (∀ j, j ≠ outputNo o → t.output j = s.output j) ∧
      OnlyChanges [] [.outputs] s t) ∧
  (∀ (o : OutputId) (v : Word) s, s.watchWorks (outputRegion o) = false ∨ s.cond o = Cond.hold.code ∨ s.get .watch WATCH.WCTRL_TRACK_TRIM = 0 ∨
      s.outputIdle o = false →
    Completes (.dacTrimApply o v) s (· = s)) ∧
  (∀ (fn : FuncId) s e i, e = s.get .watch WATCH.TEND_SEL_ENTRY → i = s.get .watch WATCH.TEND_SEL_WORD →
    (fn.val = 0 ∨ s.guestReady fn = true ∧ s.guestOf e = fn.val) →
    Completes (.tendData fn none) s fun t =>
      t.rdata = s.tendWord e i ∧
      (s.get .watch WATCH.TEND_SEL_AUTOINC = 1 → t.get .watch WATCH.TEND_SEL_WORD = (i + 1) % 4 ∧
        t.get .watch WATCH.TEND_SEL_ENTRY = if i = 3 then (e + 1) % 1024 else e) ∧
      (s.get .watch WATCH.TEND_SEL_AUTOINC = 0 → t.regs = s.regs) ∧
      OnlyChanges [(.watch, WATCH.TEND_SEL_WORD), (.watch, WATCH.TEND_SEL_ENTRY)] [.rdata] s t) ∧
  (∀ (fn : FuncId) (v : Word) s e i, e = s.get .watch WATCH.TEND_SEL_ENTRY → i = s.get .watch WATCH.TEND_SEL_WORD → e < 1024 → i < 4 →
    (fn.val = 0 ∨ s.guestReady fn = true ∧ s.guestOf e = fn.val) →
    Completes (.tendData fn (some v)) s fun t =>
      t.tendWord e i = v.toNat &&& tendMask i ∧ WordsBut .tending [4 * e + i] s t ∧
      OnlyChanges [(.watch, WATCH.TEND_SEL_WORD), (.watch, WATCH.TEND_SEL_ENTRY)] [.tbl] s t) ∧
  (∀ (fn : FuncId) (v : Word) s, fn.val ≠ 0 → s.guestOf (s.get .watch WATCH.TEND_SEL_ENTRY) ≠ fn.val → Completes (.tendData fn (some v)) s fun t => t = s)

/-- Word `w` of a guest's entry. -/
def gword (s : State) (g : GuestId) (w : Nat) : Nat := s.guestWord (g.val + 1) w

/-- The number of a guest's function. -/
def fnOf (g : GuestId) : FuncId := Fin.ofNat 65 (g.val + 1)

/-- What the start of a drain leaves (R413): DRAINING, EN as given, every leased engine stopped, no ring enabled, no ledger record and no fence
waiting. -/
def DrainBegun (g : GuestId) (again : Bool) (s t : State) : Prop :=
  gword t g 1 = 3 ∧ gword t g 0 = b2n again ∧ (∀ e ∈ s.leasedEngines (g.val + 1), t.engStopped e = true) ∧
  (∀ n : RegionId, t.get (.session g) (SESSION.RING_CTRL_EN n) = 0) ∧ t.get (.session g) SESSION.LRING_CTRL_EN = 0 ∧
  (∀ r ∈ t.led.waiting, r.guest ≠ g.val + 1) ∧ (t.fence (g.val + 1)).open' = []

/-- A guest whose leases are in force, none of whose engines has a shot open, and which owns no enabled group. -/
def quietGuest (s : State) (g : GuestId) : Prop :=
  (gword s g 1 = 1 ∨ gword s g 1 = 2) ∧ (∀ e ∈ s.leasedEngines (g.val + 1), s.inShot e = false) ∧ s.guestGroups (g.val + 1) = []

/-- R410 to R415, R423: GDATA reads a word of the selected guest, and writes a lease word while the guest is OFF; EN = 1 starts a guest whose leases
pass the checks and gives it its engines; EN = 0, a function reset and the end of SR-IOV drain it; the end of a drain wipes what it leased. -/
def Obligations.GuestLeases : Prop :=
  (∀ s g i, g = s.get .guests GUESTS.GSEL_GUEST → i = s.get .guests GUESTS.GSEL_WORD → 1 ≤ g → g ≤ 64 → i ≤ 78 →
    Completes (.gdata 0 none) s fun t =>
      t.rdata = s.guestRead g i ∧ (s.get .guests GUESTS.GSEL_AUTOINC = 1 → t.get .guests GUESTS.GSEL_WORD = if i = 78 then 0 else i + 1) ∧
      (s.get .guests GUESTS.GSEL_AUTOINC = 0 → t.regs = s.regs) ∧ OnlyChanges [(.guests, GUESTS.GSEL_WORD)] [.rdata] s t) ∧
  (∀ (g : GuestId) (v : Word) s i, s.get .guests GUESTS.GSEL_GUEST = g.val + 1 → i = s.get .guests GUESTS.GSEL_WORD → 2 ≤ i → i ≤ 78 →
    gword s g 1 % 8 = 0 →
    Completes (.gdata 0 (some v)) s fun t =>
      gword t g i = v.toNat &&& guestMask i ∧ WordsBut .guests [128 * (g.val + 1) + i] s t ∧
      OnlyChanges [(.guests, GUESTS.GSEL_WORD)] [.tbl] s t) ∧
  (∀ (g : GuestId) (v : Word) s i, s.get .guests GUESTS.GSEL_GUEST = g.val + 1 → i = s.get .guests GUESTS.GSEL_WORD → 2 ≤ i → i ≤ 78 →
    gword s g 1 % 8 ≠ 0 →
    Completes (.gdata 0 (some v)) s fun t =>
      Raised .guests 0 s t ∧ OnlyChanges ((.guests, GUESTS.GSEL_WORD) :: faultRegs .guests) [.out] s t) ∧
  (∀ (fn : FuncId) (v : Word) s, fn.val ≠ 0 → Completes (.gdata fn (some v)) s fun t => t = s) ∧
  (∀ (fn : FuncId) s, fn.val ≠ 0 → Completes (.gdata fn none) s fun t => t.rdata = 0 ∧ OnlyChanges [] [.rdata] s t) ∧
  (∀ (g : GuestId) s, gword s g 1 % 8 = 0 → s.leaseFaults (g.val + 1) = [] →
    Completes (.guestEnable g) s fun t =>
      gword t g 0 = 1 ∧ gword t g 1 = 1 ∧ WordsBut .guests [128 * (g.val + 1), 128 * (g.val + 1) + 1] s t ∧
      (∀ e ∈ s.leasedEngines (g.val + 1), t.get (cellPage e) ALL.GUEST_OWNER_GUEST = g.val + 1) ∧ t.out = s.out ++ [.msix (g.val + 1) 20] ∧
      OnlyChanges ((s.leasedEngines (g.val + 1)).map fun e => (cellPage e, ALL.GUEST_OWNER_GUEST)) [.tbl, .out] s t) ∧
  (∀ (g h : GuestId) s e, gword s g 1 % 8 = 0 → h ≠ g → gword s h 0 % 2 = 1 → e ∈ s.leasedEngines (g.val + 1) → e ∈ s.leasedEngines (h.val + 1) →
    Completes (.guestEnable g) s fun t =>
      gword t g 0 = 0 ∧ gword t g 1 = gword s g 1 ∧ Raised .guests 1 s t ∧ WordsBut .guests [128 * (g.val + 1)] s t ∧
      OnlyChanges (faultRegs .guests) [.tbl, .out] s t) ∧
  (∀ (g : GuestId) s, gword s g 1 % 8 = 0 → (∀ b ∈ s.leaseFaults (g.val + 1), b = 0) → s.leaseFaults (g.val + 1) ≠ [] →
    Completes (.guestEnable g) s fun t => gword t g 0 = 0 ∧ Raised .guests 0 s t ∧ OnlyChanges (faultRegs .guests) [.tbl, .out] s t) ∧
  (∀ (g : GuestId) s, gword s g 1 % 8 = 1 →
    Completes (.guestReady g) s fun t =>
      gword t g 1 = 2 ∧ WordsBut .guests [128 * (g.val + 1) + 1] s t ∧ t.out = s.out ++ [.msix (g.val + 1) 20] ∧ OnlyChanges [] [.tbl, .out] s t) ∧
  (∀ (g : GuestId) s, gword s g 1 % 8 ≠ 1 → Completes (.guestReady g) s fun t => t = s) ∧
  (∀ (g : GuestId) s, quietGuest s g → Completes (.guestDisable g) s (DrainBegun g false s)) ∧
  (∀ (g : GuestId) s, gword s g 1 % 8 = 0 ∨ gword s g 1 % 8 = 3 →
    Completes (.guestDisable g) s fun t => gword t g 0 = 0 ∧ WordsBut .guests [128 * (g.val + 1)] s t ∧ OnlyChanges [] [.tbl] s t) ∧
  (∀ (g : GuestId) s, gword s g 1 % 8 = 3 → gword s g 0 % 2 = 0 →
    Completes (.guestDrainDone g) s fun t =>
      gword t g 1 = 0 ∧ t.out = s.out ++ [.msix (g.val + 1) 20] ∧
      (∀ e ∈ s.leasedEngines (g.val + 1), t.get (cellPage e) ALL.GUEST_OWNER_GUEST = 0 ∧ ∀ i, i < 0x10000 → t.byte (spadAddr e i) = 0) ∧
      (∀ n x i, n < 8 → x ∈ s.ctxRanges (g.val + 1) n → i < 4096 * x.2 → t.byte (ctxAddr n (64 * x.1) + i) = 0) ∧
      (∀ x i, x ∈ s.hbmRanges (g.val + 1) → i < x.2 * 2 ^ 20 → t.byte (x.1 * 2 ^ 20 + i) = 0) ∧
      (∀ k, t.blk k = { s.blk k with unseen := (t.blk k).unseen }) ∧ Keeps [.regs, .mem, .tbl, .out, .blks] s t) ∧
  (∀ (g : GuestId) s, gword s g 1 % 8 ≠ 3 → Completes (.guestDrainDone g) s fun t => t = s) ∧
  (∀ (g : GuestId) s, quietGuest s g → gword s g 0 % 2 = 1 →
    Completes (.vfFlr g) s fun t => DrainBegun g true s t ∧ t.fence (g.val + 1) = FenceState.init ∧
      t.get (.fence (fnOf g)) FENCE.FENCE_STATUS_REQ_SEQ = 0) ∧
  (∀ (g : GuestId) s, gword s g 1 % 8 = 0 →
    Completes (.vfFlr g) s fun t =>
      gword t g 0 = 0 ∧ t.fence (g.val + 1) = FenceState.init ∧ (∀ j, j ≠ g.val + 1 → t.fence j = s.fence j) ∧
      t.get (.fence (fnOf g)) FENCE.FENCE_STATUS_REQ_SEQ = 0 ∧ t.get (.fence (fnOf g)) FENCE.WAIT_LIMIT_UNITS = 0x40 ∧
      OnlyPagesChange [.fence (fnOf g)] [.tbl, .fences] s t) ∧
  (∀ (en : Bool) (n : FuncId) s, (∀ h : GuestId, (en = false ∨ n.val < h.val + 1) → gword s h 1 % 8 = 0) →
    Completes (.sriovDisable en n) s fun t =>
      t.get .host HOST.VF_STATUS_VF_ENABLE = b2n en ∧ t.get .host HOST.VF_STATUS_NUM_VFS = n.val ∧
      (∀ h : GuestId, (en = false ∨ n.val < h.val + 1) → gword t h 0 = 0) ∧
      (∀ h : GuestId, en = true → h.val + 1 ≤ n.val → gword t h 0 = gword s h 0) ∧
      OnlyChanges [(.host, HOST.VF_STATUS_VF_ENABLE), (.host, HOST.VF_STATUS_NUM_VFS)] [.tbl] s t) ∧
  (∀ (en : Bool) (n : FuncId) s (g : GuestId), en = false ∨ n.val < g.val + 1 → quietGuest s g →
    (∀ h : GuestId, h ≠ g → (en = false ∨ n.val < h.val + 1) → gword s h 1 % 8 = 0) →
    Completes (.sriovDisable en n) s (DrainBegun g false s))

/-- The fields a completed fence writes. -/
def fenceFields (fn : FuncId) : List (Page × Field) :=
  [(.fence fn, FENCE.FENCE_STATUS_DONE_SEQ), (.fence fn, FENCE.FENCE_RESULT_STATUS), (.fence fn, ALL.FENCE_TAG_TAG),
   (.fence fn, FENCE.FENCE_RESULT_OUTSTANDING)]

/-- R127, R418: the host writes that the requests `seqs` of a function cover are visible to engines. -/
def WritesShown (fn : FuncId) (seqs : List Nat) (s t : State) : Prop :=
  ∀ k, t.blk k = { s.blk k with unseen := seqs.foldl (fun us q => unseenAfter (fun u => u.fn = fn.val && u.fence = some q) us) (s.blk k).unseen }

/-- The oldest fence of a function, of the one request `r`, completes with a status (R419): the host writes it covers are visible to engines,
then its write-back, the results, then its interrupt. -/
def FenceDone (fn : FuncId) (r : FenceReq) (rest : List Fence) (status : Nat) (s t : State) : Prop :=
  (t.fence fn).open' = rest ∧ (∀ j, j ≠ fn.val → t.fence j = s.fence j) ∧ t.get (.fence fn) FENCE.FENCE_STATUS_DONE_SEQ = r.seq % 2 ^ 16 ∧
  t.get (.fence fn) FENCE.FENCE_RESULT_STATUS = status ∧ t.get (.fence fn) ALL.FENCE_TAG_TAG = r.tag % 2 ^ 16 ∧
  t.get (.fence fn) FENCE.FENCE_RESULT_OUTSTANDING = rest.length % 2 ^ 5 ∧
  WritesShown fn [r.seq] s t ∧
  t.out = s.out ++ (if r.wb then [.hostWrite fn.val (s.wbAddr fn % 2 ^ 63) (leBytes (r.seq + status * 2 ^ 16) 8)] else [])
    ++ (if r.irq then [.msix fn (if fn.val = 0 then 4 else 0)] else []) ∧
  OnlyChanges (fenceFields fn) [.fences, .out, .blks] s t

/-- R127, R304, R403, R417 to R420, R422, R424: FENCE_REQ takes the next number, covers the host writes its function has made, and is outstanding,
or joins the newest of 16; the oldest fence completes when it waits for no tag or its tags have come, or is late after WAIT_LIMIT, and the
writes it covers are then visible to engines; a read of FENCE_RESULT clears MERGED; the host link goes down, and trains again. -/
def Obligations.FencesAndHostLink : Prop :=
  (∀ (fn : FuncId) (v : Word) s n r, s.reachesFence fn = true →
    n = (if s.get (.fence fn) FENCE.FENCE_STATUS_REQ_SEQ = 0xFFFF then 1 else s.get (.fence fn) FENCE.FENCE_STATUS_REQ_SEQ + 1) →
    r = (⟨n, v.toNat % 2 ^ 16, v.getLsbD 16, v.getLsbD 17, v.getLsbD 18, s.led.tags.contains (fn.val, v.toNat % 2 ^ 16)⟩ : FenceReq) →
    Completes (.fenceReq fn v) s fun t =>
      t.get (.fence fn) FENCE.FENCE_STATUS_REQ_SEQ = n % 2 ^ 16 ∧
      ((s.fence fn).open'.length < 16 →
        (t.fence fn).open' = (s.fence fn).open' ++ [⟨[r], s.st⟩] ∧
        t.get (.fence fn) FENCE.FENCE_RESULT_OUTSTANDING = ((s.fence fn).open'.length + 1) % 2 ^ 5 ∧
        t.get (.fence fn) FENCE.FENCE_RESULT_MERGED = s.get (.fence fn) FENCE.FENCE_RESULT_MERGED) ∧
      (∀ before f, (s.fence fn).open' = before ++ [f] → 16 ≤ (s.fence fn).open'.length →
        (t.fence fn).open' = before ++ [⟨f.reqs ++ [r], s.st⟩] ∧ t.get (.fence fn) FENCE.FENCE_RESULT_MERGED = 1) ∧
      (∀ j, j ≠ fn.val → t.fence j = s.fence j) ∧
      (∀ k, t.blk k = { s.blk k with unseen := (s.blk k).unseen.map fun u =>
        if u.fn = fn.val && u.fence.isNone then { u with fence := some n } else u }) ∧
      OnlyChanges [(.fence fn, FENCE.FENCE_STATUS_REQ_SEQ), (.fence fn, FENCE.FENCE_RESULT_OUTSTANDING), (.fence fn, FENCE.FENCE_RESULT_MERGED)]
        [.fences, .blks] s t) ∧
  (∀ (fn : FuncId) (v : Word) s, s.reachesFence fn = false → Completes (.fenceReq fn v) s fun t => t = s) ∧
  (∀ (fn : FuncId) s f r rest, (s.fence fn).open' = f :: rest → f.reqs = [r] → r.wait = false ∨ r.met = true → onHost (s.wbAddr fn) = true →
    Completes (.fenceComplete fn) s (FenceDone fn r rest 0 s)) ∧
  (∀ (fn : FuncId) s f l r rest, (s.fence fn).open' = f :: rest → f.reqs = l ++ [r] → (∀ q ∈ f.reqs, q.wait = false ∨ q.met = true) →
    onHost (s.wbAddr fn) = true →
    Completes (.fenceComplete fn) s fun t =>
      (t.fence fn).open' = rest ∧ (∀ j, j ≠ fn.val → t.fence j = s.fence j) ∧ t.get (.fence fn) FENCE.FENCE_STATUS_DONE_SEQ = r.seq % 2 ^ 16 ∧
      t.get (.fence fn) FENCE.FENCE_RESULT_STATUS = 0 ∧ t.get (.fence fn) ALL.FENCE_TAG_TAG = r.tag % 2 ^ 16 ∧
      WritesShown fn (f.reqs.map (·.seq)) s t ∧ OnlyChanges (fenceFields fn) [.fences, .out, .blks] s t) ∧
  (∀ (fn : FuncId) s f r rest, (s.fence fn).open' = f :: rest → f.reqs = [r] → r.wait = false ∨ r.met = true → r.wb = true → r.irq = false →
    s.wbAddr fn + 8 ≤ hbmEnd → s.hbmView fn (s.wbAddr fn) 1 = true → s.get .hbm HBM.STATUS_WIPING = 0 →
    Completes (.fenceComplete fn) s fun t =>
      t.bytes (s.wbAddr fn) 8 = r.seq % 2 ^ 64 ∧ BytesKept (s.wbAddr fn) 8 s t ∧ WordsKept s t ∧
      t.get (.fence fn) FENCE.FENCE_STATUS_DONE_SEQ = r.seq % 2 ^ 16 ∧ (t.fence fn).open' = rest ∧
      OnlyChanges (fenceFields fn) [.fences, .mem, .tbl, .blks] s t) ∧
  (∀ (fn : FuncId) s, (∀ f ∈ (s.fence fn).open'.head?, ∃ r ∈ f.reqs, r.wait = true ∧ r.met = false) → Completes (.fenceComplete fn) s fun t => t = s) ∧
  (∀ (fn : FuncId) s f r rest, (s.fence fn).open' = f :: rest → f.reqs = [r] → r.wait = true → r.met = false → onHost (s.wbAddr fn) = true →
    s.get (.fence fn) FENCE.WAIT_LIMIT_UNITS ≠ 0 → s.get (.fence fn) FENCE.WAIT_LIMIT_UNITS * 2 ^ 20 ≤ (s.st - f.arrived).toNat →
    Completes (.fenceTimeout fn) s (FenceDone fn r rest 1 s)) ∧
  (∀ (fn : FuncId) s, s.get (.fence fn) FENCE.WAIT_LIMIT_UNITS = 0 ∨
      (∀ f ∈ (s.fence fn).open'.head?, (s.st - f.arrived).toNat < s.get (.fence fn) FENCE.WAIT_LIMIT_UNITS * 2 ^ 20) →
    Completes (.fenceTimeout fn) s fun t => t = s) ∧
  (∀ (fn : FuncId) s, s.reachesFence fn = true →
    Completes (.fenceResultRead fn) s fun t =>
      t.rdata = s.get (.fence fn) FENCE.FENCE_RESULT_STATUS + s.get (.fence fn) FENCE.FENCE_RESULT_MERGED * 2 ^ 8
        + s.get (.fence fn) FENCE.FENCE_RESULT_OUTSTANDING * 2 ^ 16 ∧
      t.get (.fence fn) FENCE.FENCE_RESULT_MERGED = 0 ∧ OnlyChanges [(.fence fn, FENCE.FENCE_RESULT_MERGED)] [.rdata] s t) ∧
  (∀ (fn : FuncId) s, s.reachesFence fn = false →
    Completes (.fenceResultRead fn) s fun t => t.rdata = 0 ∧ OnlyChanges [] [.rdata] s t) ∧
  (∀ s, Completes .hostLinkDown s fun t =>
    t.get .host HOST.LINK_STATUS_DL_UP = 0 ∧ Raised .host 0 s t ∧ OnlyChanges ((.host, HOST.LINK_STATUS_DL_UP) :: faultRegs .host) [.out] s t) ∧
  (∀ (gen : Fin 5) (w : BitVec 5) (m : BitVec 2) s limit, limit = max 1 (min w.toNat (s.get .host HOST.LINK_LIMIT_MAX_WIDTH)) →
    Completes (.hostLinkRecovery gen w m) s fun t =>
      t.get .host HOST.LINK_STATUS_DL_UP = 1 ∧
      t.get .host HOST.LINK_STATUS_GEN = min (gen.val + 1) (max 1 (s.get .host HOST.LINK_LIMIT_MAX_GEN)) ∧
      (∃ x ∈ [1, 4, 8, 16], t.get .host HOST.LINK_STATUS_WIDTH = x ∧ x ≤ limit ∧ ∀ y ∈ [1, 4, 8, 16], y ≤ limit → y ≤ x) ∧
      t.get .host HOST.LINK_STATUS_REFMODE = m.toNat ∧
      t.get .host HOST.RECOVERY_COUNT = satInc 32 (s.get .host HOST.RECOVERY_COUNT) % 2 ^ 32 ∧
      OnlyChanges [(.host, HOST.LINK_STATUS_DL_UP), (.host, HOST.LINK_STATUS_GEN), (.host, HOST.LINK_STATUS_WIDTH), (.host, HOST.LINK_STATUS_REFMODE),
        (.host, HOST.RECOVERY_COUNT)] [] s t)

/-- A command of a port's lanes changes the registers of that port and of the fabric, its link layer and what leaves the device. -/
def LaneFrame (p : PortId) (s t : State) : Prop := OnlyPagesChange [.port p, .fabric] [.links, .out] s t ∧ ∀ j, j ≠ p.val → t.link j = s.link j

/-- R377: what an enabled port whose width has fallen below 4 shows: DEADLINE_RISK, and the fabric's. -/
def AtRisk (p : PortId) (s t : State) : Prop :=
  s.pageIs (.port p) .ready = true → t.get (.port p) PORT.PSTATUS_DEADLINE_RISK = 1 ∧ t.get .fabric FABRIC.FSTATUS_DEADLINE_RISK = 1

/-- A lane is of the received, or of the transmitted, width after a change: it was, or both ends have reported it ready and seen the other's
report (R372, R373). -/
def takesRx (s : State) (p : PortId) (l : Nat) : Bool := Nat.testBit (s.link p).acc l || (Nat.testBit (s.link p).rdy l && s.agreed p l)
def takesTx (s : State) (p : PortId) (l : Nat) : Bool := Nat.testBit (s.link p).peerAcc l || (Nat.testBit (s.link p).peerRdy l && s.agreed p l)

/-- R364 to R374, R377: a lost lane retrains, is counted and sets LANE_LOST, and with fewer than 2 left the port goes DOWN; a trained lane is
ready, and one that cannot train says why; LANE_MAP and the change of width, which takes the lanes both ends agree on; the eye scan, FOM and
the trial steps; idle windows freeze the adaptation; sleep, and the training that follows it. -/
def Obligations.Lanes : Prop :=
  (∀ (p : PortId) (l : Fin 4) n s, s.laneRxIs p l .live = true → 3 ≤ s.rxWidth p → 2 ≤ s.txWidth p → (s.link p).trial = none →
    Completes (.laneLoss p l n) s fun t =>
      t.laneRxIs p l .retrain = true ∧ t.get (.port p) (PORT.LANE_ERR_CODE_ERR l) = min 0xFFFF (s.get (.port p) (PORT.LANE_ERR_CODE_ERR l) + n.toNat) ∧
      t.get (.port p) (PORT.LANE_ERR_LOSSES l) = satInc 16 (s.get (.port p) (PORT.LANE_ERR_LOSSES l)) % 2 ^ 16 ∧ Raised (.port p) 0 s t ∧
      t.get (.port p) PORT.PSTATUS_RX_WIDTH = (s.rxWidth p - 1) % 2 ^ 3 ∧ t.get (.port p) PORT.PSTATUS_STATE = 2 ∧
      AtRisk p s t ∧
      t.link p = { s.link p with
        acc := dropBit (s.link p).acc l, rdy := dropBit (s.link p).rdy l, told := dropBit (s.link p).told l,
        heard := dropBit (s.link p).heard l, mapDue := true, risk := (t.link p).risk } ∧ LaneFrame p s t) ∧
  (∀ (p : PortId) (l : Fin 4) n s, s.laneRxIs p l .live = true → s.rxWidth p = 2 → s.get (.port p) PORT.PSTATUS_STATE = 2 → s.fab.sendq = [] →
    (s.link p).way = [] →
    Completes (.laneLoss p l n) s fun t =>
      t.get (.port p) PORT.PSTATUS_STATE = 0 ∧ t.get (.port p) PORT.PSTATUS_RX_WIDTH = 0 ∧ t.get (.port p) PORT.PSTATUS_TX_WIDTH = 0 ∧
      (∀ i, i < 4 → t.laneRxIs p i .retrain = true ∧ t.laneTxIs p i .train = true) ∧ (t.link p).txSeq = 0 ∧ (t.link p).rxSeq = 0 ∧
      t.get (.port p) ALL.FAULT_BITS = (s.get (.port p) ALL.FAULT_BITS ||| 3) % 2 ^ 32 ∧ (∀ j, j ≠ p.val → t.link j = s.link j)) ∧
  (∀ (p : PortId) (l : Fin 4) n s, s.laneRxIs p l .live = false → Completes (.laneLoss p l n) s fun t => t = s) ∧
  (∀ (p : PortId) (l : Fin 4) d s, s.laneRxIs p l .train = true ∨ s.laneRxIs p l .retrain = true →
    Completes (.laneReady p l d) s fun t =>
      t.get (.port p) PORT.LINK_DELAY_ST = d.toNat ∧ t.link p = { s.link p with rdy := (s.link p).rdy ||| 2 ^ l.val, mapDue := true } ∧
      (∀ j, j ≠ p.val → t.link j = s.link j) ∧ OnlyChanges [(.port p, PORT.LINK_DELAY_ST)] [.links] s t) ∧
  (∀ (p : PortId) (l : Fin 4) d skew s c, s.laneRxIs p l .train = false → s.laneRxIs p l .retrain = false →
    c ∈ [Instr.laneReady p l d, .laneTrainFail p l skew, .retrainRestart p l] → Completes c s (· = s)) ∧
  (∀ (p : PortId) (l : Fin 4) s, s.laneRxIs p l .retrain = true → Nat.testBit (s.link p).rdy l = false →
    Completes (.retrainRestart p l) s fun t =>
      t.get (.port p) (PORT.LANE_ERR_LOSSES l) = satInc 16 (s.get (.port p) (PORT.LANE_ERR_LOSSES l)) % 2 ^ 16 ∧
      OnlyChanges [(.port p, PORT.LANE_ERR_LOSSES l)] [] s t) ∧
  (∀ (p : PortId) (l : Fin 4) skew s, s.laneRxIs p l .train = true ∨ s.laneRxIs p l .retrain = true →
    Completes (.laneTrainFail p l skew) s fun t =>
      Raised (.port p) (if skew then 2 else 3) s t ∧ t.link p = { s.link p with rdy := dropBit (s.link p).rdy l } ∧
      (∀ j, j ≠ p.val → t.link j = s.link j) ∧ OnlyChanges (faultRegs (.port p)) [.links, .out] s t) ∧
  (∀ (p : PortId) acc rdy echo s, s.time.frozen = false →
    Completes (.laneMap p acc rdy echo) s fun t =>
      (t.link p).peerAcc = acc.toNat ∧ (t.link p).peerRdy = rdy.toNat ∧ (t.link p).peerEcho = echo.toNat ∧
      (t.link p).heard = (s.link p).told ∧ (t.link p).told = (s.link p).told ∧ (t.link p).acc = (s.link p).acc ∧
      (echo.toNat = (s.link p).acc → (t.link p).change = true) ∧
      (acc.toNat ≠ (s.link p).peerAcc ∨ rdy.toNat ≠ (s.link p).peerRdy ∨ echo.toNat ≠ (s.link p).acc → (t.link p).mapDue = true) ∧
      (∀ j, j ≠ p.val → t.link j = s.link j) ∧ OnlyChanges [] [.links] s t) ∧
  (∀ (p : PortId) s a, a = s.markerTime → (s.link p).change = true → s.time.frozen = false →
    s.get (.port p) PORT.PSTATUS_STATE ≠ 2 ∨
      (2 ≤ s.rxWidth p ∧ 2 ≤ (lanes.filter fun l => s.laneTxIs p l .live && Nat.testBit (s.link p).peerAcc l).length) →
    CompletesAt a (.widthChange p) s fun u t =>
      (∀ l, l < 4 → takesRx s p l = true → s.laneRxIs p l .train = true ∨ s.laneRxIs p l .retrain = true → t.laneRxIs p l .live = true) ∧
      (∀ l, l < 4 → takesRx s p l = false → t.get (.port p) (rxField l) = s.get (.port p) (rxField l)) ∧
      (∀ l, l < 4 → takesTx s p l = true → s.laneTxIs p l .train = true → t.laneTxIs p l .live = true) ∧
      (∀ l, l < 4 → takesTx s p l = false → s.laneTxIs p l .live = true → t.laneTxIs p l .train = true) ∧
      (∀ l, l < 4 → Nat.testBit (t.link p).acc l = takesRx s p l ∧ Nat.testBit (t.link p).peerAcc l = takesTx s p l ∧
        Nat.testBit (t.link p).rdy l = (Nat.testBit (s.link p).rdy l && !s.agreed p l)) ∧ (t.link p).change = false ∧
      t.get (.port p) PORT.PSTATUS_RX_WIDTH = t.rxWidth p ∧ t.get (.port p) PORT.PSTATUS_TX_WIDTH = t.txWidth p ∧
      (2 ≤ t.rxWidth p → 2 ≤ t.txWidth p → t.get (.port p) PORT.PSTATUS_STATE = 2) ∧ LaneFrame p u t) ∧
  (∀ (p : PortId) s, (s.link p).change = false ∨ s.time.frozen = true → Completes (.widthChange p) s (· = s)) ∧
  (∀ (p : PortId) eyes c s, (s.link p).trial = none →
    Completes (.eyeScanDone p eyes c) s fun t =>
      (∀ l, l < 4 → s.scans p l = true →
        t.get (.port p) (PORT.EYE_EW l) = (eyes.getD l (0, 0)).1.toNat ∧ t.get (.port p) (PORT.EYE_EH l) = (eyes.getD l (0, 0)).2.toNat ∧
        t.get (.port p) (PORT.EYE_MARGIN l) = min 255 (min (4 * (eyes.getD l (0, 0)).1.toNat) (eyes.getD l (0, 0)).2.toNat)) ∧
      (∀ l, l < 4 → s.laneRxIs p l .live = true →
        t.get (.port p) PORT.FOM_FOM ≤ t.get (.port p) (PORT.EYE_MARGIN l) ∧ ∃ k, k < 4 ∧ t.get (.port p) PORT.FOM_FOM = t.get (.port p) (PORT.EYE_MARGIN k)) ∧
      (∀ l, l < 4 → s.laneRxIs p l .live = true → Nat.testBit (s.get (.port p) PORT.PSTATUS_FROZEN) l = false →
        ∃ k, k < 4 ∧ t.margin p k ≤ t.margin p l ∧
          t.link p = { s.link p with trial := some (k, t.margin p k, (s.link p).coef.getD k 0), coef := (s.link p).coef.set k c }) ∧
      (∀ j, j ≠ p.val → t.link j = s.link j) ∧ OnlyPagesChange [.port p] [.links] s t) ∧
  (∀ (p : PortId) (l : Fin 4) n s, 3584 < n.toNat → (s.link p).trial = none →
    Completes (.idleWindowEnd p l n) s fun t =>
      t.get (.port p) PORT.PSTATUS_FROZEN = (s.get (.port p) PORT.PSTATUS_FROZEN ||| 2 ^ l.val) % 2 ^ 4 ∧
      OnlyChanges [(.port p, PORT.PSTATUS_FROZEN)] [] s t) ∧
  (∀ (p : PortId) (l : Fin 4) n s, n.toNat ≤ 3584 →
    Completes (.idleWindowEnd p l n) s fun t =>
      Nat.testBit (t.get (.port p) PORT.PSTATUS_FROZEN) l = false ∧
      (∀ i, i < 4 → i ≠ l.val → Nat.testBit (t.get (.port p) PORT.PSTATUS_FROZEN) i = Nat.testBit (s.get (.port p) PORT.PSTATUS_FROZEN) i) ∧
      OnlyChanges [(.port p, PORT.PSTATUS_FROZEN)] [] s t) ∧
  (∀ (p : PortId) (l : Fin 4) (v : Word) s, v.toNat % 2 ^ 4 = 2 ^ l.val → v.toNat / 2 ^ 16 % 2 ^ 3 ≠ 4 → (∀ i, i < 4 → s.laneTxIs p i .live = true) →
    2 ≤ s.rxWidth p →
    Completes (.sleepCtrlWrite 0 p v) s fun t =>
      t.laneTxIs p l .sleep = true ∧ t.get (.port p) PORT.SLEEP_CTRL_TX_SLEEP = 2 ^ l.val ∧ t.get (.port p) PORT.SLEEP_CTRL_AUTO = v.toNat / 2 ^ 8 % 2 ∧
      t.get (.port p) PORT.SLEEP_CTRL_MIN_WIDTH = v.toNat / 2 ^ 16 % 2 ^ 3 ∧ t.get (.port p) PORT.PSTATUS_TX_WIDTH = 3 ∧
      AtRisk p s t ∧ Nat.testBit (t.link p).peerAcc l = false ∧ LaneFrame p s t) ∧
  (∀ (p : PortId) (l : Fin 4) (v : Word) s, v.toNat % 2 ^ 9 = 0 → s.laneTxIs p l .sleep = true →
    Completes (.sleepCtrlWrite 0 p v) s fun t => t.laneTxIs p l .train = true ∧ OnlyPagesChange [.port p] [] s t) ∧
  (∀ (p : PortId) (l : Fin 4) (v : Word) s, v.toNat % 2 ^ 9 = 2 ^ 8 → s.laneTxIs p l .sleep = true →
    Completes (.sleepCtrlWrite 0 p v) s fun t =>
      (if Nat.testBit (s.get (.port p) PORT.SLEEP_CTRL_TX_SLEEP) l then t.laneTxIs p l .train else t.laneTxIs p l .sleep) = true ∧
      OnlyPagesChange [.port p] [] s t) ∧
  (∀ (fn : FuncId) (p : PortId) (v : Word) s, fn.val ≠ 0 → Completes (.sleepCtrlWrite fn p v) s (· = s)) ∧
  (∀ (p : PortId) s, s.get (.port p) PORT.SLEEP_CTRL_AUTO = 1 → s.linkRuns p = true → s.frameWaits p = false → 2 ≤ s.rxWidth p →
    64 * 12800 ≤ (s.st - (s.link p).lastSent).toNat →
    Completes (.autoSleep p) s fun t => t.txWidth p = min (s.txWidth p) (s.minWidth p) ∧ LaneFrame p s t) ∧
  (∀ (p : PortId) (l : Fin 4) s, s.laneRxIs p l .live = true → 3 ≤ s.rxWidth p → 2 ≤ s.txWidth p →
    Completes (.sleep p l) s fun t =>
      t.laneRxIs p l .sleep = true ∧ (t.link p).acc = dropBit (s.link p).acc l ∧ (t.link p).heard = dropBit (s.link p).heard l ∧
      t.get (.port p) PORT.PSTATUS_RX_WIDTH = (s.rxWidth p - 1) % 2 ^ 3 ∧ AtRisk p s t ∧ LaneFrame p s t) ∧
  (∀ (p : PortId) (l : Fin 4) s, s.laneRxIs p l .live = false → Completes (.sleep p l) s (· = s)) ∧
  (∀ (p : PortId) (l : Fin 4) s, s.laneRxIs p l .sleep = true →
    Completes (.laneWake p l true) s fun t => t.laneRxIs p l .retrain = true ∧ OnlyChanges [(.port p, rxField l)] [] s t) ∧
  (∀ (p : PortId) (l : Fin 4) s, s.laneTxIs p l .sleep = true → s.get (.port p) PORT.SLEEP_CTRL_AUTO = 0 ∨ s.frameWaits p = true →
    Nat.testBit (s.get (.port p) PORT.SLEEP_CTRL_TX_SLEEP) l = false →
    Completes (.laneWake p l false) s fun t => t.laneTxIs p l .train = true ∧ OnlyChanges [(.port p, txField l)] [] s t) ∧
  (∀ (p : PortId) (l : Fin 4) s, s.laneRxIs p l .sleep = false → Completes (.laneWake p l true) s (· = s)) ∧
  (∀ (p : PortId) (l : Fin 4) s, s.laneTxIs p l .sleep = false ∨ Nat.testBit (s.get (.port p) PORT.SLEEP_CTRL_TX_SLEEP) l = true →
    Completes (.laneWake p l false) s (· = s))

/-- The commands that receive a sequenced frame with a header at a port. -/
def isFrame (p : PortId) (h : FrameHead) (c : Instr) : Prop :=
  c = .stub p h ∨ (∃ a b d e f, c = .msg p h a b d e f) ∨ (∃ a, c = .startFrame p h a) ∨ (∃ a b, c = .trig p h a b) ∨
  (∃ a b d e f g, c = .dec p h a b d e f g) ∨ (∃ a b d e, c = .voidFrame p h a b d e) ∨ (∃ a b d, c = .readyFrame p h a b d) ∨
  (∃ a b d e, c = .rstart p h a b d e) ∨ (∃ a b d, c = .settle p h a b d) ∨ (∃ a b d, c = .openFrame p h a b d) ∨ (∃ a, c = .joinReq p h a) ∨
  (∃ a b d, c = .admitFrame p h a b d) ∨ (∃ a, c = .routes p h a) ∨ c = .present p h ∨ (∃ a, c = .lost p h a) ∨ c = .leaveFrame p h ∨
  (∃ a, c = .syncCapt p h a) ∨ (∃ a b, c = .expiry p h a b) ∨ (∃ a b, c = .member p h a b)

/-- A sequenced frame is accepted: the link runs, its SEQ is the one expected, and the import buffer is not full (R382, R390). -/
def accepted (s : State) (p : PortId) (h : FrameHead) : Prop :=
  s.linkRuns p = true ∧ h.seq.toNat = (s.link p).rxSeq ∧ (s.link p).imports.length < 64

/-- The link layer after it has taken a frame: the next SEQ is expected and one ACK of this one waits (R382). -/
def LinkTook (p : PortId) (h : FrameHead) (s t : State) : Prop :=
  t.link p = { s.link p with
    rxSeq := ((s.link p).rxSeq + 1) % 4096,
    linkq := ((s.link p).linkq.filter fun f => f.kind ≠ .ack) ++ [{ s.plain .ack 0 [] with origin := some h.seq.toNat }] } ∧
  ∀ j, j ≠ p.val → t.link j = s.link j

/-- A port has nothing to send before new frames. -/
def readyToSend (s : State) (p : PortId) : Prop :=
  s.linkRuns p = true ∧ (s.link p).linkq = [] ∧ (s.link p).mapDue = false ∧ (s.link p).resend = [] ∧ (s.link p).way.length < 256

/-- A frame leaves by a port over a route. -/
def goesBy (s : State) (p : PortId) (f : Frame) : Prop := s.portOf f = p ∧ f.via = none ∧ s.reaches f.dest = true

/-- A new frame is sent: it takes the next SEQ, leaves the device and stands in the waystation. -/
def SentNew (p : PortId) (f : Frame) (s t : State) : Prop :=
  t.out = s.out ++ [.frame p (f.bytes (s.link p).txSeq)] ∧
  t.link p = { s.link p with txSeq := ((s.link p).txSeq + 1) % 4096, way := (s.link p).way ++ [((s.link p).txSeq, f)], lastSent := s.st } ∧
  (∀ j, j ≠ p.val → t.link j = s.link j) ∧
  OnlyChanges [(.port p, PORT.WAYSTATION_USED), (.port p, PORT.WAYSTATION_OUTSTANDING_DL)] [.fab, .links, .out] s t

/-- R378 to R387, R390, R391, R401: what a port sends next, and in which order; acknowledgement, retransmission and the NAK of an unexpected SEQ; frames past
their stop time or deadline are discarded and counted; HELLO; the tag and subscription tables; CLR_COUNTS. -/
def Obligations.LinkLayer : Prop :=
  (∀ (p : PortId) s f rest, s.time.frozen = false → (s.link p).linkq = f :: rest →
    Completes (.frameSend p) s fun t =>
      t.out = s.out ++ [.frame p ({ f with origin := none }.bytes (f.origin.getD 0))] ∧
      t.link p = { s.link p with linkq := rest, lastSent := s.st } ∧ (∀ j, j ≠ p.val → t.link j = s.link j) ∧ OnlyChanges [] [.links, .out] s t) ∧
  (∀ (p : PortId) s, s.time.frozen = false → (s.link p).linkq = [] → (s.link p).mapDue = true → (s.link p).mapAt ≠ s.markerPeriod →
    Completes (.frameSend p) s fun t =>
      t.out = s.out ++ [.frame p ((s.plain .laneMap 0 [(s.link p).acc + (s.link p).rdy * 16 + (s.link p).peerAcc * 256]).bytes 0)] ∧
      t.link p = { s.link p with
        told := (s.link p).acc ||| (s.link p).rdy, mapAt := s.markerPeriod, mapDue := (s.link p).peerEcho ≠ (s.link p).acc || (s.link p).rdy ≠ 0,
        lastSent := s.st } ∧ (∀ j, j ≠ p.val → t.link j = s.link j) ∧ OnlyChanges [] [.links, .out] s t) ∧
  (∀ (p : PortId) s i f rest, s.linkRuns p = true → (s.link p).linkq = [] → (s.link p).mapDue = false → (∀ g ∈ s.fab.sendq, s.reaches g.dest = true) →
    (s.link p).resend = i :: rest → (s.link p).way.find? (fun x => x.1 = i) = some (i, f) →
    Completes (.frameSend p) s fun t =>
      t.out = s.out ++ [.frame p (f.bytes i)] ∧ t.link p = { s.link p with resend := rest, lastSent := s.st } ∧
      t.get (.port p) PORT.RETRIES_COUNT = satInc 32 (s.get (.port p) PORT.RETRIES_COUNT) % 2 ^ 32 ∧
      OnlyChanges [(.port p, PORT.RETRIES_COUNT)] [.links, .out] s t) ∧
  (∀ (p : PortId) s f, readyToSend s p → s.fab.sendq = [f] → goesBy s p f → f.deadline = none → f.origin = none →
    Completes (.frameSend p) s fun t =>
      SentNew p { f with origin := some (s.nextOrigin f.dest) } s t ∧
      t.fab = { s.fab with sendq := [], outOrigin := setAt f.dest (s.nextOrigin f.dest) s.fab.outOrigin }) ∧
  (∀ (p : PortId) s a b c da db, readyToSend s p → s.fab.sendq = [c, a, b] → goesBy s p a → goesBy s p b → goesBy s p c → a.deadline = some da →
    b.deadline = some db → c.deadline = none → Stamp.atOrAfter db da = false → s.pastStop p b = false → a ≠ b →
    Completes (.frameSend p) s fun t => SentNew p b s t ∧ t.fab = { s.fab with sendq := [c, a] }) ∧
  (∀ (p : PortId) s f d, readyToSend s p → s.fab.sendq = [f] → goesBy s p f → f.deadline = some d → s.pastStop p f = true → f.src ≠ s.fabricId →
    Completes (.frameSend p) s fun t =>
      t.out = s.out ∧ t.fab = { s.fab with sendq := [{ s.plain .expiry f.src [f.kind.code, f.group] with group := f.group }] } ∧
      t.get (.port p) PORT.EXPIRED_COUNT = satInc 32 (s.get (.port p) PORT.EXPIRED_COUNT) % 2 ^ 32 ∧
      OnlyChanges [(.port p, PORT.EXPIRED_COUNT)] [.fab] s t) ∧
  (∀ (p : PortId) s, s.time.frozen = true → Completes (.frameSend p) s fun t => t = s) ∧
  (∀ (p : PortId) s, s.linkRuns p = true → (s.link p).way ≠ [] → (∀ x ∈ (s.link p).way, x.2.deadline = none) →
    2400 ≤ (s.st - (s.link p).lastSent).toNat → s.get (.port p) PORT.ACK_TIMEOUT_ST ≤ (s.st - (s.link p).lastSent).toNat →
    Completes (.ackTimeout p) s fun t =>
      t.link p = { s.link p with resend := (s.link p).way.map (·.1) } ∧ (∀ j, j ≠ p.val → t.link j = s.link j) ∧
      OnlyChanges [(.port p, PORT.WAYSTATION_USED), (.port p, PORT.WAYSTATION_OUTSTANDING_DL)] [.links] s t) ∧
  (∀ (p : PortId) (seq : BitVec 12) s f before after, s.linkRuns p = true → (s.link p).way = before ++ (seq.toNat, f) :: after → (s.link p).resend = [] →
    (∀ x ∈ before, x.1 ≠ seq.toNat ∧ ∀ y ∈ after, y.1 ≠ x.1) → (∀ y ∈ after, y.1 ≠ seq.toNat) →
    Completes (.ack p seq) s fun t =>
      t.link p = { s.link p with way := after } ∧ t.get (.port p) PORT.WAYSTATION_USED = after.length % 2 ^ 9 ∧
      (∀ j, j ≠ p.val → t.link j = s.link j) ∧
      OnlyChanges [(.port p, PORT.WAYSTATION_USED), (.port p, PORT.WAYSTATION_OUTSTANDING_DL)] [.links] s t) ∧
  (∀ (p : PortId) (seq : BitVec 12) s before after, s.linkRuns p = true → (s.link p).way = before ++ after → (∀ x ∈ (s.link p).way, x.2.deadline = none) →
    (∀ x ∈ before, x.1 ≠ seq.toNat ∧ ∀ y ∈ after, y.1 ≠ x.1) → after.head?.map (·.1) = some seq.toNat →
    Completes (.nak p seq) s fun t =>
      t.link p = { s.link p with resend := after.map (·.1) } ∧ (∀ j, j ≠ p.val → t.link j = s.link j) ∧
      OnlyChanges [(.port p, PORT.WAYSTATION_USED), (.port p, PORT.WAYSTATION_OUTSTANDING_DL)] [.links] s t) ∧
  (∀ (p : PortId) s, s.get (.port p) PORT.PSTATUS_STATE ≠ 0 → s.isChair = true →
    Completes (.helloTimer p) s fun t =>
      t.link p = { s.link p with linkq := (s.link p).linkq ++ [s.plain .hello 0 [s.serial, s.serial, s.fabricId, p.val]] } ∧
      (∀ j, j ≠ p.val → t.link j = s.link j) ∧ OnlyChanges [] [.links] s t) ∧
  (∀ (p : PortId) serial chair id port s, s.time.frozen = false → s.fab.joinWanted = false → s.fabState ≠ 2 →
    Completes (.hello p serial chair id port) s fun t =>
      t.get (.port p) PORT.PSTATUS_NEIGHBOUR = id.toNat ∧ t.get (.port p) PORT.PSTATUS_NB_VALID = 1 ∧
      OnlyChanges [(.port p, PORT.PSTATUS_NEIGHBOUR), (.port p, PORT.PSTATUS_NB_VALID)] [] s t) ∧
  (∀ (p : PortId) s, s.linkRuns p = true → (s.link p).naked = none →
    Completes (.crcFailFrame p) s fun t =>
      t.get (.port p) PORT.CRC_ERR_COUNT = satInc 32 (s.get (.port p) PORT.CRC_ERR_COUNT) % 2 ^ 32 ∧
      t.link p = { s.link p with
        naked := some ((s.link p).rxSeq, s.markerPeriod),
        linkq := (s.link p).linkq ++ [{ s.plain .nak 0 [] with origin := some (s.link p).rxSeq }] } ∧
      OnlyChanges [(.port p, PORT.CRC_ERR_COUNT)] [.links] s t) ∧
  (∀ c (p : PortId) h s, isFrame p h c → s.linkRuns p = true → h.seq.toNat ≠ (s.link p).rxSeq → (s.link p).naked = none →
    Completes c s fun t =>
      t.link p = { s.link p with
        naked := some ((s.link p).rxSeq, s.markerPeriod),
        linkq := (s.link p).linkq ++ [{ s.plain .nak 0 [] with origin := some (s.link p).rxSeq }] } ∧
      (∀ j, j ≠ p.val → t.link j = s.link j) ∧ OnlyChanges [] [.links] s t) ∧
  (∀ c (p : PortId) h s, isFrame p h c →
    s.linkRuns p = false ∨ (h.seq.toNat = (s.link p).rxSeq ∧ 64 ≤ (s.link p).imports.length) ∨
      (h.seq.toNat ≠ (s.link p).rxSeq ∧ (s.link p).naked = some ((s.link p).rxSeq, s.markerPeriod)) →
    Completes c s fun t => t = s) ∧
  (∀ (p : PortId) h s, accepted s p h → h.dlv = false → Completes (.stub p h) s fun t => LinkTook p h s t ∧ OnlyChanges [] [.links] s t) ∧
  (∀ (p : PortId) s f d, (s.link p).imports = [f] → f.deadline = some d → Stamp.atOrAfter d s.st = false → f.src ≠ s.fabricId →
    Completes (.importDeadlinePass p) s fun t =>
      t.link p = { s.link p with imports := [] } ∧ t.get (.port p) PORT.RX_DROP_COUNT = satInc 32 (s.get (.port p) PORT.RX_DROP_COUNT) % 2 ^ 32 ∧
      t.fab = { s.fab with sendq := s.fab.sendq ++ [{ s.plain .expiry f.src [f.kind.code, f.group] with group := f.group }] } ∧
      OnlyChanges [(.port p, PORT.RX_DROP_COUNT)] [.fab, .links] s t) ∧
  (∀ (p : PortId) s, Completes (.portClrCounts 0 p) s fun t =>
    t.get (.port p) PORT.RETRIES_COUNT = 0 ∧ t.get (.port p) PORT.EXPIRED_COUNT = 0 ∧ t.get (.port p) PORT.RX_DROP_COUNT = 0 ∧
    t.get (.port p) PORT.CRC_ERR_COUNT = 0 ∧ t.get (.port p) PORT.LAT_MAX_ST = 0 ∧
    (∀ l, l < 4 → t.get (.port p) (PORT.LANE_ERR_CODE_ERR l) = 0 ∧ t.get (.port p) (PORT.LANE_ERR_LOSSES l) = 0) ∧
    OnlyChanges ([(.port p, PORT.RETRIES_COUNT), (.port p, PORT.EXPIRED_COUNT), (.port p, PORT.RX_DROP_COUNT), (.port p, PORT.CRC_ERR_COUNT),
      (.port p, PORT.LAT_MAX_ST)] ++ [0, 1, 2, 3].flatMap fun l => [(.port p, PORT.LANE_ERR_CODE_ERR l), (.port p, PORT.LANE_ERR_LOSSES l)]) [] s t) ∧
  (∀ s i, i = s.get .fabric FABRIC.TAG_SEL_INDEX → i < 4096 →
    Completes (.tagData 0 none) s fun t =>
      t.rdata = s.word .tags i ∧ (s.get .fabric FABRIC.TAG_SEL_AUTOINC = 1 → t.get .fabric FABRIC.TAG_SEL_INDEX = (i + 1) % 4096) ∧
      OnlyChanges [(.fabric, FABRIC.TAG_SEL_INDEX)] [.rdata] s t) ∧
  (∀ (v : Word) s i, i = s.get .fabric FABRIC.TAG_SEL_INDEX → i < 4096 →
    Completes (.tagData 0 (some v)) s fun t =>
      t.word .tags i = v.toNat &&& 0x8000F3FF ∧ WordsBut .tags [i] s t ∧ OnlyChanges [(.fabric, FABRIC.TAG_SEL_INDEX)] [.tbl] s t) ∧
  (∀ s k i j, k = s.get .fabric FABRIC.SUB_SEL_KIND → i = s.get .fabric FABRIC.SUB_SEL_INDEX → j = s.get .fabric FABRIC.SUB_SEL_WORD →
    Completes (.subData 0 none) s fun t =>
      t.rdata = s.subWord k i j ∧ OnlyChanges [(.fabric, FABRIC.SUB_SEL_WORD), (.fabric, FABRIC.SUB_SEL_INDEX)] [.rdata] s t) ∧
  (∀ (v : Word) s k i j, k = s.get .fabric FABRIC.SUB_SEL_KIND → i = s.get .fabric FABRIC.SUB_SEL_INDEX → j = s.get .fabric FABRIC.SUB_SEL_WORD →
    k < 2 → i < 2048 → j < 4 →
    Completes (.subData 0 (some v)) s fun t =>
      t.subWord k i j = v.toNat &&& subMask j ∧ WordsBut .subs [(2048 * k + i) * 4 + j] s t ∧
      (s.get .fabric FABRIC.SUB_SEL_AUTOINC = 1 → t.get .fabric FABRIC.SUB_SEL_WORD = (j + 1) % 4 ∧
        t.get .fabric FABRIC.SUB_SEL_INDEX = if j = 3 then (i + 1) % 2048 else i) ∧
      OnlyChanges [(.fabric, FABRIC.SUB_SEL_WORD), (.fabric, FABRIC.SUB_SEL_INDEX), (.fabric, ALL.EVENT_COUNT_COUNT)] [.tbl] s t) ∧
  (∀ (fn : FuncId) w s, fn.val ≠ 0 → Completes (.tagData fn w) s (fun t => t.tbl = s.tbl ∧ t.regs = s.regs ∧ (w = none → t.rdata = 0)) ∧
    Completes (.subData fn w) s (fun t => t.tbl = s.tbl ∧ t.regs = s.regs ∧ (w = none → t.rdata = 0)))

/-- A deadline frame for this device is accepted in time, and not later than the port expects (R378, R382, R385, R401). -/
def timely (s : State) (p : PortId) (h : FrameHead) : Prop :=
  accepted s p h ∧ h.dlv = true ∧ h.dst.toNat = s.fabricId ∧ h.src.toNat ≠ 0x3F ∧ Stamp.atOrAfter (fullDeadline s.st h.word) s.st = true ∧
  h.lat.toNat ≤ 2000 + (s.get (.port p) PORT.LINK_DELAY_ST - 200)

/-- A timely frame is delivered: the link has taken it, its latency is kept, and nothing changes but `but` and `ps`. -/
def DeliveredInTime (p : PortId) (h : FrameHead) (but : List (Page × Field)) (ps : List Piece) (s t : State) : Prop :=
  LinkTook p h s t ∧ t.get (.port p) PORT.LAT_MAX_ST = max h.lat.toNat (s.get (.port p) PORT.LAT_MAX_ST) % 2 ^ 16 ∧
  OnlyChanges ((.port p, PORT.LAT_MAX_ST) :: but) (.links :: ps) s t

/-- A frame without a deadline for this device is accepted as the next of its source, and none is held behind it (R382, R387). -/
def inOrder (s : State) (p : PortId) (h : FrameHead) : Prop :=
  accepted s p h ∧ h.dlv = false ∧ h.dst.toNat = s.fabricId ∧ h.src.toNat ≠ 0x3F ∧ h.word.toNat = s.lastOrigin h.src.toNat + 1 ∧ s.fab.held = []

/-- Its ORIGIN is the last delivered of its source. -/
def originNoted (h : FrameHead) (r : FabricState) : FabricState := { r with inOrigin := setAt h.src.toNat h.word.toNat r.inOrigin }

/-- The frame is delivered, once and in order; the fabric's own state changes by `f`, and nothing else but `but` and `ps`. -/
def DeliveredInOrder (p : PortId) (h : FrameHead) (f : FabricState → FabricState) (but : List (Page × Field)) (ps : List Piece) (s t : State) : Prop :=
  LinkTook p h s t ∧ t.fab = f (originNoted h s.fab) ∧ OnlyChanges but (.links :: .fab :: ps) s t

/-- A ledger frame names the shot and the attempt that group `g` has open here (R326). -/
def namesOpen (s : State) (group : BitVec 16) (attempt : BitVec 4) (shot : BitVec 48) (g : Nat) : Prop :=
  s.groupById group.toNat = some g ∧ (s.group g).open' = true ∧ (s.group g).shot = shot.toNat ∧ (s.group g).attempt = attempt.toNat

/-- How many shots a frame's shot number is ahead of the last one of group `g` here, modulo 2^48 (R318). -/
def shotsAhead (s : State) (g : Nat) (shot : BitVec 48) : Nat := (shot.toNat + 2 ^ 48 - (s.group g).shot) % 2 ^ 48

/-- A ledger frame names a shot of group `g`, or an attempt of its open shot, that has not begun here (R326; which numbers count as ahead is the
model's reading, log entry 123). -/
def namesAhead (s : State) (group : BitVec 16) (attempt : BitVec 4) (shot : BitVec 48) (g : Nat) : Prop :=
  s.groupById group.toNat = some g ∧
    ((s.group g).started = false ∨ (0 < shotsAhead s g shot ∧ shotsAhead s g shot < 2 ^ 47) ∨
      ((s.group g).open' = true ∧ shotsAhead s g shot = 0 ∧ (s.group g).attempt < attempt.toNat))

/-- A VOID frame's causes take EXPIRED with them here: DL_MISS without EXPIRED, where this device reported an expired frame of the group
(R321, R384; log entry 123). -/
def expiredJoins (s : State) (g causes : Nat) : Prop :=
  Nat.testBit causes 2 = true ∧ Nat.testBit causes 7 = false ∧ (s.group g).expired = true

/-- R244, R326, R328, R329, R331, R332, R384, R387, R390, R392: what a delivered frame does: a message enters the inbox its tag names, a start
request its engine, a trigger its coincidence units, a result its remote slot; the ledger's frames void, ready, restart, settle and open a group's
shot; what names a shot no longer open is discarded and counted, and what names one not open yet waits (a VOID), is passed over (RSTART) or moves the
shot number on (OPEN), as the model reads the spec (log entries 122, 123); EXPIRY; a frame that came before is counted, and one ahead of its turn is held. -/
def Obligations.FabricFrames : Prop :=
  (∀ (p : PortId) h tag group shot attempt v s e, timely s p h → s.tagEngine tag.toNat = some e → (s.eng e).inbox.length < 8 →
    group.toNat = 0xFFFF ∨ s.carriesVoided e group.toNat shot.toNat attempt.toNat = false →
    Completes (.msg p h tag group shot attempt v) s fun t =>
      t.eng e = { s.eng e with inbox := (s.eng e).inbox ++
        [⟨tag.toNat, h.src.toNat, v, s.st, if group.toNat = 0xFFFF then none else some (group.toNat, shot.toNat, attempt.toNat)⟩] } ∧
      (∀ j, j ≠ e → t.eng j = s.eng j) ∧
      (s.get (cellPage e) CELL.SO_CTRL_MSG_EN = 1 → Nat.testBit (t.get (cellPage e) CELL.SO_STATUS_PEND) 4 = true) ∧
      DeliveredInTime p h [(cellPage e, CELL.SO_STATUS_PEND)] [.engs] s t) ∧
  (∀ (p : PortId) h tag group shot attempt v s e, timely s p h → s.tagEngine tag.toNat = some e → group.toNat ≠ 0xFFFF →
    s.carriesVoided e group.toNat shot.toNat attempt.toNat = true →
    Completes (.msg p h tag group shot attempt v) s fun t => DeliveredInTime p h [] [] s t) ∧
  (∀ (p : PortId) h tag group shot attempt v s e, timely s p h → s.tagEngine tag.toNat = some e → 8 ≤ (s.eng e).inbox.length → group.toNat = 0xFFFF →
    Completes (.msg p h tag group shot attempt v) s fun t =>
      (t.link p).imports = (s.link p).imports ++ [⟨.msg, h.dst.toNat, h.src.toNat, some (fullDeadline s.st h.word), group.toNat,
        [tag.toNat, group.toNat, shot.toNat, attempt.toNat, v.toNat], none, none⟩] ∧ OnlyChanges [(.port p, PORT.LAT_MAX_ST)] [.links] s t) ∧
  (∀ c (p : PortId) h (tag : BitVec 16) s, (∃ a b d v, c = .msg p h tag a b d v) ∨ c = .startFrame p h tag → timely s p h → s.tagEngine tag.toNat = none →
    Completes c s fun t =>
      t.get .fabric FABRIC.NO_TAG_COUNT = satInc 32 (s.get .fabric FABRIC.NO_TAG_COUNT) % 2 ^ 32 ∧
      DeliveredInTime p h [(.fabric, FABRIC.NO_TAG_COUNT)] [] s t) ∧
  (∀ (p : PortId) h tag s (e : EngineId), timely s p h → s.tagEngine tag.toNat = some e.val → s.crit = false → s.startBarred e = false →
    s.pageIs (.cell e) .starting = false → s.loading e = false → s.aligning = false → s.engIs e .stopped = true → (s.eng e).tending = false →
    startsListed s e →
    Completes (.startFrame p h tag) s fun t => Launched e 0 s t ∧ DeliveredInTime p h (launchFields s e) [.engs] s t) ∧
  (∀ (p : PortId) h tag s (e : EngineId), timely s p h → s.tagEngine tag.toNat = some e.val → s.crit = false → s.startBarred e = false →
    s.engIs e .stopped = false → s.get (.cell e) CELL.STATUS_START_PENDING = 0 →
    Completes (.startFrame p h tag) s fun t =>
      t.get (.cell e) CELL.STATUS_START_PENDING = 1 ∧ DeliveredInTime p h [(.cell e, CELL.STATUS_START_PENDING)] [] s t) ∧
  (∀ (p : PortId) h tag fire s (n : RegionId) (i : Fin 8) j, timely s p h → s.enabledUnits .coinc = [256 * n.val + (136 + i.val)] → j < 8 →
    (∀ k, k < 8 → (selEvent (s.unitWord n (136 + i.val) (2 + k)) = some (.remote h.src.toNat tag.toNat) ↔ k = j)) →
    Stamp.atOrAfter (s.coinc (8 * n.val + i.val)).at' (Stamp.gridUp 5 fire) = false →
    Completes (.trig p h tag fire) s fun t =>
      (j, fire) ∈ (t.coinc (8 * n.val + i.val)).events ∧ (∀ k, k ≠ 8 * n.val + i.val → t.coinc k = s.coinc k) ∧
      DeliveredInTime p h [] [.coincs] s t) ∧
  (∀ (p : PortId) h fn index v flags group w s k, timely s p h → k = remoteSlot h.src.toNat (b2n fn) index.toNat →
    (s.slot k).seen = true ∨ (s.slots.filter fun x => 4096 ≤ x.1).length < 2048 →
    Completes (.dec p h fn index v flags group w) s fun t =>
      t.slot k = { DecSlot.init with
        value := v.toNat, w := w, valid := flags.getLsbD 0, flags := flags.toNat, seen := true, group := group.toNat, fresh := true } ∧
      (∀ j, j ≠ k → t.slot j = s.slot j) ∧ DeliveredInTime p h [] [.slots] s t) ∧
  (∀ (p : PortId) h fn index v flags group w s, timely s p h → (s.slot (remoteSlot h.src.toNat (b2n fn) index.toNat)).seen = false →
    2048 ≤ (s.slots.filter fun x => 4096 ≤ x.1).length →
    Completes (.dec p h fn index v flags group w) s fun t =>
      t.get .fabric FABRIC.REMOTE_FULL_COUNT = satInc 32 (s.get .fabric FABRIC.REMOTE_FULL_COUNT) % 2 ^ 32 ∧
      DeliveredInTime p h [(.fabric, FABRIC.REMOTE_FULL_COUNT)] [] s t) ∧
  (∀ (p : PortId) h group attempt shot causes s g, inOrder s p h → namesOpen s group attempt shot g → voidable s g →
    BitVec.toNat (w := 32) causes / 2 ^ 8 % 2 ^ 4 = 0 → ¬expiredJoins s g causes.toNat →
    Completes (.voidFrame p h group attempt shot causes) s fun t =>
      Voided g causes.toNat s t ∧ LinkTook p h s t ∧ t.fab = originNoted h s.fab ∧ Keeps [.regs, .links, .fab, .groups, .tbl] s t) ∧
  (∀ (p : PortId) h group attempt shot causes s g, inOrder s p h → namesOpen s group attempt shot g →
    BitVec.toNat (w := 32) causes / 2 ^ 8 % 2 ^ 4 ≠ 0 →
    Completes (.voidFrame p h group attempt shot causes) s fun t =>
      (t.group g).stopped = true ∧ (t.group g).open' = false ∧ ∀ e ∈ s.members g, t.engStopped e = true) ∧
  (∀ c (p : PortId) h group attempt shot s, (∃ causes, c = .voidFrame p h group attempt shot causes) ∨ (∃ x, c = .rstart p h group attempt shot x) →
    inOrder s p h → (∀ g, ¬namesOpen s group attempt shot g) → (∀ g, ¬namesAhead s group attempt shot g) →
    Completes c s fun t =>
      t.get .ledger LEDGER.STALE_MSG_COUNT = satInc 32 (s.get .ledger LEDGER.STALE_MSG_COUNT) % 2 ^ 32 ∧
      DeliveredInOrder p h id [(.ledger, LEDGER.STALE_MSG_COUNT)] [] s t) ∧
  (∀ (p : PortId) h group attempt shot causes s g, inOrder s p h → ¬namesOpen s group attempt shot g → namesAhead s group attempt shot g →
    BitVec.toNat (w := 32) causes / 2 ^ 8 % 2 ^ 4 = 0 →
    Completes (.voidFrame p h group attempt shot causes) s fun t =>
      t.group g = { s.group g with early := (s.group g).early ++ [(shot.toNat, attempt.toNat, causes.toNat)] } ∧
      (∀ j, j ≠ g → t.group j = s.group j) ∧ DeliveredInOrder p h id [] [.groups] s t) ∧
  (∀ (p : PortId) h group attempt shot start s g, inOrder s p h → ¬namesOpen s group attempt shot g → namesAhead s group attempt shot g →
    Completes (.rstart p h group attempt shot start) s fun t => DeliveredInOrder p h id [] [] s t) ∧
  (∀ (p : PortId) h group attempt shot s g, inOrder s p h → namesAhead s group attempt shot g → (s.group g).open' = false →
    Completes (.openFrame p h group attempt shot) s fun t =>
      t.group g = { s.group g with shot := shot.toNat, started := true, mayOpen := true } ∧ (∀ j, j ≠ g → t.group j = s.group j) ∧
      DeliveredInOrder p h id [] [.groups] s t) ∧
  (∀ c (p : PortId) h group attempt shot s, c = .readyFrame p h group attempt shot ∨ c = .settle p h group attempt shot → inOrder s p h →
    (∀ g, ¬namesOpen s group attempt shot g) → Completes c s fun t => DeliveredInOrder p h id [] [] s t) ∧
  (∀ (p : PortId) h group attempt shot s g, inOrder s p h → namesOpen s group attempt shot g → h.src.toNat ∉ (s.group g).readyDevs →
    Completes (.readyFrame p h group attempt shot) s fun t =>
      t.group g = { s.group g with readyDevs := h.src.toNat :: (s.group g).readyDevs } ∧ (∀ j, j ≠ g → t.group j = s.group j) ∧
      DeliveredInOrder p h id [] [.groups] s t) ∧
  (∀ (p : PortId) h group attempt shot start s g, inOrder s p h → namesOpen s group attempt shot g → (s.group g).voidedNow = true →
    Completes (.rstart p h group attempt shot start) s fun t =>
      t.group g = { s.group g with newStart := start, startSet := true } ∧ (∀ j, j ≠ g → t.group j = s.group j) ∧
      DeliveredInOrder p h id [] [.groups, .tbl] s t) ∧
  (∀ (p : PortId) h group attempt shot s g, inOrder s p h → namesOpen s group attempt shot g → h.src.toNat ∉ (s.group g).settledDevs →
    Completes (.settle p h group attempt shot) s fun t =>
      t.group g = { s.group g with settledDevs := h.src.toNat :: (s.group g).settledDevs } ∧ (∀ j, j ≠ g → t.group j = s.group j) ∧
      DeliveredInOrder p h id [] [.groups] s t) ∧
  (∀ (p : PortId) h group attempt shot s g, inOrder s p h → namesOpen s group attempt shot g →
    (∀ e ∈ s.members g, s.engStopped e = false → (s.eng e).wait = .settle .proceed ∧ s.quiesced e = false) →
    Completes (.openFrame p h group attempt shot) s fun t =>
      (t.group g).open' = false ∧ (t.group g).attempt = 0 ∧ (t.group g).mayOpen = true ∧ (∀ e ∈ s.members g, t.inShot e = false) ∧
      t.led.waiting = s.led.waiting ++ [⟨regionOf (s.leadEngine g), s.groupGuest g, s.shotRecord g (b2n (s.group g).unrecovered), none⟩]) ∧
  (∀ (p : PortId) h type group s g, inOrder s p h → s.groupById group.toNat = some g → (s.group g).open' = true →
    Completes (.expiry p h type group) s fun t =>
      t.group g = { s.group g with expired := true } ∧ (∀ j, j ≠ g → t.group j = s.group j) ∧ DeliveredInOrder p h id [] [.groups] s t) ∧
  (∀ (p : PortId) h s, accepted s p h → h.dlv = false → h.dst.toNat = s.fabricId → h.src.toNat ≠ 0x3F → h.word.toNat ≤ s.lastOrigin h.src.toNat →
    Completes (.present p h) s fun t =>
      t.get .fabric FABRIC.DUP_COUNT = satInc 32 (s.get .fabric FABRIC.DUP_COUNT) % 2 ^ 32 ∧ LinkTook p h s t ∧
      OnlyChanges [(.fabric, FABRIC.DUP_COUNT)] [.links] s t) ∧
  (∀ (p : PortId) h s, accepted s p h → h.dlv = false → h.dst.toNat = s.fabricId → h.src.toNat ≠ 0x3F → s.lastOrigin h.src.toNat + 1 < h.word.toNat →
    Completes (.present p h) s fun t =>
      t.fab.held = ⟨.present, h.dst.toNat, h.src.toNat, none, 0, [], some h.word.toNat, none⟩ :: s.fab.held ∧ LinkTook p h s t ∧
      OnlyChanges [] [.links, .fab] s t) ∧
  (∀ (p : PortId) h s, accepted s p h → h.dlv = true → Stamp.atOrAfter (fullDeadline s.st h.word) s.st = false → h.src.toNat = s.fabricId →
    s.groupById 0xFFFF = none → ∀ tag : BitVec 16, Completes (.startFrame p h tag) s fun t =>
      t.get (.port p) PORT.RX_DROP_COUNT = satInc 32 (s.get (.port p) PORT.RX_DROP_COUNT) % 2 ^ 32 ∧ t.engs = s.engs)

/-- A frame of this device with no deadline, for the port `via` or for a route. -/
def ownFrame (s : State) (k : FrameKind) (dest : Nat) (words : List Nat) (via : Option Nat) : Frame := ⟨k, dest, s.fabricId, none, 0, words, none, via⟩

/-- The fields that show the device's place in its fabric. -/
def placeFields : List (Page × Field) :=
  [(.fabric, FABRIC.FSTATUS_STATE), (.fabric, FABRIC.FSTATUS_CHAIR), (.fabric, FABRIC.FSTATUS_FABRIC_ID), (.fabric, FABRIC.FSTATUS_MEMBERS),
   (.fabric, FABRIC.CHAIR_ID_ID), (.fabric, FABRIC.PRESENT_LO), (.fabric, FABRIC.PRESENT_HI), (.timebase, TIMEBASE.TB_STATUS_ALIGN_PENDING)]

/-- The device is ALONE: its own chair, with fabric ID 0, no device present and no route (R395). -/
def Alone (t : State) : Prop :=
  t.fabState = 0 ∧ t.fabricId = 0 ∧ t.chairId = 0 ∧ t.presentMask = 0 ∧ (∀ d, d < 64 → t.route d = 0) ∧
  t.get .timebase TIMEBASE.TB_STATUS_ALIGN_PENDING = 0

/-- No enabled group has another device. -/
def noMulti (s : State) : Prop := ∀ g, g < 256 → s.grpEnabled g = true → s.otherDevices g = []

/-- The entries of enabled groups show whether this device leads them, and of the word tables nothing but the routes and the readable words of the
group entries changes (R317, R355). -/
def LeadsShown (s t : State) : Prop :=
  (∀ v i, i < 2 ^ 44 → v ≠ .routes → v ≠ .groups ∨ i % 64 < 7 ∨ 11 < i % 64 ∨ 16384 ≤ i → t.word v i = s.word v i) ∧
  ∀ g, g < 256 → t.grpEnabled g = true → (t.group g).attempt < 16 → Nat.testBit (t.word .groups (64 * g + 7)) 8 = t.leads g

/-- A device that joins runs no engine, unless it joins again (R51, R495). -/
def joinsQuiet (s : State) : Prop := s.fab.rejoin = true ∨ ∀ e, e < 1024 → s.engStopped e = true

/-- The route table is as before. -/
def RoutesKept (s t : State) : Prop := ∀ d, d < 64 → t.route d = s.route d

/-- R51, R52, R317, R393 to R398: a device joins through a port with a neighbour, three requests at most, with its engines stopped (that those which
run are stopped is the model's choice, log entry 92); the chair queues a request for the next pulse and a member relays it; ADMIT gives the joiner its
ID and its offset, but not while pulses are missing; ROUTES, PRESENT, LOST, LEAVE and MEMBER; a device that leaves is ALONE again. -/
def Obligations.FabricMembership : Prop :=
  (∀ s (p : PortId), s.pageIs .fabric .ready = true → s.get .timebase TIMEBASE.TB_CTRL_SYNC_MODE = 2 → s.fabState = 0 → s.joinablePort = some p.val →
    Completes (.join 0) s fun t => t.fabState = 1 ∧ t.fabricId = 0x3F ∧ joinsQuiet t) ∧
  (∀ s (p : PortId), s.pageIs .fabric .ready = true → s.get .timebase TIMEBASE.TB_CTRL_SYNC_MODE = 2 → s.fabState = 0 → s.joinablePort = some p.val →
    joinsQuiet s →
    Completes (.join 0) s fun t =>
      t.fabState = 1 ∧ t.fabricId = 0x3F ∧ LeadsShown s t ∧ RoutesKept s t ∧
      t.fab = { s.fab with
        joinWanted := false, joinPort := p, joinTries := 1, sendq := s.fab.sendq ++ [⟨.joinReq, 0x3F, 0x3F, none, 0, [s.serial], none, some p.val⟩] } ∧
      OnlyChanges placeFields [.fab, .tbl] s t) ∧
  (∀ s, s.pageIs .fabric .ready = true → s.get .timebase TIMEBASE.TB_CTRL_SYNC_MODE = 2 → s.fabState = 0 → s.joinablePort = none →
    Completes (.join 0) s fun t => t.fab = { s.fab with joinWanted := true } ∧ OnlyChanges [] [.fab] s t) ∧
  (∀ s, s.pageIs .fabric .ready = false ∨ s.get .timebase TIMEBASE.TB_CTRL_SYNC_MODE ≠ 2 ∨ s.fabState ≠ 0 → Completes (.join 0) s fun t => t = s) ∧
  (∀ s, s.fabState = 1 → s.fab.joinTries < 3 → joinsQuiet s →
    Completes .joinTimeout s fun t =>
      t.fabState = 1 ∧ t.fab.joinTries = s.fab.joinTries + 1 ∧
      t.fab.sendq = s.fab.sendq ++ [⟨.joinReq, 0x3F, 0x3F, none, 0, [s.serial], none, some s.fab.joinPort⟩] ∧ LeadsShown s t ∧ RoutesKept s t ∧
      OnlyChanges placeFields [.fab, .tbl] s t) ∧
  (∀ s, s.fabState ≠ 1 → Completes .joinTimeout s fun t => t = s) ∧
  (∀ s, s.fabState = 1 → 3 ≤ s.fab.joinTries →
    Completes .joinTimeout s fun t =>
      Alone t ∧ Raised .fabric 0 s t ∧ LeadsShown s t ∧ OnlyChanges (placeFields ++ faultRegs .fabric) [.fab, .tbl, .out] s t) ∧
  (∀ s, s.fabState = 2 → noMulti s →
    Completes (.leave 0) s fun t =>
      t.fabState = 3 ∧
      t.fab.sendq = (if s.isChair then s.fab.sendq else s.fab.sendq ++ [ownFrame s .leave s.chairId [] none]) ∧ OnlyChanges placeFields [.fab] s t) ∧
  (∀ s, s.fabState = 3 → s.fab.rejoin = false → Completes .leaveTimeout s fun t => Alone t ∧ LeadsShown s t ∧ OnlyChanges placeFields [.fab, .tbl] s t) ∧
  (∀ s, s.fabState ≠ 3 → Completes .leaveTimeout s fun t => t = s) ∧
  (∀ (p : PortId) h serial s, accepted s p h → h.dlv = false → s.fabState ≠ 1 → s.pageIs .fabric .ready = true → s.isChair = true →
    Completes (.joinReq p h serial) s fun t =>
      t.fab = { s.fab with
        joiners := (s.fab.joiners.filter fun x => x.1 ≠ serial.toNat) ++ [(serial.toNat, if h.src.toNat = 0x3F then none else some h.src.toNat, p.val)] } ∧
      LinkTook p h s t ∧ OnlyChanges [] [.links, .fab] s t) ∧
  (∀ (p : PortId) h serial s, accepted s p h → h.dlv = false → s.fabState ≠ 1 → s.pageIs .fabric .ready = true → s.isChair = false →
    Completes (.joinReq p h serial) s fun t =>
      t.fab = { s.fab with
        relays := s.fab.relays ++ [p.val], sendq := s.fab.sendq ++ [ownFrame s .joinReq s.chairId [serial.toNat] none] } ∧
      LinkTook p h s t ∧ OnlyChanges [] [.links, .fab] s t) ∧
  (∀ (p : PortId) h id capture epoch s, accepted s p h → h.dlv = false → s.fabState = 1 → id.toNat ≠ 0x3F → s.time.syncGone = false →
    Completes (.admitFrame p h id capture epoch) s fun t =>
      t.pair .timebase TIMEBASE.ALIGN_OFFSET_LO TIMEBASE.ALIGN_OFFSET_HI =
        (capture - BitVec.ofNat 64 (s.pair .timebase TIMEBASE.SYNC_CAPT_LO TIMEBASE.SYNC_CAPT_HI)).toNat ∧
      t.get .timebase TIMEBASE.TB_STATUS_ALIGN_PENDING = 1 ∧ t.fab = { s.fab with offered := some (id.toNat, epoch.toNat) } ∧ LinkTook p h s t ∧
      OnlyChanges [(.timebase, TIMEBASE.ALIGN_OFFSET_LO), (.timebase, TIMEBASE.ALIGN_OFFSET_HI), (.timebase, TIMEBASE.TB_STATUS_ALIGN_PENDING)]
        [.links, .fab] s t) ∧
  (∀ (p : PortId) h id capture epoch s, accepted s p h → h.dlv = false → s.fabState = 1 → id.toNat ≠ 0x3F → s.time.syncGone = true →
    Completes (.admitFrame p h id capture epoch) s fun t => LinkTook p h s t ∧ OnlyChanges [] [.links] s t) ∧
  (∀ (p : PortId) h id capture epoch s, accepted s p h → h.dlv = false → s.fabState = 1 → id.toNat = 0x3F →
    Completes (.admitFrame p h id capture epoch) s fun t => Alone t ∧ LeadsShown s t ∧ Raised .fabric 0 s t ∧ Keeps [.regs, .fab, .tbl, .links, .out] s t) ∧
  (∀ (p : PortId) h id capture epoch s q rest, accepted s p h → h.dlv = false → s.fabState ≠ 1 → s.fab.relays = q :: rest →
    Completes (.admitFrame p h id capture epoch) s fun t =>
      t.fab = { s.fab with
        relays := rest, sendq := s.fab.sendq ++ [ownFrame s .admission 0x3F [id.toNat, capture.toNat, epoch.toNat] (some q)] } ∧
      LinkTook p h s t ∧ OnlyChanges [] [.links, .fab] s t) ∧
  (∀ (p : PortId) h bytes s, inOrder s p h → s.chairId = h.src.toNat →
    Completes (.routes p h bytes) s fun t =>
      (∀ d, d < 64 → t.route d = (bytes.map BitVec.toNat).getD d 0 % 256) ∧ WordsBut .routes (List.range 64) s t ∧
      DeliveredInOrder p h (fun r => { r with routesAt := s.epochNo }) [] [.tbl] s t) ∧
  (∀ (p : PortId) h bytes s, inOrder s p h → s.chairId ≠ h.src.toNat → h.src.toNat ≠ s.fabricId →
    Completes (.routes p h bytes) s fun t =>
      t.chairId = h.src.toNat ∧ t.get .fabric FABRIC.FSTATUS_CHAIR = 0 ∧
      DeliveredInOrder p h (fun r => { r with routesAt := s.epochNo }) [(.fabric, FABRIC.CHAIR_ID_ID), (.fabric, FABRIC.FSTATUS_CHAIR)] [.tbl] s t) ∧
  (∀ (p : PortId) h s, inOrder s p h →
    Completes (.present p h) s fun t =>
      DeliveredInOrder p h (fun r => { r with lastSeen := setAt h.src.toNat s.epochNo r.lastSeen }) [] [] s t) ∧
  (∀ (p : PortId) h (id : BitVec 6) s, inOrder s p h → id.toNat ≠ s.fabricId → s.isPresent id.toNat = true → noMulti s →
    Completes (.lost p h id) s fun t =>
      t.isPresent id.toNat = false ∧ (∀ d, d < 64 → d ≠ id.toNat → t.isPresent d = s.isPresent d) ∧
      t.get .fabric FABRIC.LOST_COUNT_COUNT = satInc 32 (s.get .fabric FABRIC.LOST_COUNT_COUNT) % 2 ^ 32 ∧ (∀ x ∈ t.fab.inOrigin, x.1 ≠ id.toNat) ∧
      LinkTook p h s t ∧
      OnlyChanges [(.fabric, FABRIC.PRESENT_LO), (.fabric, FABRIC.PRESENT_HI), (.fabric, FABRIC.FSTATUS_MEMBERS), (.fabric, FABRIC.LOST_COUNT_COUNT)]
        [.links, .fab] s t) ∧
  (∀ (p : PortId) h (id : BitVec 6) s, inOrder s p h → id.toNat = s.fabricId → noMulti s → s.fab.rejoin = false →
    Completes (.lost p h id) s fun t => Alone t ∧ LeadsShown s t ∧ LinkTook p h s t ∧ OnlyChanges placeFields [.links, .fab, .tbl] s t) ∧
  (∀ (p : PortId) h s, inOrder s p h → s.isChair = true → s.isPresent h.src.toNat = true → h.src.toNat ≠ s.fabricId → noMulti s →
    Completes (.leaveFrame p h) s fun t =>
      t.isPresent h.src.toNat = false ∧ t.fab.sendq = s.fab.sendq ++ s.peers.map (fun d => ownFrame s .lost d [h.src.toNat] none) ∧
      t.get .fabric FABRIC.LOST_COUNT_COUNT = satInc 32 (s.get .fabric FABRIC.LOST_COUNT_COUNT) % 2 ^ 32 ∧ LinkTook p h s t) ∧
  (∀ (p : PortId) h s, inOrder s p h → s.isChair = false → Completes (.leaveFrame p h) s fun t => DeliveredInOrder p h id [] [] s t) ∧
  (∀ (p : PortId) h (id : BitVec 6) serial s, inOrder s p h →
    Completes (.member p h id serial) s fun t =>
      t.isPresent id.toNat = true ∧ (∀ d, d < 64 → d ≠ id.toNat → t.isPresent d = s.isPresent d) ∧
      DeliveredInOrder p h (fun r => { r with serials := setAt id.toNat serial.toNat r.serials })
        [(.fabric, FABRIC.PRESENT_LO), (.fabric, FABRIC.PRESENT_HI), (.fabric, FABRIC.FSTATUS_MEMBERS)] [] s t)

/-- The first epoch boundary after the last one the device saw, or now where one has passed (R362). -/
def boundaryTime (s : State) : Stamp :=
  if s.epochNo ≤ s.fab.epoch then BitVec.ofNat 64 ((s.fab.epoch + 1) * 2 ^ 24) else s.st

/-- The slots and the DEADLINE_RISK fields that an epoch boundary renews. -/
def riskFields : List (Page × Field) :=
  (.fabric, FABRIC.FSTATUS_DEADLINE_RISK) :: [0, 1, 2, 3].map fun p => (portPage p, PORT.PSTATUS_DEADLINE_RISK)

/-- What a capture writes: SYNC_CAPT and SYNC_SEEN. -/
def captFields : List (Page × Field) :=
  [(.timebase, TIMEBASE.SYNC_CAPT_LO), (.timebase, TIMEBASE.SYNC_CAPT_HI), (.timebase, TIMEBASE.TB_STATUS_SYNC_SEEN)]

/-- A pulse is captured: SYNC_CAPT is its ST, SYNC_SEEN is set, and the pulses run again from it (R49, R52). -/
def Captured (u t : State) : Prop :=
  t.pair .timebase TIMEBASE.SYNC_CAPT_LO TIMEBASE.SYNC_CAPT_HI = u.st.toNat ∧ t.get .timebase TIMEBASE.TB_STATUS_SYNC_SEEN = 1 ∧
  t.time = { u.time with
    syncPeriod := if u.time.syncGone || !u.time.pulsed then 0 else (u.st - u.time.syncFrom).toNat, syncFrom := u.st, pulsed := true, syncGone := false }

/-- ALIGN_OFFSET as a stamp, and when the chair's next epoch boundary comes in this device's ST (R51). -/
def alignOffset (s : State) : Stamp := BitVec.ofNat 64 (s.pair .timebase TIMEBASE.ALIGN_OFFSET_LO TIMEBASE.ALIGN_OFFSET_HI)
def alignBoundary (s : State) : Stamp := Stamp.gridUp 24 (s.st + alignOffset s) - alignOffset s

/-- The state at the chair's boundary, and at the first REFCLK edge at or after it (R51). -/
def boundaryState (s : State) : State := s.passed (alignBoundary s)
def edgeState (s : State) : State := (boundaryState s).passed (boundaryState s).edgeTime

/-- ALIGN_ADD as ST passes to the boundary and on to the edge, less than 200 ST later: it ends in a state of which `P u` holds, `u` being the
state at the edge. -/
def AlignsAt (s : State) (P : State → State → Prop) : Prop :=
  Passed (alignBoundary s) s (boundaryState s) ∧ Passed (boundaryState s).edgeTime (boundaryState s) (edgeState s) ∧
  ((edgeState s).st - (boundaryState s).st).toNat < 200 ∧ Completes .alignAdd s (P (edgeState s))

/-- What the addition writes: ST at the edge becomes ST plus the offset, and ALIGN_PENDING clears (R51). -/
def Aligned (s u t : State) : Prop :=
  t.st = u.st + alignOffset s ∧ t.time.fine = 0 ∧ t.get .timebase TIMEBASE.TB_STATUS_ALIGN_PENDING = 0

/-- No engine holds a start request. -/
def noneHeld (s : State) : Prop := ∀ e, e < 1024 → s.get (cellPage e) CELL.STATUS_START_PENDING = 0

/-- R49 to R52, R362, R377, R392, R394 to R396, R495: a SYNC pulse loads ST or is captured, and the chair tells its capture and admits; the joiner adds
ALIGN_OFFSET at an edge after its boundary, and starts held until then act; a capture that differs from the chair's, or an epoch number that does, is a
slip; while pulses are missing no join completes; what an epoch boundary does. -/
def Obligations.FabricTime : Prop :=
  (∀ s, s.time.counting = true → s.get .timebase TIMEBASE.TB_CTRL_SYNC_MODE = 1 → s.get .timebase TIMEBASE.TB_CTRL_SYNC_ARM = 1 → s.anyRunning = false →
    CompletesAt s.edgeTime .syncPulse s fun u t =>
      t.st = BitVec.ofNat 64 (s.pair .timebase TIMEBASE.SYNC_LOAD_LO TIMEBASE.SYNC_LOAD_HI) ∧ t.time.fine = 0 ∧
      t.get .timebase TIMEBASE.TB_CTRL_SYNC_ARM = 0 ∧
      (s.get .timebase TIMEBASE.TB_STATUS_LOCKED = 1 → t.get .timebase TIMEBASE.TB_STATUS_ST_VALID = 1) ∧
      OnlyChanges [(.timebase, TIMEBASE.TB_CTRL_SYNC_ARM), (.timebase, TIMEBASE.TB_STATUS_ST_VALID)] [.time] u t) ∧
  (∀ s, s.time.counting = true → s.get .timebase TIMEBASE.TB_CTRL_SYNC_MODE = 1 →
    s.get .timebase TIMEBASE.TB_CTRL_SYNC_ARM ≠ 1 ∨ s.anyRunning = true → CompletesAt s.edgeTime .syncPulse s fun u t => t = u) ∧
  (∀ s, s.time.counting = true → s.get .timebase TIMEBASE.TB_CTRL_SYNC_MODE = 2 → s.isChair = false →
    CompletesAt s.edgeTime .syncPulse s fun u t => Captured u t ∧ OnlyChanges captFields [.time] u t) ∧
  (∀ s, s.time.counting = true → s.get .timebase TIMEBASE.TB_CTRL_SYNC_MODE = 2 → s.isChair = true → s.fab.joiners = [] →
    CompletesAt s.edgeTime .syncPulse s fun u t =>
      Captured u t ∧ t.fab = { s.fab with sendq := s.fab.sendq ++ s.peers.map fun d => ownFrame s .syncCapt d [u.st.toNat] none } ∧
      OnlyChanges captFields [.time, .fab] u t) ∧
  (∀ s serial p, s.time.counting = true → s.get .timebase TIMEBASE.TB_CTRL_SYNC_MODE = 2 → s.isChair = true → s.peers = [] →
    s.fab.joiners = [(serial, none, p)] →
    CompletesAt s.edgeTime .syncPulse s fun u t => Captured u t ∧ ∃ id,
      t.fab.sendq = s.fab.sendq ++ [ownFrame s .admission 0x3F [id, u.st.toNat, u.epochNo + 2] (some p)] ∧ t.fab.joiners = [] ∧
      (id = 0x3F → t.fab.admitted = s.fab.admitted) ∧
      (id ≠ 0x3F → t.fab.admitted = s.fab.admitted ++ [(id, serial, u.epochNo + 2)] ∧ id < 63 ∧ s.isPresent id = false ∧ id ≠ s.fabricId)) ∧
  (∀ s, s.time.counting = false ∨ (s.get .timebase TIMEBASE.TB_CTRL_SYNC_MODE ≠ 1 ∧ s.get .timebase TIMEBASE.TB_CTRL_SYNC_MODE ≠ 2) →
    Completes .syncPulse s fun t => t = s) ∧
  (∀ s, s.get .timebase TIMEBASE.TB_STATUS_ALIGN_PENDING ≠ 0 → s.time.syncGone = false → s.fab.rejoin = false → noneHeld s →
    AlignsAt s fun u t => Aligned s u t ∧ t.fab = { s.fab with epoch := t.epochNo, routesAt := t.epochNo } ∧
      OnlyChanges [(.timebase, TIMEBASE.TB_STATUS_ALIGN_PENDING), (.timebase, TIMEBASE.TB_STATUS_ST_VALID)] [.time, .fab] u t) ∧
  (∀ s (e : EngineId), s.get .timebase TIMEBASE.TB_STATUS_ALIGN_PENDING ≠ 0 → s.time.syncGone = false → s.fab.rejoin = false →
    s.fab.offered ≠ none → s.get (.cell e) CELL.STATUS_START_PENDING = 1 →
    (∀ j, j < 1024 → j ≠ e.val → s.get (cellPage j) CELL.STATUS_START_PENDING = 0) → s.engIs e .stopped = true → (edgeState s).loading e = false →
    s.pageIs (.cell e) .ready = true → s.crit = false → (s.eng e).tending = false → startsListed s e →
    AlignsAt s fun u t => Aligned s u t ∧ t.engIs e .running = true ∧ t.pc e = s.get (.cell e) CELL.START_PC_PC ∧
      t.get (.cell e) CELL.STATUS_START_PENDING = 0 ∧ ∀ j, j ≠ e.val → t.eng j = u.eng j) ∧
  (∀ s, s.get .timebase TIMEBASE.TB_STATUS_ALIGN_PENDING ≠ 0 → s.time.syncGone = false → s.fab.rejoin = true → alignOffset s ≠ 0 → noneHeld s →
    AlignsAt s fun u t => Aligned s u t ∧ Raised .timebase 2 u t ∧ ∀ e, e < 1024 → t.engStopped e = true) ∧
  (∀ s, s.get .timebase TIMEBASE.TB_STATUS_ALIGN_PENDING = 0 ∨ s.time.syncGone = true → Completes .alignAdd s fun t => t = s) ∧
  (∀ (p : PortId) h (capture : Stamp) s, inOrder s p h → s.get .timebase TIMEBASE.TB_CTRL_SYNC_MODE = 2 → s.fabState = 2 →
    s.pair .timebase TIMEBASE.SYNC_CAPT_LO TIMEBASE.SYNC_CAPT_HI = capture.toNat →
    Completes (.syncCapt p h capture) s fun t => DeliveredInOrder p h id [] [] s t) ∧
  (∀ (p : PortId) h (capture : Stamp) s, inOrder s p h → s.get .timebase TIMEBASE.TB_CTRL_SYNC_MODE = 2 → s.fabState = 2 → s.openGroups = [] → noMulti s →
    s.pair .timebase TIMEBASE.SYNC_CAPT_LO TIMEBASE.SYNC_CAPT_HI ≠ capture.toNat →
    Completes (.syncCapt p h capture) s fun t =>
      Raised .timebase 2 s t ∧ t.fabState = 3 ∧ t.fab.rejoin = true ∧ LinkTook p h s t ∧
      OnlyChanges (placeFields ++ faultRegs .timebase) [.links, .fab, .out] s t) ∧
  (∀ (p : PortId) (n : BitVec 16) s, s.time.frozen = false →
    (s.st - BitVec.ofNat 64 (s.get (.port p) PORT.LINK_DELAY_ST)).toNat / 2 ^ 24 % 2 ^ 16 = n.toNat → Completes (.epoch p n) s fun t => t = s) ∧
  (∀ (p : PortId) (n : BitVec 16) s, s.time.frozen = false → s.openGroups = [] → s.fabState ≠ 2 →
    (s.st - BitVec.ofNat 64 (s.get (.port p) PORT.LINK_DELAY_ST)).toNat / 2 ^ 24 % 2 ^ 16 ≠ n.toNat →
    Completes (.epoch p n) s fun t =>
      Raised .fabric 2 s t ∧ Raised .timebase 2 s t ∧ OnlyChanges (faultRegs .fabric ++ faultRegs .timebase) [.out] s t) ∧
  (∀ links s, s.fabState = 0 → s.fab.admitted = [] →
    CompletesAt (boundaryTime s) (.epochBoundary links) s fun u t =>
      t.fab = { s.fab with epoch := u.epochNo } ∧ (∀ k, k < 4096 → t.slot k = s.slot k) ∧
      (∀ k, 4096 ≤ k → t.slot k = if (s.slot k).fresh then { s.slot k with fresh := false } else .init) ∧
      (∀ p, p < 4 → (s.link p).risk = false → s.narrow p = false → t.get (portPage p) PORT.PSTATUS_DEADLINE_RISK = 0) ∧
      (∀ p, p < 4 → (s.link p).risk = true ∨ s.narrow p = true →
        t.get (portPage p) PORT.PSTATUS_DEADLINE_RISK = s.get (portPage p) PORT.PSTATUS_DEADLINE_RISK) ∧
      (∀ p, p < 4 → t.link p = { s.link p with risk := s.narrow p }) ∧
      OnlyChanges riskFields [.fab, .links, .slots, .out] u t) ∧
  (∀ links s id e, s.fabState = 1 → s.get .fabric FABRIC.FSTATUS_CHAIR = 0 → s.fab.offered = some (id, e) → id < 63 → e ≤ s.epochNo →
    s.fab.epoch < s.epochNo → s.time.syncGone = false → s.get .timebase TIMEBASE.TB_STATUS_ALIGN_PENDING = 0 →
    Completes (.epochBoundary links) s fun t => t.fabState = 2 ∧ t.fabricId = id ∧ t.isPresent id = true ∧ t.fab.offered = none ∧ t.fab.rejoin = false ∧
      t.fab.sendq = s.fab.sendq ++ [⟨.present, s.chairId, id, none, 0, [], none, none⟩] ∧ LeadsShown s t ∧ RoutesKept s t) ∧
  (∀ links s, s.fabState = 1 → s.get .fabric FABRIC.FSTATUS_CHAIR = 0 → s.time.syncGone = true ∨ s.get .timebase TIMEBASE.TB_STATUS_ALIGN_PENDING = 1 →
    CompletesAt (boundaryTime s) (.epochBoundary links) s fun u t =>
      t.fab = { s.fab with epoch := u.epochNo } ∧ OnlyChanges riskFields [.fab, .links, .slots, .out] u t) ∧
  (∀ links s, s.fabState = 2 → s.get .fabric FABRIC.FSTATUS_CHAIR = 0 → s.fab.epoch < s.epochNo → s.epochNo < s.fab.routesAt + 2 → s.fab.offered = none →
    Completes (.epochBoundary links) s fun t =>
      t.fab = { s.fab with epoch := s.epochNo, sendq := s.fab.sendq ++ [ownFrame s .present s.chairId [] none] } ∧
      OnlyChanges riskFields [.fab, .links, .slots, .out] s t)

/-- The pages of the power supply. -/
def supplyPages : List Page := [.power, .feed 0, .feed 1]

/-- A switchover is triggered, by the COLD keeper's own reading alone or not (R434, R437). -/
def triggeredState (byCold : Bool) (p : PowerState) : PowerState := { p with byCold := byCold && (!p.triggered || p.byCold), triggered := true }

/-- The converter clocks are locked together or unlocked, and TB_STATUS.LOCKED shows whether all eight are (R83, R516). -/
def ClocksAre (on : Bool) (s t : State) : Prop :=
  t.time.clocksOff = !on ∧ t.get .timebase TIMEBASE.TB_STATUS_LOCKED = if on = true ∧ s.time.lockLost = [] then 1 else 0

/-- The device is DORMANT for a cause: both stages off, outputs unpowered, engines stopped, the host link down (R40, R441, R443). -/
def DormantBy (c : DormantCause) (t : State) : Prop :=
  t.power.cause = some c ∧ t.get .power POWER.PSTATUS_STATE = 0 ∧ t.get (.feed 0) FEED.KSTATUS_ROLE = 0 ∧ t.get (.feed 1) FEED.KSTATUS_ROLE = 0 ∧
  (∀ o, t.cond o = Cond.inert.code) ∧ (∀ m, m < 16 → t.markerCond m = Cond.inert.code) ∧ (∀ e, e < 1024 → t.engStopped e = true) ∧
  t.get .host HOST.LINK_STATUS_DL_UP = 0 ∧ t.get .power POWER.PSTATUS_SWITCHING = 0 ∧ t.time.frozen = false ∧ t.time.clocksOff = true ∧
  t.get .timebase TIMEBASE.TB_STATUS_LOCKED = 0

/-- R36, R40, R44, R70, R81, R181, R193, R434 to R441: readings outside their limits trigger a switchover where one may run; SWAP needs REDUNDANT; at
H+0 the sample domain freezes, LIVE outputs HOLD their last sample and streams lose their slots; the COLD stage takes over and the clocks relock; at W0
the gates resume, late entries are discarded, open shots are void with FEED; 256 ST later the outputs leave HOLD; abandonment; a dual start. -/
def Obligations.Switchover : Prop :=
  (∀ (mv : BitVec 16) s i, i = s.activeStage → i < 2 → mv.toNat < 10200 → s.mayTrigger = true →
    Completes (.feedLow mv false) s fun t =>
      t.power = triggeredState false s.power ∧ t.get (feedPage i) FEED.FEED_V_MV = mv.toNat ∧ t.get (feedPage i) FEED.KSTATUS_FEED_GOOD = 0 ∧
      t.get (feedPage i) FEED.KSTATUS_GOOD_MS = 0 ∧ Raised (feedPage i) 1 s t ∧ OnlyPagesChange supplyPages [.power, .out] s t) ∧
  (∀ (mv : BitVec 16) s, mv.toNat < 10200 → s.mayTrigger = true →
    Completes (.feedLow mv true) s fun t => t.power = triggeredState true s.power ∧ OnlyChanges [] [.power] s t) ∧
  (∀ (mv : BitVec 16) b s, 10200 ≤ mv.toNat → Completes (.feedLow mv b) s fun t => t = s) ∧
  (∀ (mv : BitVec 16) s i, i = s.activeStage → i < 2 → 14000 < mv.toNat → s.mayTrigger = true →
    Completes (.feedHigh mv) s fun t =>
      t.power = triggeredState false s.power ∧ t.get (feedPage i) FEED.FEED_V_MV = mv.toNat ∧ t.get (feedPage i) FEED.KSTATUS_FEED_GOOD = 0 ∧
      Raised (feedPage i) 2 s t ∧ OnlyPagesChange supplyPages [.power, .out] s t) ∧
  (∀ (mv : BitVec 16) s, mv.toNat ≤ 14000 → Completes (.feedHigh mv) s fun t => t = s) ∧
  (∀ s, s.mayTrigger = true →
    Completes .stageFault s fun t =>
      t.power = triggeredState false s.power ∧ Raised (feedPage s.activeStage) 3 s t ∧ OnlyChanges (faultRegs (feedPage s.activeStage)) [.power, .out] s t) ∧
  (∀ (mv : BitVec 12) b s, mv.toNat < 1620 → s.mayTrigger = true →
    Completes (.vbusLow mv b) s fun t =>
      t.power = triggeredState b s.power ∧ t.get .power POWER.VBUS_MV = mv.toNat ∧ OnlyChanges [(.power, POWER.VBUS_MV)] [.power] s t) ∧
  (∀ (mv : BitVec 12) b s, 1620 ≤ mv.toNat → Completes (.vbusLow mv b) s fun t => t = s) ∧
  (∀ s, s.get .power POWER.PSTATUS_REDUNDANT = 1 → s.get .power ALL.PAGE_CTRL_ENABLE = 1 → s.mayTrigger = true →
    Completes (.swap 0) s fun t => t.power = triggeredState false s.power ∧ OnlyChanges [] [.power] s t) ∧
  (∀ s, s.get .power POWER.PSTATUS_REDUNDANT ≠ 1 ∨ s.get .power ALL.PAGE_CTRL_ENABLE ≠ 1 →
    Completes (.swap 0) s fun t => Raised .power 5 s t ∧ OnlyChanges (faultRegs .power) [.out] s t) ∧
  (∀ s c, c = s.otherStage → c < 2 → s.power.triggered = true → s.get .power POWER.PSTATUS_REDUNDANT = 1 →
    Completes .loadShed s fun t =>
      t.time = { s.time with frozen := true, liveAt := none, clocksOff := true } ∧ ClocksAre false s t ∧ t.power = { s.power with shedAt := s.st, returned := false, relocked := false } ∧
      t.get .power POWER.PSTATUS_SWITCHING = 1 ∧ Raised .power 0 s t ∧ t.get (feedPage c) FEED.KSTATUS_ROLE = Role.starting.code ∧
      (∀ o, t.cond o = if s.cond o = Cond.live.code then Cond.hold.code else s.cond o) ∧
      (∀ o, s.cond o = Cond.live.code → (t.output (outputNo o)).held = s.lastSample o) ∧
      (∀ m, m < 16 → t.markerCond m = if s.markerCond m = Cond.live.code then Cond.hold.code else s.markerCond m) ∧
      (∀ k, (t.tone k).pulse = none ∧ (t.tone k).stream = none) ∧ (∀ u, (t.trig u).armed = false) ∧
      (∀ e, ∀ x ∈ (t.eng e).due, x.kind.ofFrame = true) ∧
      ((∀ k, noneWaits s k) → (∀ e, (t.eng e).timetable = (s.eng e).timetable) ∧
        ∀ e x i, x ∈ (s.eng e).due → x.kind = .streamStart → x.slot = some i → ∀ y ∈ (t.blk (blockOf e)).slots, y.1 ≠ i)) ∧
  (∀ s, s.power.triggered = false ∨ s.get .power POWER.PSTATUS_REDUNDANT = 0 → Completes .loadShed s fun t => t = s) ∧
  (∀ (mv : BitVec 12) s i, i = s.activeStage → i < 2 → s.get .power POWER.PSTATUS_SWITCHING = 1 → s.power.returned = false →
    Completes (.vbusReturn mv) s fun t =>
      t.get .power POWER.VBUS_MV = mv.toNat ∧ t.get .power POWER.PSTATUS_ACTIVE = 1 - i ∧ t.get (feedPage i) FEED.KSTATUS_ROLE = Role.off.code ∧
      t.get (feedPage (1 - i)) FEED.KSTATUS_ROLE = Role.active.code ∧ t.power.returned = true ∧ OnlyPagesChange supplyPages [.power, .out] s t) ∧
  (∀ s, s.power.returned = true →
    Completes .clockRelock s fun t =>
      t.power = { s.power with relocked := true } ∧ ClocksAre true s t ∧ t.time = { s.time with clocksOff := false } ∧
      OnlyChanges [(.timebase, TIMEBASE.TB_STATUS_LOCKED)] [.power, .time] s t) ∧
  (∀ s, s.power.returned = false → s.get .power POWER.PSTATUS_SWITCHING = 0 → s.get .power POWER.PSTATUS_STATE = 2 →
    Completes .clockRelock s fun t =>
      ClocksAre true s t ∧ t.time = { s.time with clocksOff := false } ∧ OnlyChanges [(.timebase, TIMEBASE.TB_STATUS_LOCKED)] [.time] s t) ∧
  (∀ s, s.power.returned = false → s.get .power POWER.PSTATUS_SWITCHING = 1 ∨ s.get .power POWER.PSTATUS_STATE ≠ 2 →
    Completes .clockRelock s fun t => t = s) ∧
  (∀ s, s.get .power POWER.PSTATUS_SWITCHING = 1 → s.power.relocked = true → s.power.resetHeld = false → s.power.afterGap = none →
    (∀ g ∈ s.openGroups, voidable s g) → s.openGroups.Nodup →
    CompletesAt (Stamp.gridUp 5 s.st) .gateResume s fun u t =>
      t.time = { u.time with frozen := false, liveAt := some (u.st + 256) } ∧ t.get .power POWER.PSTATUS_SWITCHING = 0 ∧ t.power.triggered = false ∧
      t.get .power POWER.SWITCH_COUNT_COUNT = satInc 32 (s.get .power POWER.SWITCH_COUNT_COUNT) % 2 ^ 32 ∧
      t.get .power POWER.LAST_GAP_ST = min (2 ^ 20 - 1) (u.st - s.power.shedAt).toNat ∧
      t.pair .power POWER.LAST_H_LO POWER.LAST_H_HI = s.power.shedAt.toNat ∧
      (∀ o, t.cond o = u.cond o) ∧
      (∀ g ∈ s.openGroups, (t.group g).voidedNow = true ∧ Nat.testBit (t.group g).causesAll 5 = true) ∧
      (∀ e, (t.eng e).timetable = (s.eng e).timetable.filter fun x => Stamp.future x.stamp (u.st + 256))) ∧
  (∀ s a, s.time.liveAt = some a → Stamp.future a s.st = true → a ≠ s.st →
    Passed a s (s.passed a) ∧ (s.passed a).time.liveAt = none ∧
      (∀ o, (s.passed a).cond o = if s.cond o = Cond.hold.code then Cond.live.code else s.cond o) ∧
      ∀ m, m < 16 → (s.passed a).markerCond m = if s.markerCond m = Cond.hold.code then Cond.live.code else s.markerCond m) ∧
  (∀ (mv : BitVec 12) s, s.power.cause = none → s.power.unpowered = false →
    (s.power.triggered = true ∧ s.get .power POWER.PSTATUS_SWITCHING = 0 ∧ s.get .power POWER.PSTATUS_REDUNDANT = 0) ∨
      (s.get .power POWER.PSTATUS_SWITCHING = 1 ∧ s.power.returned = false ∧ 300000 ≤ (s.st - s.power.shedAt).toNat) ∨ mv.toNat < 1300 →
    Completes (.switchoverAbandon mv) s fun t =>
      DormantBy (s.power.afterGap.getD .feeds) t ∧ t.get .power POWER.VBUS_MV = mv.toNat ∧ t.led.waiting = [] ∧ (∀ n, n < 8 → (t.capq n).recs = []) ∧
      (∀ g, g < 1280 → (t.group g).open' = false) ∧ t.time.coarse = s.time.coarse ∧
      ∃ code, t.power.records = s.power.records ++ [⟨3, s.get .chip CHIP.BOOT_COUNT_COUNT,
        if s.get .power POWER.PSTATUS_SWITCHING = 1 then s.power.shedAt else s.st, [code, mv.toNat]⟩]) ∧
  (∀ (mv : BitVec 12) s, s.power.triggered = false → s.get .power POWER.PSTATUS_SWITCHING = 0 → 1300 ≤ mv.toNat →
    Completes (.switchoverAbandon mv) s fun t => t = s) ∧
  (∀ (mv : BitVec 12) s, s.power.cause = none → s.power.unpowered = false →
    Completes (.bothFeedsLost mv) s fun t =>
      DormantBy (s.power.afterGap.getD .feeds) t ∧ (∀ i : Fin 2, t.get (.feed i) FEED.KSTATUS_FEED_GOOD = 0 ∧ t.get (.feed i) FEED.KSTATUS_GOOD_MS = 0)) ∧
  (∀ s i, i = s.activeStage → i < 2 → s.power.triggered = true → s.power.byCold = true → s.get .power POWER.PSTATUS_SWITCHING = 0 →
    s.get .power POWER.PSTATUS_REDUNDANT = 1 → s.get (feedPage i) FEED.KSTATUS_FEED_GOOD ≠ 0 →
    Completes .dualStartResolve s fun t =>
      t.get (feedPage i) FEED.KSTATUS_ROLE = Role.cold.code ∧ t.get (feedPage (1 - i)) FEED.KSTATUS_ROLE = Role.active.code ∧
      t.get .power POWER.PSTATUS_ACTIVE = 1 - i ∧ Nat.testBit (t.get .power ALL.FAULT_BITS) 1 = true ∧
      t.get .power POWER.DUAL_COUNT_COUNT = satInc 32 (s.get .power POWER.DUAL_COUNT_COUNT) % 2 ^ 32 ∧ t.power.triggered = false ∧
      OnlyPagesChange supplyPages [.power, .out] s t)

/-- Everything the device holds is at its reset value but NVM, OTP, the always-on record and the listed fields, which keep theirs unless they stand in `but`;
every page but those of power reads STARTING, the memories are being wiped and a start is due (R308, R309, R485, R504). -/
def ClearedBut (kept but : List (Page × Field)) (s t : State) : Prop :=
  (∀ p f, f.off < 4096 → f.lo < 32 → regKey p f ≠ regKey p ALL.PAGE_STATE_STATE →
    (∀ x ∈ (Page.hbm, HBM.STATUS_WIPING) :: kept, regKey p f ≠ regKey x.1 x.2) → t.get p f = f.reset) ∧
  (∀ p ∈ chipPages ++ unitPages, p ∉ [Page.power, .feed 0, .feed 1] → t.pageIs p .starting = true) ∧
  (∀ x ∈ kept, x ∉ but → t.get x.1 x.2 = s.get x.1 x.2 % 2 ^ x.2.width) ∧ t.get .hbm HBM.STATUS_WIPING = 1 ∧
  (∀ n, n < 8 → t.word .misc (wipeRegion n) = 1) ∧
  (∀ a, a < nvmStart ∨ (nvmEnd ≤ a ∧ a < 2 ^ 60) → t.byte a = 0) ∧ t.st = 0 ∧ t.start.phase = .due ∧ t.led = LedgerState.init ∧ t.fab = FabricState.init ∧ t.tend = WatchState.init ∧
  (∀ e, e < 2 ^ 60 → t.eng e = Engine.init)

/-- The bytes of NVM in a range of its stores read as before (R514). -/
def NvmKept (a b : Nat) (s t : State) : Prop := ∀ x, nvmAddr a 0 ≤ x → x < nvmAddr b 0 → t.byte x = s.byte x

/-- A full reset by power: nothing is written into NVM or OTP. -/
def Restarted (kept : List (Page × Field)) (s t : State) : Prop :=
  ClearedBut kept [] s t ∧ NvmKept 0 16 s t ∧ ∀ i, i < 2 ^ 44 → t.word .fuses i = s.word .fuses i ∧ t.word .faultLog i = s.word .faultLog i

/-- The keeper of a stage after a change. -/
def KeeperIs (i : Nat) (k : Keeper) (s t : State) : Prop := t.power = { s.power with keepers := s.power.keepers.set i k }

/-- R428, R431 to R433, R442 to R444, R448, R462, R485, R489 to R491: the keepers' beats, trims and cold checks; AUX; a feed outside its range; TARGET and the changes of
power state it begins; what DORMANT's exit and the loss of AUX leave. -/
def Obligations.KeepersAndPowerStates : Prop :=
  (∀ (i : Fin 2) (n : BitVec 16) r s, s.power.keepers.length = 2 →
    Completes (.lantern i n false r) s fun t =>
      t.get (.feed i) FEED.LANTERN_MISS_COUNT = min (2 ^ 32 - 1) (s.get (.feed i) FEED.LANTERN_MISS_COUNT + n.toNat) ∧
      t.get (feedPage (1 - i.val)) FEED.FEED_V_MV = r.mv.toNat % 2 ^ FEED.FEED_V_MV.width ∧
      t.get (feedPage (1 - i.val)) FEED.FEED_I_CA = r.ca.toNat % 2 ^ FEED.FEED_I_CA.width ∧
      t.get (feedPage (1 - i.val)) FEED.STAGE_TEMP_DC = r.dc.toNat % 2 ^ FEED.STAGE_TEMP_DC.width ∧
      (n = 0 → 15 ≤ (s.keeper i.val).beats → t.get (.feed i) FEED.KSTATUS_LANTERN_OK = 1) ∧
      (n ≠ 0 → (t.keeper i.val).beats = 1) ∧ OnlyPagesChange [.feed 0, .feed 1] [.power] s t) ∧
  (∀ (i : Fin 2) n r s, s.roleIs i.val .cold = true → s.get .power POWER.PSTATUS_SWITCHING = 0 →
    Completes (.lantern i n true r) s fun t => t.power.triggered = true ∧ OnlyPagesChange [.feed 0, .feed 1] [.power] s t) ∧
  (∀ (i : Fin 2) s, s.power.keepers.length = 2 →
    Completes (.lanternLost i) s fun t =>
      t.get (.feed i) FEED.LANTERN_MISS_COUNT = min (2 ^ 32 - 1) (s.get (.feed i) FEED.LANTERN_MISS_COUNT + 4) ∧
      t.get (.feed i) FEED.KSTATUS_LANTERN_OK = 0 ∧ Raised (.feed i) 0 s t ∧ KeeperIs i { s.keeper i.val with beats := 0 } s t ∧
      OnlyPagesChange [.feed i] [.power, .out] s t) ∧
  (∀ (x : Trims) (est : BitVec 16) s i, i = s.activeStage → i < 2 → s.roleIs i .active = true → s.power.keepers.length = 2 →
    Completes (.trimRecord x false est) s fun t =>
      t.get .power POWER.POWER_EST_DW = est.toNat % 2 ^ POWER.POWER_EST_DW.width ∧ KeeperIs i { s.keeper i with mirror := x } s t ∧
      t.get (feedPage i) FEED.KSTATUS_TRIMS_VALID = 1 ∧
      t.get (feedPage i) FEED.TRIM_VER_VER = (s.get (feedPage i) FEED.TRIM_VER_VER + 1) % 2 ^ FEED.TRIM_VER_VER.width ∧
      OnlyPagesChange supplyPages [.power] s t) ∧
  (∀ (x : Trims) (est : BitVec 16) s i, i = s.activeStage → i < 2 → s.roleIs i .active = true → s.power.keepers.length = 2 →
    (∀ y, (s.keeper i).copyAt = some y → 3600 * 20000000000 ≤ (s.st - y).toNat) →
    Completes (.trimRecord x true est) s fun t => KeeperIs i { s.keeper i with mirror := x, copy := x, copyAt := some s.st } s t ∧
      OnlyPagesChange supplyPages [.power] s t) ∧
  (∀ s i, i = s.otherStage → i < 2 → s.roleIs i .cold = true → s.power.keepers.length = 2 →
    Completes (.coldCheck true) s fun t =>
      KeeperIs i { s.keeper i with checked := true } s t ∧
      t.get (feedPage i) FEED.COLD_CHECKS_PASSES = satInc FEED.COLD_CHECKS_PASSES.width (s.get (feedPage i) FEED.COLD_CHECKS_PASSES) %
        2 ^ FEED.COLD_CHECKS_PASSES.width ∧
      (s.get (feedPage i) FEED.KSTATUS_GOOD_MS = 100 → s.get (feedPage i) FEED.KSTATUS_TRIMS_VALID = 1 →
        t.get (feedPage i) FEED.KSTATUS_ARMED = 1 ∧ t.get .power POWER.PSTATUS_REDUNDANT = 1) ∧ OnlyPagesChange supplyPages [.power, .out] s t) ∧
  (∀ s i, i = s.otherStage → i < 2 → s.roleIs i .cold = true → s.power.keepers.length = 2 →
    Completes (.coldCheck false) s fun t =>
      KeeperIs i { s.keeper i with checked := false } s t ∧ Raised (feedPage i) 4 s t ∧ t.get (feedPage i) FEED.KSTATUS_ARMED = 0 ∧
      OnlyPagesChange supplyPages [.power, .out] s t) ∧
  (∀ (i : Fin 2) s, s.roleIs i.val .off = true → s.power.cause = none → s.power.keepers.length = 2 →
    Completes (.stageArmed i) s fun t =>
      t.get (.feed i) FEED.KSTATUS_FEED_GOOD = 1 ∧ t.get (.feed i) FEED.KSTATUS_GOOD_MS = 100 ∧ t.get (.feed i) FEED.KSTATUS_ROLE = Role.cold.code ∧
      KeeperIs i { s.keeper i.val with checked := false } s t ∧ OnlyPagesChange supplyPages [.power, .out] s t) ∧
  (∀ (i : Fin 2) s, Completes (.auxLost i) s fun t =>
    t.get .power (auxField i) = 0 ∧ Raised .power 3 s t ∧ OnlyChanges ((.power, auxField i) :: faultRegs .power) [.out] s t) ∧
  (∀ (i : Fin 2) s, s.power.unpowered = false →
    Completes (.auxReturn i) s fun t => t.get .power (auxField i) = 1 ∧ OnlyChanges [(.power, auxField i)] [] s t) ∧
  (∀ (i : Fin 2) (mv : BitVec 16) s, mv.toNat < 10600 ∨ 13600 < mv.toNat →
    Completes (.feedOutOfRange i mv) s fun t =>
      t.get (.feed i) FEED.FEED_V_MV = mv.toNat ∧ t.get (.feed i) FEED.KSTATUS_FEED_GOOD = 0 ∧ t.get (.feed i) FEED.KSTATUS_GOOD_MS = 0 ∧
      t.get (.feed i) FEED.KSTATUS_ARMED = 0 ∧ Raised (.feed i) (if mv.toNat < 10600 then 1 else 2) s t ∧
      OnlyPagesChange supplyPages [.out] s t) ∧
  (∀ (i : Fin 2) (mv : BitVec 16) s, 10600 ≤ mv.toNat → mv.toNat ≤ 13600 → Completes (.feedOutOfRange i mv) s fun t => t = s) ∧
  (∀ s, Completes .powerLoss s fun t =>
    Restarted keptFields s t ∧ t.power.unpowered = true ∧ t.power.records = [] ∧ t.power.cause = none ∧
    ∀ i, i < 2 ^ 44 → t.word .lastShot i = 0) ∧
  (∀ (i : Fin 2) s, s.get .power POWER.PSTATUS_AUX_A_OK ≠ 1 → s.get .power POWER.PSTATUS_AUX_B_OK ≠ 1 →
    Completes (.powerOnReset i) s fun t =>
      t.get .power (auxField i) = 1 ∧ t.power.unpowered = false ∧ t.power.cause = none ∧ t.start.phase = .due ∧ (∀ e, e < 1024 → t.eng e = Engine.init) ∧ t.st = 0) ∧
  (∀ (i : Fin 2) s, s.get .power POWER.PSTATUS_AUX_A_OK = 1 ∨ s.get .power POWER.PSTATUS_AUX_B_OK = 1 → Completes (.powerOnReset i) s fun t => t = s) ∧
  (∀ (v : Fin 4) s, s.get .power ALL.PAGE_CTRL_ENABLE ≠ 0 → s.power.cause = none → s.power.change = none →
    (s.powerState = 2 ∧ v.val = 1 ∧ s.allStopped = true ∧ s.allInert = true) ∨ (s.powerState = 1 ∧ (v.val = 2 ∨ v.val = 0)) →
    Completes (.powerTarget 0 v) s fun t =>
      t.power = { s.power with change := some v.val } ∧ t.get .power POWER.PCTRL_TARGET = v.val ∧ OnlyChanges [(.power, POWER.PCTRL_TARGET)] [.power] s t) ∧
  (∀ (v : Fin 4) s, s.get .power ALL.PAGE_CTRL_ENABLE ≠ 0 → s.power.cause = none → s.powerState = 3 ∨ v.val = 3 ∨ v.val = s.powerState →
    Completes (.powerTarget 0 v) s fun t => Raised .power 4 s t ∧ OnlyChanges (faultRegs .power) [.out] s t) ∧
  (∀ s, s.get .power ALL.PAGE_CTRL_ENABLE ≠ 0 → s.power.cause = some .target →
    Completes (.powerTarget 0 2) s fun t => t.power = { s.power with exitAsked := true } ∧ OnlyChanges [(.power, POWER.PCTRL_TARGET)] [.power] s t) ∧
  (∀ (d : BitVec 16) s, s.power.change = some 1 →
    Completes (.powerStateDone d) s fun t =>
      t.get .power POWER.PSTATUS_STATE = 1 ∧ (∀ p ∈ unitPages, t.pageIs p .off = true) ∧ t.start.calTemp = d.toInt ∧ t.power.change = none ∧
      ClocksAre false s t ∧ ∀ x : FeedlineId, t.rxIs x (if s.rxIs x .unavailable = true then .unavailable else .off) = true) ∧
  (∀ (d : BitVec 16) s, s.power.change = some 2 → s.start.retest.Nodup →
    Completes (.powerStateDone d) s fun t =>
      t.get .power POWER.PSTATUS_STATE = 2 ∧ t.power.change = none ∧ ClocksAre true s t ∧ (∀ p ∈ s.start.retest, t.pageIs p .quarantined = true) ∧
      (100 < (d.toInt - s.start.calTemp).natAbs → t.get .chip CHIP.BOOT_STATUS_CAL_STALE = 1 ∧ Nat.testBit (t.get .chip ALL.FAULT_BITS) 2 = true) ∧
      ((d.toInt - s.start.calTemp).natAbs ≤ 100 → t.get .chip ALL.FAULT_BITS = s.get .chip ALL.FAULT_BITS)) ∧
  (∀ (d : BitVec 16) s, s.power.change = some 0 → Completes (.powerStateDone d) s (DormantBy .target)) ∧
  (∀ (d : BitVec 16) s, s.power.change = none → Completes (.powerStateDone d) s fun t => t = s) ∧
  (∀ (x : BitVec 16) s, s.power.cause = some .trip → s.power.unpowered = false → x.toInt < 850 →
    (s.get (.feed 0) FEED.KSTATUS_FEED_GOOD = 1 ∨ s.get (.feed 1) FEED.KSTATUS_FEED_GOOD = 1) →
    Completes (.dormantExit x true) s fun t =>
      Restarted (keptFields ++ alwaysOnFields) s t ∧ t.power.cause = none ∧ t.power.records = s.power.records ∧ t.power.keepers = s.power.keepers) ∧
  (∀ (x : BitVec 16) b s, s.power.cause = none ∨ (s.power.cause = some .trip ∧ (850 ≤ x.toInt ∨ b = false)) →
    Completes (.dormantExit x b) s fun t => t = s)

/-- The newest of the samples a command brings for a sensor. -/
def newestOf (l : List SensorSample) (i : Nat) : Option (BitVec 16) := ((l.filter fun x => x.1.val = i).getLast?).map (·.2)

/-- The samples a command brings are the sensors' newest readings; a broken sensor keeps its own (R449, R451). -/
def ReadingsTaken (l : List SensorSample) (s t : State) : Prop :=
  ∀ i, i < 84 → t.reading i = if s.broken i then s.reading i else ((newestOf l i).map BitVec.toInt).getD (s.reading i)

/-- A sample with contribution `v` counts toward each threshold it reaches and toward each clear level it is below, 2 °C under the threshold; a
sample that does not ends the count (R455, R456, R461). -/
def DwellCounted (i : Nat) (v : Int) (s t : State) : Prop :=
  ∀ l, l < 4 → t.dwell i l = (if s.threshold l ≤ v then min 8 (s.dwell i l + 1) else 0) ∧
    t.cool i l = if v < s.threshold l - 20 then min 8 (s.cool i l + 1) else 0

/-- A sensor's dwell counts are as before. -/
def DwellKept (i : Nat) (s t : State) : Prop := ∀ l, l < 4 → t.dwell i l = s.dwell i l ∧ t.cool i l = s.cool i l

/-- TMAX and MAX_SENSOR show the hottest place of the sensors (R449, R452). -/
def TmaxShown (t : State) : Prop :=
  t.get .thermal THERMAL.TMAX_DC = ofSigned 16 t.hottest.1 % 2 ^ 16 ∧ t.get .thermal THERMAL.TSTATE_MAX_SENSOR = t.hottest.2 % 2 ^ 7

/-- Only the thresholds in force, the sensors and the THERMAL page change. -/
def ThermalFrame (ps : List Piece) (s t : State) : Prop :=
  OnlyPagesChange [.thermal] (.tbl :: .power :: .out :: ps) s t ∧ ∀ v i, i < 2 ^ 44 → v ≠ .sensors → t.word v i = s.word v i

/-- The highest threshold in force, as TSTATE.STATE shows it (R456, R464). -/
def highestInForce (t : State) : Nat := if t.inForce 2 then 3 else if t.inForce 1 then 2 else if t.inForce 0 then 1 else 0

/-- No other threshold comes into force or leaves it. -/
def OthersInForce (l : Nat) (s t : State) : Prop := ∀ i, i < 4 → i ≠ l → t.inForce i = s.inForce i

/-- A threshold may act: eight samples of a sensor that counts have reached it, and no lower one has yet to fire (R456, R461). -/
def mayFire (l : Nat) (s t : State) : Prop := t.dwellsAt l = true ∧ ∀ i, i < l → s.inForce i = true ∨ t.dwellsAt i = false

/-- R449 to R464: a sample is its sensor's reading and counts toward the thresholds, for the broken sensor it stands in for too; eight in a row fire a
threshold, which is counted; CRIT stops the engines without a shot, SHUTDOWN and HARD TRIP make the device DORMANT; a threshold clears 2 °C below; outputs mute
under CRIT; a broken sensor reads 150.0 °C and its counts end; the sampling rate; the lifetime record. -/
def Obligations.Temperature : Prop :=
  (∀ (l : Fin 3) (i : Fin 84) (v : BitVec 16) s, i.val < 80 → s.inForce l.val = false → s.broken i.val = false →
    s.get .thermal THERMAL.EXT_CFG_PRESENT ≠ 0 →
    Completes (.thresholdClear l [(i, v)]) s fun t =>
      t.reading i.val = v.toInt ∧ DwellCounted i.val v.toInt s t ∧
      (∀ k, k < 80 → k ≠ i.val → s.broken k = true → s.noSubstitute k = false → (k < 64 ∨ 72 ≤ k) → standIn k = i.val →
        DwellCounted k (v.toInt + 10 * (s.get .thermal THERMAL.TCTRL_SUB_MARGIN : Int)) s t) ∧
      (∀ k, k < 85 → k ≠ i.val → s.broken k = false ∨ standIn k ≠ i.val ∨ (64 ≤ k ∧ k < 72) ∨ 80 ≤ k → DwellKept k s t ∧ t.sensor k = s.sensor k) ∧
      TmaxShown t ∧ ThermalFrame [] s t ∧ t.power = s.power) ∧
  (∀ (l : Fin 3) (i : Fin 84) (v : BitVec 16) s, 80 ≤ i.val → s.inForce l.val = false → s.broken i.val = false →
    Completes (.thresholdClear l [(i, v)]) s fun t =>
      t.reading i.val = v.toInt ∧ DwellCounted 84 t.tExt s t ∧ (∀ k, k < 80 → DwellKept k s t ∧ t.sensor k = s.sensor k) ∧ t.power = s.power) ∧
  (∀ (l : Fin 4) rd s, l.val < 2 → s.inForce l.val = false → s.power.cause = none →
    Completes (.thresholdFire l rd) s fun t =>
      ReadingsTaken rd s t ∧ TmaxShown t ∧ ThermalFrame [] s t ∧
      (mayFire l.val s t →
        t.inForce l.val = true ∧ OthersInForce l.val s t ∧ t.get .thermal THERMAL.TSTATE_STATE = highestInForce t ∧
        Nat.testBit (t.get .thermal ALL.FAULT_BITS) l.val = true ∧
        t.get .thermal (if l.val = 0 then THERMAL.COUNT_A_WARN else THERMAL.COUNT_A_SHED) =
          satInc 16 (s.get .thermal (if l.val = 0 then THERMAL.COUNT_A_WARN else THERMAL.COUNT_A_SHED)) % 2 ^ 16) ∧
      (¬mayFire l.val s t → t.power = s.power)) ∧
  (∀ rd s, s.inForce 2 = false → s.power.cause = none → (∀ g ∈ s.openGroups, (s.group g).voidedNow = false) →
    Completes (.thresholdFire 2 rd) s fun t =>
      ReadingsTaken rd s t ∧ (mayFire 2 s t →
        t.get .thermal THERMAL.TSTATE_STATE = 3 ∧ Nat.testBit (t.get .thermal ALL.FAULT_BITS) 2 = true ∧
        ∀ e, e < 1024 → s.inShot e = false → t.engStopped e = true) ∧ (¬mayFire 2 s t → t.power = s.power ∧ ThermalFrame [] s t)) ∧
  (∀ rd s, s.inForce 3 = false → s.power.cause = none → s.get .power POWER.PSTATUS_SWITCHING = 0 →
    Completes (.thresholdFire 3 rd) s fun t =>
      ReadingsTaken rd s t ∧ (mayFire 3 s t →
        DormantBy .trip t ∧ t.power.records = s.power.records ++ [⟨2, s.get .chip CHIP.BOOT_COUNT_COUNT, s.st,
          [1 + t.hottest.2 % 2 ^ 7 * 2 ^ 8, ofSigned 16 t.hottest.1 % 2 ^ 16]⟩]) ∧ (¬mayFire 3 s t → t.power = s.power ∧ ThermalFrame [] s t)) ∧
  (∀ (l : Fin 4) rd s, s.inForce l.val = true → Completes (.thresholdFire l rd) s fun t => ReadingsTaken rd s t ∧ t.power = s.power ∧ ThermalFrame [] s t) ∧
  (∀ (l : Fin 3) rd s, s.inForce l.val = true →
    Completes (.thresholdClear l rd) s fun t =>
      ReadingsTaken rd s t ∧ TmaxShown t ∧ ThermalFrame [] s t ∧ OthersInForce l.val s t ∧
      ((∀ i ∈ t.dwelling, t.cool i l.val = 8) → t.inForce l.val = false ∧ t.get .thermal THERMAL.TSTATE_STATE = highestInForce t ∧
        (l.val = 1 → t.get .thermal THERMAL.TSTATE_SLACK_THROTTLE = 0)) ∧
      ((∃ i ∈ t.dwelling, t.cool i l.val ≠ 8) → t.power = s.power)) ∧
  (∀ (o : OutputId) s, s.crit = true → (∀ e ∈ s.outputOwners (.dac o), s.inShot e = false) →
    Completes (.critOutputMute (.dac o)) s fun t =>
      t.cond o = (if s.cond o = Cond.inert.code then Cond.inert.code else Cond.muted.code) ∧ OnlyChanges (condFields o) [.outputs] s t) ∧
  (∀ (m : Fin 16) s, s.crit = true → (∀ e ∈ s.outputOwners (.marker m), s.inShot e = false) → s.markerCond m ≠ Cond.inert.code →
    Completes (.critOutputMute (.marker m)) s fun t =>
      t.markerCond m = Cond.muted.code ∧ (t.output (markerNo m)).level = false ∧ OnlyChanges (markFields m) [.outputs] s t) ∧
  (∀ (o : AnyOutput) s, s.crit = false ∨ (∃ e ∈ s.outputOwners o, s.inShot e = true) → Completes (.critOutputMute o) s fun t => t = s) ∧
  (∀ (i : Fin 80) (c : Fin 5) rd s, s.broken i.val = false →
    Completes (.sensorBroken i c rd) s fun t =>
      t.broken i.val = true ∧ t.reading i.val = 1500 ∧ t.sensor i.val / 2 ^ 17 % 2 ^ 3 = c.val + 1 ∧
      (∀ l, l < 4 → t.dwell i.val l = 0 ∧ t.cool i.val l = 0) ∧ (∀ j, j < 84 → j ≠ i.val → t.broken j = s.broken j) ∧
      Nat.testBit (t.get .thermal ALL.FAULT_BITS) 3 = true ∧ TmaxShown t ∧ ThermalFrame [] s t) ∧
  (∀ (i : Fin 80) (c : Fin 5) rd s, s.broken i.val = true → Completes (.sensorBroken i c rd) s fun t => t.sensor i.val = s.sensor i.val ∧ ThermalFrame [] s t) ∧
  (∀ (i : Fin 80) rd s,
    Completes (.sensorRateChange i rd) s fun t =>
      ReadingsTaken rd s t ∧ TmaxShown t ∧ ThermalFrame [] s t ∧ t.sensor i.val / 2 ^ 20 = if t.nearThreshold (t.reading i.val) then 1 else 0) ∧
  (∀ (h : Fin 16) s, s.power.unpowered = false →
    Completes (.hardTrip h) s fun t =>
      DormantBy .trip t ∧ t.power.records = s.power.records ++
        [⟨2, s.get .chip CHIP.BOOT_COUNT_COUNT, s.st, [2 + (64 + h.val) * 2 ^ 8, s.get .thermal THERMAL.TMAX_DC]⟩]) ∧
  (∀ (h : Fin 16) s, s.power.unpowered = true → Completes (.hardTrip h) s fun t => t = s) ∧
  (∀ (a : BitVec 16) s, Completes (.lifeRecord a) s fun t =>
    t.get .thermal THERMAL.LIFE_AVG_DC = a.toNat ∧
    t.get .thermal THERMAL.LIFE_HOURS_HOURS = satInc 32 (s.get .thermal THERMAL.LIFE_HOURS_HOURS) % 2 ^ 32 ∧
    OnlyChanges [(.thermal, THERMAL.LIFE_AVG_DC), (.thermal, THERMAL.LIFE_HOURS_HOURS)] [] s t)

/-- TAMPER_COUNT, TAMPER_LAST and FAULT.TAMPER_LOGGED record a logged event (R478, R484). -/
def TamperCounted (source : Nat) (s t : State) : Prop :=
  t.get .security SECURITY.TAMPER_COUNT_COUNT = satInc 32 (s.get .security SECURITY.TAMPER_COUNT_COUNT) % 2 ^ 32 ∧
  t.get .security SECURITY.TAMPER_LAST_SOURCE = source ∧ t.get .security SECURITY.TAMPER_LAST_FULL = 0 ∧ Raised .security 0 s t ∧
  t.word .faultLog (16 * (s.word .misc 0 % 4096)) = 4 + 0x20 * 2 ^ 8 ∧ t.word .faultLog (16 * (s.word .misc 0 % 4096) + 4) = source

/-- The frame of a logged event. -/
def LogFrame (ps : List Piece) (s t : State) : Prop := OnlyPagesChange [.security, .nvm] (.tbl :: .out :: ps) s t

/-- The full response to a tamper source: the event is counted and kept in the always-on fault record, the device is wiped and a chip reset leaves a start
from the boot ROM due; `but` are the counts it keeps and changes (R478, R479). -/
def FullResponse (source : Nat) (but : List (Page × Field)) (s t : State) : Prop :=
  ClearedBut (keptFields ++ alwaysOnFields) ((.security, SECURITY.TAMPER_COUNT_COUNT) :: but) s t ∧ t.start.fromRom = true ∧
  t.get .security SECURITY.TAMPER_COUNT_COUNT = satInc 32 (s.get .security SECURITY.TAMPER_COUNT_COUNT) % 2 ^ 32 ∧
  t.power.records = s.power.records ++ [⟨4, s.get .chip CHIP.BOOT_COUNT_COUNT, s.st, [source + 256]⟩] ∧
  ∀ i, i < 2 ^ 44 → t.word .fuses i = s.word .fuses i ∧ t.word .faultLog i = s.word .faultLog i

/-- The device runs: it is powered and not in DORMANT. -/
def awake (s : State) : Prop := s.power.cause = none ∧ s.power.unpowered = false

/-- A security command begins with the REASON it will end with (R470). -/
def Begins (c : SecurityCmd) (s t : State) : Prop :=
  t.get .security SECURITY.CMD_STATUS_BUSY = 1 ∧ t.get .security SECURITY.CMD_STATUS_DONE = 0 ∧ t.start = { s.start with security := some c } ∧
  OnlyChanges [(.security, SECURITY.CMD_STATUS_BUSY), (.security, SECURITY.CMD_STATUS_DONE)] [.start] s t

/-- A security command ends with a REASON, 0 for success, which CMD_REFUSED follows (R484). -/
def Ends (r : Nat) (s t : State) : Prop :=
  t.get .security SECURITY.CMD_STATUS_BUSY = 0 ∧ t.get .security SECURITY.CMD_STATUS_DONE = 1 ∧
  t.get .security SECURITY.CMD_STATUS_OK = (if r = 0 then 1 else 0) ∧ t.get .security SECURITY.CMD_STATUS_REASON = r % 2 ^ 8 ∧
  t.start = { s.start with security := none } ∧ (r ≠ 0 → Raised .security 1 s t) ∧
  (r = 0 → t.get .security ALL.FAULT_BITS = s.get .security ALL.FAULT_BITS)

/-- Measurement register `i` is extended by bytes under a context (R475). -/
def MeasureIs (i : Nat) (bytes : List Byte) (c : Nat) (s t : State) : Prop :=
  ∀ w, w < 16 → t.word .measurements (16 * i + w) =
    (Config.shake256 (leBytes (s.measurement i) 64 ++ leBytes (Config.shake256 bytes).toNat 64 ++ leBytes c 8)).toNat / 2 ^ (32 * w) % 2 ^ 32

/-- And no other word of a table changes but a poison mark. -/
def Extended (i : Nat) (bytes : List Byte) (c : Nat) (s t : State) : Prop :=
  MeasureIs i bytes c s t ∧
  ∀ v k, k < 2 ^ 44 → (v = .measurements → k < 16 * i ∨ 16 * i + 16 ≤ k) → v ≠ .poison → t.word v k = s.word v k

/-- The state with a debug token in the security unit. -/
def withToken (token : List Byte) (s : State) : State := run (acts [clear .mem tokenStore (tokenStore + 2 ^ 32), storeList tokenStore token]) s

/-- Debug opens, NONCE is drawn anew, and the unlock is measured (R471, R483). -/
def DebugOpened (s t : State) : Prop :=
  t.get .security SECURITY.SSTATUS_DEBUG_OPEN = 1 ∧ t.start = { s.start with draws := s.start.draws + 1 } ∧
  (∀ i, i < 8 → t.get .security (SECURITY.NONCE_WORD i) = (Config.random s.start.draws i).toNat) ∧
  Extended 6 (Config.eventRecord 0x100 [s.lc]) (Config.measureContext [0x100]) s t ∧ BytesKept tokenStore (2 ^ 32) s t ∧
  OnlyPagesChange [.security] [.mem, .tbl, .start] s t

/-- An instruction of the test port is in force, and acts or not. -/
def ScanIs (i : ScanInstr) (acts' : Bool) (s t : State) : Prop := t.start = { s.start with scan := i, scanActs := acts' } ∧ OnlyChanges [] [.start] s t

/-- R44, R465 to R484: tamper sources draw the full response or are logged; the security commands, their REASONs in order, and what they do: a transition fuses
the state, an extension, a passport; debug; boundary scan; the measurement window. -/
def Obligations.Security : Prop :=
  (∀ s, s.power.unpowered = false → s.lc ≠ 2 →
    Completes .refclkFail s fun t =>
      t.get .timebase TIMEBASE.TB_STATUS_ST_VALID = 0 ∧ ClocksAre false s t ∧ Raised .timebase 3 s t ∧ TamperCounted 3 s t ∧
      (∀ o, t.cond o = if s.cond o = Cond.inert.code then Cond.inert.code else Cond.muted.code) ∧ ∀ g ∈ s.openGroups, (t.group g).open' = false) ∧
  (∀ s, awake s → s.lc = 2 → Completes .refclkFail s fun t => FullResponse 3 [] s t ∧ NvmKept 0 16 s t) ∧
  (∀ s, s.power.unpowered = false → s.lc ≠ 2 → Completes .supplyGlitch s fun t => TamperCounted 2 s t ∧ LogFrame [] s t) ∧
  (∀ s, awake s → s.lc = 2 → Completes .supplyGlitch s fun t => FullResponse 2 [] s t ∧ NvmKept 0 16 s t) ∧
  (∀ (x : BitVec 16) s, s.start.phase = .due → s.start.tempHeld = false → x.toInt < -100 ∨ 1000 < x.toInt →
    Completes (.tempAtReset x) s fun t => TamperCounted 4 s t ∧ t.start = { s.start with tempHeld := true } ∧ LogFrame [.start] s t) ∧
  (∀ (x : BitVec 16) s, -100 ≤ x.toInt → x.toInt ≤ 1000 → Completes (.tempAtReset x) s fun t => t = s) ∧
  (∀ s, awake s → Completes .meshBreach s fun t =>
    FullResponse 1 [] s t ∧ t.word .misc 3 = 0 ∧ NvmKept 0 4 s t ∧ NvmKept 5 16 s t ∧ ∀ a, nvmAddr 4 0 ≤ a → a < nvmAddr 5 0 → t.byte a = 0) ∧
  (∀ s, s.power.unpowered = false → s.power.cause ≠ none → Completes .meshBreach s fun t =>
    t.word .misc 4 = 1 ∧ t.get .security SECURITY.TAMPER_COUNT_COUNT = satInc 32 (s.get .security SECURITY.TAMPER_COUNT_COUNT) % 2 ^ 32 ∧
    t.get .security SECURITY.TAMPER_LAST_SOURCE = 1 ∧ t.get .security SECURITY.TAMPER_LAST_FULL = 1 ∧ NvmKept 0 16 s t) ∧
  (∀ (fn : FuncId) s, fn.val ≠ 0 → Completes (.lifeCycle fn) s (· = s) ∧ Completes (.scrap fn) s (· = s) ∧ Completes (.extend fn) s (· = s) ∧
    Completes (.passport fn) s (· = s)) ∧
  (∀ s, s.get .security SECURITY.CMD_STATUS_BUSY = 0 → Completes (.lifeCycle 0) s (Begins (.transition (s.bytes (s.srcAddr + 0x89) 1)
    (if s.srcRange = false then 0xC else if s.atRest = false then 9 else (s.tokenReason s.srcAddr 4).getD 0)) s)) ∧
  (∀ s, s.get .security SECURITY.CMD_STATUS_BUSY = 1 → s.srcRange = true → (∀ r, s.start.security ≠ some (.passport r)) →
    Completes (.lifeCycle 0) s fun t => t.get .security SECURITY.CMD_STATUS_REASON = 1 ∧ Raised .security 1 s t ∧
      OnlyChanges ((.security, SECURITY.CMD_STATUS_REASON) :: faultRegs .security) [.out] s t) ∧
  (∀ s r, s.get .security SECURITY.CMD_STATUS_BUSY = 1 → s.srcRange = true → s.start.security = some (.passport r) →
    Completes (.lifeCycle 0) s fun t => t.get .security SECURITY.CMD_STATUS_REASON = 1 ∧
      t.get .security ALL.FAULT_BITS = (s.get .security ALL.FAULT_BITS ||| 6) % 2 ^ 32) ∧
  (∀ (s : State) a kind, s.payloadLen a = 112 → s.bytes (a + 0x8A) 6 = 0 →
    (kind = 4 ∧ s.bytes (a + 0x88) 1 = 0 ∧ s.bytes (a + 0x89) 1 = 1) ∨ s.bytes (a + 0xB0) 64 = 0 →
    s.tokenReason a kind = if s.imageReason a kind ≠ none then s.imageReason a kind else if s.bytes (a + 0x90) 32 ≠ s.nonce then some 6
      else if s.bytes (a + 0x88) 1 ≠ s.lc ∨ (kind = 4 ∧ (s.bytes (a + 0x88) 1, s.bytes (a + 0x89) 1) ∉ transitions) ∨
        (kind ≠ 4 ∧ s.bytes (a + 0x89) 1 ≠ s.lc) then some 7
      else if s.bytes (a + 0x80) 8 ≠ s.fuseSerial then some 8 else none) ∧
  (∀ s, s.lc ≠ 0 → Completes (.scrap 0) s (· = s)) ∧
  (∀ s, s.lc = 0 → s.get .security SECURITY.CMD_STATUS_BUSY = 0 →
    Completes (.scrap 0) s (Begins (.transition 4 (if s.atRest = true then 0 else 9)) s)) ∧
  (∀ s, s.get .security SECURITY.CMD_STATUS_BUSY = 0 →
    Completes (.extend 0) s (Begins (.extend (if s.srcRange = true ∧ 8 ≤ s.get .security SECURITY.EXT_SEL_REG then 0 else 0xC)) s)) ∧
  (∀ s, s.get .security SECURITY.CMD_STATUS_BUSY = 0 →
    Completes (.passport 0) s (Begins (.passport (if onHost s.dstAddr = true ∨ hbmRange s.dstAddr passportLen = true then
      if s.get .security SECURITY.SSTATUS_ID_VALID = 1 then 0 else 0xA else 0xC)) s)) ∧
  (∀ s d, s.start.security = some (.transition d 0) → awake s → 1 ≤ d → d ≤ 4 → Completes .securityCmdDone s fun t =>
    ClearedBut (keptFields ++ alwaysOnFields) [] s t ∧ t.start.fromRom = true ∧ t.word .fuses 34 = d ∧
    t.power.records = s.power.records ++ [⟨5, s.get .chip CHIP.BOOT_COUNT_COUNT, s.st, [s.lc, d]⟩] ∧
    (∀ i, i < 2 ^ 44 → i ≠ 34 → (d = 1 → i < 18 ∨ 34 ≤ i) → t.word .fuses i = s.word .fuses i) ∧
    (d = 1 → ∀ i, i < 16 → t.word .fuses (18 + i) = s.bytes (s.srcAddr + 0xB0 + 4 * i) 4) ∧
    NvmKept 1 3 s t ∧ NvmKept 5 16 s t ∧ (d ≤ 2 → NvmKept 0 16 s t) ∧
    (3 ≤ d → t.word .misc 3 = 0 ∧ ∀ a, nvmAddr 4 0 ≤ a → a < nvmAddr 5 0 → t.byte a = 0) ∧
    (d = 3 → NvmKept 0 1 s t ∧ (s.bytes (nvmAddr 3 0x14) 2 ≠ 1 → NvmKept 3 4 s t)) ∧
    (d = 4 ∨ (d = 3 ∧ s.bytes (nvmAddr 3 0x14) 2 = 1) → ∀ a, nvmAddr 3 0 ≤ a → a < nvmAddr 4 0 → t.byte a = 0) ∧
    (d = 4 → ∀ a, nvmAddr 0 0 ≤ a → a < nvmAddr 1 0 → t.byte a = 0)) ∧
  (∀ s d r, s.start.security = some (.transition d r) → r ≠ 0 →
    Completes .securityCmdDone s fun t => Ends r s t ∧ OnlyPagesChange [.security] [.start, .out] s t) ∧
  (∀ s, s.start.security = some (.extend 0) → s.get .security SECURITY.EXT_SEL_REG < 16 →
    Completes .securityCmdDone s fun t => Ends 0 s t ∧ Extended (s.get .security SECURITY.EXT_SEL_REG) (s.byteList s.srcAddr s.srcLen)
      (s.pair .security SECURITY.EXT_CTX_LO SECURITY.EXT_CTX_HI) s t ∧ OnlyPagesChange [.security] [.start, .tbl] s t) ∧
  (∀ s r, s.start.security = some (.extend r) → r ≠ 0 →
    Completes .securityCmdDone s fun t => Ends r s t ∧ OnlyPagesChange [.security] [.start, .out] s t) ∧
  (∀ s, s.start.security = none → Completes .securityCmdDone s (· = s) ∧ Completes .passportDone s (· = s)) ∧
  (∀ s, s.start.security = some (.passport 0) → onHost s.dstAddr = true →
    Completes .passportDone s fun t => Ends 0 s t ∧
      t.out = s.out ++ [.hostWrite 0 (s.dstAddr % 2 ^ 63) (s.passportBody ++ (Config.passportSignature s.privateKey s.passportBody).take 49856)] ∧
      OnlyPagesChange [.security] [.start, .out] s t) ∧
  (∀ s, s.start.security = some (.passport 0) → s.dstAddr + passportLen ≤ hbmEnd → s.get .hbm HBM.STATUS_WIPING = 0 →
    Completes .passportDone s fun t => Ends 0 s t ∧ (∀ i, i < 0x4C0 → t.byte (s.dstAddr + i) = s.passportBody.getD i 0) ∧
      BytesKept s.dstAddr passportLen s t ∧ OnlyPagesChange [.security] [.start, .mem, .tbl] s t) ∧
  (∀ s r, s.start.security = some (.passport r) → r ≠ 0 →
    Completes .passportDone s fun t => Ends r s t ∧ OnlyPagesChange [.security] [.start, .out] s t) ∧
  (∀ s : State, s.passportBody.length = 0x4C0 ∧ s.passportBody.take 4 = [0x50, 0x41, 0x53, 0x53] ∧
    ∀ i, i < 16 → (s.passportBody.drop (0xC0 + 64 * i)).take 64 =
      leBytes (if Nat.testBit (s.get .security SECURITY.PP_CTRL_MASK) i = true then s.measurement i else 0) 64) ∧
  (∀ token s, s.lc = 2 → awake s → token.length ≤ 2 ^ 32 → Completes (.debugUnlock token) s fun t => FullResponse 5 [] s t ∧ NvmKept 0 16 s t) ∧
  (∀ token s, s.lc ≠ 2 → s.lc = 4 ∨ s.get .security SECURITY.DEBUG_FAILS_COUNT = 3 → token.length ≤ 2 ^ 32 →
    Completes (.debugUnlock token) s fun t => BytesKept tokenStore (2 ^ 32) s t ∧ WordsKept s t ∧ OnlyChanges [] [.mem, .tbl] s t) ∧
  (∀ token s, awake s → s.lc ≠ 2 → s.lc ≠ 4 → s.get .security SECURITY.DEBUG_FAILS_COUNT ≠ 3 → token.length ≤ 2 ^ 32 →
    Completes (.debugUnlock token) s fun t =>
      ((withToken token s).tokenReason tokenStore 5 = none → DebugOpened s t) ∧
      ((withToken token s).tokenReason tokenStore 5 ≠ none →
        FullResponse 5 [(.security, SECURITY.DEBUG_FAILS_COUNT)] s t ∧ NvmKept 0 16 s t ∧
        t.get .security SECURITY.DEBUG_FAILS_COUNT = satInc 2 (s.get .security SECURITY.DEBUG_FAILS_COUNT) % 2 ^ 2)) ∧
  (∀ s, Completes .bypass s (ScanIs .bypass false s) ∧ Completes .samplePreload s (ScanIs .samplePreload false s) ∧
    Completes .idcode s fun t => t.start = { s.start with scan := .idcode, scanActs := false } ∧ t.rdata = (Config.idcode 0x1024).toNat ∧
      OnlyChanges [] [.start, .rdata] s t) ∧
  (∀ s, s.start.resetLow = true → Completes .extest s (ScanIs .extest true s) ∧ Completes .clampInstr s (ScanIs .clamp true s) ∧
    Completes .highz s (ScanIs .highz true s) ∧ Completes .extestPulse s (ScanIs .extestPulse true s) ∧
    Completes .extestTrain s (ScanIs .extestTrain true s)) ∧
  (∀ s, s.start.resetLow = false → Completes .extest s (ScanIs .bypass false s) ∧ Completes .clampInstr s (ScanIs .bypass false s) ∧
    Completes .highz s (ScanIs .bypass false s) ∧ Completes .extestPulse s (ScanIs .bypass false s) ∧
    Completes .extestTrain s (ScanIs .bypass false s)) ∧
  (∀ (fn : FuncId) s, fn.val ≠ 0 → Completes (.mData fn) s fun t => t.rdata = 0 ∧ OnlyChanges [] [.rdata] s t) ∧
  (∀ s, Completes (.mData 0) s fun t =>
    t.rdata = s.word .measurements (16 * s.get .security SECURITY.M_SEL_REG + s.get .security SECURITY.M_SEL_WORD) ∧
    (s.get .security SECURITY.M_SEL_WORD < 16 → t.get .security SECURITY.M_SEL_WORD =
      if s.get .security SECURITY.M_SEL_AUTOINC = 1 then (s.get .security SECURITY.M_SEL_WORD + 1) % 16 else s.get .security SECURITY.M_SEL_WORD) ∧
    OnlyChanges [(.security, SECURITY.M_SEL_WORD)] [.rdata] s t)

/-- A chip reset: a start from the boot ROM is due; NVM, OTP, the keepers and the always-on record survive (R485). -/
def ChipReset (s t : State) : Prop :=
  ClearedBut (keptFields ++ alwaysOnFields) [] s t ∧ NvmKept 0 16 s t ∧ t.start.fromRom = true ∧ t.power.records = s.power.records ∧
  t.power.keepers = s.power.keepers ∧ ∀ i, i < 2 ^ 44 → t.word .fuses i = s.word .fuses i ∧ t.word .faultLog i = s.word .faultLog i

/-- A start may begin: one is due, RESET_N is high, the temperature lies in its range, and a feed is good unless VBUS already is (R478, R488). -/
def mayStart (ext : BitVec 16) (goodA goodB : Bool) (s : State) : Prop :=
  s.start.phase = .due ∧ s.start.resetLow = false ∧ awake s ∧ -100 ≤ ext.toInt ∧ ext.toInt ≤ 1000 ∧
  (s.start.fromRom = true ∨ goodA = true ∨ goodB = true)

/-- The pages a start shows before firmware. -/
def romPages : List Page := [.chip, .security, .thermal, .power, .feed 0, .feed 1]

/-- Firmware of a slot has started: it is measured and named, and every page but CHIP and those of power reads STARTING (R488, R513). -/
def Booted (slot : Nat) (s t : State) : Prop :=
  t.start.phase = .firmware ∧ t.start.slot = slot ∧ t.get .chip CHIP.BOOT_STATUS_SLOT = slot ∧ t.get .chip CHIP.BOOT_STATUS_STAGE = 7 ∧
  t.get .chip CHIP.FW_VERSION_VERSION = s.bytes (slotAddr slot + 0x10) 4 ∧ t.pageIs .chip .ready = true ∧
  (∀ p ∈ chipPages ++ unitPages, p ∉ [Page.chip, .power, .feed 0, .feed 1] → t.pageIs p .starting = true) ∧
  MeasureIs 0 (s.byteList (slotAddr slot) (s.imageLen (slotAddr slot))) (Config.measureContext [1, s.epoch (slotAddr slot)]) s t

/-- A FAULT of the CHIP page and no other rises with a bit of BOOT_STATUS. -/
def BootFlag (f : Field) (i : Nat) (s t : State) : Prop := t.get .chip f = 1 ∧ Raised .chip i s t

/-- The registers of a page but its state and what a reset keeps (a guest's ownership, the spare rows in use) read their reset values, and it reads
STARTING (R309, R486). -/
def PageReset (p : Page) (s t : State) : Prop :=
  t.pageIs p .starting = true ∧ (∀ f ∈ keptOfPage p, t.get p f = s.get p f % 2 ^ f.width) ∧
  ∀ f, f.off < 4096 → f.lo < 32 → regKey p f ≠ regKey p ALL.PAGE_STATE_STATE → (∀ g ∈ keptOfPage p, regKey p f ≠ regKey p g) → t.get p f = f.reset

/-- A block is up with the standard microcode image (R155, R488). -/
def StandardLoaded (k : Nat) (s t : State) : Prop :=
  t.get (blockPage k) BLOCK.UC_INFO_STD = 1 ∧ ∀ i, i < 0x8000 → t.byte (csAddr k 0 + i) = s.byte (nvmAddr 0 0x80 + i)

/-- The pages of a unit after a reset's bring-up: those whose retest fails read QUARANTINED, and with none failing all read OFF (R486, R487). -/
def BroughtUp (ps : List Page) (bad : List Page) (s t : State) : Prop :=
  (∀ p ∈ ps, p ∈ s.start.retest → p ∈ bad → t.pageIs p .quarantined = true) ∧
  ((∀ p ∈ ps, p ∈ s.start.retest → p ∉ bad) → ∀ p ∈ ps, t.pageIs p .off = true)

/-- The identity after a start: valid only in PROVISIONED or FIELD with a sealed key that unseals into the strongroom; made and sealed at the first start in
PROVISIONED; erased after a mesh breach in DORMANT (R310, R473, R474, R480). Where the sealed key stands in NVM is the model's choice (log entry 87). -/
def IdentityAfter (sealOk : Bool) (s t : State) : Prop :=
  (∀ i, i < 64 → t.byte (strongAddr i) = s.sealingKey.getD i 0) ∧
  (t.get .security SECURITY.SSTATUS_ID_VALID = 1 → ∀ i, i < (Config.unseal s.sealingKey (t.byteList (nvmAddr 4 64) 4032)).length →
    t.byte (strongAddr (64 + i)) = (Config.unseal s.sealingKey (t.byteList (nvmAddr 4 64) 4032)).getD i 0) ∧
  (s.word .misc 4 = 1 → t.get .security SECURITY.SSTATUS_ID_VALID = 0 ∧ t.word .misc 3 = 0) ∧
  (s.word .misc 4 ≠ 1 → s.word .misc 3 = 1 →
    t.get .security SECURITY.SSTATUS_ID_VALID = if (s.lc = 1 ∨ s.lc = 2) ∧ sealOk = true then 1 else 0) ∧
  (s.word .misc 4 ≠ 1 → s.word .misc 3 = 0 → s.word .misc 5 = 0 → s.lc = 1 →
    t.get .security SECURITY.SSTATUS_ID_VALID = (if sealOk = true then 1 else 0) ∧ t.word .misc 3 = 1 ∧ t.word .misc 5 = 1 ∧
    (∀ i, i < 64 → t.byte (nvmAddr 4 0 + i) = (leBytes (Config.identityKey s.start.draws).toNat 64).getD i 0) ∧
    ∀ i, i < min 4032 (Config.sealUp s.sealingKey (Config.privateKey s.start.draws)).length →
      t.byte (nvmAddr 4 (64 + i)) = (Config.sealUp s.sealingKey (Config.privateKey s.start.draws)).getD i 0) ∧
  (s.word .misc 4 ≠ 1 → s.word .misc 3 = 0 → s.word .misc 5 ≠ 0 ∨ s.lc ≠ 1 → t.get .security SECURITY.SSTATUS_ID_VALID = 0)

/-- What a start leaves at READY (R45, R309, R471, R472, R488). -/
def ReadyAfterStart (dieTemp : BitVec 16) (bad : List Page) (s t : State) : Prop :=
  t.start.phase = .complete ∧ t.start.fromRom = false ∧ t.start.retest = [] ∧ t.start.calTemp = dieTemp.toInt ∧
  t.get .hbm HBM.STATUS_WIPING = 0 ∧ (∀ n, n < 8 → t.word .misc (wipeRegion n) = 0) ∧
  t.get .security SECURITY.SSTATUS_OWNER_KEY = (if s.ownerDigest ≠ 0 then 1 else 0) ∧
  t.get .security SECURITY.SSTATUS_DEBUG_OPEN = (if s.lc = 0 then 1 else 0) ∧
  (∀ i, i < 8 → t.get .security (SECURITY.NONCE_WORD i) = (Config.random (t.start.draws - 1) i).toNat) ∧
  t.power.records = [] ∧ (∀ i, i < 2 ^ 44 → t.word .lastShot i = 0) ∧
  t.st = 0 ∧ t.time.counting = true ∧ t.get .timebase TIMEBASE.TB_STATUS_LOCKED = 1 ∧ t.get .timebase TIMEBASE.TB_STATUS_ST_VALID = 1 ∧
  (∀ k, k < 64 → StandardLoaded k s t) ∧
  (∀ p ∈ chipPages, p ≠ .fabric → (∀ l : PortId, p ≠ .port l) → t.pageIs p .ready = true) ∧ t.pageIs .fabric .off = true ∧
  (∀ l : PortId, t.pageIs (.port l) .off = true) ∧ BroughtUp unitPages bad s t ∧
  t.get .nvm NVM.NSTATUS_JOURNAL_OK = 1 ∧ t.get .power POWER.PSTATUS_STATE = 2 ∧ t.get .chip CHIP.BOOT_STATUS_STAGE = 13 ∧
  t.get .thermal THERMAL.TSTATE_SOURCE = (if s.get .thermal THERMAL.TCTRL_EXT_FORCE = 1 ∧ s.lc ≠ 2 then 1 else 0) ∧
  t.word .fuses 35 = (if s.fwFloor < s.epoch (slotAddr s.start.slot) then s.epoch (slotAddr s.start.slot) else s.fwFloor)

/-- R24, R415, R465, R478, R485 to R489, R492, R513, R517, R518: the rows of a cold start, the fault log's window, and the resets of the chip, a region or a block
with what each leaves. The figures of BOOT_STATUS.STAGE at each command are the model's grouping of the rows. -/
def Obligations.StartsAndResets : Prop :=
  (∀ ext goodA goodB (x y : Trims) s, mayStart ext goodA goodB s → s.power.keepers.length = 2 →
    Completes (.coldStart ext goodA goodB x y) s fun t =>
      t.start = { s.start with phase := .rom, tempHeld := false } ∧ t.get .thermal THERMAL.TSTATE_SOURCE = 1 ∧
      t.get .chip CHIP.SERIAL_LO = s.fuseSerial % 2 ^ 32 ∧ t.get .chip CHIP.SERIAL_HI = s.fuseSerial / 2 ^ 32 % 2 ^ 32 ∧
      t.get .chip CHIP.PART_REV_STEP = s.fusePart % 2 ^ 4 ∧ t.get .chip CHIP.PART_REV_ORDER = s.fusePart / 2 ^ 8 % 2 ∧
      t.get .security SECURITY.SSTATUS_LC_STATE = s.lc % 2 ^ 3 ∧ t.get .chip CHIP.BOOT_STATUS_STAGE = 5 ∧
      t.get .chip CHIP.BOOT_COUNT_COUNT = (if 1 ≤ s.lc then satInc 32 (s.get .chip CHIP.BOOT_COUNT_COUNT) % 2 ^ 32 else s.get .chip CHIP.BOOT_COUNT_COUNT) ∧
      Extended 0 Config.bootRom (Config.measureContext []) s t ∧ (s.start.fromRom = true → t.power = s.power) ∧
      (s.start.fromRom = false → t.roleIs 0 (if goodA = true then .active else .off) = true ∧
        t.roleIs 1 (if goodA = true ∧ goodB = true then .cold else if goodB = true then .active else .off) = true ∧
        t.get .power POWER.PSTATUS_ACTIVE = (if goodA = true then 0 else 1) ∧ t.get .power POWER.PSTATUS_REDUNDANT = 0 ∧
        (goodA = true → (t.keeper 0).mirror = x) ∧ (goodB = true → (t.keeper 1).mirror = y)) ∧
      OnlyPagesChange romPages [.start, .tbl, .free, .power, .out] s t) ∧
  (∀ ext goodA goodB (x y : Trims) s, s.start.phase ≠ .due ∨ s.start.resetLow = true ∨ ext.toInt < -100 ∨ 1000 < ext.toInt →
    Completes (.coldStart ext goodA goodB x y) s (· = s)) ∧
  (∀ (gen : Fin 5) (width : BitVec 5) (mode : BitVec 2) s, s.start.phase = .rom → s.lc ≠ 4 →
    Completes (.firmwareStart gen width mode) s fun t =>
      t.get .host HOST.LINK_STATUS_DL_UP = 1 ∧ t.get .host HOST.LINK_STATUS_REFMODE = mode.toNat ∧
      t.get .host HOST.LINK_STATUS_GEN = min (gen.val + 1) (max 1 (s.get .host HOST.LINK_LIMIT_MAX_GEN)) ∧ t.get .hbm HBM.STATUS_TRAINED = 1 ∧ t.get .chip CHIP.FW_STATUS_ACTIVE = s.word .misc 2 % 2 ∧
      (s.firmwareReason (slotAddr (s.word .misc 2 % 2)) = none → Booted (s.word .misc 2 % 2) s t ∧ t.get .chip ALL.FAULT_BITS = s.get .chip ALL.FAULT_BITS) ∧
      (s.firmwareReason (slotAddr (s.word .misc 2 % 2)) ≠ none → s.firmwareReason (slotAddr (1 - s.word .misc 2 % 2)) = none →
        Booted (1 - s.word .misc 2 % 2) s t ∧ BootFlag CHIP.BOOT_STATUS_FALLBACK 1 s t) ∧
      (s.firmwareReason (slotAddr (s.word .misc 2 % 2)) ≠ none → s.firmwareReason (slotAddr (1 - s.word .misc 2 % 2)) ≠ none →
        t.start = { s.start with phase := .recovery } ∧ t.pageIs .chip .ready = true ∧ BootFlag CHIP.BOOT_STATUS_RECOVERY 3 s t ∧
        OnlyPagesChange [.chip, .host, .hbm, .nvm] [.start, .tbl, .out] s t)) ∧
  (∀ (gen : Fin 5) (width : BitVec 5) (mode : BitVec 2) s, s.start.phase ≠ .rom ∨ s.lc = 4 → Completes (.firmwareStart gen width mode) s (· = s)) ∧
  (∀ dieTemp sealOk bad s, s.start.phase = .firmware → s.start.slot ≤ 1 →
    Completes (.coldStartReady dieTemp sealOk bad) s fun t => ReadyAfterStart dieTemp bad s t ∧ IdentityAfter sealOk s t) ∧
  (∀ dieTemp sealOk bad s x, s.start.phase = .firmware → s.power.records = [x] → s.start.retest = [] → x.kind < 2 ^ 8 →
    Completes (.coldStartReady dieTemp sealOk bad) s fun t =>
      t.word .faultLog (16 * (s.word .misc 0 % 4096)) % 2 ^ 8 = x.kind ∧ t.word .faultLog (16 * (s.word .misc 0 % 4096) + 1) = x.boot % 2 ^ 32 ∧
      t.word .faultLog (16 * (s.word .misc 0 % 4096) + 2) = x.at'.toNat % 2 ^ 32 ∧ t.word .faultLog (16 * (s.word .misc 0 % 4096) + 4) = x.detail.getD 0 0 % 2 ^ 32) ∧
  (∀ dieTemp sealOk bad s, s.start.phase ≠ .firmware → Completes (.coldStartReady dieTemp sealOk bad) s (· = s)) ∧
  (∀ s, awake s → Completes (.resetN .low) s fun t => ChipReset s t ∧ t.start.resetLow = true) ∧
  (∀ s, awake s → Completes (.resetN .pcie) s (ChipReset s)) ∧
  (∀ s, s.power.cause ≠ none → Completes (.resetN .low) s fun t =>
    t.start = { s.start with resetLow := true } ∧ t.power = { s.power with exitAsked := true } ∧ OnlyChanges [] [.start, .power] s t) ∧
  (∀ s, Completes (.resetN .high) s fun t =>
    t.start = { s.start with resetLow := false, scanActs := false, scan := if s.start.scanActs = true then .bypass else s.start.scan } ∧ OnlyChanges [] [.start] s t) ∧
  (∀ s, awake s → s.get .power POWER.PSTATUS_SWITCHING = 0 → Completes (.resetCtrlChip 0) s (ChipReset s) ∧ Completes .pfFlr s (ChipReset s)) ∧
  (∀ s, s.get .power POWER.PSTATUS_SWITCHING = 1 → Completes (.resetCtrlChip 0) s (fun t => t = { s with power := { s.power with resetHeld := true } }) ∧
    Completes .pfFlr s (fun t => t = { s with power := { s.power with resetHeld := true } })) ∧
  (∀ (fn : FuncId) s, fn.val ≠ 0 → Completes (.resetCtrlChip fn) s (· = s) ∧ (∀ k, Completes (.blockRst fn k) s (· = s)) ∧
    ∀ n, Completes (.regionReset fn n) s (· = s)) ∧
  (∀ (n : RegionId) s, s.start.phase = .complete → n.val ∉ s.start.regionsInReset →
    Completes (.regionReset 0 n) s fun t =>
      t.start.regionsInReset = n.val :: s.start.regionsInReset ∧ t.word .misc (wipeRegion n.val) = 1 ∧ t.st = s.st ∧
      (∀ p ∈ pagesOfRegion n.val, t.pageIs p .starting = true) ∧
      (∀ p ∈ [regionPage n.val, decPage n.val, acqPage n.val, porterPage n.val], PageReset p s t) ∧ (∀ q : Fin 4, PageReset (rxPage (4 * n.val + q.val)) s t) ∧
      (∀ e, regionOf e = n.val → e < 1024 → t.engStopped e = true) ∧
      (∀ k, k < 128 → t.tone (128 * n.val + k) = Tone.init ∧ t.tone (1024 + 128 * n.val + k) = Tone.init ∧ t.tone (2048 + 128 * n.val + k) = Tone.init) ∧
      (∀ a, ctxAddr n.val 0 ≤ a → a < ctxAddr (n.val + 1) 0 → t.byte a = 0) ∧
      (s.tend.pending = [] → ∀ a, bankAddr (8 * n.val) 0 ≤ a → a < bankAddr (8 * n.val + 8) 0 → t.byte a = 0)) ∧
  (∀ (n : RegionId) s, s.start.phase ≠ .complete ∨ n.val ∈ s.start.regionsInReset → Completes (.regionReset 0 n) s (· = s)) ∧
  (∀ (k : BlockId) s, s.start.phase = .complete → k.val ∉ s.start.blocksInReset → k.val / 8 ∉ s.start.regionsInReset →
    Completes (.blockRst 0 k) s fun t =>
      t.start.blocksInReset = k.val :: s.start.blocksInReset ∧ t.word .misc (wipeBlock k.val) = 1 ∧ t.st = s.st ∧
      (∀ p ∈ pagesOfBlock k.val, PageReset p s t) ∧
      (∀ e ∈ enginesOfBlock k.val, t.get (cellPage e) ALL.GUEST_OWNER_GUEST = s.get (cellPage e) ALL.GUEST_OWNER_GUEST % 2 ^ ALL.GUEST_OWNER_GUEST.width ∧
        t.eng e = Engine.init ∧ ∀ g, g < 256 → s.groupOf e = g → (t.group g).stopped = true ∧ (t.group g).open' = false) ∧
      (∀ i, (t.tone i).f = (s.tone i).f ∧ (t.tone i).p = (s.tone i).p) ∧ (∀ i, i < 16 → (t.tone (16 * k.val + i)).pulse = none) ∧
      ∀ a, bankAddr k.val 0 ≤ a → a < bankAddr (k.val + 1) 0 → t.byte a = 0) ∧
  (∀ (k : BlockId) s, s.start.phase ≠ .complete ∨ k.val ∈ s.start.blocksInReset ∨ k.val / 8 ∈ s.start.regionsInReset →
    Completes (.blockRst 0 k) s (· = s)) ∧
  (∀ (n : RegionId) bad s, n.val ∈ s.start.regionsInReset →
    Completes (.regionResetDone n bad) s fun t =>
      n.val ∉ t.start.regionsInReset ∧ t.word .misc (wipeRegion n.val) = 0 ∧ BroughtUp (pagesOfRegion n.val) bad s t ∧
      (∀ b, b < 8 → StandardLoaded (8 * n.val + b) s t ∧ t.word .misc (wipeBlock (8 * n.val + b)) = 0) ∧
      t.time = { s.time with lockLost := s.time.lockLost.filter (· ≠ n.val) } ∧
      t.get .timebase TIMEBASE.TB_STATUS_LOCKED = (if s.time.clocksOff = false ∧ (∀ d ∈ s.time.lockLost, d = n.val) then 1 else 0) ∧
      (∀ f, f.off < 4096 → f.lo < 32 → regKey .timebase f ≠ regKey .timebase TIMEBASE.TB_STATUS_LOCKED → t.get .timebase f = s.get .timebase f) ∧
      OnlyPagesChange (.timebase :: .nvm :: pagesOfRegion n.val) [.mem, .tbl, .start, .out, .time] s t) ∧
  (∀ (n : RegionId) bad s, n.val ∉ s.start.regionsInReset → Completes (.regionResetDone n bad) s (· = s)) ∧
  (∀ (k : BlockId) bad s, k.val ∈ s.start.blocksInReset →
    Completes (.blockResetDone k bad) s fun t =>
      k.val ∉ t.start.blocksInReset ∧ t.word .misc (wipeBlock k.val) = 0 ∧ BroughtUp (pagesOfBlock k.val) bad s t ∧ StandardLoaded k.val s t ∧
      OnlyPagesChange (.nvm :: pagesOfBlock k.val) [.mem, .tbl, .start, .out] s t) ∧
  (∀ (k : BlockId) bad s, k.val ∉ s.start.blocksInReset → Completes (.blockResetDone k bad) s (· = s)) ∧
  (∀ (fn : FuncId) s, fn.val ≠ 0 → Completes (.logData fn) s fun t => t.rdata = 0 ∧ OnlyChanges [] [.rdata] s t) ∧
  (∀ s e w, e = s.get .nvm NVM.LOG_SEL_ENTRY → w = s.get .nvm NVM.LOG_SEL_WORD → e < 4096 → w < 16 →
    Completes (.logData 0) s fun t =>
      t.rdata = (if e < s.get .nvm NVM.LOG_COUNT_HELD then s.word .faultLog (16 * ((s.word .misc 0 + 2 ^ 32 - 1 - e) % 4096) + w) else 0) ∧
      (s.get .nvm NVM.LOG_SEL_AUTOINC = 1 → t.get .nvm NVM.LOG_SEL_WORD = (w + 1) % 16 ∧
        t.get .nvm NVM.LOG_SEL_ENTRY = if w = 15 then (e + 1) % 4096 else e) ∧
      (s.get .nvm NVM.LOG_SEL_AUTOINC = 0 → t.get .nvm NVM.LOG_SEL_WORD = w ∧ t.get .nvm NVM.LOG_SEL_ENTRY = e) ∧
      OnlyChanges [(.nvm, NVM.LOG_SEL_WORD), (.nvm, NVM.LOG_SEL_ENTRY)] [.rdata] s t)

/-- A firmware command begins (R513). -/
def FwBegins (c : FirmwareCmd) (ps : List Piece) (s t : State) : Prop :=
  t.get .chip CHIP.FW_STATUS_BUSY = 1 ∧ t.get .chip CHIP.FW_STATUS_DONE = 0 ∧ t.start = { s.start with firmware := some c } ∧
  OnlyChanges [(.chip, CHIP.FW_STATUS_BUSY), (.chip, CHIP.FW_STATUS_DONE)] (.start :: ps) s t

/-- The fields of FW_STATUS that a command's end writes. -/
def fwFields : List (Page × Field) :=
  [(.chip, CHIP.FW_STATUS_BUSY), (.chip, CHIP.FW_STATUS_DONE), (.chip, CHIP.FW_STATUS_OK), (.chip, CHIP.FW_STATUS_REASON)]

/-- A firmware command ends with a REASON, 0 for success (R470, R513). -/
def FwEnds (r : Nat) (t : State) : Prop :=
  t.get .chip CHIP.FW_STATUS_BUSY = 0 ∧ t.get .chip CHIP.FW_STATUS_DONE = 1 ∧ t.get .chip CHIP.FW_STATUS_OK = (if r = 0 then 1 else 0) ∧
  t.get .chip CHIP.FW_STATUS_REASON = r % 2 ^ 8 ∧ t.start.firmware = none

/-- A firmware slot holds the image at FW_SRC. -/
def SlotHolds (slot : Nat) (s t : State) : Prop := ∀ i, i < s.imageLen s.fwSrc → t.byte (slotAddr slot + i) = s.byte (s.fwSrc + i)

/-- The REASON a staged or recovered image earns: RANGE first (R470). -/
def sourceReason (s : State) : Option Nat := if s.fwRange = true then s.firmwareReason s.fwSrc else some 0xC

/-- R319, R470, R472, R492, R493: staging an image, recovery, the switch with its hold, its confirmation, and the return to the old image. -/
def Obligations.Firmware : Prop :=
  (∀ (fn : FuncId) s, fn.val ≠ 0 → Completes (.fwStage fn) s (· = s) ∧ Completes (.fwSwitch fn) s (· = s) ∧ Completes (.fwRecover fn) s (· = s)) ∧
  (∀ s, s.start.phase = .complete → s.get .chip CHIP.FW_STATUS_BUSY = 0 →
    Completes (.fwStage 0) s (FwBegins .stage [] s) ∧ Completes (.fwSwitch 0) s fun t => FwBegins .switch [.tbl] s t ∧ t.word .misc 1 = 1) ∧
  (∀ s, s.start.phase = .complete → s.get .chip CHIP.FW_STATUS_BUSY = 1 →
    (Completes (.fwStage 0) s fun t => t.get .chip CHIP.FW_STATUS_REASON = (if s.fwRange = true then 1 else 0xC) ∧
      OnlyChanges [(.chip, CHIP.FW_STATUS_REASON)] [] s t) ∧
    Completes (.fwSwitch 0) s fun t => t.get .chip CHIP.FW_STATUS_REASON = 1 ∧ OnlyChanges [(.chip, CHIP.FW_STATUS_REASON)] [] s t) ∧
  (∀ s, s.start.phase = .recovery → s.get .chip CHIP.FW_STATUS_BUSY = 0 → Completes (.fwRecover 0) s (FwBegins .recover [] s)) ∧
  (∀ s, s.start.phase ≠ .recovery → Completes (.fwRecover 0) s (· = s)) ∧
  (∀ s, s.start.phase ≠ .complete → Completes (.fwStage 0) s (· = s) ∧ Completes (.fwSwitch 0) s (· = s)) ∧
  (∀ s, s.start.firmware = some .stage → s.start.slot ≤ 1 →
    Completes .fwStageDone s fun t =>
      FwEnds ((sourceReason s).getD 0) t ∧ (sourceReason s = none → SlotHolds (1 - s.start.slot) s t ∧ NvmKept (1 + s.start.slot) (2 + s.start.slot) s t) ∧
      (sourceReason s ≠ none → t.mem = s.mem) ∧ OnlyChanges fwFields [.mem, .start] s t) ∧
  (∀ s, s.start.firmware = some .recover → awake s →
    Completes .fwStageDone s fun t =>
      (sourceReason s = none → ClearedBut (keptFields ++ alwaysOnFields) [] s t ∧ SlotHolds 0 s t ∧ NvmKept 2 16 s t ∧ t.word .misc 2 = 0 ∧
        t.start.fromRom = true) ∧
      ∀ r, sourceReason s = some r → FwEnds r t ∧ OnlyChanges fwFields [.start] s t) ∧
  (∀ s, s.start.firmware ≠ some .stage → s.start.firmware ≠ some .recover → Completes .fwStageDone s (· = s)) ∧
  (∀ s, s.word .misc 1 ≠ 0 → s.openGroups = [] → s.start.reverting = false →
    Completes .fwHoldReached s fun t =>
      t.word .misc 1 = 0 ∧ FwEnds ((s.firmwareReason (slotAddr (1 - s.start.slot))).getD 0) t ∧
      (s.firmwareReason (slotAddr (1 - s.start.slot)) = none → t.start.slot = 1 - s.start.slot ∧ t.start.confirming = true ∧
        t.get .chip CHIP.FW_VERSION_VERSION = s.bytes (slotAddr (1 - s.start.slot) + 0x10) 4 ∧
        MeasureIs 0 (s.byteList (slotAddr (1 - s.start.slot)) (s.imageLen (slotAddr (1 - s.start.slot))))
          (Config.measureContext [1, s.epoch (slotAddr (1 - s.start.slot))]) s t) ∧
      (s.firmwareReason (slotAddr (1 - s.start.slot)) ≠ none → t.start = { s.start with firmware := none })) ∧
  (∀ s, s.word .misc 1 ≠ 0 → s.openGroups = [] → s.start.reverting = true →
    Completes .fwHoldReached s fun t =>
      t.word .misc 1 = 0 ∧ t.start.slot = 1 - s.start.slot ∧ t.start.reverting = false ∧ t.get .chip CHIP.FW_STATUS_REVERTED = 1 ∧ Raised .chip 0 s t ∧
      t.get .chip CHIP.FW_STATUS_ACTIVE = s.get .chip CHIP.FW_STATUS_ACTIVE ∧ t.word .misc 2 = s.word .misc 2) ∧
  (∀ s, s.word .misc 1 = 0 ∨ s.openGroups ≠ [] → Completes .fwHoldReached s (· = s)) ∧
  (∀ s, s.word .misc 1 ≠ 0 → s.openGroups ≠ [] → s.start.firmware = some .switch →
    Completes .fwHoldTimeout s fun t => t.word .misc 1 = 0 ∧ FwEnds 1 t ∧ t.start = { s.start with firmware := none }) ∧
  (∀ s, s.word .misc 1 = 0 ∨ s.openGroups = [] → Completes .fwHoldTimeout s (· = s)) ∧
  (∀ s, s.start.confirming = true → s.start.slot ≤ 1 →
    Completes .fwConfirm s fun t =>
      t.word .misc 2 = s.start.slot ∧ t.get .chip CHIP.FW_STATUS_ACTIVE = s.start.slot ∧ t.start = { s.start with confirming := false } ∧
      t.word .fuses 35 = (if s.fwFloor < s.epoch (slotAddr s.start.slot) then s.epoch (slotAddr s.start.slot) else s.fwFloor) ∧
      OnlyChanges [(.chip, CHIP.FW_STATUS_ACTIVE), (.security, SECURITY.SSTATUS_FW_FLOOR)] [.start, .tbl] s t) ∧
  (∀ s, s.start.confirming = true →
    Completes .fwConfirmTimeout s fun t =>
      t.start = { s.start with confirming := false, reverting := true } ∧ t.word .misc 1 = 1 ∧ OnlyChanges [] [.start, .tbl] s t) ∧
  (∀ s, s.start.confirming = false → Completes .fwConfirm s (· = s) ∧ Completes .fwConfirmTimeout s (· = s))

/-- ENABLE and STATE of a page. -/
def headFields (p : Page) : List (Page × Field) := [(p, ALL.PAGE_CTRL_ENABLE), (p, ALL.PAGE_STATE_STATE)]

/-- Of the blocks' own state only the note of the cell whose ENABLE write a pace-mode change waits for may change, with a write to that cell's page: it names
the cell whose write leaves a change waiting where none waited, and no cell once none waits (R145). -/
def PaceNoted (p : Page) (s t : State) : Prop :=
  ((∀ e, p ≠ .cell e) → t.blks = s.blks) ∧
  ∀ e : EngineId, p = .cell e →
    (∀ k, t.blk k = { s.blk k with paceCell := (t.blk k).paceCell } ∧ (k ≠ blockOf e → t.blk k = s.blk k)) ∧
    (t.blk (blockOf e)).paceCell = if t.pacePending (blockOf e) = false then none
      else if s.pacePending (blockOf e) = true then (s.blk (blockOf e)).paceCell else some (cellOf e)

/-- An OFF page that a page encloses and whose ENABLE bit is set comes back with it; no other page does (R505). -/
def BroughtBack (p : Page) (s t : State) : Prop :=
  (∀ q ∈ enclosed p, s.pageIs q .off = true → s.get q ALL.PAGE_CTRL_ENABLE = 1 → t.pageIs q .starting = true) ∧
  OnlyChanges (headFields p ++ (enclosed p).map fun q => (q, ALL.PAGE_STATE_STATE)) [.blks] s t ∧
  ∀ q ∈ enclosed p, s.pageIs q .off = false ∨ s.get q ALL.PAGE_CTRL_ENABLE ≠ 1 → t.get q ALL.PAGE_STATE_STATE = s.get q ALL.PAGE_STATE_STATE

/-- A page drains with every page it encloses that is not OFF (R446, R505). -/
def Drains (p : Page) (s t : State) : Prop :=
  t.pageIs p .draining = true ∧ ∀ q ∈ enclosed p, s.pageIs q .starting = true ∨ s.pageIs q .ready = true → t.pageIs q .draining = true

/-- What a drain ends on a page of its own (R446). -/
def DrainEnds (t : State) : Page → Prop
  | .cell e => t.engStopped e.val = true ∧ (t.eng e.val).tending = false
  | .drive d => t.cond (.drive d) = Cond.inert.code
  | .flux f => t.cond (.flux f) = Cond.inert.code
  | .transceiver q => t.cond (.probe q) = Cond.inert.code
  | .acquisition n => t.markerCond (2 * n.val) = Cond.inert.code ∧ t.markerCond (2 * n.val + 1) = Cond.inert.code
  | _ => True

/-- An RWL register of a CELL page is open to a function, or it is reached and closed (R9, R35). -/
def openTo (fn : FuncId) (e : EngineId) (s : State) : Prop := s.reachesPage fn (.cell e) = true ∧ s.cellOpen e = true
def closedTo (fn : FuncId) (e : EngineId) (s : State) : Prop := s.reachesPage fn (.cell e) = true ∧ s.cellOpen e = false

/-- The write is ignored and sets a FAULT bit of the page, and no more where FAULT_STOP_EN draws no stop (R9, R509). -/
def Barred (p : Page) (i : Nat) (s t : State) : Prop := Raised p i s t ∧ (s.stopsOn p i = false → OnlyPagesChange [p] [.out] s t)

/-- R22, R25, R30 to R35, R99, R131, R145, R330, R443, R446, R504 to R508, R510: ENABLE and the page states, drains, QUIESCE_REQ, FAULT, the route words and the
time registers of an engine. That ENABLE = 0 in STARTING drains the page at PAGE_STARTED is the model's reading. -/
def Obligations.Pages : Prop :=
  (∀ fn p s, s.reachesPage fn p = true → hasEnable p = true → (onUnit p = true → 2 ≤ s.get .power POWER.PSTATUS_STATE) →
    (∀ q ∈ p :: enclosers p, s.pageIs q .quarantined = false) → s.pageIs p .off = true →
    Completes (.pageEnable fn p) s fun t => t.get p ALL.PAGE_CTRL_ENABLE = 1 ∧ t.pageIs p .starting = true ∧ BroughtBack p s t ∧ PaceNoted p s t) ∧
  (∀ fn p s, s.reachesPage fn p = true → hasEnable p = true → (onUnit p = true → 2 ≤ s.get .power POWER.PSTATUS_STATE) →
    (∀ q ∈ p :: enclosers p, s.pageIs q .quarantined = false) → s.pageIs p .draining = true →
    Completes (.pageEnable fn p) s fun t =>
      t.get p ALL.PAGE_CTRL_ENABLE = 1 ∧ PaceNoted p s t ∧ OnlyChanges [(p, ALL.PAGE_CTRL_ENABLE)] [.blks] s t) ∧
  (∀ fn p s, hasEnable p = true → s.pageIs p .starting = true ∨ s.pageIs p .ready = true ∨ (∃ q ∈ enclosers p, s.pageIs q .quarantined = true) ∨
      (onUnit p = true ∧ s.get .power POWER.PSTATUS_STATE < 2) → Completes (.pageEnable fn p) s (· = s)) ∧
  (∀ fn p s, s.reachesPage fn p = true → hasEnable p = false →
    (Completes (.pageEnable fn p) s fun t => t.get p ALL.PAGE_CTRL_ENABLE = 1 ∧ OnlyChanges [(p, ALL.PAGE_CTRL_ENABLE)] [] s t) ∧
    Completes (.pageDisable fn p) s fun t => t.get p ALL.PAGE_CTRL_ENABLE = 0 ∧ OnlyChanges [(p, ALL.PAGE_CTRL_ENABLE)] [] s t) ∧
  (∀ fn p v s, s.reachesPage fn p = false →
    Completes (.pageEnable fn p) s (· = s) ∧ Completes (.pageDisable fn p) s (· = s) ∧ Completes (.faultWrite fn p v) s (· = s)) ∧
  (∀ fn p s, s.reachesPage fn p = true → hasEnable p = true → (onUnit p = true → 2 ≤ s.get .power POWER.PSTATUS_STATE) → s.pageIs p .ready = true →
    Completes (.pageDisable fn p) s fun t => t.get p ALL.PAGE_CTRL_ENABLE = 0 ∧ Drains p s t ∧ DrainEnds t p) ∧
  (∀ fn p s, s.reachesPage fn p = true → hasEnable p = true → (onUnit p = true → 2 ≤ s.get .power POWER.PSTATUS_STATE) → s.pageIs p .ready = false →
    Completes (.pageDisable fn p) s fun t =>
      t.get p ALL.PAGE_CTRL_ENABLE = 0 ∧ PaceNoted p s t ∧ OnlyChanges [(p, ALL.PAGE_CTRL_ENABLE)] [.blks] s t) ∧
  (∀ p s, hasEnable p = true → s.pageIs p .starting = true → s.pageInReset p = false → s.start.phase = .complete →
    s.get p ALL.PAGE_CTRL_ENABLE ≠ 0 → (∀ q ∈ enclosers p, s.pageIs q .ready = true) → (∀ q, p ≠ .port q) →
    (∀ e, p = .cell e → s.paceHoldsCell e.val = false ∧ s.get p CELL.STATUS_START_PENDING = 0) →
    Completes (.pageStarted p) s fun t => t.pageIs p .ready = true ∧ OnlyChanges [(p, ALL.PAGE_STATE_STATE)] [] s t) ∧
  (∀ (q : PortId) s, s.pageIs (.port q) .starting = true → s.start.phase = .complete → s.get (.port q) ALL.PAGE_CTRL_ENABLE ≠ 0 →
    Completes (.pageStarted (.port q)) s fun t => t.pageIs (.port q) .ready = true) ∧
  (∀ p s, hasEnable p = true → s.pageIs p .starting = true → s.pageInReset p = false → s.start.phase = .complete →
    s.get p ALL.PAGE_CTRL_ENABLE = 0 → Completes (.pageStarted p) s fun t => Drains p s t ∧ DrainEnds t p) ∧
  (∀ p s, s.pageIs p .starting = false ∨ s.pageInReset p = true ∨ (s.get p ALL.PAGE_CTRL_ENABLE = 1 ∧ ∃ q ∈ enclosers p, s.pageIs q .ready = false) ∨
      (s.get p ALL.PAGE_CTRL_ENABLE = 1 ∧ ∃ e, p = .cell e ∧ s.paceHoldsCell e.val = true) →
    Completes (.pageStarted p) s (· = s)) ∧
  (∀ p s, s.pageIs p .draining = true → (∀ q ∈ enclosed p, s.pageIs q .draining = false) → s.get p ALL.PAGE_CTRL_ENABLE = 0 →
    Completes (.pageDrained p) s fun t => t.pageIs p .off = true ∧ OnlyChanges [(p, ALL.PAGE_STATE_STATE)] [] s t) ∧
  (∀ p s, s.pageIs p .draining = true → (∀ q ∈ enclosed p, s.pageIs q .draining = false) → s.get p ALL.PAGE_CTRL_ENABLE = 1 →
    (∀ q ∈ enclosers p, s.pageIs q .off = false ∧ s.pageIs q .draining = false) →
    Completes (.pageDrained p) s fun t => t.pageIs p .starting = true ∧ BroughtBack p s t ∧ t.blks = s.blks) ∧
  (∀ p s, s.pageIs p .draining = false ∨ (∃ q ∈ enclosed p, s.pageIs q .draining = true) → Completes (.pageDrained p) s (· = s)) ∧
  (∀ p s, Completes (.quiesceReq p true) s fun t =>
    t.get p ALL.PAGE_CTRL_QUIESCE_REQ = 1 ∧ (∀ e ∈ enginesOn p, t.get (cellPage e) CELL.STATUS_START_PENDING = 0) ∧
    OnlyChanges ((p, ALL.PAGE_CTRL_QUIESCE_REQ) :: (enginesOn p).map fun e => (cellPage e, CELL.STATUS_START_PENDING)) [] s t) ∧
  (∀ p s, Completes (.quiesceReq p false) s fun t =>
    t.get p ALL.PAGE_CTRL_QUIESCE_REQ = 0 ∧ OnlyChanges [(p, ALL.PAGE_CTRL_QUIESCE_REQ)] [] s t) ∧
  (∀ fn p (v : Word) s, s.reachesPage fn p = true →
    Completes (.faultWrite fn p v) s fun t =>
      (∀ i, i < 32 → Nat.testBit (t.get p ALL.FAULT_BITS) i = (Nat.testBit (s.get p ALL.FAULT_BITS) i && !v.getLsbD i)) ∧
      t.get p ALL.FAULT_FIRST_VALID = (if t.get p ALL.FAULT_BITS = 0 then 0 else s.get p ALL.FAULT_FIRST_VALID) ∧
      OnlyChanges [(p, ALL.FAULT_BITS), (p, ALL.FAULT_FIRST_VALID)] [] s t) ∧
  (∀ fn (e : EngineId) (v : Word) s k c, k = blockPage (blockOf e.val) → c = cellOf e.val → s.reachesRoute fn e.val = true →
    s.pageIs k .off = true ∨ s.engStopped e.val = true → (run (putRoute (.cell e) v) s).toneClash e.val = false →
    Completes (.routeWrite fn (.cell e) v) s fun t =>
      t.get k (BLOCK.CELL_ROUTE_SLOT c) = v.toNat % 8 ∧ t.get k (BLOCK.CELL_ROUTE_J c) = v.toNat / 8 % 2 ∧
      t.get k (BLOCK.CELL_ROUTE_FLUX_DENY c) = v.toNat / 16 % 4 ∧ t.get k (BLOCK.CELL_ROUTE_NONE c) = v.toNat / 2 ^ 30 % 2 ∧
      t.get k (BLOCK.CELL_ROUTE_EN c) = v.toNat / 2 ^ 31 ∧
      OnlyChanges [(k, BLOCK.CELL_ROUTE_SLOT c), (k, BLOCK.CELL_ROUTE_J c), (k, BLOCK.CELL_ROUTE_FLUX_DENY c), (k, BLOCK.CELL_ROUTE_NONE c),
        (k, BLOCK.CELL_ROUTE_EN c)] [] s t) ∧
  (∀ fn (e : EngineId) (v : Word) s n i, n = regionPage (regionOf e.val) → i = e.val % 128 → s.reachesRoute fn e.val = true →
    s.pageIs n .off = true ∨ s.engStopped e.val = true → (run (putRoute (.read e) v) s).toneClash e.val = false →
    Completes (.routeWrite fn (.read e) v) s fun t =>
      t.get n (REGION.READ_ROUTE_SLOT i) = v.toNat % 32 ∧ t.get n (REGION.READ_ROUTE_FEED i) = v.toNat / 32 % 4 ∧
      t.get n (REGION.READ_ROUTE_NONE i) = v.toNat / 2 ^ 30 % 2 ∧ t.get n (REGION.READ_ROUTE_EN i) = v.toNat / 2 ^ 31 ∧
      OnlyChanges [(n, REGION.READ_ROUTE_SLOT i), (n, REGION.READ_ROUTE_FEED i), (n, REGION.READ_ROUTE_NONE i), (n, REGION.READ_ROUTE_EN i)] [] s t) ∧
  (∀ fn r (v : Word) s, s.reachesRoute fn (routeEngine r) = true → s.pageIs (routePage r) .off = false → s.engStopped (routeEngine r) = false →
    Completes (.routeWrite fn r v) s (Barred (routePage r) 8 s)) ∧
  (∀ fn r (v : Word) s, s.reachesRoute fn (routeEngine r) = true → s.pageIs (routePage r) .off = true ∨ s.engStopped (routeEngine r) = true →
    (run (putRoute r v) s).toneClash (routeEngine r) = true → Completes (.routeWrite fn r v) s (Barred (routePage r) 15 s)) ∧
  (∀ fn r (v : Word) s, s.reachesRoute fn (routeEngine r) = false → Completes (.routeWrite fn r v) s (· = s)) ∧
  (∀ fn e (v : Word) s, openTo fn e s → s.markClash e v.toNat = false →
    Completes (.markRouteWrite fn e v) s fun t => t.get (.cell e) CELL.MARK_ROUTE_OWN = v.toNat % 2 ^ 16 ∧ OnlyChanges [(.cell e, CELL.MARK_ROUTE_OWN)] [] s t) ∧
  (∀ fn e (v : Word) s, openTo fn e s → s.markClash e v.toNat = true → Completes (.markRouteWrite fn e v) s (Barred (.cell e) 15 s)) ∧
  (∀ fn e (i : Fin 4) (v : Word) s, closedTo fn e s → Completes (.markRouteWrite fn e v) s (Barred (.cell e) 8 s) ∧
    Completes (.tLoWrite fn e i v) s (Barred (.cell e) 8 s) ∧ Completes (.tHiWrite fn e i v) s (Barred (.cell e) 8 s)) ∧
  (∀ fn e (i : Fin 4) (v : Word) s, openTo fn e s →
    Completes (.tLoWrite fn e i v) s fun t => t.eng e = { s.eng e with stagedLow := (s.eng e).stagedLow.set i (some v) } ∧
      (∀ j, j ≠ e.val → t.eng j = s.eng j) ∧ OnlyChanges [] [.engs] s t) ∧
  (∀ fn e (i : Fin 4) (v : Word) s low, openTo fn e s → s.get (.cell e) (CELL.T_LO i) < 2 ^ 32 →
    low = (match (s.eng e).stagedLow.getD i none with | some w => w.toNat | none => s.get (.cell e) (CELL.T_LO i)) →
    Completes (.tHiWrite fn e i v) s fun t =>
      t.get (.cell e) (CELL.T_LO i) = low ∧ t.get (.cell e) (CELL.T_HI i) = v.toNat ∧
      t.eng e = { s.eng e with stagedLow := (s.eng e).stagedLow.set i none } ∧ (∀ j, j ≠ e.val → t.eng j = s.eng j) ∧
      OnlyChanges [(.cell e, CELL.T_LO i), (.cell e, CELL.T_HI i)] [.engs] s t) ∧
  (∀ fn e (i : Fin 4) (v : Word) s, s.reachesPage fn (.cell e) = false → Completes (.markRouteWrite fn e v) s (· = s) ∧
    Completes (.tLoWrite fn e i v) s (· = s) ∧ Completes (.tHiWrite fn e i v) s (· = s))

/-- The BAR0 offset of a register of a page. -/
def barOf (p : Page) (off : Nat) : BarOffset := BitVec.ofNat 25 (pageBase p + off)

/-- Pages of which a guest sees nothing (R402, R406, R409, R447, R464, R484). -/
def hiddenFromGuests : Page → Prop
  | .chip | .timebase | .guests | .power | .feed _ | .thermal | .security | .fabric | .port _ | .hbm | .nvm | .decision _ | .porter _ => True
  | _ => False

/-- A function neither reads nor writes a register: it reads 0x0 and its write changes nothing (R406). -/
def Unseen (fn : FuncId) (x : BarOffset) (s : State) : Prop := s.hostRead fn x = 0 ∧ ∀ v, Completes (.registerWrite fn x v) s (· = s)

/-- A page the physical function's own BAR0 shows, out of recovery (R502, R521). -/
def shownToPf (s : State) (p : Page) : Prop := s.start.phase ≠ .recovery ∧ ∀ g, p ≠ .fence g

/-- R402: guests read the FABRIC and PORT pages as 0x0, and their writes are ignored. Beside it the address map, register writes by access code and those that are
commands, and the guests' views of the other pages. -/
def Obligations.HostAccess : Prop :=
  (∀ (fn : FuncId) (x : BarOffset) s, fn.val ≠ 0 → (pageAt fn x.toNat = some .fabric ∨ ∃ q, pageAt fn x.toNat = some (.port q)) → Unseen fn x s) ∧
  (∀ p off, (∀ g, p ≠ .fence g) → off < 4096 → pageAt 0 (pageBase p + off) = some p) ∧
  (∀ (fn : FuncId) off, off < 4096 → pageAt fn (0x2000 + off) = some (.fence fn)) ∧
  (∀ (fn : FuncId) x p, pageAt fn x = some p → p = .fence fn ∨ pageAt 0 x = some p) ∧
  (∀ (fn : FuncId) (x : BarOffset) p s, fn.val ≠ 0 → pageAt fn x.toNat = some p → hiddenFromGuests p → Unseen fn x s) ∧
  (∀ (fn : FuncId) (x : BarOffset) (g : Fin 64) s, fn.val ≠ 0 → fn.val ≠ g.val + 1 → pageAt fn x.toNat = some (.session g) → Unseen fn x s) ∧
  (∀ (fn : FuncId) (x : BarOffset) (e : EngineId) s, fn.val ≠ 0 → s.reachesCell fn e.val = false → pageAt fn x.toNat = some (.cell e) → Unseen fn x s) ∧
  (∀ (fn : FuncId) (x : BarOffset) (k : BlockId) s, fn.val ≠ 0 → s.reachesDsp fn k.val = false →
    pageAt fn x.toNat = some (.dsp k) → Unseen fn x s) ∧
  (∀ (fn : FuncId) (x : BarOffset) s, pageAt fn x.toNat = none → Unseen fn x s) ∧
  (∀ (x : BarOffset) p (s : State), s.start.phase = .recovery → pageAt 0 x.toNat = some p → p ≠ .chip → s.hostRead 0 x = 0) ∧
  (∀ (fn : FuncId) (e : EngineId) off (s : State), s.reachesCell fn e.val = true → s.start.phase ≠ .recovery → off < 0x40 →
    s.hostRead fn (barOf (.cell e) off) = s.hostRead 0 (barOf (.cell e) off)) ∧
  (∀ p s, shownToPf s p →
    s.hostRead 0 (barOf p 0) = s.get p ALL.PAGE_ID_VERSION + (pageIdent p).2 * 2 ^ 12 + (pageIdent p).1 * 2 ^ 24) ∧
  (∀ (v : Word) s, Completes (.registerWrite 0 (barOf .chip 0x60) v) s fun t =>
    t.get .chip CHIP.SCRATCH_DATA = v.toNat ∧ t.hostRead 0 (barOf .chip 0x60) = v.toNat ∧ OnlyChanges [(.chip, CHIP.SCRATCH_DATA)] [] s t) ∧
  (∀ (v : Word) s, Completes (.registerWrite 0 (barOf .chip 0x40) v) s (· = s)) ∧
  (∀ (k : BlockId) (v : Word) s, s.start.phase ≠ .recovery → Completes (.registerWrite 0 (barOf (.dsp k) 0x28) v) s fun t =>
    t.get (.dsp k) ALL.GUEST_OWNER_GUEST = (if v.toNat % 128 ≤ 64 then v.toNat % 128 else 0) ∧ OnlyChanges [(.dsp k, ALL.GUEST_OWNER_GUEST)] [] s t) ∧
  (∀ (fn : FuncId) (e : EngineId) (v : Word) s, Completes (.registerWrite fn (barOf (.cell e) 0x28) v) s (· = s)) ∧
  (∀ (e : EngineId) (v : Word) s, s.start.phase ≠ .recovery → s.cellOpen e.val = true → Completes (.registerWrite 0 (barOf (.cell e) 0x48) v) s fun t =>
    t.get (.cell e) CELL.START_PC_PC = v.toNat % 2 ^ 12 ∧ OnlyChanges [(.cell e, CELL.START_PC_PC)] [] s t) ∧
  (∀ (e : EngineId) (v : Word) s, s.start.phase ≠ .recovery → s.cellOpen e.val = false →
    Completes (.registerWrite 0 (barOf (.cell e) 0x48) v) s fun t => Raised (.cell e) 8 s t ∧
      (s.stopsOn (.cell e) 8 = false → OnlyChanges (faultRegs (.cell e)) [.out] s t)) ∧
  (∀ p (v : Word) s, shownToPf s p → exec (.registerWrite 0 (barOf p 0x0C) v) s = exec (.faultWrite 0 p v) s) ∧
  (∀ (e : EngineId) (v : Word) s, s.start.phase ≠ .recovery →
    exec (.registerWrite 0 (barOf (.cell e) 0x148) v) s = exec (.doorbell 0 e v) s ∧ exec (.registerWrite 0 (barOf (.cell e) 0x40) 1) s = exec (.start 0 e) s ∧
    exec (.registerWrite 0 (barOf (.cell e) 0x58) v) s = exec (.markRouteWrite 0 e v) s) ∧
  (∀ (v : Word) s, v.getLsbD 0 = true → exec (.registerWrite 0 (barOf .chip 0x80) v) s = exec (.resetCtrlChip 0) s) ∧
  (∀ (d : Fin 128) s, s.start.phase ≠ .recovery → exec (.registerWrite 0 (barOf (.drive d) 0x40) 7) s = exec (.outDisable (.drive d)) s)

/-- A step takes the command at the front of the queue and runs it with the queue's rest; the table gives its rows no bits, so no word spells a command. With no
command waiting the model lets a REFCLK edge pass, 200 ST where the count runs: its own choice (see the log entry on the empty queue). -/
def Obligations.StepRunsFront : Prop :=
  (∀ c rest (s : State), step { s with pending := c :: rest } = exec c { s with pending := rest }) ∧
  (∀ s, s.pending = [] → ∃ t, step s = .next t ∧ t.time.coarse = (if s.time.counting = true then s.time.coarse + 200 else s.time.coarse)) ∧
  (∀ nbits w, decodeTableWord nbits w = none) ∧ ∀ s nbits w, State.withFetchWord s nbits w = s

/-- From every state in canonical form a step answers a next state in canonical form, whose queue is the old one without its front: no command is lost, and
nothing of the device ends a run. -/
def Obligations.StepKeepsWf : Prop :=
  ∀ s, s.wf = true → ∃ t, step s = .next t ∧ t.wf = true ∧ t.pending = s.pending.tail

/-- The fields whose tables give a reset value other than 0x0, with that value (R10 and the tables of the register pages). -/
def resetTable : List (Field × Nat) := [
  (ALL.PAGE_ID_VERSION, 1), (CHIP.PART_ID_PART, 0x1024), (TIMEBASE.SLACK_GUARD_GUARD, 0x7D0), (TIMEBASE.SLACK_GUARD_HYST, 0x3E8),
  (TIMEBASE.SLACK_MIN_INTERVAL_SLACK, 0x7FFFFFFF), (TIMEBASE.VCP_STATE_VCP_FLOOR, 0x1C), (FENCE.WAIT_LIMIT_UNITS, 0x40), (HOST.LINK_LIMIT_MAX_GEN, 5),
  (HOST.LINK_LIMIT_MAX_WIDTH, 0x10), (POWER.PCTRL_TARGET, 2), (THERMAL.TSTATE_SOURCE, 1), (THERMAL.TCTRL_WARN_LEVEL, 0x5F),
  (THERMAL.TCTRL_SHED_LEVEL, 0x67), (THERMAL.TCTRL_SUB_MARGIN, 8), (PORT.SLEEP_CTRL_MIN_WIDTH, 2), (PORT.ACK_TIMEOUT_ST, 0x12C0),
  (LEDGER.DEFAULTS_MAX_ATT, 3), (LEDGER.DEFAULTS_GRID, 5), (LEDGER.REPLAY_GAP_GAP, 0x9C40), (LEDGER.PF_QUOTA_UNITS, 0x800), (WATCH.BUDGET_PCT, 0x14),
  (WATCH.CONF_MIN_CONF, 0xC8), (WATCH.DF_STEP_STEP, 0x28), (WATCH.DISC_STEP_C, 0x100), (WATCH.DISC_STEP_THETA, 8), (OUTP.OUT_GAIN_GAIN, 0x1000),
  (OUTP.JUMP_LEAD_LEAD, 0x28), (OUTP.PF_LEAD_LEAD, 0x2000), (OUTP.TONE_LEAD_LEAD_CUR 0, 0x2000), (TRANSCEIVER.CORR_GAIN_GAIN0, 0x4000),
  (TRANSCEIVER.CORR_GAIN_GAIN1, 0x4000), (CELL.TT_CTRL_LOWWATER, 8), (CELL.SLACK_MIN, 0x7FFFFFFF)]

/-- R10: every register field resets to 0x0 unless its field table gives another value, and PAGE_CTRL.ENABLE resets to 0x0 on every page. So no engine runs and every
output is INERT. -/
def Obligations.ResetState : Prop :=
  (∀ p f, State.reset.get p f = f.reset) ∧
  (∀ p, ∀ r ∈ pageRows p, r.field.reset = ((resetTable.find? fun x => x.1 = r.field).map (·.2)).getD 0) ∧
  (∀ p, State.reset.get p ALL.PAGE_CTRL_ENABLE = 0) ∧ (∀ e, State.reset.engStopped e = true) ∧
  (∀ o, State.reset.cond o = Cond.inert.code) ∧ (∀ m, State.reset.markerCond m = Cond.inert.code)

/-- The state after reset is in canonical form, and holds the values the model gives what lies outside the registers: memory reads 0x0 (R308), no engine has an
entry, a wait or a stack, no group has a shot open, ST is 0 and does not count, the start is due, and no command waits. The values of the state that no register
shows are the model's choice (see the log entry on reset values). -/
def Obligations.ResetCanonical : Prop :=
  State.reset.wf = true ∧ State.reset.pending = [] ∧ (∀ a, State.reset.byte a = 0) ∧ (∀ e, State.reset.eng e = Engine.init) ∧
  (∀ g, (State.reset.group g).open' = false) ∧ State.reset.st = 0 ∧ State.reset.time.counting = false ∧ State.reset.start.phase = .due
end

