-- ==== Sys2Proof/Laws/Store.lean ====
section
/-! SUPPORT. The laws of the sparse stores: a read after a write gives the value written, a write leaves every other number
alone, and every operation keeps the canonical form. -/

namespace Sys2Proof.Machine

variable {α : Type}

@[simp] theorem Store.get_nil (d : α) (k : Nat) : Store.get d [] k = d := rfl

theorem Store.get_drop_same (d : α) (m : Store α) (k : Nat) : Store.get d (Store.drop m k) k = d := by
  induction m with
  | nil => rfl
  | cons x m ih => obtain ⟨a, v⟩ := x; by_cases h : a = k <;> simp [Store.drop, Store.get, h, ih]

theorem Store.get_drop_ne (d : α) (m : Store α) {k j : Nat} (h : k ≠ j) : Store.get d (Store.drop m k) j = Store.get d m j := by
  induction m with
  | nil => rfl
  | cons x m ih =>
    obtain ⟨a, v⟩ := x
    by_cases ha : a = k
    · subst ha; simp [Store.drop, Store.get, h, ih]
    · by_cases hb : a = j <;> simp [Store.drop, Store.get, ha, hb, h.symm, ih]

theorem Store.get_insert_same (d v : α) (m : Store α) (k : Nat) : Store.get d (Store.insert k v m) k = v := by
  induction m with
  | nil => simp [Store.insert, Store.get]
  | cons x m ih =>
    obtain ⟨a, w⟩ := x
    unfold Store.insert
    split
    · simp [Store.get]
    · split <;> simp_all [Store.get]

theorem Store.get_insert_ne (d v : α) (m : Store α) {k j : Nat} (h : k ≠ j) :
    Store.get d (Store.insert k v m) j = Store.get d m j := by
  induction m with
  | nil => simp [Store.insert, Store.get, h]
  | cons x m ih =>
    obtain ⟨a, w⟩ := x
    unfold Store.insert
    split
    · simp [Store.get, h]
    · split
      · rename_i ha; subst ha; simp [Store.get, h]
      · by_cases hb : a = j <;> simp [Store.get, hb, ih]

/-- A read after a write at the same number gives the value written. -/
@[simp] theorem Store.get_put_same [DecidableEq α] (d v : α) (m : Store α) (k : Nat) : Store.get d (Store.put d k v m) k = v := by
  unfold Store.put
  split
  · rename_i h; rw [Store.get_drop_same, h]
  · exact Store.get_insert_same d v m k

/-- A write leaves every other number alone, whatever default it is read with. -/
theorem Store.get_put_ne [DecidableEq α] (d e v : α) (m : Store α) {k j : Nat} (h : k ≠ j) :
    Store.get e (Store.put d k v m) j = Store.get e m j := by
  unfold Store.put
  split
  · exact Store.get_drop_ne e m h
  · exact Store.get_insert_ne e v m h

/-- A read after a write, either way. -/
theorem Store.get_put [DecidableEq α] (d v : α) (m : Store α) (k j : Nat) :
    Store.get d (Store.put d k v m) j = if k = j then v else Store.get d m j := by
  split
  · rename_i h; subst h; exact Store.get_put_same d v m k
  · rename_i h; exact Store.get_put_ne d d v m h

theorem Store.get_clear_in (d : α) (m : Store α) {lo hi k : Nat} (h₁ : lo ≤ k) (h₂ : k < hi) : Store.get d (Store.clear lo hi m) k = d := by
  induction m with
  | nil => rfl
  | cons x m ih =>
    obtain ⟨a, v⟩ := x
    unfold Store.clear at *
    rw [List.filter_cons]
    split
    · rename_i hc
      have : a ≠ k := by simp at hc; omega
      simp [Store.get, this, ih]
    · exact ih

theorem Store.get_clear_out (d : α) (m : Store α) {lo hi k : Nat} (h : k < lo ∨ hi ≤ k) :
    Store.get d (Store.clear lo hi m) k = Store.get d m k := by
  induction m with
  | nil => rfl
  | cons x m ih =>
    obtain ⟨a, v⟩ := x
    unfold Store.clear at *
    rw [List.filter_cons]
    split
    · by_cases ha : a = k <;> simp [Store.get, ha, ih]
    · rename_i hc
      have : a ≠ k := by simp at hc; omega
      simp [Store.get, this, ih]

/-! The canonical form -/

/-- The rising order as a relation on the whole list. -/
theorem Store.rising_iff (m : Store α) : Store.rising m = true ↔ m.Pairwise (fun x y => x.1 < y.1) := by
  induction m with
  | nil => simp [Store.rising]
  | cons x m ih =>
    obtain ⟨a, v⟩ := x
    cases m with
    | nil => simp [Store.rising]
    | cons y m =>
      obtain ⟨b, w⟩ := y
      simp only [Store.rising, Bool.and_eq_true, decide_eq_true_eq, ih]
      rw [List.pairwise_cons (a := (a, v))]
      constructor
      · rintro ⟨h, hp⟩
        refine ⟨?_, hp⟩
        intro z hz
        rcases List.mem_cons.1 hz with rfl | hz
        · exact h
        · exact lt_trans h ((List.pairwise_cons.1 hp).1 z hz)
      · rintro ⟨h, hp⟩
        exact ⟨h (b, w) (by simp), hp⟩

/-- The canonical form: rising, and no default listed. -/
theorem Store.wf_iff [DecidableEq α] (d : α) (m : Store α) :
    Store.wf d m = true ↔ m.Pairwise (fun x y => x.1 < y.1) ∧ ∀ x ∈ m, x.2 ≠ d := by
  rw [← Store.rising_iff]
  induction m with
  | nil => simp [Store.wf, Store.rising]
  | cons x m ih =>
    obtain ⟨a, v⟩ := x
    cases m with
    | nil => simp [Store.wf, Store.rising]
    | cons y m =>
      obtain ⟨b, w⟩ := y
      simp only [Store.wf, Store.rising, Bool.and_eq_true, decide_eq_true_eq, ih, List.forall_mem_cons]
      tauto

theorem Store.mem_drop (m : Store α) (k : Nat) {x : Nat × α} (h : x ∈ Store.drop m k) : x ∈ m := by
  induction m with
  | nil => exact h
  | cons y m ih =>
    obtain ⟨a, v⟩ := y
    unfold Store.drop at h
    split at h
    · exact List.mem_cons_of_mem _ (ih h)
    · rcases List.mem_cons.1 h with rfl | h
      · simp
      · exact List.mem_cons_of_mem _ (ih h)

theorem Store.mem_insert (m : Store α) (k : Nat) (v : α) {x : Nat × α} (h : x ∈ Store.insert k v m) : x = (k, v) ∨ x ∈ m := by
  induction m with
  | nil => simpa [Store.insert] using h
  | cons y m ih =>
    obtain ⟨a, w⟩ := y
    unfold Store.insert at h
    split at h
    · simpa using h
    · split at h
      · rcases List.mem_cons.1 h with rfl | h
        · exact .inl rfl
        · exact .inr (List.mem_cons_of_mem _ h)
      · rcases List.mem_cons.1 h with rfl | h
        · exact .inr (by simp)
        · rcases ih h with h | h
          · exact .inl h
          · exact .inr (List.mem_cons_of_mem _ h)

theorem Store.pairwise_drop (m : Store α) (k : Nat) (h : m.Pairwise (fun x y => x.1 < y.1)) :
    (Store.drop m k).Pairwise (fun x y => x.1 < y.1) := by
  induction m with
  | nil => exact h
  | cons y m ih =>
    obtain ⟨a, v⟩ := y
    rw [List.pairwise_cons] at h
    unfold Store.drop
    split
    · exact ih h.2
    · exact List.pairwise_cons.2 ⟨fun x hx => h.1 x (Store.mem_drop m k hx), ih h.2⟩

theorem Store.pairwise_insert (m : Store α) (k : Nat) (v : α) (h : m.Pairwise (fun x y => x.1 < y.1)) :
    (Store.insert k v m).Pairwise (fun x y => x.1 < y.1) := by
  induction m with
  | nil => simp [Store.insert]
  | cons y m ih =>
    obtain ⟨a, w⟩ := y
    have h' := List.pairwise_cons.1 h
    unfold Store.insert
    split
    · rename_i hk
      refine List.pairwise_cons.2 ⟨?_, h⟩
      intro x hx
      rcases List.mem_cons.1 hx with rfl | hx
      · exact hk
      · exact lt_trans hk (h'.1 x hx)
    · split
      · rename_i hk; subst hk
        exact List.pairwise_cons.2 ⟨h'.1, h'.2⟩
      · rename_i h₁ h₂
        refine List.pairwise_cons.2 ⟨?_, ih h'.2⟩
        intro x hx
        rcases Store.mem_insert m k v hx with rfl | hx
        · show a < k; omega
        · exact h'.1 x hx

theorem Store.rising_put [DecidableEq α] (d v : α) (m : Store α) (k : Nat) (h : Store.rising m = true) :
    Store.rising (Store.put d k v m) = true := by
  rw [Store.rising_iff] at *
  unfold Store.put
  split
  · exact Store.pairwise_drop m k h
  · exact Store.pairwise_insert m k v h

theorem Store.rising_clear (m : Store α) (lo hi : Nat) (h : Store.rising m = true) : Store.rising (Store.clear lo hi m) = true := by
  rw [Store.rising_iff] at *; exact h.filter _

/-- A write keeps the canonical form. -/
theorem Store.wf_put [DecidableEq α] (d v : α) (m : Store α) (k : Nat) (h : Store.wf d m = true) : Store.wf d (Store.put d k v m) = true := by
  rw [Store.wf_iff] at *
  unfold Store.put
  split
  · exact ⟨Store.pairwise_drop m k h.1, fun x hx => h.2 x (Store.mem_drop m k hx)⟩
  · rename_i hv
    refine ⟨Store.pairwise_insert m k v h.1, fun x hx => ?_⟩
    rcases Store.mem_insert m k v hx with rfl | hx
    · exact hv
    · exact h.2 x hx

/-- Clearing a range keeps the canonical form. -/
theorem Store.wf_clear [DecidableEq α] (d : α) (m : Store α) (lo hi : Nat) (h : Store.wf d m = true) : Store.wf d (Store.clear lo hi m) = true := by
  rw [Store.wf_iff] at *
  exact ⟨h.1.filter _, fun x hx => h.2 x (List.mem_of_mem_filter hx)⟩

/-- Every operation on the byte memory keeps its canonical form. -/
theorem Memory.wf_put (m : List Host.Cell) (a : Nat) (b : Byte) (h : Memory.wf m = true) : Memory.wf (Store.put 0 a b m) = true :=
  Store.wf_put 0 b m a h

theorem Memory.wf_clear (m : List Host.Cell) (lo hi : Nat) (h : Memory.wf m = true) : Memory.wf (Store.clear lo hi m) = true :=
  Store.wf_clear 0 m lo hi h

end Sys2Proof.Machine
end

