-- ==== Sys2Proof/Laws/State.lean ====
section
/-! SUPPORT. The laws of State: what each primitive change does to each part, how acts run, and what a register field, a table word,
a byte and a record read after a change. -/

namespace Sys2Proof.Machine

/-! Running acts -/

@[simp] theorem applyAll_append (es fs : List Eff) (s : State) : applyAll (es ++ fs) s = applyAll fs (applyAll es s) := by
  induction es generalizing s with
  | nil => rfl
  | cons e es ih => exact ih (e.apply s)

@[simp] theorem run_skip (s : State) : run skip s = s := rfl
@[simp] theorem run_acts_nil (s : State) : run (acts []) s = s := rfl
/-- Acts run one after the other, each in the state the ones before it leave. -/
@[simp] theorem run_acts_cons (a : Act) (as : List Act) (s : State) : run (acts (a :: as)) s = run (acts as) (run a s) := by
  simp [run, acts]
theorem run_look (f : State → Act) (s : State) : run (look f) s = run (f s) s := rfl
theorem run_onlyIf (c : State → Bool) (a : Act) (s : State) : run (onlyIf c a) s = if c s then run a s else s := by
  unfold run onlyIf; split <;> rfl
theorem run_ite (c : Prop) [Decidable c] (a b : Act) (s : State) : run (if c then a else b) s = if c then run a s else run b s := by
  split <;> rfl
@[simp] theorem run_forEach_nil {α : Type} (f : α → Act) (s : State) : run (forEach [] f) s = s := rfl
@[simp] theorem run_forEach_cons {α : Type} (x : α) (xs : List α) (f : α → Act) (s : State) :
    run (forEach (x :: xs) f) s = run (forEach xs f) (run (f x) s) := by
  simp [run, forEach]

/-- What holds at the start and is kept by every element's act holds at the end. -/
theorem run_forEach_induct {α : Type} {P : State → Prop} (xs : List α) (f : α → Act) (s : State) (h : P s)
    (hf : ∀ x ∈ xs, ∀ t, P t → P (run (f x) t)) : P (run (forEach xs f) s) := by
  induction xs generalizing s with
  | nil => exact h
  | cons x xs ih =>
    rw [run_forEach_cons]
    exact ih _ (hf x (by simp) s h) fun y hy => hf y (List.mem_cons_of_mem _ hy)

/-- A reading that no element's act changes is as before. -/
theorem run_forEach_read {α β : Type} (xs : List α) (f : α → Act) (R : State → β) (s : State) (h : ∀ x ∈ xs, ∀ t, R (run (f x) t) = R t) :
    R (run (forEach xs f) s) = R s := by
  induction xs generalizing s with
  | nil => rfl
  | cons x xs ih => rw [run_forEach_cons, ih _ fun y hy => h y (List.mem_cons_of_mem _ hy), h x (by simp)]

/-- A reading that one element's act sets, and no element's act sets otherwise. -/
theorem run_forEach_set {α β : Type} (xs : List α) (f : α → Act) (R : State → β) (s : State) (x : α) (v : β) (hx : x ∈ xs)
    (h : ∀ t, R (run (f x) t) = v) (hk : ∀ y ∈ xs, ∀ t, R t = v → R (run (f y) t) = v) : R (run (forEach xs f) s) = v := by
  induction xs generalizing s with
  | nil => simp at hx
  | cons y ys ih =>
    rw [run_forEach_cons]
    have hk' : ∀ z ∈ ys, ∀ t, R t = v → R (run (f z) t) = v := fun z hz => hk z (List.mem_cons_of_mem _ hz)
    rcases List.mem_cons.1 hx with rfl | hx
    · exact run_forEach_induct (P := fun t => R t = v) ys f _ (h s) hk'
    · exact ih _ hx hk'

theorem done_eq (a : Act) (s : State) : done a s = .next (run a s) := rfl

/-! The canonical form and the queue under a primitive change -/

/-- Every primitive change keeps the canonical form of the state. -/
theorem Eff.apply_wf (e : Eff) (s : State) (h : s.wf = true) : (e.apply s).wf = true := by
  simp only [State.wf, Bool.and_eq_true] at h
  obtain ⟨⟨⟨⟨⟨⟨⟨⟨⟨⟨⟨⟨⟨⟨⟨⟨⟨⟨h1, h2⟩, h3⟩, h4⟩, h5⟩, h6⟩, h7⟩, h8⟩, h9⟩, h10⟩, h11⟩, h12⟩, h13⟩, h14⟩, h15⟩, h16⟩, h17⟩, h18⟩, h19⟩ := h
  cases e with
  | clear p lo hi =>
    cases p <;> simp [Eff.apply, State.wf, Memory.wf_clear, Store.wf_clear, Store.rising_clear, *]
  | mem a b => simp [Eff.apply, State.wf, *]; exact Memory.wf_put _ _ _ h1
  | _ => simp [Eff.apply, State.wf, Store.wf_put, Store.rising_put, *]

theorem applyAll_wf (es : List Eff) (s : State) (h : s.wf = true) : (applyAll es s).wf = true := by
  induction es generalizing s with
  | nil => exact h
  | cons e es ih => exact ih _ (e.apply_wf s h)

/-- Every act keeps the canonical form. -/
theorem run_wf (a : Act) (s : State) (h : s.wf = true) : (run a s).wf = true := applyAll_wf _ s h

/-- No primitive change touches the queue. -/
@[simp] theorem Eff.apply_pending (e : Eff) (s : State) : (e.apply s).pending = s.pending := by
  cases e with
  | clear p lo hi => cases p <;> rfl
  | _ => rfl

@[simp] theorem applyAll_pending (es : List Eff) (s : State) : (applyAll es s).pending = s.pending := by
  induction es generalizing s with
  | nil => rfl
  | cons e es ih => rw [applyAll, ih, Eff.apply_pending]

@[simp] theorem run_pending (a : Act) (s : State) : (run a s).pending = s.pending := applyAll_pending _ s

/-- The counter of free values never falls. -/
theorem Eff.apply_free (e : Eff) (s : State) : s.free ≤ (e.apply s).free := by
  cases e with
  | clear p lo hi => cases p <;> exact le_refl _
  | free => exact Nat.le_succ _
  | _ => exact le_refl _

/-- What has left the block stays out: a change only adds to it. -/
theorem Eff.apply_out (e : Eff) (s : State) : s.out <+: (e.apply s).out := by
  cases e with
  | clear p lo hi => cases p <;> exact List.prefix_refl _
  | emit x => exact List.prefix_append _ _
  | _ => exact List.prefix_refl _

theorem run_out (a : Act) (s : State) : s.out <+: (run a s).out := by
  unfold run
  generalize a s = es
  induction es generalizing s with
  | nil => exact List.prefix_refl _
  | cons e es ih => exact (e.apply_out s).trans (ih _)

end Sys2Proof.Machine
end

