-- ==== Sys2Proof/Laws/Arms.lean ====
section
/-! SUPPORT. What each command answers: the next state after its act. Cite these; to unfold the dispatch itself is slow. -/

namespace Sys2Proof.Machine

/-- A command that does an act completes with what the act leaves. -/
theorem completes_done {c : Instr} {s : State} {a : Act} {P : State → Prop} (h : exec c s = done a s) (hp : P (run a s)) : Completes c s P :=
  ⟨run a s, h, hp⟩

theorem exec_registerWrite (fn : FuncId) (x : BarOffset) (v : Word) (s : State) :
    exec (.registerWrite fn x v) s = done (actRegisterWrite fn x v) s := rfl
theorem exec_faultWrite (fn : FuncId) (p : Page) (v : Word) (s : State) : exec (.faultWrite fn p v) s = done (actFaultWrite fn p v) s := rfl
theorem exec_pageEnable (fn : FuncId) (p : Page) (s : State) : exec (.pageEnable fn p) s = done (actPageEnable fn p) s := rfl
theorem exec_pageDisable (fn : FuncId) (p : Page) (s : State) : exec (.pageDisable fn p) s = done (actPageDisable fn p) s := rfl
theorem exec_pageStarted (p : Page) (s : State) : exec (.pageStarted p) s = done (actPageStarted p) s := rfl
theorem exec_pageDrained (p : Page) (s : State) : exec (.pageDrained p) s = done (actPageDrained p) s := rfl
theorem exec_quiesceReq (p : Page) (on : Bool) (s : State) : exec (.quiesceReq p on) s = done (actQuiesceReq p on) s := rfl
theorem exec_routeWrite (fn : FuncId) (r : RouteReg) (v : Word) (s : State) : exec (.routeWrite fn r v) s = done (actRouteWrite fn r v) s := rfl
theorem exec_markRouteWrite (fn : FuncId) (e : EngineId) (v : Word) (s : State) :
    exec (.markRouteWrite fn e v) s = done (actMarkRouteWrite fn e v) s := rfl
theorem exec_tLoWrite (fn : FuncId) (e : EngineId) (j : Fin 4) (v : Word) (s : State) :
    exec (.tLoWrite fn e j v) s = done (actTLoWrite fn e j v) s := rfl
theorem exec_tHiWrite (fn : FuncId) (e : EngineId) (j : Fin 4) (v : Word) (s : State) :
    exec (.tHiWrite fn e j v) s = done (actTHiWrite fn e j v) s := rfl
theorem exec_outEnable (o : OutputId) (s : State) : exec (.outEnable o) s = done (actOutEnable o) s := rfl
theorem exec_outMute (o : OutputId) (s : State) : exec (.outMute o) s = done (actOutMute o) s := rfl
theorem exec_outDisable (o : OutputId) (s : State) : exec (.outDisable o) s = done (actOutDisable o) s := rfl
theorem exec_outClrCounts (o : OutputId) (s : State) : exec (.outClrCounts o) s = done (actOutClrCounts o) s := rfl
theorem exec_outputPowered (o : OutputId) (s : State) : exec (.outputPowered o) s = done (actOutputPowered o) s := rfl
theorem exec_outCfgWrite (o : OutputId) (r : OutCfgReg) (v : Word) (s : State) : exec (.outCfgWrite o r v) s = done (actOutCfgWrite o r v) s := rfl
theorem exec_outputSettled (o : OutputId) (s : State) : exec (.outputSettled o) s = done (actOutputSettled o) s := rfl
theorem exec_markEnable (m : Fin 16) (s : State) : exec (.markEnable m) s = done (actMarkEnable m) s := rfl
theorem exec_markMute (m : Fin 16) (s : State) : exec (.markMute m) s = done (actMarkMute m) s := rfl
theorem exec_markDisable (m : Fin 16) (s : State) : exec (.markDisable m) s = done (actMarkDisable m) s := rfl
theorem exec_unstampedWriteApply (r : UnstampedReg) (v : Word) (s : State) :
    exec (.unstampedWriteApply r v) s = done (actUnstampedWriteApply r v) s := rfl
theorem exec_csRewriteDone (e : EngineId) (secondReadFails : Bool) (s : State) :
    exec (.csRewriteDone e secondReadFails) s = done (actCsRewriteDone e secondReadFails) s := rfl
theorem exec_pacerSelfcheckFail (k : BlockId) (s : State) : exec (.pacerSelfcheckFail k) s = done (actPacerSelfcheckFail k) s := rfl
theorem exec_clockLockLoss (n : RegionId) (s : State) : exec (.clockLockLoss n) s = done (actClockLockLoss n) s := rfl
theorem exec_networkSelfcheckFail (n : RegionId) (s : State) : exec (.networkSelfcheckFail n) s = done (actNetworkSelfcheckFail n) s := rfl
theorem exec_refclkFail (s : State) : exec .refclkFail s = done actRefclkFail s := rfl
theorem exec_syncPulse (s : State) : exec .syncPulse s = done actSyncPulse s := rfl
theorem exec_syncArm (fn : FuncId) (s : State) : exec (.syncArm fn) s = done (actSyncArm fn) s := rfl
theorem exec_syncLost (s : State) : exec .syncLost s = done actSyncLost s := rfl
theorem exec_alignAdd (s : State) : exec .alignAdd s = done actAlignAdd s := rfl
theorem exec_clkTrimWrite (fn : FuncId) (v : Byte) (s : State) : exec (.clkTrimWrite fn v) s = done (actClkTrimWrite fn v) s := rfl
theorem exec_trimSettled (s : State) : exec .trimSettled s = done actTrimSettled s := rfl
theorem exec_stLoRead (fn : FuncId) (s : State) : exec (.stLoRead fn) s = done (actStLoRead fn) s := rfl
theorem exec_syncCaptHiRead (fn : FuncId) (s : State) : exec (.syncCaptHiRead fn) s = done (actSyncCaptHiRead fn) s := rfl
theorem exec_ttPeekRead (fn : FuncId) (e : EngineId) (s : State) : exec (.ttPeekRead fn e) s = done (actTtPeekRead fn e) s := rfl
theorem exec_ttClearSlack (fn : FuncId) (e : EngineId) (s : State) : exec (.ttClearSlack fn e) s = done (actTtClearSlack fn e) s := rfl
theorem exec_ttClearCounts (fn : FuncId) (e : EngineId) (s : State) : exec (.ttClearCounts fn e) s = done (actTtClearCounts fn e) s := rfl
theorem exec_ttClearFlags (fn : FuncId) (e : EngineId) (s : State) : exec (.ttClearFlags fn e) s = done (actTtClearFlags fn e) s := rfl
theorem exec_release (e : EngineId) (err : GateError) (s : State) : exec (.release e err) s = done (actRelease e err) s := rfl
theorem exec_toneStart (e : EngineId) (s : State) : exec (.toneStart e) s = done (actToneStart e) s := rfl
theorem exec_windowOpen (e : EngineId) (raws : List (BitVec 12)) (bad : Option (Fin 4096)) (s : State) :
    exec (.windowOpen e raws bad) s = done (actWindowOpen e raws bad) s := rfl
theorem exec_freqSet (e : EngineId) (s : State) : exec (.freqSet e) s = done (actFreqSet e) s := rfl
theorem exec_phaseAdd (e : EngineId) (s : State) : exec (.phaseAdd e) s = done (actPhaseAdd e) s := rfl
theorem exec_phaseSet (e : EngineId) (s : State) : exec (.phaseSet e) s = done (actPhaseSet e) s := rfl
theorem exec_mark (e : EngineId) (s : State) : exec (.mark e) s = done (actMark e) s := rfl
theorem exec_streamStart (e : EngineId) (s : State) : exec (.streamStart e) s = done (actStreamStart e) s := rfl
theorem exec_fluxPulse (e : EngineId) (s : State) : exec (.fluxPulse e) s = done (actFluxPulse e) s := rfl
theorem exec_avsIntervalEnd (s : State) : exec .avsIntervalEnd s = done actAvsIntervalEnd s := rfl
theorem exec_anchorPass (e : EngineId) (s : State) : exec (.anchorPass e) s = done (actAnchorPass e) s := rfl
theorem exec_frameRestore (e : EngineId) (s : State) : exec (.frameRestore e) s = done (actFrameRestore e) s := rfl
theorem exec_start (fn : FuncId) (e : EngineId) (s : State) : exec (.start fn e) s = done (actStart fn e) s := rfl
theorem exec_stop (fn : FuncId) (e : EngineId) (s : State) : exec (.stop fn e) s = done (actStop fn e) s := rfl
theorem exec_clrPending (fn : FuncId) (e : EngineId) (s : State) : exec (.clrPending fn e) s = done (actClrPending fn e) s := rfl
theorem exec_load (fn : FuncId) (e : EngineId) (s : State) : exec (.load fn e) s = done (actLoad fn e) s := rfl
theorem exec_loadDone (e : EngineId) (s : State) : exec (.loadDone e) s = done (actLoadDone e) s := rfl
theorem exec_nop (e : EngineId) (s : State) : exec (.nop e) s = done (actNop e) s := rfl
theorem exec_halt (e : EngineId) (s : State) : exec (.halt e) s = done (actHalt e) s := rfl
theorem exec_movi (e : EngineId) (a : Fin 16) (imm : Word) (s : State) : exec (.movi e a imm) s = done (actMovi e a imm) s := rfl
theorem exec_alu (e : EngineId) (f : AluFn) (a b c : Fin 16) (s : State) : exec (.alu e f a b c) s = done (actAlu e f a b c) s := rfl
theorem exec_alui (e : EngineId) (f : AluFn) (a b : Fin 16) (imm : Word) (s : State) :
    exec (.alui e f a b imm) s = done (actAlui e f a b imm) s := rfl
theorem exec_cmp (e : EngineId) (b : Fin 16) (x : RegOrImm) (s : State) : exec (.cmp e b x) s = done (actCmp e b x) s := rfl
theorem exec_ldl (e : EngineId) (a b : Fin 16) (imm : Word) (ue : Bool) (s : State) : exec (.ldl e a b imm ue) s = done (actLdl e a b imm ue) s := rfl
theorem exec_stl (e : EngineId) (a b : Fin 16) (imm : Word) (s : State) : exec (.stl e a b imm) s = done (actStl e a b imm) s := rfl
theorem exec_ldb (e : EngineId) (a b : Fin 16) (hi : Bool) (imm : Word) (ue : Bool) (s : State) :
    exec (.ldb e a b hi imm ue) s = done (actLdb e a b hi imm ue) s := rfl
theorem exec_stb (e : EngineId) (a b : Fin 16) (hi : Bool) (imm : Word) (mismatch : Bool) (s : State) :
    exec (.stb e a b hi imm mismatch) s = done (actStb e a b hi imm mismatch) s := rfl
theorem exec_tset (e : EngineId) (td ts : Fin 4) (x : RegOrImm) (s : State) : exec (.tset e td ts x) s = done (actTset e td ts x) s := rfl
theorem exec_tnow (e : EngineId) (td : Fin 4) (x : RegOrImm) (s : State) : exec (.tnow e td x) s = done (actTnow e td x) s := rfl
theorem exec_play (e : EngineId) (ix : Timed) (ue : Option (Fin 8)) (mismatch : Bool) (s : State) :
    exec (.play e ix ue mismatch) s = done (actPlay e ix ue mismatch) s := rfl
theorem exec_acquire (e : EngineId) (ix : Timed) (ue : Option (Fin 8)) (mismatch : Bool) (s : State) :
    exec (.acquire e ix ue mismatch) s = done (actAcquire e ix ue mismatch) s := rfl
theorem exec_stream (e : EngineId) (ix : Timed) (ue : Option (Fin 8)) (mismatch : Bool) (s : State) :
    exec (.stream e ix ue mismatch) s = done (actStream e ix ue mismatch) s := rfl
theorem exec_setfrq (e : EngineId) (ts : Fin 4) (tgt : FrameTarget) (a b : Fin 16) (toff : Word) (mismatch : Bool) (s : State) :
    exec (.setfrq e ts tgt a b toff mismatch) s = done (actSetfrq e ts tgt a b toff mismatch) s := rfl
theorem exec_shiftph (e : EngineId) (ts : Fin 4) (set : Bool) (tgt : FrameTarget) (v : PhaseValue) (toff : BitVec 20) (mismatch : Bool) (s : State) :
    exec (.shiftph e ts set tgt v toff mismatch) s = done (actShiftph e ts set tgt v toff mismatch) s := rfl
theorem exec_signal (e : EngineId) (ts : Fin 4) (level : Bool) (m : Fin 16) (toff : Word) (mismatch : Bool) (s : State) :
    exec (.signal e ts level m toff mismatch) s = done (actSignal e ts level m toff mismatch) s := rfl
theorem exec_sendm (e : EngineId) (ts : Fin 4) (dev : Fin 64) (tag : BitVec 16) (a : Fin 16) (doff : BitVec 16) (s : State) :
    exec (.sendm e ts dev tag a doff) s = done (actSendm e ts dev tag a doff) s := rfl
theorem exec_waitst (e : EngineId) (ts : Fin 4) (toff : Word) (s : State) : exec (.waitst e ts toff) s = done (actWaitst e ts toff) s := rfl
theorem exec_waitstResume (e : EngineId) (s : State) : exec (.waitstResume e) s = done (actWaitstResume e) s := rfl
theorem exec_lease (e : EngineId) (rel try1 : Bool) (j : Fin 2) (s : State) : exec (.lease e rel try1 j) s = done (actLease e rel try1 j) s := rfl
theorem exec_leaseGrant (f : FluxId) (s : State) : exec (.leaseGrant f) s = done (actLeaseGrant f) s := rfl
theorem exec_watch (e : EngineId) (ts : Fin 4) (len : BitVec 16) (toff : Word) (seq : List WatchStep) (s : State) :
    exec (.watch e ts len toff seq) s = done (actWatch e ts len toff seq) s := rfl
theorem exec_watchGrantReturn (e : EngineId) (noWork : Bool) (s : State) :
    exec (.watchGrantReturn e noWork) s = done (actWatchGrantReturn e noWork) s := rfl
theorem exec_jump (e : EngineId) (target : BitVec 12) (s : State) : exec (.jump e target) s = done (actJump e target) s := rfl
theorem exec_call (e : EngineId) (target : CallTarget) (s : State) : exec (.call e target) s = done (actCall e target) s := rfl
theorem exec_ret (e : EngineId) (s : State) : exec (.ret e) s = done (actRet e) s := rfl
theorem exec_loop (e : EngineId) (l : Fin 4) (form : LoopForm) (s : State) : exec (.loop e l form) s = done (actLoop e l form) s := rfl
theorem exec_brd (e : EngineId) (b : BranchArgs) (remote : Option (Fin 64)) (tone : Fin 1024) (mismatch : Bool) (s : State) :
    exec (.brd e b remote tone mismatch) s = done (actBrd e b remote tone mismatch) s := rfl
theorem exec_brf (e : EngineId) (b : BranchArgs) (remote : Option (Fin 64)) (region : RegionId) (func : Fin 256) (mismatch : Bool) (s : State) :
    exec (.brf e b remote region func mismatch) s = done (actBrf e b remote region func mismatch) s := rfl
theorem exec_brt (e : EngineId) (b : BranchArgs) (u : TriggerId) (mismatch : Bool) (s : State) :
    exec (.brt e b u mismatch) s = done (actBrt e b u mismatch) s := rfl
theorem exec_brm (e : EngineId) (b : BranchArgs) (dev : Fin 64) (tag : BitVec 16) (mismatch : Bool) (s : State) :
    exec (.brm e b dev tag mismatch) s = done (actBrm e b dev tag mismatch) s := rfl
theorem exec_brc (e : EngineId) (cbit : Fin 16) (sense : Bool) (target : BitVec 12) (s : State) :
    exec (.brc e cbit sense target) s = done (actBrc e cbit sense target) s := rfl
theorem exec_decisionArrival (e : EngineId) (s : State) : exec (.decisionArrival e) s = done (actDecisionArrival e) s := rfl
theorem exec_branchResolve (e : EngineId) (mismatch : Bool) (s : State) :
    exec (.branchResolve e mismatch) s = done (actBranchResolve e mismatch) s := rfl
theorem exec_shot (e : EngineId) (endShot : Bool) (ts : Fin 4) (toff : Word) (differ : Bool) (lead : Stamp) (s : State) :
    exec (.shot e endShot ts toff differ lead) s = done (actShot e endShot ts toff differ lead) s := rfl
theorem exec_prep (e : EngineId) (first : Bool) (target : BitVec 12) (s : State) :
    exec (.prep e first target) s = done (actPrep e first target) s := rfl
theorem exec_curfew (e : EngineId) (scope : CurfewScope) (tag : BitVec 16) (s : State) :
    exec (.curfew e scope tag) s = done (actCurfew e scope tag) s := rfl
theorem exec_curfewRelease (e : EngineId) (peerTag : Option (BitVec 16)) (peerOpen : Bool) (s : State) :
    exec (.curfewRelease e peerTag peerOpen) s = done (actCurfewRelease e peerTag peerOpen) s := rfl
theorem exec_nopw (e : EngineId) (m : MicroArgs) (s : State) : exec (.nopw e m) s = done (actNopw e m) s := rfl
theorem exec_ldi (e : EngineId) (m : MicroArgs) (s : State) : exec (.ldi e m) s = done (actLdi e m) s := rfl
theorem exec_mov (e : EngineId) (m : MicroArgs) (s : State) : exec (.mov e m) s = done (actMov e m) s := rfl
theorem exec_microAlu (e : EngineId) (m : MicroArgs) (s : State) : exec (.microAlu e m) s = done (actMicroAlu e m) s := rfl
theorem exec_addi (e : EngineId) (m : MicroArgs) (s : State) : exec (.addi e m) s = done (actAddi e m) s := rfl
theorem exec_wrs (e : EngineId) (m : MicroArgs) (s : State) : exec (.wrs e m) s = done (actWrs e m) s := rfl
theorem exec_ldrc (e : EngineId) (m : MicroArgs) (s : State) : exec (.ldrc e m) s = done (actLdrc e m) s := rfl
theorem exec_looprc (e : EngineId) (m : MicroArgs) (s : State) : exec (.looprc e m) s = done (actLooprc e m) s := rfl
theorem exec_csel (e : EngineId) (m : MicroArgs) (s : State) : exec (.csel e m) s = done (actCsel e m) s := rfl
theorem exec_waitc (e : EngineId) (m : MicroArgs) (s : State) : exec (.waitc e m) s = done (actWaitc e m) s := rfl
theorem exec_holdoff (e : EngineId) (m : MicroArgs) (s : State) : exec (.holdoff e m) s = done (actHoldoff e m) s := rfl
theorem exec_mret (e : EngineId) (m : MicroArgs) (s : State) : exec (.mret e m) s = done (actMret e m) s := rfl
theorem exec_disp (e : EngineId) (m : MicroArgs) (ue : Bool) (s : State) : exec (.disp e m ue) s = done (actDisp e m ue) s := rfl
theorem exec_haltw (e : EngineId) (m : MicroArgs) (s : State) : exec (.haltw e m) s = done (actHaltw e m) s := rfl
theorem exec_faultWord (e : EngineId) (m : MicroArgs) (s : State) : exec (.faultWord e m) s = done (actFaultWord e m) s := rfl
theorem exec_park (e : EngineId) (m : MicroArgs) (s : State) : exec (.park e m) s = done (actPark e m) s := rfl
theorem exec_ctxr (e : EngineId) (m : MicroArgs) (s : State) : exec (.ctxr e m) s = done (actCtxr e m) s := rfl
theorem exec_chk (e : EngineId) (m : MicroArgs) (s : State) : exec (.chk e m) s = done (actChk e m) s := rfl
theorem exec_tstamp (e : EngineId) (m : MicroArgs) (s : State) : exec (.tstamp e m) s = done (actTstamp e m) s := rfl
theorem exec_ebld (e : EngineId) (m : MicroArgs) (s : State) : exec (.ebld e m) s = done (actEbld e m) s := rfl
theorem exec_enq (e : EngineId) (m : MicroArgs) (ue : Option (Fin 8)) (mismatch : Bool) (s : State) :
    exec (.enq e m ue mismatch) s = done (actEnq e m ue mismatch) s := rfl
theorem exec_twrt (e : EngineId) (m : MicroArgs) (s : State) : exec (.twrt e m) s = done (actTwrt e m) s := rfl
theorem exec_rdl (e : EngineId) (m : MicroArgs) (ue : Bool) (s : State) : exec (.rdl e m ue) s = done (actRdl e m ue) s := rfl
theorem exec_wrl (e : EngineId) (m : MicroArgs) (s : State) : exec (.wrl e m) s = done (actWrl e m) s := rfl
theorem exec_rdb (e : EngineId) (m : MicroArgs) (ue : Bool) (s : State) : exec (.rdb e m ue) s = done (actRdb e m ue) s := rfl
theorem exec_wrb (e : EngineId) (m : MicroArgs) (mismatch : Bool) (s : State) : exec (.wrb e m mismatch) s = done (actWrb e m mismatch) s := rfl
theorem exec_reqLease (e : EngineId) (m : MicroArgs) (s : State) : exec (.reqLease e m) s = done (actReqLease e m) s := rfl
theorem exec_reqCurfew (e : EngineId) (m : MicroArgs) (s : State) : exec (.reqCurfew e m) s = done (actReqCurfew e m) s := rfl
theorem exec_reqSendm (e : EngineId) (m : MicroArgs) (s : State) : exec (.reqSendm e m) s = done (actReqSendm e m) s := rfl
theorem exec_reqWatch (e : EngineId) (m : MicroArgs) (seq : List WatchStep) (s : State) :
    exec (.reqWatch e m seq) s = done (actReqWatch e m seq) s := rfl
theorem exec_reqShotOpen (e : EngineId) (m : MicroArgs) (differ : Bool) (lead : Stamp) (s : State) :
    exec (.reqShotOpen e m differ lead) s = done (actReqShotOpen e m differ lead) s := rfl
theorem exec_reqShotClose (e : EngineId) (m : MicroArgs) (s : State) : exec (.reqShotClose e m) s = done (actReqShotClose e m) s := rfl
theorem exec_reqPrep (e : EngineId) (m : MicroArgs) (s : State) : exec (.reqPrep e m) s = done (actReqPrep e m) s := rfl
theorem exec_brArm (e : EngineId) (m : MicroArgs) (mismatch : Bool) (s : State) : exec (.brArm e m mismatch) s = done (actBrArm e m mismatch) s := rfl
theorem exec_doorbell (fn : FuncId) (e : EngineId) (v : Word) (s : State) : exec (.doorbell fn e v) s = done (actDoorbell fn e v) s := rfl
theorem exec_stopoverTake (e : EngineId) (s : State) : exec (.stopoverTake e) s = done (actStopoverTake e) s := rfl
theorem exec_paceModeChange (k : BlockId) (s : State) : exec (.paceModeChange k) s = done (actPaceModeChange k) s := rfl
theorem exec_ucLoad (k : BlockId) (s : State) : exec (.ucLoad k) s = done (actUcLoad k) s := rfl
theorem exec_ucStd (k : BlockId) (s : State) : exec (.ucStd k) s = done (actUcStd k) s := rfl
theorem exec_ucLoadDone (k : BlockId) (s : State) : exec (.ucLoadDone k) s = done (actUcLoadDone k) s := rfl
theorem exec_segmentBoundary (o : OutputId) (slot : Fin 32) (s : State) : exec (.segmentBoundary o slot) s = done (actSegmentBoundary o slot) s := rfl
theorem exec_streamDataDelivery (k : BlockId) (slot : Fin 8) (part : StreamPart) (uncorrectable : Bool) (s : State) :
    exec (.streamDataDelivery k slot part uncorrectable) s = done (actStreamDataDelivery k slot part uncorrectable) s := rfl
theorem exec_streamUnderrun (o : OutputId) (slot : Fin 32) (s : State) : exec (.streamUnderrun o slot) s = done (actStreamUnderrun o slot) s := rfl
theorem exec_integratorLatch (u : Fin 1024) (raws : List (BitVec 12)) (bad : Option (Fin 4096)) (s : State) :
    exec (.integratorLatch u raws bad) s = done (actIntegratorLatch u raws bad) s := rfl
theorem exec_resultPublish (u : Fin 1024) (s : State) : exec (.resultPublish u) s = done (actResultPublish u) s := rfl
theorem exec_dfEvaluate (n : RegionId) (f : Fin 256) (s : State) : exec (.dfEvaluate n f) s = done (actDfEvaluate n f) s := rfl
theorem exec_dfTriggerEval (n : RegionId) (f : Fin 256) (s : State) : exec (.dfTriggerEval n f) s = done (actDfTriggerEval n f) s := rfl
theorem exec_dfData (fn : FuncId) (n : RegionId) (w : Option Word) (s : State) : exec (.dfData fn n w) s = done (actDfData fn n w) s := rfl
theorem exec_dfResultRead (fn : FuncId) (n : RegionId) (s : State) : exec (.dfResultRead fn n) s = done (actDfResultRead fn n) s := rfl
theorem exec_resIqRead (fn : FuncId) (t : FeedlineId) (slot : Fin 32) (s : State) :
    exec (.resIqRead fn t slot) s = done (actResIqRead fn t slot) s := rfl
theorem exec_rxEnable (t : FeedlineId) (s : State) : exec (.rxEnable t) s = done (actRxEnable t) s := rfl
theorem exec_rxDisable (t : FeedlineId) (s : State) : exec (.rxDisable t) s = done (actRxDisable t) s := rfl
theorem exec_recal (t : FeedlineId) (s : State) : exec (.recal t) s = done (actRecal t) s := rfl
theorem exec_rxClrCounts (t : FeedlineId) (s : State) : exec (.rxClrCounts t) s = done (actRxClrCounts t) s := rfl
theorem exec_calAttemptEnd (t : FeedlineId) (success : Bool) (s : State) :
    exec (.calAttemptEnd t success) s = done (actCalAttemptEnd t success) s := rfl
theorem exec_rxChainFault (t : FeedlineId) (s : State) : exec (.rxChainFault t) s = done (actRxChainFault t) s := rfl
theorem exec_corrApply (t : FeedlineId) (watch : Option (Word × Word × BitVec 12)) (s : State) :
    exec (.corrApply t watch) s = done (actCorrApply t watch) s := rfl
theorem exec_corrCopy (t : FeedlineId) (s : State) : exec (.corrCopy t) s = done (actCorrCopy t) s := rfl
theorem exec_clamp (t : FeedlineId) (first last : Stamp) (s : State) : exec (.clamp t first last) s = done (actClamp t first last) s := rfl
theorem exec_triggerFiring (u : TriggerId) (t : Stamp) (raws : List (BitVec 12)) (s : State) :
    exec (.triggerFiring u t raws) s = done (actTriggerFiring u t raws) s := rfl
theorem exec_extTriggerFiring (ix : Fin 16) (t : Stamp) (levels : List Bool) (s : State) :
    exec (.extTriggerFiring ix t levels) s = done (actExtTriggerFiring ix t levels) s := rfl
theorem exec_firingDelivery (u : TriggerId) (mark : Option Stamp) (s : State) :
    exec (.firingDelivery u mark) s = done (actFiringDelivery u mark) s := rfl
theorem exec_cuEvaluate (n : RegionId) (ix : Fin 8) (s : State) : exec (.cuEvaluate n ix) s = done (actCuEvaluate n ix) s := rfl
theorem exec_recordTrigger (k : Fin 1056) (x : Stamp) (delay : BitVec 32) (s : State) :
    exec (.recordTrigger k x delay) s = done (actRecordTrigger k x delay) s := rfl
theorem exec_swTrig (fn : FuncId) (n : RegionId) (unit : BitVec 8) (s : State) : exec (.swTrig fn n unit) s = done (actSwTrig fn n unit) s := rfl
theorem exec_recordEnqueue (k : Fin 1056) (raws : List (BitVec 12)) (s : State) :
    exec (.recordEnqueue k raws) s = done (actRecordEnqueue k raws) s := rfl
theorem exec_autoRise (n : RegionId) (s : State) : exec (.autoRise n) s = done (actAutoRise n) s := rfl
theorem exec_autoFall (n : RegionId) (s : State) : exec (.autoFall n) s = done (actAutoFall n) s := rfl
theorem exec_factorAdopt (k : Fin 1056) (s : State) : exec (.factorAdopt k) s = done (actFactorAdopt k) s := rfl
theorem exec_ringWrite (n : RegionId) (owner : FuncId) (ue : Option (Fin 4097 × BitVec 19)) (s : State) :
    exec (.ringWrite n owner ue) s = done (actRingWrite n owner ue) s := rfl
theorem exec_unitData (fn : FuncId) (n : RegionId) (w : Option Word) (s : State) : exec (.unitData fn n w) s = done (actUnitData fn n w) s := rfl
theorem exec_dspStart (fn : FuncId) (k : BlockId) (s : State) : exec (.dspStart fn k) s = done (actDspStart fn k) s := rfl
theorem exec_dspCtrlHalt (fn : FuncId) (k : BlockId) (s : State) : exec (.dspCtrlHalt fn k) s = done (actDspCtrlHalt fn k) s := rfl
theorem exec_dspAbort (fn : FuncId) (k : BlockId) (s : State) : exec (.dspAbort fn k) s = done (actDspAbort fn k) s := rfl
theorem exec_clrFlags (fn : FuncId) (k : BlockId) (s : State) : exec (.clrFlags fn k) s = done (actClrFlags fn k) s := rfl
theorem exec_dspDoorbell (fn : FuncId) (k : BlockId) (v : Word) (s : State) : exec (.dspDoorbell fn k v) s = done (actDspDoorbell fn k v) s := rfl
theorem exec_pmemData (fn : FuncId) (k : BlockId) (w : Option Word) (s : State) : exec (.pmemData fn k w) s = done (actPmemData fn k w) s := rfl
theorem exec_regData (fn : FuncId) (k : BlockId) (w : Option Word) (s : State) : exec (.regData fn k w) s = done (actRegData fn k w) s := rfl
theorem exec_dspNop (k : BlockId) (m : DspArgs) (s : State) : exec (.dspNop k m) s = done (actDspNop k m) s := rfl
theorem exec_dspHalt (k : BlockId) (m : DspArgs) (s : State) : exec (.dspHalt k m) s = done (actDspHalt k m) s := rfl
theorem exec_dspIdle (k : BlockId) (m : DspArgs) (s : State) : exec (.dspIdle k m) s = done (actDspIdle k m) s := rfl
theorem exec_dspReti (k : BlockId) (m : DspArgs) (s : State) : exec (.dspReti k m) s = done (actDspReti k m) s := rfl
theorem exec_dspLdi (k : BlockId) (m : DspArgs) (s : State) : exec (.dspLdi k m) s = done (actDspLdi k m) s := rfl
theorem exec_ldih (k : BlockId) (m : DspArgs) (s : State) : exec (.ldih k m) s = done (actLdih k m) s := rfl
theorem exec_dspAlu (k : BlockId) (m : DspArgs) (s : State) : exec (.dspAlu k m) s = done (actDspAlu k m) s := rfl
theorem exec_dspAlui (k : BlockId) (m : DspArgs) (s : State) : exec (.dspAlui k m) s = done (actDspAlui k m) s := rfl
theorem exec_ldw (k : BlockId) (m : DspArgs) (s : State) : exec (.ldw k m) s = done (actLdw k m) s := rfl
theorem exec_ldh (k : BlockId) (m : DspArgs) (s : State) : exec (.ldh k m) s = done (actLdh k m) s := rfl
theorem exec_stw (k : BlockId) (m : DspArgs) (s : State) : exec (.stw k m) s = done (actStw k m) s := rfl
theorem exec_sth (k : BlockId) (m : DspArgs) (s : State) : exec (.sth k m) s = done (actSth k m) s := rfl
theorem exec_dspMac (k : BlockId) (m : DspArgs) (s : State) : exec (.dspMac k m) s = done (actDspMac k m) s := rfl
theorem exec_dspAcc (k : BlockId) (m : DspArgs) (s : State) : exec (.dspAcc k m) s = done (actDspAcc k m) s := rfl
theorem exec_dspExt (k : BlockId) (m : DspArgs) (s : State) : exec (.dspExt k m) s = done (actDspExt k m) s := rfl
theorem exec_asx (k : BlockId) (m : DspArgs) (s : State) : exec (.asx k m) s = done (actAsx k m) s := rfl
theorem exec_bexp (k : BlockId) (m : DspArgs) (s : State) : exec (.bexp k m) s = done (actBexp k m) s := rfl
theorem exec_bexp2 (k : BlockId) (m : DspArgs) (s : State) : exec (.bexp2 k m) s = done (actBexp2 k m) s := rfl
theorem exec_maxi (k : BlockId) (m : DspArgs) (s : State) : exec (.maxi k m) s = done (actMaxi k m) s := rfl
theorem exec_mini (k : BlockId) (m : DspArgs) (s : State) : exec (.mini k m) s = done (actMini k m) s := rfl
theorem exec_movs (k : BlockId) (m : DspArgs) (s : State) : exec (.movs k m) s = done (actMovs k m) s := rfl
theorem exec_movt (k : BlockId) (m : DspArgs) (s : State) : exec (.movt k m) s = done (actMovt k m) s := rfl
theorem exec_dspBr (k : BlockId) (m : DspArgs) (s : State) : exec (.dspBr k m) s = done (actDspBr k m) s := rfl
theorem exec_dspCall (k : BlockId) (m : DspArgs) (s : State) : exec (.dspCall k m) s = done (actDspCall k m) s := rfl
theorem exec_dspRet (k : BlockId) (m : DspArgs) (s : State) : exec (.dspRet k m) s = done (actDspRet k m) s := rfl
theorem exec_dspRpt (k : BlockId) (m : DspArgs) (s : State) : exec (.dspRpt k m) s = done (actDspRpt k m) s := rfl
theorem exec_dspNotify (k : BlockId) (m : DspArgs) (s : State) : exec (.dspNotify k m) s = done (actDspNotify k m) s := rfl
theorem exec_dspInterrupt (k : BlockId) (s : State) : exec (.dspInterrupt k) s = done (actDspInterrupt k) s := rfl
theorem exec_dspWdog (k : BlockId) (s : State) : exec (.dspWdog k) s = done (actDspWdog k) s := rfl
theorem exec_watchJobEnd (k : BlockId) (bank : List (BitVec 14 × Word)) (s : State) :
    exec (.watchJobEnd k bank) s = done (actWatchJobEnd k bank) s := rfl
theorem exec_bar2Write (fn : FuncId) (a : BitVec 36) (data : List Byte) (s : State) :
    exec (.bar2Write fn a data) s = done (actBar2Write fn a data) s := rfl
theorem exec_descriptorFetch (n : RegionId) (owner : FuncId) (s : State) :
    exec (.descriptorFetch n owner) s = done (actDescriptorFetch n owner) s := rfl
theorem exec_descriptorComplete (n : RegionId) (owner : FuncId) (result : PorterEnd) (hostData : List Byte) (s : State) :
    exec (.descriptorComplete n owner result hostData) s = done (actDescriptorComplete n owner result hostData) s := rfl
theorem exec_dqDisable (fn : FuncId) (n : RegionId) (s : State) : exec (.dqDisable fn n) s = done (actDqDisable fn n) s := rfl
theorem exec_retestDone (m : MemWord) (clean repaired : Bool) (s : State) :
    exec (.retestDone m clean repaired) s = done (actRetestDone m clean repaired) s := rfl
theorem exec_scrubWriteback (m : MemWord) (s : State) : exec (.scrubWriteback m) s = done (actScrubWriteback m) s := rfl
theorem exec_wipeDone (u : WipeUnit) (s : State) : exec (.wipeDone u) s = done (actWipeDone u) s := rfl
theorem exec_libLoad (k : BlockId) (s : State) : exec (.libLoad k) s = done (actLibLoad k) s := rfl
theorem exec_libLoadDone (k : BlockId) (s : State) : exec (.libLoadDone k) s = done (actLibLoadDone k) s := rfl
theorem exec_grpData (fn : FuncId) (w : Option Word) (s : State) : exec (.grpData fn w) s = done (actGrpData fn w) s := rfl
theorem exec_markAttWrite (fn : FuncId) (v : Word) (s : State) : exec (.markAttWrite fn v) s = done (actMarkAttWrite fn v) s := rfl
theorem exec_shotSettle (g : GroupNo) (idle : BitVec 64) (s : State) : exec (.shotSettle g idle) s = done (actShotSettle g idle) s := rfl
theorem exec_voidEffect (e : EngineId) (s : State) : exec (.voidEffect e) s = done (actVoidEffect e) s := rfl
theorem exec_newStart (g : GroupNo) (idle : BitVec 64) (far : Fin 64) (s : State) :
    exec (.newStart g idle far) s = done (actNewStart g idle far) s := rfl
theorem exec_replayStart (g : GroupNo) (s : State) : exec (.replayStart g) s = done (actReplayStart g) s := rfl
theorem exec_ledgerRecordWrite (owner : FuncId) (ue : Option (Fin 514 × BitVec 19)) (s : State) :
    exec (.ledgerRecordWrite owner ue) s = done (actLedgerRecordWrite owner ue) s := rfl
theorem exec_takeoverDone (e : EngineId) (locals : List (BitVec 12)) (ckptBad : Bool) (s : State) :
    exec (.takeoverDone e locals ckptBad) s = done (actTakeoverDone e locals ckptBad) s := rfl
theorem exec_shadowCopyDone (k : BlockId) (s : State) : exec (.shadowCopyDone k) s = done (actShadowCopyDone k) s := rfl
theorem exec_spareRotate (k : BlockId) (s : State) : exec (.spareRotate k) s = done (actSpareRotate k) s := rfl
theorem exec_watchProposal (e : EngineId) (ix : BitVec 17) (version : BitVec 16) (m : WatchValue) (s : State) :
    exec (.watchProposal e ix version m) s = done (actWatchProposal e ix version m) s := rfl
theorem exec_watchBudgetInterval (s : State) : exec .watchBudgetInterval s = done actWatchBudgetInterval s := rfl
theorem exec_watchIdleStart (e : EngineId) (seq : List WatchStep) (s : State) :
    exec (.watchIdleStart e seq) s = done (actWatchIdleStart e seq) s := rfl
theorem exec_dacTrimApply (o : OutputId) (trim : Word) (s : State) : exec (.dacTrimApply o trim) s = done (actDacTrimApply o trim) s := rfl
theorem exec_tendData (fn : FuncId) (w : Option Word) (s : State) : exec (.tendData fn w) s = done (actTendData fn w) s := rfl
theorem exec_laneLoss (p : PortId) (l : Fin 4) (errors : BitVec 16) (s : State) :
    exec (.laneLoss p l errors) s = done (actLaneLoss p l errors) s := rfl
theorem exec_widthChange (p : PortId) (s : State) : exec (.widthChange p) s = done (actWidthChange p) s := rfl
theorem exec_laneReady (p : PortId) (l : Fin 4) (delay : BitVec 16) (s : State) :
    exec (.laneReady p l delay) s = done (actLaneReady p l delay) s := rfl
theorem exec_retrainRestart (p : PortId) (l : Fin 4) (s : State) : exec (.retrainRestart p l) s = done (actRetrainRestart p l) s := rfl
theorem exec_eyeScanDone (p : PortId) (eyes : List (BitVec 6 × BitVec 8)) (coef : Word) (s : State) :
    exec (.eyeScanDone p eyes coef) s = done (actEyeScanDone p eyes coef) s := rfl
theorem exec_idleWindowEnd (p : PortId) (l : Fin 4) (idle : BitVec 13) (s : State) :
    exec (.idleWindowEnd p l idle) s = done (actIdleWindowEnd p l idle) s := rfl
theorem exec_sleepCtrlWrite (fn : FuncId) (p : PortId) (v : Word) (s : State) :
    exec (.sleepCtrlWrite fn p v) s = done (actSleepCtrlWrite fn p v) s := rfl
theorem exec_autoSleep (p : PortId) (s : State) : exec (.autoSleep p) s = done (actAutoSleep p) s := rfl
theorem exec_sleep (p : PortId) (l : Fin 4) (s : State) : exec (.sleep p l) s = done (actSleep p l) s := rfl
theorem exec_laneWake (p : PortId) (l : Fin 4) (rx : Bool) (s : State) : exec (.laneWake p l rx) s = done (actLaneWake p l rx) s := rfl
theorem exec_epoch (p : PortId) (number : BitVec 16) (s : State) : exec (.epoch p number) s = done (actEpoch p number) s := rfl
theorem exec_epochBoundary (links : List (Fin 64 × PortId × Fin 64)) (s : State) :
    exec (.epochBoundary links) s = done (actEpochBoundary links) s := rfl
theorem exec_helloTimer (p : PortId) (s : State) : exec (.helloTimer p) s = done (actHelloTimer p) s := rfl
theorem exec_frameSend (p : PortId) (s : State) : exec (.frameSend p) s = done (actFrameSend p) s := rfl
theorem exec_ackTimeout (p : PortId) (s : State) : exec (.ackTimeout p) s = done (actAckTimeout p) s := rfl
theorem exec_ack (p : PortId) (seq : BitVec 12) (s : State) : exec (.ack p seq) s = done (actAck p seq) s := rfl
theorem exec_nak (p : PortId) (seq : BitVec 12) (s : State) : exec (.nak p seq) s = done (actNak p seq) s := rfl
theorem exec_laneMap (p : PortId) (acc rdy echo : BitVec 4) (s : State) : exec (.laneMap p acc rdy echo) s = done (actLaneMap p acc rdy echo) s := rfl
theorem exec_hello (p : PortId) (serial chair : BitVec 64) (id : BitVec 6) (port : PortId) (s : State) :
    exec (.hello p serial chair id port) s = done (actHello p serial chair id port) s := rfl
theorem exec_stub (p : PortId) (h : FrameHead) (s : State) : exec (.stub p h) s = done (actStub p h) s := rfl
theorem exec_msg (p : PortId) (h : FrameHead) (tag group : BitVec 16) (shot : BitVec 48) (attempt : BitVec 4) (v : Word) (s : State) :
    exec (.msg p h tag group shot attempt v) s = done (actMsg p h tag group shot attempt v) s := rfl
theorem exec_startFrame (p : PortId) (h : FrameHead) (tag : BitVec 16) (s : State) :
    exec (.startFrame p h tag) s = done (actStartFrame p h tag) s := rfl
theorem exec_trig (p : PortId) (h : FrameHead) (tag : BitVec 16) (fire : Stamp) (s : State) :
    exec (.trig p h tag fire) s = done (actTrig p h tag fire) s := rfl
theorem exec_dec (p : PortId) (h : FrameHead) (fn : Bool) (index : BitVec 11) (v : BitVec 2) (flags : BitVec 4) (group : BitVec 16) (w : Stamp) (s : State) :
    exec (.dec p h fn index v flags group w) s = done (actDec p h fn index v flags group w) s := rfl
theorem exec_voidFrame (p : PortId) (h : FrameHead) (group : BitVec 16) (attempt : BitVec 4) (shot : BitVec 48) (causes : Word) (s : State) :
    exec (.voidFrame p h group attempt shot causes) s = done (actVoidFrame p h group attempt shot causes) s := rfl
theorem exec_readyFrame (p : PortId) (h : FrameHead) (group : BitVec 16) (attempt : BitVec 4) (shot : BitVec 48) (s : State) :
    exec (.readyFrame p h group attempt shot) s = done (actReadyFrame p h group attempt shot) s := rfl
theorem exec_rstart (p : PortId) (h : FrameHead) (group : BitVec 16) (attempt : BitVec 4) (shot : BitVec 48) (start : Stamp) (s : State) :
    exec (.rstart p h group attempt shot start) s = done (actRstart p h group attempt shot start) s := rfl
theorem exec_settle (p : PortId) (h : FrameHead) (group : BitVec 16) (attempt : BitVec 4) (shot : BitVec 48) (s : State) :
    exec (.settle p h group attempt shot) s = done (actSettle p h group attempt shot) s := rfl
theorem exec_openFrame (p : PortId) (h : FrameHead) (group : BitVec 16) (attempt : BitVec 4) (shot : BitVec 48) (s : State) :
    exec (.openFrame p h group attempt shot) s = done (actOpenFrame p h group attempt shot) s := rfl
theorem exec_joinReq (p : PortId) (h : FrameHead) (serial : BitVec 64) (s : State) :
    exec (.joinReq p h serial) s = done (actJoinReq p h serial) s := rfl
theorem exec_admitFrame (p : PortId) (h : FrameHead) (id : BitVec 6) (capture epoch : BitVec 64) (s : State) :
    exec (.admitFrame p h id capture epoch) s = done (actAdmitFrame p h id capture epoch) s := rfl
theorem exec_routes (p : PortId) (h : FrameHead) (bytes : List Byte) (s : State) : exec (.routes p h bytes) s = done (actRoutes p h bytes) s := rfl
theorem exec_present (p : PortId) (h : FrameHead) (s : State) : exec (.present p h) s = done (actPresent p h) s := rfl
theorem exec_lost (p : PortId) (h : FrameHead) (id : BitVec 6) (s : State) : exec (.lost p h id) s = done (actLost p h id) s := rfl
theorem exec_leaveFrame (p : PortId) (h : FrameHead) (s : State) : exec (.leaveFrame p h) s = done (actLeaveFrame p h) s := rfl
theorem exec_syncCapt (p : PortId) (h : FrameHead) (capture : Stamp) (s : State) :
    exec (.syncCapt p h capture) s = done (actSyncCapt p h capture) s := rfl
theorem exec_expiry (p : PortId) (h : FrameHead) (type : Byte) (group : BitVec 16) (s : State) :
    exec (.expiry p h type group) s = done (actExpiry p h type group) s := rfl
theorem exec_member (p : PortId) (h : FrameHead) (id : BitVec 6) (serial : BitVec 64) (s : State) :
    exec (.member p h id serial) s = done (actMember p h id serial) s := rfl
theorem exec_join (fn : FuncId) (s : State) : exec (.join fn) s = done (actJoin fn) s := rfl
theorem exec_joinTimeout (s : State) : exec .joinTimeout s = done actJoinTimeout s := rfl
theorem exec_leave (fn : FuncId) (s : State) : exec (.leave fn) s = done (actLeave fn) s := rfl
theorem exec_leaveTimeout (s : State) : exec .leaveTimeout s = done actLeaveTimeout s := rfl
theorem exec_portClrCounts (fn : FuncId) (p : PortId) (s : State) : exec (.portClrCounts fn p) s = done (actPortClrCounts fn p) s := rfl
theorem exec_tagData (fn : FuncId) (w : Option Word) (s : State) : exec (.tagData fn w) s = done (actTagData fn w) s := rfl
theorem exec_subData (fn : FuncId) (w : Option Word) (s : State) : exec (.subData fn w) s = done (actSubData fn w) s := rfl
theorem exec_fenceReq (fn : FuncId) (v : Word) (s : State) : exec (.fenceReq fn v) s = done (actFenceReq fn v) s := rfl
theorem exec_fenceComplete (fn : FuncId) (s : State) : exec (.fenceComplete fn) s = done (actFenceComplete fn) s := rfl
theorem exec_fenceTimeout (fn : FuncId) (s : State) : exec (.fenceTimeout fn) s = done (actFenceTimeout fn) s := rfl
theorem exec_fenceResultRead (fn : FuncId) (s : State) : exec (.fenceResultRead fn) s = done (actFenceResultRead fn) s := rfl
theorem exec_gdata (fn : FuncId) (w : Option Word) (s : State) : exec (.gdata fn w) s = done (actGdata fn w) s := rfl
theorem exec_guestEnable (g : GuestId) (s : State) : exec (.guestEnable g) s = done (actGuestEnable g) s := rfl
theorem exec_guestReady (g : GuestId) (s : State) : exec (.guestReady g) s = done (actGuestReady g) s := rfl
theorem exec_guestDisable (g : GuestId) (s : State) : exec (.guestDisable g) s = done (actGuestDisable g) s := rfl
theorem exec_guestDrainDone (g : GuestId) (s : State) : exec (.guestDrainDone g) s = done (actGuestDrainDone g) s := rfl
theorem exec_vfFlr (g : GuestId) (s : State) : exec (.vfFlr g) s = done (actVfFlr g) s := rfl
theorem exec_sriovDisable (enable : Bool) (numVfs : FuncId) (s : State) :
    exec (.sriovDisable enable numVfs) s = done (actSriovDisable enable numVfs) s := rfl
theorem exec_feedLow (mv : BitVec 16) (byCold : Bool) (s : State) : exec (.feedLow mv byCold) s = done (actFeedLow mv byCold) s := rfl
theorem exec_feedHigh (mv : BitVec 16) (s : State) : exec (.feedHigh mv) s = done (actFeedHigh mv) s := rfl
theorem exec_stageFault (s : State) : exec .stageFault s = done actStageFault s := rfl
theorem exec_vbusLow (mv : BitVec 12) (byCold : Bool) (s : State) : exec (.vbusLow mv byCold) s = done (actVbusLow mv byCold) s := rfl
theorem exec_swap (fn : FuncId) (s : State) : exec (.swap fn) s = done (actSwap fn) s := rfl
theorem exec_loadShed (s : State) : exec .loadShed s = done actLoadShed s := rfl
theorem exec_vbusReturn (mv : BitVec 12) (s : State) : exec (.vbusReturn mv) s = done (actVbusReturn mv) s := rfl
theorem exec_clockRelock (s : State) : exec .clockRelock s = done actClockRelock s := rfl
theorem exec_gateResume (s : State) : exec .gateResume s = done actGateResume s := rfl
theorem exec_switchoverAbandon (mv : BitVec 12) (s : State) : exec (.switchoverAbandon mv) s = done (actSwitchoverAbandon mv) s := rfl
theorem exec_dualStartResolve (s : State) : exec .dualStartResolve s = done actDualStartResolve s := rfl
theorem exec_lantern (ix : Fin 2) (missed : BitVec 16) (handover : Bool) (r : KeeperReading) (s : State) :
    exec (.lantern ix missed handover r) s = done (actLantern ix missed handover r) s := rfl
theorem exec_lanternLost (ix : Fin 2) (s : State) : exec (.lanternLost ix) s = done (actLanternLost ix) s := rfl
theorem exec_trimRecord (t : Trims) (drifted : Bool) (est : BitVec 16) (s : State) :
    exec (.trimRecord t drifted est) s = done (actTrimRecord t drifted est) s := rfl
theorem exec_coldCheck (pass : Bool) (s : State) : exec (.coldCheck pass) s = done (actColdCheck pass) s := rfl
theorem exec_stageArmed (ix : Fin 2) (s : State) : exec (.stageArmed ix) s = done (actStageArmed ix) s := rfl
theorem exec_auxLost (ix : Fin 2) (s : State) : exec (.auxLost ix) s = done (actAuxLost ix) s := rfl
theorem exec_powerLoss (s : State) : exec .powerLoss s = done actPowerLoss s := rfl
theorem exec_powerOnReset (ix : Fin 2) (s : State) : exec (.powerOnReset ix) s = done (actPowerOnReset ix) s := rfl
theorem exec_bothFeedsLost (mv : BitVec 12) (s : State) : exec (.bothFeedsLost mv) s = done (actBothFeedsLost mv) s := rfl
theorem exec_powerTarget (fn : FuncId) (v : Fin 4) (s : State) : exec (.powerTarget fn v) s = done (actPowerTarget fn v) s := rfl
theorem exec_powerStateDone (dieTemp : BitVec 16) (s : State) : exec (.powerStateDone dieTemp) s = done (actPowerStateDone dieTemp) s := rfl
theorem exec_thresholdFire (level : Fin 4) (samples : List SensorSample) (s : State) :
    exec (.thresholdFire level samples) s = done (actThresholdFire level samples) s := rfl
theorem exec_thresholdClear (level : Fin 3) (samples : List SensorSample) (s : State) :
    exec (.thresholdClear level samples) s = done (actThresholdClear level samples) s := rfl
theorem exec_critOutputMute (o : AnyOutput) (s : State) : exec (.critOutputMute o) s = done (actCritOutputMute o) s := rfl
theorem exec_sensorBroken (ix : Fin 80) (cause : Fin 5) (samples : List SensorSample) (s : State) :
    exec (.sensorBroken ix cause samples) s = done (actSensorBroken ix cause samples) s := rfl
theorem exec_hardTrip (h : Fin 16) (s : State) : exec (.hardTrip h) s = done (actHardTrip h) s := rfl
theorem exec_dormantExit (ext : BitVec 16) (below : Bool) (s : State) : exec (.dormantExit ext below) s = done (actDormantExit ext below) s := rfl
theorem exec_lifeRecord (average : BitVec 16) (s : State) : exec (.lifeRecord average) s = done (actLifeRecord average) s := rfl
theorem exec_lifeCycle (fn : FuncId) (s : State) : exec (.lifeCycle fn) s = done (actLifeCycle fn) s := rfl
theorem exec_passport (fn : FuncId) (s : State) : exec (.passport fn) s = done (actPassport fn) s := rfl
theorem exec_passportDone (s : State) : exec .passportDone s = done actPassportDone s := rfl
theorem exec_extend (fn : FuncId) (s : State) : exec (.extend fn) s = done (actExtend fn) s := rfl
theorem exec_scrap (fn : FuncId) (s : State) : exec (.scrap fn) s = done (actScrap fn) s := rfl
theorem exec_securityCmdDone (s : State) : exec .securityCmdDone s = done actSecurityCmdDone s := rfl
theorem exec_meshBreach (s : State) : exec .meshBreach s = done actMeshBreach s := rfl
theorem exec_supplyGlitch (s : State) : exec .supplyGlitch s = done actSupplyGlitch s := rfl
theorem exec_tempAtReset (ext : BitVec 16) (s : State) : exec (.tempAtReset ext) s = done (actTempAtReset ext) s := rfl
theorem exec_debugUnlock (token : List Byte) (s : State) : exec (.debugUnlock token) s = done (actDebugUnlock token) s := rfl
theorem exec_bypass (s : State) : exec .bypass s = done actBypass s := rfl
theorem exec_idcode (s : State) : exec .idcode s = done actIdcode s := rfl
theorem exec_samplePreload (s : State) : exec .samplePreload s = done actSamplePreload s := rfl
theorem exec_extest (s : State) : exec .extest s = done actExtest s := rfl
theorem exec_clampInstr (s : State) : exec .clampInstr s = done actClampInstr s := rfl
theorem exec_highz (s : State) : exec .highz s = done actHighz s := rfl
theorem exec_extestPulse (s : State) : exec .extestPulse s = done actExtestPulse s := rfl
theorem exec_extestTrain (s : State) : exec .extestTrain s = done actExtestTrain s := rfl
theorem exec_coldStart (ext : BitVec 16) (goodA goodB : Bool) (trimsA trimsB : Trims) (s : State) :
    exec (.coldStart ext goodA goodB trimsA trimsB) s = done (actColdStart ext goodA goodB trimsA trimsB) s := rfl
theorem exec_firmwareStart (gen : Fin 5) (width : BitVec 5) (refmode : BitVec 2) (s : State) :
    exec (.firmwareStart gen width refmode) s = done (actFirmwareStart gen width refmode) s := rfl
theorem exec_coldStartReady (dieTemp : BitVec 16) (sealOk : Bool) (bad : List Page) (s : State) :
    exec (.coldStartReady dieTemp sealOk bad) s = done (actColdStartReady dieTemp sealOk bad) s := rfl
theorem exec_resetN (pin : ResetPin) (s : State) : exec (.resetN pin) s = done (actResetN pin) s := rfl
theorem exec_resetCtrlChip (fn : FuncId) (s : State) : exec (.resetCtrlChip fn) s = done (actResetCtrlChip fn) s := rfl
theorem exec_regionReset (fn : FuncId) (n : RegionId) (s : State) : exec (.regionReset fn n) s = done (actRegionReset fn n) s := rfl
theorem exec_blockRst (fn : FuncId) (k : BlockId) (s : State) : exec (.blockRst fn k) s = done (actBlockRst fn k) s := rfl
theorem exec_regionResetDone (n : RegionId) (bad : List Page) (s : State) : exec (.regionResetDone n bad) s = done (actRegionResetDone n bad) s := rfl
theorem exec_blockResetDone (k : BlockId) (bad : List Page) (s : State) : exec (.blockResetDone k bad) s = done (actBlockResetDone k bad) s := rfl
theorem exec_fwStage (fn : FuncId) (s : State) : exec (.fwStage fn) s = done (actFwStage fn) s := rfl
theorem exec_fwStageDone (s : State) : exec .fwStageDone s = done actFwStageDone s := rfl
theorem exec_fwSwitch (fn : FuncId) (s : State) : exec (.fwSwitch fn) s = done (actFwSwitch fn) s := rfl
theorem exec_fwHoldReached (s : State) : exec .fwHoldReached s = done actFwHoldReached s := rfl
theorem exec_fwHoldTimeout (s : State) : exec .fwHoldTimeout s = done actFwHoldTimeout s := rfl
theorem exec_fwConfirmTimeout (s : State) : exec .fwConfirmTimeout s = done actFwConfirmTimeout s := rfl
theorem exec_fwRecover (fn : FuncId) (s : State) : exec (.fwRecover fn) s = done (actFwRecover fn) s := rfl
theorem exec_logData (fn : FuncId) (s : State) : exec (.logData fn) s = done (actLogData fn) s := rfl
theorem exec_mData (fn : FuncId) (s : State) : exec (.mData fn) s = done (actMData fn) s := rfl
theorem exec_scrubRead (m : MemWord) (found : ScrubFound) (s : State) : exec (.scrubRead m found) s = done (actScrubRead m found) s := rfl
theorem exec_watchJobStart (k : BlockId) (s : State) : exec (.watchJobStart k) s = done (actWatchJobStart k) s := rfl
theorem exec_watchYield (k : BlockId) (s : State) : exec (.watchYield k) s = done (actWatchYield k) s := rfl
theorem exec_feedOutOfRange (ix : Fin 2) (mv : BitVec 16) (s : State) : exec (.feedOutOfRange ix mv) s = done (actFeedOutOfRange ix mv) s := rfl
theorem exec_auxReturn (ix : Fin 2) (s : State) : exec (.auxReturn ix) s = done (actAuxReturn ix) s := rfl
theorem exec_fwConfirm (s : State) : exec .fwConfirm s = done actFwConfirm s := rfl
theorem exec_pfFlr (s : State) : exec .pfFlr s = done actPfFlr s := rfl
theorem exec_hostLinkDown (s : State) : exec .hostLinkDown s = done actHostLinkDown s := rfl
theorem exec_hostLinkRecovery (gen : Fin 5) (width : BitVec 5) (refmode : BitVec 2) (s : State) :
    exec (.hostLinkRecovery gen width refmode) s = done (actHostLinkRecovery gen width refmode) s := rfl
theorem exec_importDeadlinePass (p : PortId) (s : State) : exec (.importDeadlinePass p) s = done (actImportDeadlinePass p) s := rfl
theorem exec_crcFailFrame (p : PortId) (s : State) : exec (.crcFailFrame p) s = done (actCrcFailFrame p) s := rfl
theorem exec_laneTrainFail (p : PortId) (l : Fin 4) (skew : Bool) (s : State) :
    exec (.laneTrainFail p l skew) s = done (actLaneTrainFail p l skew) s := rfl
theorem exec_triggerArmed (u : TriggerId) (t : Stamp) (raws : List (BitVec 12)) (s : State) :
    exec (.triggerArmed u t raws) s = done (actTriggerArmed u t raws) s := rfl
theorem exec_sensorRateChange (ix : Fin 80) (samples : List SensorSample) (s : State) :
    exec (.sensorRateChange ix samples) s = done (actSensorRateChange ix samples) s := rfl

end Sys2Proof.Machine
end

