-- ==== Sys2Proof/Laws/Reads.lean ====
section
/-! SUPPORT. What every part of the state reads after each primitive change and after each act that makes one: the part changed, and
every other part as before. -/

namespace Sys2Proof.Machine

@[simp] theorem run_setF_frame (p : Page) (f : Field) (v : Nat) (s : State) :
    (run (setF p f v) s).mem = s.mem ∧ (run (setF p f v) s).tbl = s.tbl ∧ (run (setF p f v) s).out = s.out ∧ (run (setF p f v) s).rdata = s.rdata ∧ (run (setF p f v) s).free = s.free ∧ (run (setF p f v) s).time = s.time ∧ (run (setF p f v) s).led = s.led ∧ (run (setF p f v) s).fab = s.fab ∧ (run (setF p f v) s).tend = s.tend ∧ (run (setF p f v) s).power = s.power ∧ (run (setF p f v) s).start = s.start ∧ (run (setF p f v) s).engs = s.engs ∧ (run (setF p f v) s).tones = s.tones ∧ (run (setF p f v) s).outputs = s.outputs ∧ (run (setF p f v) s).groups = s.groups ∧ (run (setF p f v) s).blks = s.blks ∧ (run (setF p f v) s).slots = s.slots ∧ (run (setF p f v) s).trigs = s.trigs ∧ (run (setF p f v) s).rxs = s.rxs ∧ (run (setF p f v) s).funcs = s.funcs ∧ (run (setF p f v) s).formers = s.formers ∧ (run (setF p f v) s).capqs = s.capqs ∧ (run (setF p f v) s).coincs = s.coincs ∧ (run (setF p f v) s).dsps = s.dsps ∧ (run (setF p f v) s).dqs = s.dqs ∧ (run (setF p f v) s).links = s.links ∧ (run (setF p f v) s).fences = s.fences :=
  by refine ⟨?_, ?_, ?_, ?_, ?_, ?_, ?_, ?_, ?_, ?_, ?_, ?_, ?_, ?_, ?_, ?_, ?_, ?_, ?_, ?_, ?_, ?_, ?_, ?_, ?_, ?_, ?_⟩ <;> rfl

@[simp] theorem run_setWord_frame (t : Table) (i v : Nat) (s : State) :
    (run (setWord t i v) s).regs = s.regs ∧ (run (setWord t i v) s).mem = s.mem ∧ (run (setWord t i v) s).out = s.out ∧ (run (setWord t i v) s).rdata = s.rdata ∧ (run (setWord t i v) s).free = s.free ∧ (run (setWord t i v) s).time = s.time ∧ (run (setWord t i v) s).led = s.led ∧ (run (setWord t i v) s).fab = s.fab ∧ (run (setWord t i v) s).tend = s.tend ∧ (run (setWord t i v) s).power = s.power ∧ (run (setWord t i v) s).start = s.start ∧ (run (setWord t i v) s).engs = s.engs ∧ (run (setWord t i v) s).tones = s.tones ∧ (run (setWord t i v) s).outputs = s.outputs ∧ (run (setWord t i v) s).groups = s.groups ∧ (run (setWord t i v) s).blks = s.blks ∧ (run (setWord t i v) s).slots = s.slots ∧ (run (setWord t i v) s).trigs = s.trigs ∧ (run (setWord t i v) s).rxs = s.rxs ∧ (run (setWord t i v) s).funcs = s.funcs ∧ (run (setWord t i v) s).formers = s.formers ∧ (run (setWord t i v) s).capqs = s.capqs ∧ (run (setWord t i v) s).coincs = s.coincs ∧ (run (setWord t i v) s).dsps = s.dsps ∧ (run (setWord t i v) s).dqs = s.dqs ∧ (run (setWord t i v) s).links = s.links ∧ (run (setWord t i v) s).fences = s.fences :=
  by refine ⟨?_, ?_, ?_, ?_, ?_, ?_, ?_, ?_, ?_, ?_, ?_, ?_, ?_, ?_, ?_, ?_, ?_, ?_, ?_, ?_, ?_, ?_, ?_, ?_, ?_, ?_, ?_⟩ <;> rfl

@[simp] theorem run_emit_frame (x : Emit) (s : State) :
    (run (emit x) s).regs = s.regs ∧ (run (emit x) s).mem = s.mem ∧ (run (emit x) s).tbl = s.tbl ∧ (run (emit x) s).rdata = s.rdata ∧ (run (emit x) s).free = s.free ∧ (run (emit x) s).time = s.time ∧ (run (emit x) s).led = s.led ∧ (run (emit x) s).fab = s.fab ∧ (run (emit x) s).tend = s.tend ∧ (run (emit x) s).power = s.power ∧ (run (emit x) s).start = s.start ∧ (run (emit x) s).engs = s.engs ∧ (run (emit x) s).tones = s.tones ∧ (run (emit x) s).outputs = s.outputs ∧ (run (emit x) s).groups = s.groups ∧ (run (emit x) s).blks = s.blks ∧ (run (emit x) s).slots = s.slots ∧ (run (emit x) s).trigs = s.trigs ∧ (run (emit x) s).rxs = s.rxs ∧ (run (emit x) s).funcs = s.funcs ∧ (run (emit x) s).formers = s.formers ∧ (run (emit x) s).capqs = s.capqs ∧ (run (emit x) s).coincs = s.coincs ∧ (run (emit x) s).dsps = s.dsps ∧ (run (emit x) s).dqs = s.dqs ∧ (run (emit x) s).links = s.links ∧ (run (emit x) s).fences = s.fences :=
  by refine ⟨?_, ?_, ?_, ?_, ?_, ?_, ?_, ?_, ?_, ?_, ?_, ?_, ?_, ?_, ?_, ?_, ?_, ?_, ?_, ?_, ?_, ?_, ?_, ?_, ?_, ?_, ?_⟩ <;> rfl

@[simp] theorem run_setRdata_frame (v : Nat) (s : State) :
    (run (setRdata v) s).regs = s.regs ∧ (run (setRdata v) s).mem = s.mem ∧ (run (setRdata v) s).tbl = s.tbl ∧ (run (setRdata v) s).out = s.out ∧ (run (setRdata v) s).free = s.free ∧ (run (setRdata v) s).time = s.time ∧ (run (setRdata v) s).led = s.led ∧ (run (setRdata v) s).fab = s.fab ∧ (run (setRdata v) s).tend = s.tend ∧ (run (setRdata v) s).power = s.power ∧ (run (setRdata v) s).start = s.start ∧ (run (setRdata v) s).engs = s.engs ∧ (run (setRdata v) s).tones = s.tones ∧ (run (setRdata v) s).outputs = s.outputs ∧ (run (setRdata v) s).groups = s.groups ∧ (run (setRdata v) s).blks = s.blks ∧ (run (setRdata v) s).slots = s.slots ∧ (run (setRdata v) s).trigs = s.trigs ∧ (run (setRdata v) s).rxs = s.rxs ∧ (run (setRdata v) s).funcs = s.funcs ∧ (run (setRdata v) s).formers = s.formers ∧ (run (setRdata v) s).capqs = s.capqs ∧ (run (setRdata v) s).coincs = s.coincs ∧ (run (setRdata v) s).dsps = s.dsps ∧ (run (setRdata v) s).dqs = s.dqs ∧ (run (setRdata v) s).links = s.links ∧ (run (setRdata v) s).fences = s.fences :=
  by refine ⟨?_, ?_, ?_, ?_, ?_, ?_, ?_, ?_, ?_, ?_, ?_, ?_, ?_, ?_, ?_, ?_, ?_, ?_, ?_, ?_, ?_, ?_, ?_, ?_, ?_, ?_, ?_⟩ <;> rfl

@[simp] theorem run_drawFree_frame  (s : State) :
    (run (drawFree) s).regs = s.regs ∧ (run (drawFree) s).mem = s.mem ∧ (run (drawFree) s).tbl = s.tbl ∧ (run (drawFree) s).out = s.out ∧ (run (drawFree) s).rdata = s.rdata ∧ (run (drawFree) s).time = s.time ∧ (run (drawFree) s).led = s.led ∧ (run (drawFree) s).fab = s.fab ∧ (run (drawFree) s).tend = s.tend ∧ (run (drawFree) s).power = s.power ∧ (run (drawFree) s).start = s.start ∧ (run (drawFree) s).engs = s.engs ∧ (run (drawFree) s).tones = s.tones ∧ (run (drawFree) s).outputs = s.outputs ∧ (run (drawFree) s).groups = s.groups ∧ (run (drawFree) s).blks = s.blks ∧ (run (drawFree) s).slots = s.slots ∧ (run (drawFree) s).trigs = s.trigs ∧ (run (drawFree) s).rxs = s.rxs ∧ (run (drawFree) s).funcs = s.funcs ∧ (run (drawFree) s).formers = s.formers ∧ (run (drawFree) s).capqs = s.capqs ∧ (run (drawFree) s).coincs = s.coincs ∧ (run (drawFree) s).dsps = s.dsps ∧ (run (drawFree) s).dqs = s.dqs ∧ (run (drawFree) s).links = s.links ∧ (run (drawFree) s).fences = s.fences :=
  by refine ⟨?_, ?_, ?_, ?_, ?_, ?_, ?_, ?_, ?_, ?_, ?_, ?_, ?_, ?_, ?_, ?_, ?_, ?_, ?_, ?_, ?_, ?_, ?_, ?_, ?_, ?_, ?_⟩ <;> rfl

@[simp] theorem run_updEng_frame (i : Nat) (f : Engine → Engine) (s : State) :
    (run (updEng i f) s).regs = s.regs ∧ (run (updEng i f) s).mem = s.mem ∧ (run (updEng i f) s).tbl = s.tbl ∧ (run (updEng i f) s).out = s.out ∧ (run (updEng i f) s).rdata = s.rdata ∧ (run (updEng i f) s).free = s.free ∧ (run (updEng i f) s).time = s.time ∧ (run (updEng i f) s).led = s.led ∧ (run (updEng i f) s).fab = s.fab ∧ (run (updEng i f) s).tend = s.tend ∧ (run (updEng i f) s).power = s.power ∧ (run (updEng i f) s).start = s.start ∧ (run (updEng i f) s).tones = s.tones ∧ (run (updEng i f) s).outputs = s.outputs ∧ (run (updEng i f) s).groups = s.groups ∧ (run (updEng i f) s).blks = s.blks ∧ (run (updEng i f) s).slots = s.slots ∧ (run (updEng i f) s).trigs = s.trigs ∧ (run (updEng i f) s).rxs = s.rxs ∧ (run (updEng i f) s).funcs = s.funcs ∧ (run (updEng i f) s).formers = s.formers ∧ (run (updEng i f) s).capqs = s.capqs ∧ (run (updEng i f) s).coincs = s.coincs ∧ (run (updEng i f) s).dsps = s.dsps ∧ (run (updEng i f) s).dqs = s.dqs ∧ (run (updEng i f) s).links = s.links ∧ (run (updEng i f) s).fences = s.fences :=
  by refine ⟨?_, ?_, ?_, ?_, ?_, ?_, ?_, ?_, ?_, ?_, ?_, ?_, ?_, ?_, ?_, ?_, ?_, ?_, ?_, ?_, ?_, ?_, ?_, ?_, ?_, ?_, ?_⟩ <;> rfl

@[simp] theorem run_updTone_frame (i : Nat) (f : Tone → Tone) (s : State) :
    (run (updTone i f) s).regs = s.regs ∧ (run (updTone i f) s).mem = s.mem ∧ (run (updTone i f) s).tbl = s.tbl ∧ (run (updTone i f) s).out = s.out ∧ (run (updTone i f) s).rdata = s.rdata ∧ (run (updTone i f) s).free = s.free ∧ (run (updTone i f) s).time = s.time ∧ (run (updTone i f) s).led = s.led ∧ (run (updTone i f) s).fab = s.fab ∧ (run (updTone i f) s).tend = s.tend ∧ (run (updTone i f) s).power = s.power ∧ (run (updTone i f) s).start = s.start ∧ (run (updTone i f) s).engs = s.engs ∧ (run (updTone i f) s).outputs = s.outputs ∧ (run (updTone i f) s).groups = s.groups ∧ (run (updTone i f) s).blks = s.blks ∧ (run (updTone i f) s).slots = s.slots ∧ (run (updTone i f) s).trigs = s.trigs ∧ (run (updTone i f) s).rxs = s.rxs ∧ (run (updTone i f) s).funcs = s.funcs ∧ (run (updTone i f) s).formers = s.formers ∧ (run (updTone i f) s).capqs = s.capqs ∧ (run (updTone i f) s).coincs = s.coincs ∧ (run (updTone i f) s).dsps = s.dsps ∧ (run (updTone i f) s).dqs = s.dqs ∧ (run (updTone i f) s).links = s.links ∧ (run (updTone i f) s).fences = s.fences :=
  by refine ⟨?_, ?_, ?_, ?_, ?_, ?_, ?_, ?_, ?_, ?_, ?_, ?_, ?_, ?_, ?_, ?_, ?_, ?_, ?_, ?_, ?_, ?_, ?_, ?_, ?_, ?_, ?_⟩ <;> rfl

@[simp] theorem run_updOutput_frame (i : Nat) (f : Output → Output) (s : State) :
    (run (updOutput i f) s).regs = s.regs ∧ (run (updOutput i f) s).mem = s.mem ∧ (run (updOutput i f) s).tbl = s.tbl ∧ (run (updOutput i f) s).out = s.out ∧ (run (updOutput i f) s).rdata = s.rdata ∧ (run (updOutput i f) s).free = s.free ∧ (run (updOutput i f) s).time = s.time ∧ (run (updOutput i f) s).led = s.led ∧ (run (updOutput i f) s).fab = s.fab ∧ (run (updOutput i f) s).tend = s.tend ∧ (run (updOutput i f) s).power = s.power ∧ (run (updOutput i f) s).start = s.start ∧ (run (updOutput i f) s).engs = s.engs ∧ (run (updOutput i f) s).tones = s.tones ∧ (run (updOutput i f) s).groups = s.groups ∧ (run (updOutput i f) s).blks = s.blks ∧ (run (updOutput i f) s).slots = s.slots ∧ (run (updOutput i f) s).trigs = s.trigs ∧ (run (updOutput i f) s).rxs = s.rxs ∧ (run (updOutput i f) s).funcs = s.funcs ∧ (run (updOutput i f) s).formers = s.formers ∧ (run (updOutput i f) s).capqs = s.capqs ∧ (run (updOutput i f) s).coincs = s.coincs ∧ (run (updOutput i f) s).dsps = s.dsps ∧ (run (updOutput i f) s).dqs = s.dqs ∧ (run (updOutput i f) s).links = s.links ∧ (run (updOutput i f) s).fences = s.fences :=
  by refine ⟨?_, ?_, ?_, ?_, ?_, ?_, ?_, ?_, ?_, ?_, ?_, ?_, ?_, ?_, ?_, ?_, ?_, ?_, ?_, ?_, ?_, ?_, ?_, ?_, ?_, ?_, ?_⟩ <;> rfl

@[simp] theorem run_updGroup_frame (i : Nat) (f : Group → Group) (s : State) :
    (run (updGroup i f) s).regs = s.regs ∧ (run (updGroup i f) s).mem = s.mem ∧ (run (updGroup i f) s).tbl = s.tbl ∧ (run (updGroup i f) s).out = s.out ∧ (run (updGroup i f) s).rdata = s.rdata ∧ (run (updGroup i f) s).free = s.free ∧ (run (updGroup i f) s).time = s.time ∧ (run (updGroup i f) s).led = s.led ∧ (run (updGroup i f) s).fab = s.fab ∧ (run (updGroup i f) s).tend = s.tend ∧ (run (updGroup i f) s).power = s.power ∧ (run (updGroup i f) s).start = s.start ∧ (run (updGroup i f) s).engs = s.engs ∧ (run (updGroup i f) s).tones = s.tones ∧ (run (updGroup i f) s).outputs = s.outputs ∧ (run (updGroup i f) s).blks = s.blks ∧ (run (updGroup i f) s).slots = s.slots ∧ (run (updGroup i f) s).trigs = s.trigs ∧ (run (updGroup i f) s).rxs = s.rxs ∧ (run (updGroup i f) s).funcs = s.funcs ∧ (run (updGroup i f) s).formers = s.formers ∧ (run (updGroup i f) s).capqs = s.capqs ∧ (run (updGroup i f) s).coincs = s.coincs ∧ (run (updGroup i f) s).dsps = s.dsps ∧ (run (updGroup i f) s).dqs = s.dqs ∧ (run (updGroup i f) s).links = s.links ∧ (run (updGroup i f) s).fences = s.fences :=
  by refine ⟨?_, ?_, ?_, ?_, ?_, ?_, ?_, ?_, ?_, ?_, ?_, ?_, ?_, ?_, ?_, ?_, ?_, ?_, ?_, ?_, ?_, ?_, ?_, ?_, ?_, ?_, ?_⟩ <;> rfl

@[simp] theorem run_updBlk_frame (i : Nat) (f : Block → Block) (s : State) :
    (run (updBlk i f) s).regs = s.regs ∧ (run (updBlk i f) s).mem = s.mem ∧ (run (updBlk i f) s).tbl = s.tbl ∧ (run (updBlk i f) s).out = s.out ∧ (run (updBlk i f) s).rdata = s.rdata ∧ (run (updBlk i f) s).free = s.free ∧ (run (updBlk i f) s).time = s.time ∧ (run (updBlk i f) s).led = s.led ∧ (run (updBlk i f) s).fab = s.fab ∧ (run (updBlk i f) s).tend = s.tend ∧ (run (updBlk i f) s).power = s.power ∧ (run (updBlk i f) s).start = s.start ∧ (run (updBlk i f) s).engs = s.engs ∧ (run (updBlk i f) s).tones = s.tones ∧ (run (updBlk i f) s).outputs = s.outputs ∧ (run (updBlk i f) s).groups = s.groups ∧ (run (updBlk i f) s).slots = s.slots ∧ (run (updBlk i f) s).trigs = s.trigs ∧ (run (updBlk i f) s).rxs = s.rxs ∧ (run (updBlk i f) s).funcs = s.funcs ∧ (run (updBlk i f) s).formers = s.formers ∧ (run (updBlk i f) s).capqs = s.capqs ∧ (run (updBlk i f) s).coincs = s.coincs ∧ (run (updBlk i f) s).dsps = s.dsps ∧ (run (updBlk i f) s).dqs = s.dqs ∧ (run (updBlk i f) s).links = s.links ∧ (run (updBlk i f) s).fences = s.fences :=
  by refine ⟨?_, ?_, ?_, ?_, ?_, ?_, ?_, ?_, ?_, ?_, ?_, ?_, ?_, ?_, ?_, ?_, ?_, ?_, ?_, ?_, ?_, ?_, ?_, ?_, ?_, ?_, ?_⟩ <;> rfl

@[simp] theorem run_updSlot_frame (i : Nat) (f : DecSlot → DecSlot) (s : State) :
    (run (updSlot i f) s).regs = s.regs ∧ (run (updSlot i f) s).mem = s.mem ∧ (run (updSlot i f) s).tbl = s.tbl ∧ (run (updSlot i f) s).out = s.out ∧ (run (updSlot i f) s).rdata = s.rdata ∧ (run (updSlot i f) s).free = s.free ∧ (run (updSlot i f) s).time = s.time ∧ (run (updSlot i f) s).led = s.led ∧ (run (updSlot i f) s).fab = s.fab ∧ (run (updSlot i f) s).tend = s.tend ∧ (run (updSlot i f) s).power = s.power ∧ (run (updSlot i f) s).start = s.start ∧ (run (updSlot i f) s).engs = s.engs ∧ (run (updSlot i f) s).tones = s.tones ∧ (run (updSlot i f) s).outputs = s.outputs ∧ (run (updSlot i f) s).groups = s.groups ∧ (run (updSlot i f) s).blks = s.blks ∧ (run (updSlot i f) s).trigs = s.trigs ∧ (run (updSlot i f) s).rxs = s.rxs ∧ (run (updSlot i f) s).funcs = s.funcs ∧ (run (updSlot i f) s).formers = s.formers ∧ (run (updSlot i f) s).capqs = s.capqs ∧ (run (updSlot i f) s).coincs = s.coincs ∧ (run (updSlot i f) s).dsps = s.dsps ∧ (run (updSlot i f) s).dqs = s.dqs ∧ (run (updSlot i f) s).links = s.links ∧ (run (updSlot i f) s).fences = s.fences :=
  by refine ⟨?_, ?_, ?_, ?_, ?_, ?_, ?_, ?_, ?_, ?_, ?_, ?_, ?_, ?_, ?_, ?_, ?_, ?_, ?_, ?_, ?_, ?_, ?_, ?_, ?_, ?_, ?_⟩ <;> rfl

@[simp] theorem run_updTrig_frame (i : Nat) (f : TrigUnit → TrigUnit) (s : State) :
    (run (updTrig i f) s).regs = s.regs ∧ (run (updTrig i f) s).mem = s.mem ∧ (run (updTrig i f) s).tbl = s.tbl ∧ (run (updTrig i f) s).out = s.out ∧ (run (updTrig i f) s).rdata = s.rdata ∧ (run (updTrig i f) s).free = s.free ∧ (run (updTrig i f) s).time = s.time ∧ (run (updTrig i f) s).led = s.led ∧ (run (updTrig i f) s).fab = s.fab ∧ (run (updTrig i f) s).tend = s.tend ∧ (run (updTrig i f) s).power = s.power ∧ (run (updTrig i f) s).start = s.start ∧ (run (updTrig i f) s).engs = s.engs ∧ (run (updTrig i f) s).tones = s.tones ∧ (run (updTrig i f) s).outputs = s.outputs ∧ (run (updTrig i f) s).groups = s.groups ∧ (run (updTrig i f) s).blks = s.blks ∧ (run (updTrig i f) s).slots = s.slots ∧ (run (updTrig i f) s).rxs = s.rxs ∧ (run (updTrig i f) s).funcs = s.funcs ∧ (run (updTrig i f) s).formers = s.formers ∧ (run (updTrig i f) s).capqs = s.capqs ∧ (run (updTrig i f) s).coincs = s.coincs ∧ (run (updTrig i f) s).dsps = s.dsps ∧ (run (updTrig i f) s).dqs = s.dqs ∧ (run (updTrig i f) s).links = s.links ∧ (run (updTrig i f) s).fences = s.fences :=
  by refine ⟨?_, ?_, ?_, ?_, ?_, ?_, ?_, ?_, ?_, ?_, ?_, ?_, ?_, ?_, ?_, ?_, ?_, ?_, ?_, ?_, ?_, ?_, ?_, ?_, ?_, ?_, ?_⟩ <;> rfl

@[simp] theorem run_updRx_frame (i : Nat) (f : RxState → RxState) (s : State) :
    (run (updRx i f) s).regs = s.regs ∧ (run (updRx i f) s).mem = s.mem ∧ (run (updRx i f) s).tbl = s.tbl ∧ (run (updRx i f) s).out = s.out ∧ (run (updRx i f) s).rdata = s.rdata ∧ (run (updRx i f) s).free = s.free ∧ (run (updRx i f) s).time = s.time ∧ (run (updRx i f) s).led = s.led ∧ (run (updRx i f) s).fab = s.fab ∧ (run (updRx i f) s).tend = s.tend ∧ (run (updRx i f) s).power = s.power ∧ (run (updRx i f) s).start = s.start ∧ (run (updRx i f) s).engs = s.engs ∧ (run (updRx i f) s).tones = s.tones ∧ (run (updRx i f) s).outputs = s.outputs ∧ (run (updRx i f) s).groups = s.groups ∧ (run (updRx i f) s).blks = s.blks ∧ (run (updRx i f) s).slots = s.slots ∧ (run (updRx i f) s).trigs = s.trigs ∧ (run (updRx i f) s).funcs = s.funcs ∧ (run (updRx i f) s).formers = s.formers ∧ (run (updRx i f) s).capqs = s.capqs ∧ (run (updRx i f) s).coincs = s.coincs ∧ (run (updRx i f) s).dsps = s.dsps ∧ (run (updRx i f) s).dqs = s.dqs ∧ (run (updRx i f) s).links = s.links ∧ (run (updRx i f) s).fences = s.fences :=
  by refine ⟨?_, ?_, ?_, ?_, ?_, ?_, ?_, ?_, ?_, ?_, ?_, ?_, ?_, ?_, ?_, ?_, ?_, ?_, ?_, ?_, ?_, ?_, ?_, ?_, ?_, ?_, ?_⟩ <;> rfl

@[simp] theorem run_updFunc_frame (i : Nat) (f : FuncState → FuncState) (s : State) :
    (run (updFunc i f) s).regs = s.regs ∧ (run (updFunc i f) s).mem = s.mem ∧ (run (updFunc i f) s).tbl = s.tbl ∧ (run (updFunc i f) s).out = s.out ∧ (run (updFunc i f) s).rdata = s.rdata ∧ (run (updFunc i f) s).free = s.free ∧ (run (updFunc i f) s).time = s.time ∧ (run (updFunc i f) s).led = s.led ∧ (run (updFunc i f) s).fab = s.fab ∧ (run (updFunc i f) s).tend = s.tend ∧ (run (updFunc i f) s).power = s.power ∧ (run (updFunc i f) s).start = s.start ∧ (run (updFunc i f) s).engs = s.engs ∧ (run (updFunc i f) s).tones = s.tones ∧ (run (updFunc i f) s).outputs = s.outputs ∧ (run (updFunc i f) s).groups = s.groups ∧ (run (updFunc i f) s).blks = s.blks ∧ (run (updFunc i f) s).slots = s.slots ∧ (run (updFunc i f) s).trigs = s.trigs ∧ (run (updFunc i f) s).rxs = s.rxs ∧ (run (updFunc i f) s).formers = s.formers ∧ (run (updFunc i f) s).capqs = s.capqs ∧ (run (updFunc i f) s).coincs = s.coincs ∧ (run (updFunc i f) s).dsps = s.dsps ∧ (run (updFunc i f) s).dqs = s.dqs ∧ (run (updFunc i f) s).links = s.links ∧ (run (updFunc i f) s).fences = s.fences :=
  by refine ⟨?_, ?_, ?_, ?_, ?_, ?_, ?_, ?_, ?_, ?_, ?_, ?_, ?_, ?_, ?_, ?_, ?_, ?_, ?_, ?_, ?_, ?_, ?_, ?_, ?_, ?_, ?_⟩ <;> rfl

@[simp] theorem run_updFormer_frame (i : Nat) (f : Former → Former) (s : State) :
    (run (updFormer i f) s).regs = s.regs ∧ (run (updFormer i f) s).mem = s.mem ∧ (run (updFormer i f) s).tbl = s.tbl ∧ (run (updFormer i f) s).out = s.out ∧ (run (updFormer i f) s).rdata = s.rdata ∧ (run (updFormer i f) s).free = s.free ∧ (run (updFormer i f) s).time = s.time ∧ (run (updFormer i f) s).led = s.led ∧ (run (updFormer i f) s).fab = s.fab ∧ (run (updFormer i f) s).tend = s.tend ∧ (run (updFormer i f) s).power = s.power ∧ (run (updFormer i f) s).start = s.start ∧ (run (updFormer i f) s).engs = s.engs ∧ (run (updFormer i f) s).tones = s.tones ∧ (run (updFormer i f) s).outputs = s.outputs ∧ (run (updFormer i f) s).groups = s.groups ∧ (run (updFormer i f) s).blks = s.blks ∧ (run (updFormer i f) s).slots = s.slots ∧ (run (updFormer i f) s).trigs = s.trigs ∧ (run (updFormer i f) s).rxs = s.rxs ∧ (run (updFormer i f) s).funcs = s.funcs ∧ (run (updFormer i f) s).capqs = s.capqs ∧ (run (updFormer i f) s).coincs = s.coincs ∧ (run (updFormer i f) s).dsps = s.dsps ∧ (run (updFormer i f) s).dqs = s.dqs ∧ (run (updFormer i f) s).links = s.links ∧ (run (updFormer i f) s).fences = s.fences :=
  by refine ⟨?_, ?_, ?_, ?_, ?_, ?_, ?_, ?_, ?_, ?_, ?_, ?_, ?_, ?_, ?_, ?_, ?_, ?_, ?_, ?_, ?_, ?_, ?_, ?_, ?_, ?_, ?_⟩ <;> rfl

@[simp] theorem run_updCapq_frame (i : Nat) (f : CapQueue → CapQueue) (s : State) :
    (run (updCapq i f) s).regs = s.regs ∧ (run (updCapq i f) s).mem = s.mem ∧ (run (updCapq i f) s).tbl = s.tbl ∧ (run (updCapq i f) s).out = s.out ∧ (run (updCapq i f) s).rdata = s.rdata ∧ (run (updCapq i f) s).free = s.free ∧ (run (updCapq i f) s).time = s.time ∧ (run (updCapq i f) s).led = s.led ∧ (run (updCapq i f) s).fab = s.fab ∧ (run (updCapq i f) s).tend = s.tend ∧ (run (updCapq i f) s).power = s.power ∧ (run (updCapq i f) s).start = s.start ∧ (run (updCapq i f) s).engs = s.engs ∧ (run (updCapq i f) s).tones = s.tones ∧ (run (updCapq i f) s).outputs = s.outputs ∧ (run (updCapq i f) s).groups = s.groups ∧ (run (updCapq i f) s).blks = s.blks ∧ (run (updCapq i f) s).slots = s.slots ∧ (run (updCapq i f) s).trigs = s.trigs ∧ (run (updCapq i f) s).rxs = s.rxs ∧ (run (updCapq i f) s).funcs = s.funcs ∧ (run (updCapq i f) s).formers = s.formers ∧ (run (updCapq i f) s).coincs = s.coincs ∧ (run (updCapq i f) s).dsps = s.dsps ∧ (run (updCapq i f) s).dqs = s.dqs ∧ (run (updCapq i f) s).links = s.links ∧ (run (updCapq i f) s).fences = s.fences :=
  by refine ⟨?_, ?_, ?_, ?_, ?_, ?_, ?_, ?_, ?_, ?_, ?_, ?_, ?_, ?_, ?_, ?_, ?_, ?_, ?_, ?_, ?_, ?_, ?_, ?_, ?_, ?_, ?_⟩ <;> rfl

@[simp] theorem run_updCoinc_frame (i : Nat) (f : CoincState → CoincState) (s : State) :
    (run (updCoinc i f) s).regs = s.regs ∧ (run (updCoinc i f) s).mem = s.mem ∧ (run (updCoinc i f) s).tbl = s.tbl ∧ (run (updCoinc i f) s).out = s.out ∧ (run (updCoinc i f) s).rdata = s.rdata ∧ (run (updCoinc i f) s).free = s.free ∧ (run (updCoinc i f) s).time = s.time ∧ (run (updCoinc i f) s).led = s.led ∧ (run (updCoinc i f) s).fab = s.fab ∧ (run (updCoinc i f) s).tend = s.tend ∧ (run (updCoinc i f) s).power = s.power ∧ (run (updCoinc i f) s).start = s.start ∧ (run (updCoinc i f) s).engs = s.engs ∧ (run (updCoinc i f) s).tones = s.tones ∧ (run (updCoinc i f) s).outputs = s.outputs ∧ (run (updCoinc i f) s).groups = s.groups ∧ (run (updCoinc i f) s).blks = s.blks ∧ (run (updCoinc i f) s).slots = s.slots ∧ (run (updCoinc i f) s).trigs = s.trigs ∧ (run (updCoinc i f) s).rxs = s.rxs ∧ (run (updCoinc i f) s).funcs = s.funcs ∧ (run (updCoinc i f) s).formers = s.formers ∧ (run (updCoinc i f) s).capqs = s.capqs ∧ (run (updCoinc i f) s).dsps = s.dsps ∧ (run (updCoinc i f) s).dqs = s.dqs ∧ (run (updCoinc i f) s).links = s.links ∧ (run (updCoinc i f) s).fences = s.fences :=
  by refine ⟨?_, ?_, ?_, ?_, ?_, ?_, ?_, ?_, ?_, ?_, ?_, ?_, ?_, ?_, ?_, ?_, ?_, ?_, ?_, ?_, ?_, ?_, ?_, ?_, ?_, ?_, ?_⟩ <;> rfl

@[simp] theorem run_updDsp_frame (i : Nat) (f : DspState → DspState) (s : State) :
    (run (updDsp i f) s).regs = s.regs ∧ (run (updDsp i f) s).mem = s.mem ∧ (run (updDsp i f) s).tbl = s.tbl ∧ (run (updDsp i f) s).out = s.out ∧ (run (updDsp i f) s).rdata = s.rdata ∧ (run (updDsp i f) s).free = s.free ∧ (run (updDsp i f) s).time = s.time ∧ (run (updDsp i f) s).led = s.led ∧ (run (updDsp i f) s).fab = s.fab ∧ (run (updDsp i f) s).tend = s.tend ∧ (run (updDsp i f) s).power = s.power ∧ (run (updDsp i f) s).start = s.start ∧ (run (updDsp i f) s).engs = s.engs ∧ (run (updDsp i f) s).tones = s.tones ∧ (run (updDsp i f) s).outputs = s.outputs ∧ (run (updDsp i f) s).groups = s.groups ∧ (run (updDsp i f) s).blks = s.blks ∧ (run (updDsp i f) s).slots = s.slots ∧ (run (updDsp i f) s).trigs = s.trigs ∧ (run (updDsp i f) s).rxs = s.rxs ∧ (run (updDsp i f) s).funcs = s.funcs ∧ (run (updDsp i f) s).formers = s.formers ∧ (run (updDsp i f) s).capqs = s.capqs ∧ (run (updDsp i f) s).coincs = s.coincs ∧ (run (updDsp i f) s).dqs = s.dqs ∧ (run (updDsp i f) s).links = s.links ∧ (run (updDsp i f) s).fences = s.fences :=
  by refine ⟨?_, ?_, ?_, ?_, ?_, ?_, ?_, ?_, ?_, ?_, ?_, ?_, ?_, ?_, ?_, ?_, ?_, ?_, ?_, ?_, ?_, ?_, ?_, ?_, ?_, ?_, ?_⟩ <;> rfl

@[simp] theorem run_updDq_frame (i : Nat) (f : PorterQueue → PorterQueue) (s : State) :
    (run (updDq i f) s).regs = s.regs ∧ (run (updDq i f) s).mem = s.mem ∧ (run (updDq i f) s).tbl = s.tbl ∧ (run (updDq i f) s).out = s.out ∧ (run (updDq i f) s).rdata = s.rdata ∧ (run (updDq i f) s).free = s.free ∧ (run (updDq i f) s).time = s.time ∧ (run (updDq i f) s).led = s.led ∧ (run (updDq i f) s).fab = s.fab ∧ (run (updDq i f) s).tend = s.tend ∧ (run (updDq i f) s).power = s.power ∧ (run (updDq i f) s).start = s.start ∧ (run (updDq i f) s).engs = s.engs ∧ (run (updDq i f) s).tones = s.tones ∧ (run (updDq i f) s).outputs = s.outputs ∧ (run (updDq i f) s).groups = s.groups ∧ (run (updDq i f) s).blks = s.blks ∧ (run (updDq i f) s).slots = s.slots ∧ (run (updDq i f) s).trigs = s.trigs ∧ (run (updDq i f) s).rxs = s.rxs ∧ (run (updDq i f) s).funcs = s.funcs ∧ (run (updDq i f) s).formers = s.formers ∧ (run (updDq i f) s).capqs = s.capqs ∧ (run (updDq i f) s).coincs = s.coincs ∧ (run (updDq i f) s).dsps = s.dsps ∧ (run (updDq i f) s).links = s.links ∧ (run (updDq i f) s).fences = s.fences :=
  by refine ⟨?_, ?_, ?_, ?_, ?_, ?_, ?_, ?_, ?_, ?_, ?_, ?_, ?_, ?_, ?_, ?_, ?_, ?_, ?_, ?_, ?_, ?_, ?_, ?_, ?_, ?_, ?_⟩ <;> rfl

@[simp] theorem run_updLink_frame (i : Nat) (f : PortLink → PortLink) (s : State) :
    (run (updLink i f) s).regs = s.regs ∧ (run (updLink i f) s).mem = s.mem ∧ (run (updLink i f) s).tbl = s.tbl ∧ (run (updLink i f) s).out = s.out ∧ (run (updLink i f) s).rdata = s.rdata ∧ (run (updLink i f) s).free = s.free ∧ (run (updLink i f) s).time = s.time ∧ (run (updLink i f) s).led = s.led ∧ (run (updLink i f) s).fab = s.fab ∧ (run (updLink i f) s).tend = s.tend ∧ (run (updLink i f) s).power = s.power ∧ (run (updLink i f) s).start = s.start ∧ (run (updLink i f) s).engs = s.engs ∧ (run (updLink i f) s).tones = s.tones ∧ (run (updLink i f) s).outputs = s.outputs ∧ (run (updLink i f) s).groups = s.groups ∧ (run (updLink i f) s).blks = s.blks ∧ (run (updLink i f) s).slots = s.slots ∧ (run (updLink i f) s).trigs = s.trigs ∧ (run (updLink i f) s).rxs = s.rxs ∧ (run (updLink i f) s).funcs = s.funcs ∧ (run (updLink i f) s).formers = s.formers ∧ (run (updLink i f) s).capqs = s.capqs ∧ (run (updLink i f) s).coincs = s.coincs ∧ (run (updLink i f) s).dsps = s.dsps ∧ (run (updLink i f) s).dqs = s.dqs ∧ (run (updLink i f) s).fences = s.fences :=
  by refine ⟨?_, ?_, ?_, ?_, ?_, ?_, ?_, ?_, ?_, ?_, ?_, ?_, ?_, ?_, ?_, ?_, ?_, ?_, ?_, ?_, ?_, ?_, ?_, ?_, ?_, ?_, ?_⟩ <;> rfl

@[simp] theorem run_updFence_frame (i : Nat) (f : FenceState → FenceState) (s : State) :
    (run (updFence i f) s).regs = s.regs ∧ (run (updFence i f) s).mem = s.mem ∧ (run (updFence i f) s).tbl = s.tbl ∧ (run (updFence i f) s).out = s.out ∧ (run (updFence i f) s).rdata = s.rdata ∧ (run (updFence i f) s).free = s.free ∧ (run (updFence i f) s).time = s.time ∧ (run (updFence i f) s).led = s.led ∧ (run (updFence i f) s).fab = s.fab ∧ (run (updFence i f) s).tend = s.tend ∧ (run (updFence i f) s).power = s.power ∧ (run (updFence i f) s).start = s.start ∧ (run (updFence i f) s).engs = s.engs ∧ (run (updFence i f) s).tones = s.tones ∧ (run (updFence i f) s).outputs = s.outputs ∧ (run (updFence i f) s).groups = s.groups ∧ (run (updFence i f) s).blks = s.blks ∧ (run (updFence i f) s).slots = s.slots ∧ (run (updFence i f) s).trigs = s.trigs ∧ (run (updFence i f) s).rxs = s.rxs ∧ (run (updFence i f) s).funcs = s.funcs ∧ (run (updFence i f) s).formers = s.formers ∧ (run (updFence i f) s).capqs = s.capqs ∧ (run (updFence i f) s).coincs = s.coincs ∧ (run (updFence i f) s).dsps = s.dsps ∧ (run (updFence i f) s).dqs = s.dqs ∧ (run (updFence i f) s).links = s.links :=
  by refine ⟨?_, ?_, ?_, ?_, ?_, ?_, ?_, ?_, ?_, ?_, ?_, ?_, ?_, ?_, ?_, ?_, ?_, ?_, ?_, ?_, ?_, ?_, ?_, ?_, ?_, ?_, ?_⟩ <;> rfl

@[simp] theorem run_updTime_frame (f : TimeState → TimeState) (s : State) :
    (run (updTime f) s).regs = s.regs ∧ (run (updTime f) s).mem = s.mem ∧ (run (updTime f) s).tbl = s.tbl ∧ (run (updTime f) s).out = s.out ∧ (run (updTime f) s).rdata = s.rdata ∧ (run (updTime f) s).free = s.free ∧ (run (updTime f) s).led = s.led ∧ (run (updTime f) s).fab = s.fab ∧ (run (updTime f) s).tend = s.tend ∧ (run (updTime f) s).power = s.power ∧ (run (updTime f) s).start = s.start ∧ (run (updTime f) s).engs = s.engs ∧ (run (updTime f) s).tones = s.tones ∧ (run (updTime f) s).outputs = s.outputs ∧ (run (updTime f) s).groups = s.groups ∧ (run (updTime f) s).blks = s.blks ∧ (run (updTime f) s).slots = s.slots ∧ (run (updTime f) s).trigs = s.trigs ∧ (run (updTime f) s).rxs = s.rxs ∧ (run (updTime f) s).funcs = s.funcs ∧ (run (updTime f) s).formers = s.formers ∧ (run (updTime f) s).capqs = s.capqs ∧ (run (updTime f) s).coincs = s.coincs ∧ (run (updTime f) s).dsps = s.dsps ∧ (run (updTime f) s).dqs = s.dqs ∧ (run (updTime f) s).links = s.links ∧ (run (updTime f) s).fences = s.fences :=
  by refine ⟨?_, ?_, ?_, ?_, ?_, ?_, ?_, ?_, ?_, ?_, ?_, ?_, ?_, ?_, ?_, ?_, ?_, ?_, ?_, ?_, ?_, ?_, ?_, ?_, ?_, ?_, ?_⟩ <;> rfl

@[simp] theorem run_updLed_frame (f : LedgerState → LedgerState) (s : State) :
    (run (updLed f) s).regs = s.regs ∧ (run (updLed f) s).mem = s.mem ∧ (run (updLed f) s).tbl = s.tbl ∧ (run (updLed f) s).out = s.out ∧ (run (updLed f) s).rdata = s.rdata ∧ (run (updLed f) s).free = s.free ∧ (run (updLed f) s).time = s.time ∧ (run (updLed f) s).fab = s.fab ∧ (run (updLed f) s).tend = s.tend ∧ (run (updLed f) s).power = s.power ∧ (run (updLed f) s).start = s.start ∧ (run (updLed f) s).engs = s.engs ∧ (run (updLed f) s).tones = s.tones ∧ (run (updLed f) s).outputs = s.outputs ∧ (run (updLed f) s).groups = s.groups ∧ (run (updLed f) s).blks = s.blks ∧ (run (updLed f) s).slots = s.slots ∧ (run (updLed f) s).trigs = s.trigs ∧ (run (updLed f) s).rxs = s.rxs ∧ (run (updLed f) s).funcs = s.funcs ∧ (run (updLed f) s).formers = s.formers ∧ (run (updLed f) s).capqs = s.capqs ∧ (run (updLed f) s).coincs = s.coincs ∧ (run (updLed f) s).dsps = s.dsps ∧ (run (updLed f) s).dqs = s.dqs ∧ (run (updLed f) s).links = s.links ∧ (run (updLed f) s).fences = s.fences :=
  by refine ⟨?_, ?_, ?_, ?_, ?_, ?_, ?_, ?_, ?_, ?_, ?_, ?_, ?_, ?_, ?_, ?_, ?_, ?_, ?_, ?_, ?_, ?_, ?_, ?_, ?_, ?_, ?_⟩ <;> rfl

@[simp] theorem run_updFab_frame (f : FabricState → FabricState) (s : State) :
    (run (updFab f) s).regs = s.regs ∧ (run (updFab f) s).mem = s.mem ∧ (run (updFab f) s).tbl = s.tbl ∧ (run (updFab f) s).out = s.out ∧ (run (updFab f) s).rdata = s.rdata ∧ (run (updFab f) s).free = s.free ∧ (run (updFab f) s).time = s.time ∧ (run (updFab f) s).led = s.led ∧ (run (updFab f) s).tend = s.tend ∧ (run (updFab f) s).power = s.power ∧ (run (updFab f) s).start = s.start ∧ (run (updFab f) s).engs = s.engs ∧ (run (updFab f) s).tones = s.tones ∧ (run (updFab f) s).outputs = s.outputs ∧ (run (updFab f) s).groups = s.groups ∧ (run (updFab f) s).blks = s.blks ∧ (run (updFab f) s).slots = s.slots ∧ (run (updFab f) s).trigs = s.trigs ∧ (run (updFab f) s).rxs = s.rxs ∧ (run (updFab f) s).funcs = s.funcs ∧ (run (updFab f) s).formers = s.formers ∧ (run (updFab f) s).capqs = s.capqs ∧ (run (updFab f) s).coincs = s.coincs ∧ (run (updFab f) s).dsps = s.dsps ∧ (run (updFab f) s).dqs = s.dqs ∧ (run (updFab f) s).links = s.links ∧ (run (updFab f) s).fences = s.fences :=
  by refine ⟨?_, ?_, ?_, ?_, ?_, ?_, ?_, ?_, ?_, ?_, ?_, ?_, ?_, ?_, ?_, ?_, ?_, ?_, ?_, ?_, ?_, ?_, ?_, ?_, ?_, ?_, ?_⟩ <;> rfl

@[simp] theorem run_updTend_frame (f : WatchState → WatchState) (s : State) :
    (run (updTend f) s).regs = s.regs ∧ (run (updTend f) s).mem = s.mem ∧ (run (updTend f) s).tbl = s.tbl ∧ (run (updTend f) s).out = s.out ∧ (run (updTend f) s).rdata = s.rdata ∧ (run (updTend f) s).free = s.free ∧ (run (updTend f) s).time = s.time ∧ (run (updTend f) s).led = s.led ∧ (run (updTend f) s).fab = s.fab ∧ (run (updTend f) s).power = s.power ∧ (run (updTend f) s).start = s.start ∧ (run (updTend f) s).engs = s.engs ∧ (run (updTend f) s).tones = s.tones ∧ (run (updTend f) s).outputs = s.outputs ∧ (run (updTend f) s).groups = s.groups ∧ (run (updTend f) s).blks = s.blks ∧ (run (updTend f) s).slots = s.slots ∧ (run (updTend f) s).trigs = s.trigs ∧ (run (updTend f) s).rxs = s.rxs ∧ (run (updTend f) s).funcs = s.funcs ∧ (run (updTend f) s).formers = s.formers ∧ (run (updTend f) s).capqs = s.capqs ∧ (run (updTend f) s).coincs = s.coincs ∧ (run (updTend f) s).dsps = s.dsps ∧ (run (updTend f) s).dqs = s.dqs ∧ (run (updTend f) s).links = s.links ∧ (run (updTend f) s).fences = s.fences :=
  by refine ⟨?_, ?_, ?_, ?_, ?_, ?_, ?_, ?_, ?_, ?_, ?_, ?_, ?_, ?_, ?_, ?_, ?_, ?_, ?_, ?_, ?_, ?_, ?_, ?_, ?_, ?_, ?_⟩ <;> rfl

@[simp] theorem run_updPower_frame (f : PowerState → PowerState) (s : State) :
    (run (updPower f) s).regs = s.regs ∧ (run (updPower f) s).mem = s.mem ∧ (run (updPower f) s).tbl = s.tbl ∧ (run (updPower f) s).out = s.out ∧ (run (updPower f) s).rdata = s.rdata ∧ (run (updPower f) s).free = s.free ∧ (run (updPower f) s).time = s.time ∧ (run (updPower f) s).led = s.led ∧ (run (updPower f) s).fab = s.fab ∧ (run (updPower f) s).tend = s.tend ∧ (run (updPower f) s).start = s.start ∧ (run (updPower f) s).engs = s.engs ∧ (run (updPower f) s).tones = s.tones ∧ (run (updPower f) s).outputs = s.outputs ∧ (run (updPower f) s).groups = s.groups ∧ (run (updPower f) s).blks = s.blks ∧ (run (updPower f) s).slots = s.slots ∧ (run (updPower f) s).trigs = s.trigs ∧ (run (updPower f) s).rxs = s.rxs ∧ (run (updPower f) s).funcs = s.funcs ∧ (run (updPower f) s).formers = s.formers ∧ (run (updPower f) s).capqs = s.capqs ∧ (run (updPower f) s).coincs = s.coincs ∧ (run (updPower f) s).dsps = s.dsps ∧ (run (updPower f) s).dqs = s.dqs ∧ (run (updPower f) s).links = s.links ∧ (run (updPower f) s).fences = s.fences :=
  by refine ⟨?_, ?_, ?_, ?_, ?_, ?_, ?_, ?_, ?_, ?_, ?_, ?_, ?_, ?_, ?_, ?_, ?_, ?_, ?_, ?_, ?_, ?_, ?_, ?_, ?_, ?_, ?_⟩ <;> rfl

@[simp] theorem run_updStart_frame (f : StartState → StartState) (s : State) :
    (run (updStart f) s).regs = s.regs ∧ (run (updStart f) s).mem = s.mem ∧ (run (updStart f) s).tbl = s.tbl ∧ (run (updStart f) s).out = s.out ∧ (run (updStart f) s).rdata = s.rdata ∧ (run (updStart f) s).free = s.free ∧ (run (updStart f) s).time = s.time ∧ (run (updStart f) s).led = s.led ∧ (run (updStart f) s).fab = s.fab ∧ (run (updStart f) s).tend = s.tend ∧ (run (updStart f) s).power = s.power ∧ (run (updStart f) s).engs = s.engs ∧ (run (updStart f) s).tones = s.tones ∧ (run (updStart f) s).outputs = s.outputs ∧ (run (updStart f) s).groups = s.groups ∧ (run (updStart f) s).blks = s.blks ∧ (run (updStart f) s).slots = s.slots ∧ (run (updStart f) s).trigs = s.trigs ∧ (run (updStart f) s).rxs = s.rxs ∧ (run (updStart f) s).funcs = s.funcs ∧ (run (updStart f) s).formers = s.formers ∧ (run (updStart f) s).capqs = s.capqs ∧ (run (updStart f) s).coincs = s.coincs ∧ (run (updStart f) s).dsps = s.dsps ∧ (run (updStart f) s).dqs = s.dqs ∧ (run (updStart f) s).links = s.links ∧ (run (updStart f) s).fences = s.fences :=
  by refine ⟨?_, ?_, ?_, ?_, ?_, ?_, ?_, ?_, ?_, ?_, ?_, ?_, ?_, ?_, ?_, ?_, ?_, ?_, ?_, ?_, ?_, ?_, ?_, ?_, ?_, ?_, ?_⟩ <;> rfl

/-! A reader of one part sees only that part. -/

theorem State.get_congr {s x : State} (h : x.regs = s.regs) (p : Page) (f : Field) : x.get p f = s.get p f := by simp [State.get, h]

theorem State.byte_congr {s x : State} (h : x.mem = s.mem) (a : Nat) : x.byte a = s.byte a := by simp [State.byte, h]

theorem State.bytes_congr {s x : State} (h : x.mem = s.mem) (a n : Nat) : x.bytes a n = s.bytes a n := by
  induction n generalizing a with
  | zero => rfl
  | succ n ih => simp [State.bytes, State.byte, h, ih]

theorem State.word_congr {s x : State} (h : x.tbl = s.tbl) (t : Table) (i : Nat) : x.word t i = s.word t i := by simp [State.word, h]

theorem State.st_congr {s x : State} (h : x.time = s.time)  : x.st  = s.st  := by simp [State.st, h]

theorem State.eng_congr {s x : State} (h : x.engs = s.engs) (i : Nat) : x.eng i = s.eng i := by simp [State.eng, h]

theorem State.tone_congr {s x : State} (h : x.tones = s.tones) (i : Nat) : x.tone i = s.tone i := by simp [State.tone, h]

theorem State.output_congr {s x : State} (h : x.outputs = s.outputs) (i : Nat) : x.output i = s.output i := by simp [State.output, h]

theorem State.group_congr {s x : State} (h : x.groups = s.groups) (i : Nat) : x.group i = s.group i := by simp [State.group, h]

theorem State.blk_congr {s x : State} (h : x.blks = s.blks) (i : Nat) : x.blk i = s.blk i := by simp [State.blk, h]

theorem State.slot_congr {s x : State} (h : x.slots = s.slots) (i : Nat) : x.slot i = s.slot i := by simp [State.slot, h]

theorem State.trig_congr {s x : State} (h : x.trigs = s.trigs) (i : Nat) : x.trig i = s.trig i := by simp [State.trig, h]

theorem State.rx_congr {s x : State} (h : x.rxs = s.rxs) (i : Nat) : x.rx i = s.rx i := by simp [State.rx, h]

theorem State.func_congr {s x : State} (h : x.funcs = s.funcs) (i : Nat) : x.func i = s.func i := by simp [State.func, h]

theorem State.former_congr {s x : State} (h : x.formers = s.formers) (i : Nat) : x.former i = s.former i := by simp [State.former, h]

theorem State.capq_congr {s x : State} (h : x.capqs = s.capqs) (i : Nat) : x.capq i = s.capq i := by simp [State.capq, h]

theorem State.coinc_congr {s x : State} (h : x.coincs = s.coincs) (i : Nat) : x.coinc i = s.coinc i := by simp [State.coinc, h]

theorem State.dsp_congr {s x : State} (h : x.dsps = s.dsps) (i : Nat) : x.dsp i = s.dsp i := by simp [State.dsp, h]

theorem State.dq_congr {s x : State} (h : x.dqs = s.dqs) (i : Nat) : x.dq i = s.dq i := by simp [State.dq, h]

theorem State.link_congr {s x : State} (h : x.links = s.links) (i : Nat) : x.link i = s.link i := by simp [State.link, h]

theorem State.fence_congr {s x : State} (h : x.fences = s.fences) (i : Nat) : x.fence i = s.fence i := by simp [State.fence, h]

@[simp] theorem run_setF_reads (p : Page) (f : Field) (v : Nat) (s : State) :
    (∀ (a : Nat), (run (setF p f v) s).byte a = s.byte a) ∧ (∀ (a n : Nat), (run (setF p f v) s).bytes a n = s.bytes a n) ∧ (∀ (t' : Table) (i' : Nat), (run (setF p f v) s).word t' i' = s.word t' i') ∧ (run (setF p f v) s).st = s.st ∧ (∀ (i' : Nat), (run (setF p f v) s).eng i' = s.eng i') ∧ (∀ (i' : Nat), (run (setF p f v) s).tone i' = s.tone i') ∧ (∀ (i' : Nat), (run (setF p f v) s).output i' = s.output i') ∧ (∀ (i' : Nat), (run (setF p f v) s).group i' = s.group i') ∧ (∀ (i' : Nat), (run (setF p f v) s).blk i' = s.blk i') ∧ (∀ (i' : Nat), (run (setF p f v) s).slot i' = s.slot i') ∧ (∀ (i' : Nat), (run (setF p f v) s).trig i' = s.trig i') ∧ (∀ (i' : Nat), (run (setF p f v) s).rx i' = s.rx i') ∧ (∀ (i' : Nat), (run (setF p f v) s).func i' = s.func i') ∧ (∀ (i' : Nat), (run (setF p f v) s).former i' = s.former i') ∧ (∀ (i' : Nat), (run (setF p f v) s).capq i' = s.capq i') ∧ (∀ (i' : Nat), (run (setF p f v) s).coinc i' = s.coinc i') ∧ (∀ (i' : Nat), (run (setF p f v) s).dsp i' = s.dsp i') ∧ (∀ (i' : Nat), (run (setF p f v) s).dq i' = s.dq i') ∧ (∀ (i' : Nat), (run (setF p f v) s).link i' = s.link i') ∧ (∀ (i' : Nat), (run (setF p f v) s).fence i' = s.fence i') :=
  by refine ⟨?_, ?_, ?_, ?_, ?_, ?_, ?_, ?_, ?_, ?_, ?_, ?_, ?_, ?_, ?_, ?_, ?_, ?_, ?_, ?_⟩ <;> intros <;> first | rfl | (apply State.bytes_congr; rfl)

@[simp] theorem run_setWord_reads (t : Table) (i v : Nat) (s : State) :
    (∀ (p' : Page) (f' : Field), (run (setWord t i v) s).get p' f' = s.get p' f') ∧ (∀ (a : Nat), (run (setWord t i v) s).byte a = s.byte a) ∧ (∀ (a n : Nat), (run (setWord t i v) s).bytes a n = s.bytes a n) ∧ (run (setWord t i v) s).st = s.st ∧ (∀ (i' : Nat), (run (setWord t i v) s).eng i' = s.eng i') ∧ (∀ (i' : Nat), (run (setWord t i v) s).tone i' = s.tone i') ∧ (∀ (i' : Nat), (run (setWord t i v) s).output i' = s.output i') ∧ (∀ (i' : Nat), (run (setWord t i v) s).group i' = s.group i') ∧ (∀ (i' : Nat), (run (setWord t i v) s).blk i' = s.blk i') ∧ (∀ (i' : Nat), (run (setWord t i v) s).slot i' = s.slot i') ∧ (∀ (i' : Nat), (run (setWord t i v) s).trig i' = s.trig i') ∧ (∀ (i' : Nat), (run (setWord t i v) s).rx i' = s.rx i') ∧ (∀ (i' : Nat), (run (setWord t i v) s).func i' = s.func i') ∧ (∀ (i' : Nat), (run (setWord t i v) s).former i' = s.former i') ∧ (∀ (i' : Nat), (run (setWord t i v) s).capq i' = s.capq i') ∧ (∀ (i' : Nat), (run (setWord t i v) s).coinc i' = s.coinc i') ∧ (∀ (i' : Nat), (run (setWord t i v) s).dsp i' = s.dsp i') ∧ (∀ (i' : Nat), (run (setWord t i v) s).dq i' = s.dq i') ∧ (∀ (i' : Nat), (run (setWord t i v) s).link i' = s.link i') ∧ (∀ (i' : Nat), (run (setWord t i v) s).fence i' = s.fence i') :=
  by refine ⟨?_, ?_, ?_, ?_, ?_, ?_, ?_, ?_, ?_, ?_, ?_, ?_, ?_, ?_, ?_, ?_, ?_, ?_, ?_, ?_⟩ <;> intros <;> first | rfl | (apply State.bytes_congr; rfl)

@[simp] theorem run_emit_reads (x : Emit) (s : State) :
    (∀ (p' : Page) (f' : Field), (run (emit x) s).get p' f' = s.get p' f') ∧ (∀ (a : Nat), (run (emit x) s).byte a = s.byte a) ∧ (∀ (a n : Nat), (run (emit x) s).bytes a n = s.bytes a n) ∧ (∀ (t' : Table) (i' : Nat), (run (emit x) s).word t' i' = s.word t' i') ∧ (run (emit x) s).st = s.st ∧ (∀ (i' : Nat), (run (emit x) s).eng i' = s.eng i') ∧ (∀ (i' : Nat), (run (emit x) s).tone i' = s.tone i') ∧ (∀ (i' : Nat), (run (emit x) s).output i' = s.output i') ∧ (∀ (i' : Nat), (run (emit x) s).group i' = s.group i') ∧ (∀ (i' : Nat), (run (emit x) s).blk i' = s.blk i') ∧ (∀ (i' : Nat), (run (emit x) s).slot i' = s.slot i') ∧ (∀ (i' : Nat), (run (emit x) s).trig i' = s.trig i') ∧ (∀ (i' : Nat), (run (emit x) s).rx i' = s.rx i') ∧ (∀ (i' : Nat), (run (emit x) s).func i' = s.func i') ∧ (∀ (i' : Nat), (run (emit x) s).former i' = s.former i') ∧ (∀ (i' : Nat), (run (emit x) s).capq i' = s.capq i') ∧ (∀ (i' : Nat), (run (emit x) s).coinc i' = s.coinc i') ∧ (∀ (i' : Nat), (run (emit x) s).dsp i' = s.dsp i') ∧ (∀ (i' : Nat), (run (emit x) s).dq i' = s.dq i') ∧ (∀ (i' : Nat), (run (emit x) s).link i' = s.link i') ∧ (∀ (i' : Nat), (run (emit x) s).fence i' = s.fence i') :=
  by refine ⟨?_, ?_, ?_, ?_, ?_, ?_, ?_, ?_, ?_, ?_, ?_, ?_, ?_, ?_, ?_, ?_, ?_, ?_, ?_, ?_, ?_⟩ <;> intros <;> first | rfl | (apply State.bytes_congr; rfl)

@[simp] theorem run_setRdata_reads (v : Nat) (s : State) :
    (∀ (p' : Page) (f' : Field), (run (setRdata v) s).get p' f' = s.get p' f') ∧ (∀ (a : Nat), (run (setRdata v) s).byte a = s.byte a) ∧ (∀ (a n : Nat), (run (setRdata v) s).bytes a n = s.bytes a n) ∧ (∀ (t' : Table) (i' : Nat), (run (setRdata v) s).word t' i' = s.word t' i') ∧ (run (setRdata v) s).st = s.st ∧ (∀ (i' : Nat), (run (setRdata v) s).eng i' = s.eng i') ∧ (∀ (i' : Nat), (run (setRdata v) s).tone i' = s.tone i') ∧ (∀ (i' : Nat), (run (setRdata v) s).output i' = s.output i') ∧ (∀ (i' : Nat), (run (setRdata v) s).group i' = s.group i') ∧ (∀ (i' : Nat), (run (setRdata v) s).blk i' = s.blk i') ∧ (∀ (i' : Nat), (run (setRdata v) s).slot i' = s.slot i') ∧ (∀ (i' : Nat), (run (setRdata v) s).trig i' = s.trig i') ∧ (∀ (i' : Nat), (run (setRdata v) s).rx i' = s.rx i') ∧ (∀ (i' : Nat), (run (setRdata v) s).func i' = s.func i') ∧ (∀ (i' : Nat), (run (setRdata v) s).former i' = s.former i') ∧ (∀ (i' : Nat), (run (setRdata v) s).capq i' = s.capq i') ∧ (∀ (i' : Nat), (run (setRdata v) s).coinc i' = s.coinc i') ∧ (∀ (i' : Nat), (run (setRdata v) s).dsp i' = s.dsp i') ∧ (∀ (i' : Nat), (run (setRdata v) s).dq i' = s.dq i') ∧ (∀ (i' : Nat), (run (setRdata v) s).link i' = s.link i') ∧ (∀ (i' : Nat), (run (setRdata v) s).fence i' = s.fence i') :=
  by refine ⟨?_, ?_, ?_, ?_, ?_, ?_, ?_, ?_, ?_, ?_, ?_, ?_, ?_, ?_, ?_, ?_, ?_, ?_, ?_, ?_, ?_⟩ <;> intros <;> first | rfl | (apply State.bytes_congr; rfl)

@[simp] theorem run_drawFree_reads  (s : State) :
    (∀ (p' : Page) (f' : Field), (run (drawFree) s).get p' f' = s.get p' f') ∧ (∀ (a : Nat), (run (drawFree) s).byte a = s.byte a) ∧ (∀ (a n : Nat), (run (drawFree) s).bytes a n = s.bytes a n) ∧ (∀ (t' : Table) (i' : Nat), (run (drawFree) s).word t' i' = s.word t' i') ∧ (run (drawFree) s).st = s.st ∧ (∀ (i' : Nat), (run (drawFree) s).eng i' = s.eng i') ∧ (∀ (i' : Nat), (run (drawFree) s).tone i' = s.tone i') ∧ (∀ (i' : Nat), (run (drawFree) s).output i' = s.output i') ∧ (∀ (i' : Nat), (run (drawFree) s).group i' = s.group i') ∧ (∀ (i' : Nat), (run (drawFree) s).blk i' = s.blk i') ∧ (∀ (i' : Nat), (run (drawFree) s).slot i' = s.slot i') ∧ (∀ (i' : Nat), (run (drawFree) s).trig i' = s.trig i') ∧ (∀ (i' : Nat), (run (drawFree) s).rx i' = s.rx i') ∧ (∀ (i' : Nat), (run (drawFree) s).func i' = s.func i') ∧ (∀ (i' : Nat), (run (drawFree) s).former i' = s.former i') ∧ (∀ (i' : Nat), (run (drawFree) s).capq i' = s.capq i') ∧ (∀ (i' : Nat), (run (drawFree) s).coinc i' = s.coinc i') ∧ (∀ (i' : Nat), (run (drawFree) s).dsp i' = s.dsp i') ∧ (∀ (i' : Nat), (run (drawFree) s).dq i' = s.dq i') ∧ (∀ (i' : Nat), (run (drawFree) s).link i' = s.link i') ∧ (∀ (i' : Nat), (run (drawFree) s).fence i' = s.fence i') :=
  by refine ⟨?_, ?_, ?_, ?_, ?_, ?_, ?_, ?_, ?_, ?_, ?_, ?_, ?_, ?_, ?_, ?_, ?_, ?_, ?_, ?_, ?_⟩ <;> intros <;> first | rfl | (apply State.bytes_congr; rfl)

@[simp] theorem run_updEng_reads (i : Nat) (f : Engine → Engine) (s : State) :
    (∀ (p' : Page) (f' : Field), (run (updEng i f) s).get p' f' = s.get p' f') ∧ (∀ (a : Nat), (run (updEng i f) s).byte a = s.byte a) ∧ (∀ (a n : Nat), (run (updEng i f) s).bytes a n = s.bytes a n) ∧ (∀ (t' : Table) (i' : Nat), (run (updEng i f) s).word t' i' = s.word t' i') ∧ (run (updEng i f) s).st = s.st ∧ (∀ (i' : Nat), (run (updEng i f) s).tone i' = s.tone i') ∧ (∀ (i' : Nat), (run (updEng i f) s).output i' = s.output i') ∧ (∀ (i' : Nat), (run (updEng i f) s).group i' = s.group i') ∧ (∀ (i' : Nat), (run (updEng i f) s).blk i' = s.blk i') ∧ (∀ (i' : Nat), (run (updEng i f) s).slot i' = s.slot i') ∧ (∀ (i' : Nat), (run (updEng i f) s).trig i' = s.trig i') ∧ (∀ (i' : Nat), (run (updEng i f) s).rx i' = s.rx i') ∧ (∀ (i' : Nat), (run (updEng i f) s).func i' = s.func i') ∧ (∀ (i' : Nat), (run (updEng i f) s).former i' = s.former i') ∧ (∀ (i' : Nat), (run (updEng i f) s).capq i' = s.capq i') ∧ (∀ (i' : Nat), (run (updEng i f) s).coinc i' = s.coinc i') ∧ (∀ (i' : Nat), (run (updEng i f) s).dsp i' = s.dsp i') ∧ (∀ (i' : Nat), (run (updEng i f) s).dq i' = s.dq i') ∧ (∀ (i' : Nat), (run (updEng i f) s).link i' = s.link i') ∧ (∀ (i' : Nat), (run (updEng i f) s).fence i' = s.fence i') :=
  by refine ⟨?_, ?_, ?_, ?_, ?_, ?_, ?_, ?_, ?_, ?_, ?_, ?_, ?_, ?_, ?_, ?_, ?_, ?_, ?_, ?_⟩ <;> intros <;> first | rfl | (apply State.bytes_congr; rfl)

@[simp] theorem run_updTone_reads (i : Nat) (f : Tone → Tone) (s : State) :
    (∀ (p' : Page) (f' : Field), (run (updTone i f) s).get p' f' = s.get p' f') ∧ (∀ (a : Nat), (run (updTone i f) s).byte a = s.byte a) ∧ (∀ (a n : Nat), (run (updTone i f) s).bytes a n = s.bytes a n) ∧ (∀ (t' : Table) (i' : Nat), (run (updTone i f) s).word t' i' = s.word t' i') ∧ (run (updTone i f) s).st = s.st ∧ (∀ (i' : Nat), (run (updTone i f) s).eng i' = s.eng i') ∧ (∀ (i' : Nat), (run (updTone i f) s).output i' = s.output i') ∧ (∀ (i' : Nat), (run (updTone i f) s).group i' = s.group i') ∧ (∀ (i' : Nat), (run (updTone i f) s).blk i' = s.blk i') ∧ (∀ (i' : Nat), (run (updTone i f) s).slot i' = s.slot i') ∧ (∀ (i' : Nat), (run (updTone i f) s).trig i' = s.trig i') ∧ (∀ (i' : Nat), (run (updTone i f) s).rx i' = s.rx i') ∧ (∀ (i' : Nat), (run (updTone i f) s).func i' = s.func i') ∧ (∀ (i' : Nat), (run (updTone i f) s).former i' = s.former i') ∧ (∀ (i' : Nat), (run (updTone i f) s).capq i' = s.capq i') ∧ (∀ (i' : Nat), (run (updTone i f) s).coinc i' = s.coinc i') ∧ (∀ (i' : Nat), (run (updTone i f) s).dsp i' = s.dsp i') ∧ (∀ (i' : Nat), (run (updTone i f) s).dq i' = s.dq i') ∧ (∀ (i' : Nat), (run (updTone i f) s).link i' = s.link i') ∧ (∀ (i' : Nat), (run (updTone i f) s).fence i' = s.fence i') :=
  by refine ⟨?_, ?_, ?_, ?_, ?_, ?_, ?_, ?_, ?_, ?_, ?_, ?_, ?_, ?_, ?_, ?_, ?_, ?_, ?_, ?_⟩ <;> intros <;> first | rfl | (apply State.bytes_congr; rfl)

@[simp] theorem run_updOutput_reads (i : Nat) (f : Output → Output) (s : State) :
    (∀ (p' : Page) (f' : Field), (run (updOutput i f) s).get p' f' = s.get p' f') ∧ (∀ (a : Nat), (run (updOutput i f) s).byte a = s.byte a) ∧ (∀ (a n : Nat), (run (updOutput i f) s).bytes a n = s.bytes a n) ∧ (∀ (t' : Table) (i' : Nat), (run (updOutput i f) s).word t' i' = s.word t' i') ∧ (run (updOutput i f) s).st = s.st ∧ (∀ (i' : Nat), (run (updOutput i f) s).eng i' = s.eng i') ∧ (∀ (i' : Nat), (run (updOutput i f) s).tone i' = s.tone i') ∧ (∀ (i' : Nat), (run (updOutput i f) s).group i' = s.group i') ∧ (∀ (i' : Nat), (run (updOutput i f) s).blk i' = s.blk i') ∧ (∀ (i' : Nat), (run (updOutput i f) s).slot i' = s.slot i') ∧ (∀ (i' : Nat), (run (updOutput i f) s).trig i' = s.trig i') ∧ (∀ (i' : Nat), (run (updOutput i f) s).rx i' = s.rx i') ∧ (∀ (i' : Nat), (run (updOutput i f) s).func i' = s.func i') ∧ (∀ (i' : Nat), (run (updOutput i f) s).former i' = s.former i') ∧ (∀ (i' : Nat), (run (updOutput i f) s).capq i' = s.capq i') ∧ (∀ (i' : Nat), (run (updOutput i f) s).coinc i' = s.coinc i') ∧ (∀ (i' : Nat), (run (updOutput i f) s).dsp i' = s.dsp i') ∧ (∀ (i' : Nat), (run (updOutput i f) s).dq i' = s.dq i') ∧ (∀ (i' : Nat), (run (updOutput i f) s).link i' = s.link i') ∧ (∀ (i' : Nat), (run (updOutput i f) s).fence i' = s.fence i') :=
  by refine ⟨?_, ?_, ?_, ?_, ?_, ?_, ?_, ?_, ?_, ?_, ?_, ?_, ?_, ?_, ?_, ?_, ?_, ?_, ?_, ?_⟩ <;> intros <;> first | rfl | (apply State.bytes_congr; rfl)

@[simp] theorem run_updGroup_reads (i : Nat) (f : Group → Group) (s : State) :
    (∀ (p' : Page) (f' : Field), (run (updGroup i f) s).get p' f' = s.get p' f') ∧ (∀ (a : Nat), (run (updGroup i f) s).byte a = s.byte a) ∧ (∀ (a n : Nat), (run (updGroup i f) s).bytes a n = s.bytes a n) ∧ (∀ (t' : Table) (i' : Nat), (run (updGroup i f) s).word t' i' = s.word t' i') ∧ (run (updGroup i f) s).st = s.st ∧ (∀ (i' : Nat), (run (updGroup i f) s).eng i' = s.eng i') ∧ (∀ (i' : Nat), (run (updGroup i f) s).tone i' = s.tone i') ∧ (∀ (i' : Nat), (run (updGroup i f) s).output i' = s.output i') ∧ (∀ (i' : Nat), (run (updGroup i f) s).blk i' = s.blk i') ∧ (∀ (i' : Nat), (run (updGroup i f) s).slot i' = s.slot i') ∧ (∀ (i' : Nat), (run (updGroup i f) s).trig i' = s.trig i') ∧ (∀ (i' : Nat), (run (updGroup i f) s).rx i' = s.rx i') ∧ (∀ (i' : Nat), (run (updGroup i f) s).func i' = s.func i') ∧ (∀ (i' : Nat), (run (updGroup i f) s).former i' = s.former i') ∧ (∀ (i' : Nat), (run (updGroup i f) s).capq i' = s.capq i') ∧ (∀ (i' : Nat), (run (updGroup i f) s).coinc i' = s.coinc i') ∧ (∀ (i' : Nat), (run (updGroup i f) s).dsp i' = s.dsp i') ∧ (∀ (i' : Nat), (run (updGroup i f) s).dq i' = s.dq i') ∧ (∀ (i' : Nat), (run (updGroup i f) s).link i' = s.link i') ∧ (∀ (i' : Nat), (run (updGroup i f) s).fence i' = s.fence i') :=
  by refine ⟨?_, ?_, ?_, ?_, ?_, ?_, ?_, ?_, ?_, ?_, ?_, ?_, ?_, ?_, ?_, ?_, ?_, ?_, ?_, ?_⟩ <;> intros <;> first | rfl | (apply State.bytes_congr; rfl)

@[simp] theorem run_updBlk_reads (i : Nat) (f : Block → Block) (s : State) :
    (∀ (p' : Page) (f' : Field), (run (updBlk i f) s).get p' f' = s.get p' f') ∧ (∀ (a : Nat), (run (updBlk i f) s).byte a = s.byte a) ∧ (∀ (a n : Nat), (run (updBlk i f) s).bytes a n = s.bytes a n) ∧ (∀ (t' : Table) (i' : Nat), (run (updBlk i f) s).word t' i' = s.word t' i') ∧ (run (updBlk i f) s).st = s.st ∧ (∀ (i' : Nat), (run (updBlk i f) s).eng i' = s.eng i') ∧ (∀ (i' : Nat), (run (updBlk i f) s).tone i' = s.tone i') ∧ (∀ (i' : Nat), (run (updBlk i f) s).output i' = s.output i') ∧ (∀ (i' : Nat), (run (updBlk i f) s).group i' = s.group i') ∧ (∀ (i' : Nat), (run (updBlk i f) s).slot i' = s.slot i') ∧ (∀ (i' : Nat), (run (updBlk i f) s).trig i' = s.trig i') ∧ (∀ (i' : Nat), (run (updBlk i f) s).rx i' = s.rx i') ∧ (∀ (i' : Nat), (run (updBlk i f) s).func i' = s.func i') ∧ (∀ (i' : Nat), (run (updBlk i f) s).former i' = s.former i') ∧ (∀ (i' : Nat), (run (updBlk i f) s).capq i' = s.capq i') ∧ (∀ (i' : Nat), (run (updBlk i f) s).coinc i' = s.coinc i') ∧ (∀ (i' : Nat), (run (updBlk i f) s).dsp i' = s.dsp i') ∧ (∀ (i' : Nat), (run (updBlk i f) s).dq i' = s.dq i') ∧ (∀ (i' : Nat), (run (updBlk i f) s).link i' = s.link i') ∧ (∀ (i' : Nat), (run (updBlk i f) s).fence i' = s.fence i') :=
  by refine ⟨?_, ?_, ?_, ?_, ?_, ?_, ?_, ?_, ?_, ?_, ?_, ?_, ?_, ?_, ?_, ?_, ?_, ?_, ?_, ?_⟩ <;> intros <;> first | rfl | (apply State.bytes_congr; rfl)

@[simp] theorem run_updSlot_reads (i : Nat) (f : DecSlot → DecSlot) (s : State) :
    (∀ (p' : Page) (f' : Field), (run (updSlot i f) s).get p' f' = s.get p' f') ∧ (∀ (a : Nat), (run (updSlot i f) s).byte a = s.byte a) ∧ (∀ (a n : Nat), (run (updSlot i f) s).bytes a n = s.bytes a n) ∧ (∀ (t' : Table) (i' : Nat), (run (updSlot i f) s).word t' i' = s.word t' i') ∧ (run (updSlot i f) s).st = s.st ∧ (∀ (i' : Nat), (run (updSlot i f) s).eng i' = s.eng i') ∧ (∀ (i' : Nat), (run (updSlot i f) s).tone i' = s.tone i') ∧ (∀ (i' : Nat), (run (updSlot i f) s).output i' = s.output i') ∧ (∀ (i' : Nat), (run (updSlot i f) s).group i' = s.group i') ∧ (∀ (i' : Nat), (run (updSlot i f) s).blk i' = s.blk i') ∧ (∀ (i' : Nat), (run (updSlot i f) s).trig i' = s.trig i') ∧ (∀ (i' : Nat), (run (updSlot i f) s).rx i' = s.rx i') ∧ (∀ (i' : Nat), (run (updSlot i f) s).func i' = s.func i') ∧ (∀ (i' : Nat), (run (updSlot i f) s).former i' = s.former i') ∧ (∀ (i' : Nat), (run (updSlot i f) s).capq i' = s.capq i') ∧ (∀ (i' : Nat), (run (updSlot i f) s).coinc i' = s.coinc i') ∧ (∀ (i' : Nat), (run (updSlot i f) s).dsp i' = s.dsp i') ∧ (∀ (i' : Nat), (run (updSlot i f) s).dq i' = s.dq i') ∧ (∀ (i' : Nat), (run (updSlot i f) s).link i' = s.link i') ∧ (∀ (i' : Nat), (run (updSlot i f) s).fence i' = s.fence i') :=
  by refine ⟨?_, ?_, ?_, ?_, ?_, ?_, ?_, ?_, ?_, ?_, ?_, ?_, ?_, ?_, ?_, ?_, ?_, ?_, ?_, ?_⟩ <;> intros <;> first | rfl | (apply State.bytes_congr; rfl)

@[simp] theorem run_updTrig_reads (i : Nat) (f : TrigUnit → TrigUnit) (s : State) :
    (∀ (p' : Page) (f' : Field), (run (updTrig i f) s).get p' f' = s.get p' f') ∧ (∀ (a : Nat), (run (updTrig i f) s).byte a = s.byte a) ∧ (∀ (a n : Nat), (run (updTrig i f) s).bytes a n = s.bytes a n) ∧ (∀ (t' : Table) (i' : Nat), (run (updTrig i f) s).word t' i' = s.word t' i') ∧ (run (updTrig i f) s).st = s.st ∧ (∀ (i' : Nat), (run (updTrig i f) s).eng i' = s.eng i') ∧ (∀ (i' : Nat), (run (updTrig i f) s).tone i' = s.tone i') ∧ (∀ (i' : Nat), (run (updTrig i f) s).output i' = s.output i') ∧ (∀ (i' : Nat), (run (updTrig i f) s).group i' = s.group i') ∧ (∀ (i' : Nat), (run (updTrig i f) s).blk i' = s.blk i') ∧ (∀ (i' : Nat), (run (updTrig i f) s).slot i' = s.slot i') ∧ (∀ (i' : Nat), (run (updTrig i f) s).rx i' = s.rx i') ∧ (∀ (i' : Nat), (run (updTrig i f) s).func i' = s.func i') ∧ (∀ (i' : Nat), (run (updTrig i f) s).former i' = s.former i') ∧ (∀ (i' : Nat), (run (updTrig i f) s).capq i' = s.capq i') ∧ (∀ (i' : Nat), (run (updTrig i f) s).coinc i' = s.coinc i') ∧ (∀ (i' : Nat), (run (updTrig i f) s).dsp i' = s.dsp i') ∧ (∀ (i' : Nat), (run (updTrig i f) s).dq i' = s.dq i') ∧ (∀ (i' : Nat), (run (updTrig i f) s).link i' = s.link i') ∧ (∀ (i' : Nat), (run (updTrig i f) s).fence i' = s.fence i') :=
  by refine ⟨?_, ?_, ?_, ?_, ?_, ?_, ?_, ?_, ?_, ?_, ?_, ?_, ?_, ?_, ?_, ?_, ?_, ?_, ?_, ?_⟩ <;> intros <;> first | rfl | (apply State.bytes_congr; rfl)

@[simp] theorem run_updRx_reads (i : Nat) (f : RxState → RxState) (s : State) :
    (∀ (p' : Page) (f' : Field), (run (updRx i f) s).get p' f' = s.get p' f') ∧ (∀ (a : Nat), (run (updRx i f) s).byte a = s.byte a) ∧ (∀ (a n : Nat), (run (updRx i f) s).bytes a n = s.bytes a n) ∧ (∀ (t' : Table) (i' : Nat), (run (updRx i f) s).word t' i' = s.word t' i') ∧ (run (updRx i f) s).st = s.st ∧ (∀ (i' : Nat), (run (updRx i f) s).eng i' = s.eng i') ∧ (∀ (i' : Nat), (run (updRx i f) s).tone i' = s.tone i') ∧ (∀ (i' : Nat), (run (updRx i f) s).output i' = s.output i') ∧ (∀ (i' : Nat), (run (updRx i f) s).group i' = s.group i') ∧ (∀ (i' : Nat), (run (updRx i f) s).blk i' = s.blk i') ∧ (∀ (i' : Nat), (run (updRx i f) s).slot i' = s.slot i') ∧ (∀ (i' : Nat), (run (updRx i f) s).trig i' = s.trig i') ∧ (∀ (i' : Nat), (run (updRx i f) s).func i' = s.func i') ∧ (∀ (i' : Nat), (run (updRx i f) s).former i' = s.former i') ∧ (∀ (i' : Nat), (run (updRx i f) s).capq i' = s.capq i') ∧ (∀ (i' : Nat), (run (updRx i f) s).coinc i' = s.coinc i') ∧ (∀ (i' : Nat), (run (updRx i f) s).dsp i' = s.dsp i') ∧ (∀ (i' : Nat), (run (updRx i f) s).dq i' = s.dq i') ∧ (∀ (i' : Nat), (run (updRx i f) s).link i' = s.link i') ∧ (∀ (i' : Nat), (run (updRx i f) s).fence i' = s.fence i') :=
  by refine ⟨?_, ?_, ?_, ?_, ?_, ?_, ?_, ?_, ?_, ?_, ?_, ?_, ?_, ?_, ?_, ?_, ?_, ?_, ?_, ?_⟩ <;> intros <;> first | rfl | (apply State.bytes_congr; rfl)

@[simp] theorem run_updFunc_reads (i : Nat) (f : FuncState → FuncState) (s : State) :
    (∀ (p' : Page) (f' : Field), (run (updFunc i f) s).get p' f' = s.get p' f') ∧ (∀ (a : Nat), (run (updFunc i f) s).byte a = s.byte a) ∧ (∀ (a n : Nat), (run (updFunc i f) s).bytes a n = s.bytes a n) ∧ (∀ (t' : Table) (i' : Nat), (run (updFunc i f) s).word t' i' = s.word t' i') ∧ (run (updFunc i f) s).st = s.st ∧ (∀ (i' : Nat), (run (updFunc i f) s).eng i' = s.eng i') ∧ (∀ (i' : Nat), (run (updFunc i f) s).tone i' = s.tone i') ∧ (∀ (i' : Nat), (run (updFunc i f) s).output i' = s.output i') ∧ (∀ (i' : Nat), (run (updFunc i f) s).group i' = s.group i') ∧ (∀ (i' : Nat), (run (updFunc i f) s).blk i' = s.blk i') ∧ (∀ (i' : Nat), (run (updFunc i f) s).slot i' = s.slot i') ∧ (∀ (i' : Nat), (run (updFunc i f) s).trig i' = s.trig i') ∧ (∀ (i' : Nat), (run (updFunc i f) s).rx i' = s.rx i') ∧ (∀ (i' : Nat), (run (updFunc i f) s).former i' = s.former i') ∧ (∀ (i' : Nat), (run (updFunc i f) s).capq i' = s.capq i') ∧ (∀ (i' : Nat), (run (updFunc i f) s).coinc i' = s.coinc i') ∧ (∀ (i' : Nat), (run (updFunc i f) s).dsp i' = s.dsp i') ∧ (∀ (i' : Nat), (run (updFunc i f) s).dq i' = s.dq i') ∧ (∀ (i' : Nat), (run (updFunc i f) s).link i' = s.link i') ∧ (∀ (i' : Nat), (run (updFunc i f) s).fence i' = s.fence i') :=
  by refine ⟨?_, ?_, ?_, ?_, ?_, ?_, ?_, ?_, ?_, ?_, ?_, ?_, ?_, ?_, ?_, ?_, ?_, ?_, ?_, ?_⟩ <;> intros <;> first | rfl | (apply State.bytes_congr; rfl)

@[simp] theorem run_updFormer_reads (i : Nat) (f : Former → Former) (s : State) :
    (∀ (p' : Page) (f' : Field), (run (updFormer i f) s).get p' f' = s.get p' f') ∧ (∀ (a : Nat), (run (updFormer i f) s).byte a = s.byte a) ∧ (∀ (a n : Nat), (run (updFormer i f) s).bytes a n = s.bytes a n) ∧ (∀ (t' : Table) (i' : Nat), (run (updFormer i f) s).word t' i' = s.word t' i') ∧ (run (updFormer i f) s).st = s.st ∧ (∀ (i' : Nat), (run (updFormer i f) s).eng i' = s.eng i') ∧ (∀ (i' : Nat), (run (updFormer i f) s).tone i' = s.tone i') ∧ (∀ (i' : Nat), (run (updFormer i f) s).output i' = s.output i') ∧ (∀ (i' : Nat), (run (updFormer i f) s).group i' = s.group i') ∧ (∀ (i' : Nat), (run (updFormer i f) s).blk i' = s.blk i') ∧ (∀ (i' : Nat), (run (updFormer i f) s).slot i' = s.slot i') ∧ (∀ (i' : Nat), (run (updFormer i f) s).trig i' = s.trig i') ∧ (∀ (i' : Nat), (run (updFormer i f) s).rx i' = s.rx i') ∧ (∀ (i' : Nat), (run (updFormer i f) s).func i' = s.func i') ∧ (∀ (i' : Nat), (run (updFormer i f) s).capq i' = s.capq i') ∧ (∀ (i' : Nat), (run (updFormer i f) s).coinc i' = s.coinc i') ∧ (∀ (i' : Nat), (run (updFormer i f) s).dsp i' = s.dsp i') ∧ (∀ (i' : Nat), (run (updFormer i f) s).dq i' = s.dq i') ∧ (∀ (i' : Nat), (run (updFormer i f) s).link i' = s.link i') ∧ (∀ (i' : Nat), (run (updFormer i f) s).fence i' = s.fence i') :=
  by refine ⟨?_, ?_, ?_, ?_, ?_, ?_, ?_, ?_, ?_, ?_, ?_, ?_, ?_, ?_, ?_, ?_, ?_, ?_, ?_, ?_⟩ <;> intros <;> first | rfl | (apply State.bytes_congr; rfl)

@[simp] theorem run_updCapq_reads (i : Nat) (f : CapQueue → CapQueue) (s : State) :
    (∀ (p' : Page) (f' : Field), (run (updCapq i f) s).get p' f' = s.get p' f') ∧ (∀ (a : Nat), (run (updCapq i f) s).byte a = s.byte a) ∧ (∀ (a n : Nat), (run (updCapq i f) s).bytes a n = s.bytes a n) ∧ (∀ (t' : Table) (i' : Nat), (run (updCapq i f) s).word t' i' = s.word t' i') ∧ (run (updCapq i f) s).st = s.st ∧ (∀ (i' : Nat), (run (updCapq i f) s).eng i' = s.eng i') ∧ (∀ (i' : Nat), (run (updCapq i f) s).tone i' = s.tone i') ∧ (∀ (i' : Nat), (run (updCapq i f) s).output i' = s.output i') ∧ (∀ (i' : Nat), (run (updCapq i f) s).group i' = s.group i') ∧ (∀ (i' : Nat), (run (updCapq i f) s).blk i' = s.blk i') ∧ (∀ (i' : Nat), (run (updCapq i f) s).slot i' = s.slot i') ∧ (∀ (i' : Nat), (run (updCapq i f) s).trig i' = s.trig i') ∧ (∀ (i' : Nat), (run (updCapq i f) s).rx i' = s.rx i') ∧ (∀ (i' : Nat), (run (updCapq i f) s).func i' = s.func i') ∧ (∀ (i' : Nat), (run (updCapq i f) s).former i' = s.former i') ∧ (∀ (i' : Nat), (run (updCapq i f) s).coinc i' = s.coinc i') ∧ (∀ (i' : Nat), (run (updCapq i f) s).dsp i' = s.dsp i') ∧ (∀ (i' : Nat), (run (updCapq i f) s).dq i' = s.dq i') ∧ (∀ (i' : Nat), (run (updCapq i f) s).link i' = s.link i') ∧ (∀ (i' : Nat), (run (updCapq i f) s).fence i' = s.fence i') :=
  by refine ⟨?_, ?_, ?_, ?_, ?_, ?_, ?_, ?_, ?_, ?_, ?_, ?_, ?_, ?_, ?_, ?_, ?_, ?_, ?_, ?_⟩ <;> intros <;> first | rfl | (apply State.bytes_congr; rfl)

@[simp] theorem run_updCoinc_reads (i : Nat) (f : CoincState → CoincState) (s : State) :
    (∀ (p' : Page) (f' : Field), (run (updCoinc i f) s).get p' f' = s.get p' f') ∧ (∀ (a : Nat), (run (updCoinc i f) s).byte a = s.byte a) ∧ (∀ (a n : Nat), (run (updCoinc i f) s).bytes a n = s.bytes a n) ∧ (∀ (t' : Table) (i' : Nat), (run (updCoinc i f) s).word t' i' = s.word t' i') ∧ (run (updCoinc i f) s).st = s.st ∧ (∀ (i' : Nat), (run (updCoinc i f) s).eng i' = s.eng i') ∧ (∀ (i' : Nat), (run (updCoinc i f) s).tone i' = s.tone i') ∧ (∀ (i' : Nat), (run (updCoinc i f) s).output i' = s.output i') ∧ (∀ (i' : Nat), (run (updCoinc i f) s).group i' = s.group i') ∧ (∀ (i' : Nat), (run (updCoinc i f) s).blk i' = s.blk i') ∧ (∀ (i' : Nat), (run (updCoinc i f) s).slot i' = s.slot i') ∧ (∀ (i' : Nat), (run (updCoinc i f) s).trig i' = s.trig i') ∧ (∀ (i' : Nat), (run (updCoinc i f) s).rx i' = s.rx i') ∧ (∀ (i' : Nat), (run (updCoinc i f) s).func i' = s.func i') ∧ (∀ (i' : Nat), (run (updCoinc i f) s).former i' = s.former i') ∧ (∀ (i' : Nat), (run (updCoinc i f) s).capq i' = s.capq i') ∧ (∀ (i' : Nat), (run (updCoinc i f) s).dsp i' = s.dsp i') ∧ (∀ (i' : Nat), (run (updCoinc i f) s).dq i' = s.dq i') ∧ (∀ (i' : Nat), (run (updCoinc i f) s).link i' = s.link i') ∧ (∀ (i' : Nat), (run (updCoinc i f) s).fence i' = s.fence i') :=
  by refine ⟨?_, ?_, ?_, ?_, ?_, ?_, ?_, ?_, ?_, ?_, ?_, ?_, ?_, ?_, ?_, ?_, ?_, ?_, ?_, ?_⟩ <;> intros <;> first | rfl | (apply State.bytes_congr; rfl)

@[simp] theorem run_updDsp_reads (i : Nat) (f : DspState → DspState) (s : State) :
    (∀ (p' : Page) (f' : Field), (run (updDsp i f) s).get p' f' = s.get p' f') ∧ (∀ (a : Nat), (run (updDsp i f) s).byte a = s.byte a) ∧ (∀ (a n : Nat), (run (updDsp i f) s).bytes a n = s.bytes a n) ∧ (∀ (t' : Table) (i' : Nat), (run (updDsp i f) s).word t' i' = s.word t' i') ∧ (run (updDsp i f) s).st = s.st ∧ (∀ (i' : Nat), (run (updDsp i f) s).eng i' = s.eng i') ∧ (∀ (i' : Nat), (run (updDsp i f) s).tone i' = s.tone i') ∧ (∀ (i' : Nat), (run (updDsp i f) s).output i' = s.output i') ∧ (∀ (i' : Nat), (run (updDsp i f) s).group i' = s.group i') ∧ (∀ (i' : Nat), (run (updDsp i f) s).blk i' = s.blk i') ∧ (∀ (i' : Nat), (run (updDsp i f) s).slot i' = s.slot i') ∧ (∀ (i' : Nat), (run (updDsp i f) s).trig i' = s.trig i') ∧ (∀ (i' : Nat), (run (updDsp i f) s).rx i' = s.rx i') ∧ (∀ (i' : Nat), (run (updDsp i f) s).func i' = s.func i') ∧ (∀ (i' : Nat), (run (updDsp i f) s).former i' = s.former i') ∧ (∀ (i' : Nat), (run (updDsp i f) s).capq i' = s.capq i') ∧ (∀ (i' : Nat), (run (updDsp i f) s).coinc i' = s.coinc i') ∧ (∀ (i' : Nat), (run (updDsp i f) s).dq i' = s.dq i') ∧ (∀ (i' : Nat), (run (updDsp i f) s).link i' = s.link i') ∧ (∀ (i' : Nat), (run (updDsp i f) s).fence i' = s.fence i') :=
  by refine ⟨?_, ?_, ?_, ?_, ?_, ?_, ?_, ?_, ?_, ?_, ?_, ?_, ?_, ?_, ?_, ?_, ?_, ?_, ?_, ?_⟩ <;> intros <;> first | rfl | (apply State.bytes_congr; rfl)

@[simp] theorem run_updDq_reads (i : Nat) (f : PorterQueue → PorterQueue) (s : State) :
    (∀ (p' : Page) (f' : Field), (run (updDq i f) s).get p' f' = s.get p' f') ∧ (∀ (a : Nat), (run (updDq i f) s).byte a = s.byte a) ∧ (∀ (a n : Nat), (run (updDq i f) s).bytes a n = s.bytes a n) ∧ (∀ (t' : Table) (i' : Nat), (run (updDq i f) s).word t' i' = s.word t' i') ∧ (run (updDq i f) s).st = s.st ∧ (∀ (i' : Nat), (run (updDq i f) s).eng i' = s.eng i') ∧ (∀ (i' : Nat), (run (updDq i f) s).tone i' = s.tone i') ∧ (∀ (i' : Nat), (run (updDq i f) s).output i' = s.output i') ∧ (∀ (i' : Nat), (run (updDq i f) s).group i' = s.group i') ∧ (∀ (i' : Nat), (run (updDq i f) s).blk i' = s.blk i') ∧ (∀ (i' : Nat), (run (updDq i f) s).slot i' = s.slot i') ∧ (∀ (i' : Nat), (run (updDq i f) s).trig i' = s.trig i') ∧ (∀ (i' : Nat), (run (updDq i f) s).rx i' = s.rx i') ∧ (∀ (i' : Nat), (run (updDq i f) s).func i' = s.func i') ∧ (∀ (i' : Nat), (run (updDq i f) s).former i' = s.former i') ∧ (∀ (i' : Nat), (run (updDq i f) s).capq i' = s.capq i') ∧ (∀ (i' : Nat), (run (updDq i f) s).coinc i' = s.coinc i') ∧ (∀ (i' : Nat), (run (updDq i f) s).dsp i' = s.dsp i') ∧ (∀ (i' : Nat), (run (updDq i f) s).link i' = s.link i') ∧ (∀ (i' : Nat), (run (updDq i f) s).fence i' = s.fence i') :=
  by refine ⟨?_, ?_, ?_, ?_, ?_, ?_, ?_, ?_, ?_, ?_, ?_, ?_, ?_, ?_, ?_, ?_, ?_, ?_, ?_, ?_⟩ <;> intros <;> first | rfl | (apply State.bytes_congr; rfl)

@[simp] theorem run_updLink_reads (i : Nat) (f : PortLink → PortLink) (s : State) :
    (∀ (p' : Page) (f' : Field), (run (updLink i f) s).get p' f' = s.get p' f') ∧ (∀ (a : Nat), (run (updLink i f) s).byte a = s.byte a) ∧ (∀ (a n : Nat), (run (updLink i f) s).bytes a n = s.bytes a n) ∧ (∀ (t' : Table) (i' : Nat), (run (updLink i f) s).word t' i' = s.word t' i') ∧ (run (updLink i f) s).st = s.st ∧ (∀ (i' : Nat), (run (updLink i f) s).eng i' = s.eng i') ∧ (∀ (i' : Nat), (run (updLink i f) s).tone i' = s.tone i') ∧ (∀ (i' : Nat), (run (updLink i f) s).output i' = s.output i') ∧ (∀ (i' : Nat), (run (updLink i f) s).group i' = s.group i') ∧ (∀ (i' : Nat), (run (updLink i f) s).blk i' = s.blk i') ∧ (∀ (i' : Nat), (run (updLink i f) s).slot i' = s.slot i') ∧ (∀ (i' : Nat), (run (updLink i f) s).trig i' = s.trig i') ∧ (∀ (i' : Nat), (run (updLink i f) s).rx i' = s.rx i') ∧ (∀ (i' : Nat), (run (updLink i f) s).func i' = s.func i') ∧ (∀ (i' : Nat), (run (updLink i f) s).former i' = s.former i') ∧ (∀ (i' : Nat), (run (updLink i f) s).capq i' = s.capq i') ∧ (∀ (i' : Nat), (run (updLink i f) s).coinc i' = s.coinc i') ∧ (∀ (i' : Nat), (run (updLink i f) s).dsp i' = s.dsp i') ∧ (∀ (i' : Nat), (run (updLink i f) s).dq i' = s.dq i') ∧ (∀ (i' : Nat), (run (updLink i f) s).fence i' = s.fence i') :=
  by refine ⟨?_, ?_, ?_, ?_, ?_, ?_, ?_, ?_, ?_, ?_, ?_, ?_, ?_, ?_, ?_, ?_, ?_, ?_, ?_, ?_⟩ <;> intros <;> first | rfl | (apply State.bytes_congr; rfl)

@[simp] theorem run_updFence_reads (i : Nat) (f : FenceState → FenceState) (s : State) :
    (∀ (p' : Page) (f' : Field), (run (updFence i f) s).get p' f' = s.get p' f') ∧ (∀ (a : Nat), (run (updFence i f) s).byte a = s.byte a) ∧ (∀ (a n : Nat), (run (updFence i f) s).bytes a n = s.bytes a n) ∧ (∀ (t' : Table) (i' : Nat), (run (updFence i f) s).word t' i' = s.word t' i') ∧ (run (updFence i f) s).st = s.st ∧ (∀ (i' : Nat), (run (updFence i f) s).eng i' = s.eng i') ∧ (∀ (i' : Nat), (run (updFence i f) s).tone i' = s.tone i') ∧ (∀ (i' : Nat), (run (updFence i f) s).output i' = s.output i') ∧ (∀ (i' : Nat), (run (updFence i f) s).group i' = s.group i') ∧ (∀ (i' : Nat), (run (updFence i f) s).blk i' = s.blk i') ∧ (∀ (i' : Nat), (run (updFence i f) s).slot i' = s.slot i') ∧ (∀ (i' : Nat), (run (updFence i f) s).trig i' = s.trig i') ∧ (∀ (i' : Nat), (run (updFence i f) s).rx i' = s.rx i') ∧ (∀ (i' : Nat), (run (updFence i f) s).func i' = s.func i') ∧ (∀ (i' : Nat), (run (updFence i f) s).former i' = s.former i') ∧ (∀ (i' : Nat), (run (updFence i f) s).capq i' = s.capq i') ∧ (∀ (i' : Nat), (run (updFence i f) s).coinc i' = s.coinc i') ∧ (∀ (i' : Nat), (run (updFence i f) s).dsp i' = s.dsp i') ∧ (∀ (i' : Nat), (run (updFence i f) s).dq i' = s.dq i') ∧ (∀ (i' : Nat), (run (updFence i f) s).link i' = s.link i') :=
  by refine ⟨?_, ?_, ?_, ?_, ?_, ?_, ?_, ?_, ?_, ?_, ?_, ?_, ?_, ?_, ?_, ?_, ?_, ?_, ?_, ?_⟩ <;> intros <;> first | rfl | (apply State.bytes_congr; rfl)

@[simp] theorem run_updTime_reads (f : TimeState → TimeState) (s : State) :
    (∀ (p' : Page) (f' : Field), (run (updTime f) s).get p' f' = s.get p' f') ∧ (∀ (a : Nat), (run (updTime f) s).byte a = s.byte a) ∧ (∀ (a n : Nat), (run (updTime f) s).bytes a n = s.bytes a n) ∧ (∀ (t' : Table) (i' : Nat), (run (updTime f) s).word t' i' = s.word t' i') ∧ (∀ (i' : Nat), (run (updTime f) s).eng i' = s.eng i') ∧ (∀ (i' : Nat), (run (updTime f) s).tone i' = s.tone i') ∧ (∀ (i' : Nat), (run (updTime f) s).output i' = s.output i') ∧ (∀ (i' : Nat), (run (updTime f) s).group i' = s.group i') ∧ (∀ (i' : Nat), (run (updTime f) s).blk i' = s.blk i') ∧ (∀ (i' : Nat), (run (updTime f) s).slot i' = s.slot i') ∧ (∀ (i' : Nat), (run (updTime f) s).trig i' = s.trig i') ∧ (∀ (i' : Nat), (run (updTime f) s).rx i' = s.rx i') ∧ (∀ (i' : Nat), (run (updTime f) s).func i' = s.func i') ∧ (∀ (i' : Nat), (run (updTime f) s).former i' = s.former i') ∧ (∀ (i' : Nat), (run (updTime f) s).capq i' = s.capq i') ∧ (∀ (i' : Nat), (run (updTime f) s).coinc i' = s.coinc i') ∧ (∀ (i' : Nat), (run (updTime f) s).dsp i' = s.dsp i') ∧ (∀ (i' : Nat), (run (updTime f) s).dq i' = s.dq i') ∧ (∀ (i' : Nat), (run (updTime f) s).link i' = s.link i') ∧ (∀ (i' : Nat), (run (updTime f) s).fence i' = s.fence i') :=
  by refine ⟨?_, ?_, ?_, ?_, ?_, ?_, ?_, ?_, ?_, ?_, ?_, ?_, ?_, ?_, ?_, ?_, ?_, ?_, ?_, ?_⟩ <;> intros <;> first | rfl | (apply State.bytes_congr; rfl)

@[simp] theorem run_updLed_reads (f : LedgerState → LedgerState) (s : State) :
    (∀ (p' : Page) (f' : Field), (run (updLed f) s).get p' f' = s.get p' f') ∧ (∀ (a : Nat), (run (updLed f) s).byte a = s.byte a) ∧ (∀ (a n : Nat), (run (updLed f) s).bytes a n = s.bytes a n) ∧ (∀ (t' : Table) (i' : Nat), (run (updLed f) s).word t' i' = s.word t' i') ∧ (run (updLed f) s).st = s.st ∧ (∀ (i' : Nat), (run (updLed f) s).eng i' = s.eng i') ∧ (∀ (i' : Nat), (run (updLed f) s).tone i' = s.tone i') ∧ (∀ (i' : Nat), (run (updLed f) s).output i' = s.output i') ∧ (∀ (i' : Nat), (run (updLed f) s).group i' = s.group i') ∧ (∀ (i' : Nat), (run (updLed f) s).blk i' = s.blk i') ∧ (∀ (i' : Nat), (run (updLed f) s).slot i' = s.slot i') ∧ (∀ (i' : Nat), (run (updLed f) s).trig i' = s.trig i') ∧ (∀ (i' : Nat), (run (updLed f) s).rx i' = s.rx i') ∧ (∀ (i' : Nat), (run (updLed f) s).func i' = s.func i') ∧ (∀ (i' : Nat), (run (updLed f) s).former i' = s.former i') ∧ (∀ (i' : Nat), (run (updLed f) s).capq i' = s.capq i') ∧ (∀ (i' : Nat), (run (updLed f) s).coinc i' = s.coinc i') ∧ (∀ (i' : Nat), (run (updLed f) s).dsp i' = s.dsp i') ∧ (∀ (i' : Nat), (run (updLed f) s).dq i' = s.dq i') ∧ (∀ (i' : Nat), (run (updLed f) s).link i' = s.link i') ∧ (∀ (i' : Nat), (run (updLed f) s).fence i' = s.fence i') :=
  by refine ⟨?_, ?_, ?_, ?_, ?_, ?_, ?_, ?_, ?_, ?_, ?_, ?_, ?_, ?_, ?_, ?_, ?_, ?_, ?_, ?_, ?_⟩ <;> intros <;> first | rfl | (apply State.bytes_congr; rfl)

@[simp] theorem run_updFab_reads (f : FabricState → FabricState) (s : State) :
    (∀ (p' : Page) (f' : Field), (run (updFab f) s).get p' f' = s.get p' f') ∧ (∀ (a : Nat), (run (updFab f) s).byte a = s.byte a) ∧ (∀ (a n : Nat), (run (updFab f) s).bytes a n = s.bytes a n) ∧ (∀ (t' : Table) (i' : Nat), (run (updFab f) s).word t' i' = s.word t' i') ∧ (run (updFab f) s).st = s.st ∧ (∀ (i' : Nat), (run (updFab f) s).eng i' = s.eng i') ∧ (∀ (i' : Nat), (run (updFab f) s).tone i' = s.tone i') ∧ (∀ (i' : Nat), (run (updFab f) s).output i' = s.output i') ∧ (∀ (i' : Nat), (run (updFab f) s).group i' = s.group i') ∧ (∀ (i' : Nat), (run (updFab f) s).blk i' = s.blk i') ∧ (∀ (i' : Nat), (run (updFab f) s).slot i' = s.slot i') ∧ (∀ (i' : Nat), (run (updFab f) s).trig i' = s.trig i') ∧ (∀ (i' : Nat), (run (updFab f) s).rx i' = s.rx i') ∧ (∀ (i' : Nat), (run (updFab f) s).func i' = s.func i') ∧ (∀ (i' : Nat), (run (updFab f) s).former i' = s.former i') ∧ (∀ (i' : Nat), (run (updFab f) s).capq i' = s.capq i') ∧ (∀ (i' : Nat), (run (updFab f) s).coinc i' = s.coinc i') ∧ (∀ (i' : Nat), (run (updFab f) s).dsp i' = s.dsp i') ∧ (∀ (i' : Nat), (run (updFab f) s).dq i' = s.dq i') ∧ (∀ (i' : Nat), (run (updFab f) s).link i' = s.link i') ∧ (∀ (i' : Nat), (run (updFab f) s).fence i' = s.fence i') :=
  by refine ⟨?_, ?_, ?_, ?_, ?_, ?_, ?_, ?_, ?_, ?_, ?_, ?_, ?_, ?_, ?_, ?_, ?_, ?_, ?_, ?_, ?_⟩ <;> intros <;> first | rfl | (apply State.bytes_congr; rfl)

@[simp] theorem run_updTend_reads (f : WatchState → WatchState) (s : State) :
    (∀ (p' : Page) (f' : Field), (run (updTend f) s).get p' f' = s.get p' f') ∧ (∀ (a : Nat), (run (updTend f) s).byte a = s.byte a) ∧ (∀ (a n : Nat), (run (updTend f) s).bytes a n = s.bytes a n) ∧ (∀ (t' : Table) (i' : Nat), (run (updTend f) s).word t' i' = s.word t' i') ∧ (run (updTend f) s).st = s.st ∧ (∀ (i' : Nat), (run (updTend f) s).eng i' = s.eng i') ∧ (∀ (i' : Nat), (run (updTend f) s).tone i' = s.tone i') ∧ (∀ (i' : Nat), (run (updTend f) s).output i' = s.output i') ∧ (∀ (i' : Nat), (run (updTend f) s).group i' = s.group i') ∧ (∀ (i' : Nat), (run (updTend f) s).blk i' = s.blk i') ∧ (∀ (i' : Nat), (run (updTend f) s).slot i' = s.slot i') ∧ (∀ (i' : Nat), (run (updTend f) s).trig i' = s.trig i') ∧ (∀ (i' : Nat), (run (updTend f) s).rx i' = s.rx i') ∧ (∀ (i' : Nat), (run (updTend f) s).func i' = s.func i') ∧ (∀ (i' : Nat), (run (updTend f) s).former i' = s.former i') ∧ (∀ (i' : Nat), (run (updTend f) s).capq i' = s.capq i') ∧ (∀ (i' : Nat), (run (updTend f) s).coinc i' = s.coinc i') ∧ (∀ (i' : Nat), (run (updTend f) s).dsp i' = s.dsp i') ∧ (∀ (i' : Nat), (run (updTend f) s).dq i' = s.dq i') ∧ (∀ (i' : Nat), (run (updTend f) s).link i' = s.link i') ∧ (∀ (i' : Nat), (run (updTend f) s).fence i' = s.fence i') :=
  by refine ⟨?_, ?_, ?_, ?_, ?_, ?_, ?_, ?_, ?_, ?_, ?_, ?_, ?_, ?_, ?_, ?_, ?_, ?_, ?_, ?_, ?_⟩ <;> intros <;> first | rfl | (apply State.bytes_congr; rfl)

@[simp] theorem run_updPower_reads (f : PowerState → PowerState) (s : State) :
    (∀ (p' : Page) (f' : Field), (run (updPower f) s).get p' f' = s.get p' f') ∧ (∀ (a : Nat), (run (updPower f) s).byte a = s.byte a) ∧ (∀ (a n : Nat), (run (updPower f) s).bytes a n = s.bytes a n) ∧ (∀ (t' : Table) (i' : Nat), (run (updPower f) s).word t' i' = s.word t' i') ∧ (run (updPower f) s).st = s.st ∧ (∀ (i' : Nat), (run (updPower f) s).eng i' = s.eng i') ∧ (∀ (i' : Nat), (run (updPower f) s).tone i' = s.tone i') ∧ (∀ (i' : Nat), (run (updPower f) s).output i' = s.output i') ∧ (∀ (i' : Nat), (run (updPower f) s).group i' = s.group i') ∧ (∀ (i' : Nat), (run (updPower f) s).blk i' = s.blk i') ∧ (∀ (i' : Nat), (run (updPower f) s).slot i' = s.slot i') ∧ (∀ (i' : Nat), (run (updPower f) s).trig i' = s.trig i') ∧ (∀ (i' : Nat), (run (updPower f) s).rx i' = s.rx i') ∧ (∀ (i' : Nat), (run (updPower f) s).func i' = s.func i') ∧ (∀ (i' : Nat), (run (updPower f) s).former i' = s.former i') ∧ (∀ (i' : Nat), (run (updPower f) s).capq i' = s.capq i') ∧ (∀ (i' : Nat), (run (updPower f) s).coinc i' = s.coinc i') ∧ (∀ (i' : Nat), (run (updPower f) s).dsp i' = s.dsp i') ∧ (∀ (i' : Nat), (run (updPower f) s).dq i' = s.dq i') ∧ (∀ (i' : Nat), (run (updPower f) s).link i' = s.link i') ∧ (∀ (i' : Nat), (run (updPower f) s).fence i' = s.fence i') :=
  by refine ⟨?_, ?_, ?_, ?_, ?_, ?_, ?_, ?_, ?_, ?_, ?_, ?_, ?_, ?_, ?_, ?_, ?_, ?_, ?_, ?_, ?_⟩ <;> intros <;> first | rfl | (apply State.bytes_congr; rfl)

@[simp] theorem run_updStart_reads (f : StartState → StartState) (s : State) :
    (∀ (p' : Page) (f' : Field), (run (updStart f) s).get p' f' = s.get p' f') ∧ (∀ (a : Nat), (run (updStart f) s).byte a = s.byte a) ∧ (∀ (a n : Nat), (run (updStart f) s).bytes a n = s.bytes a n) ∧ (∀ (t' : Table) (i' : Nat), (run (updStart f) s).word t' i' = s.word t' i') ∧ (run (updStart f) s).st = s.st ∧ (∀ (i' : Nat), (run (updStart f) s).eng i' = s.eng i') ∧ (∀ (i' : Nat), (run (updStart f) s).tone i' = s.tone i') ∧ (∀ (i' : Nat), (run (updStart f) s).output i' = s.output i') ∧ (∀ (i' : Nat), (run (updStart f) s).group i' = s.group i') ∧ (∀ (i' : Nat), (run (updStart f) s).blk i' = s.blk i') ∧ (∀ (i' : Nat), (run (updStart f) s).slot i' = s.slot i') ∧ (∀ (i' : Nat), (run (updStart f) s).trig i' = s.trig i') ∧ (∀ (i' : Nat), (run (updStart f) s).rx i' = s.rx i') ∧ (∀ (i' : Nat), (run (updStart f) s).func i' = s.func i') ∧ (∀ (i' : Nat), (run (updStart f) s).former i' = s.former i') ∧ (∀ (i' : Nat), (run (updStart f) s).capq i' = s.capq i') ∧ (∀ (i' : Nat), (run (updStart f) s).coinc i' = s.coinc i') ∧ (∀ (i' : Nat), (run (updStart f) s).dsp i' = s.dsp i') ∧ (∀ (i' : Nat), (run (updStart f) s).dq i' = s.dq i') ∧ (∀ (i' : Nat), (run (updStart f) s).link i' = s.link i') ∧ (∀ (i' : Nat), (run (updStart f) s).fence i' = s.fence i') :=
  by refine ⟨?_, ?_, ?_, ?_, ?_, ?_, ?_, ?_, ?_, ?_, ?_, ?_, ?_, ?_, ?_, ?_, ?_, ?_, ?_, ?_, ?_⟩ <;> intros <;> first | rfl | (apply State.bytes_congr; rfl)

/-! The part an act changes. -/

@[simp] theorem run_updEng_same (i : Nat) (f : Engine → Engine) (s : State) : (run (updEng i f) s).eng i = f (s.eng i) :=
  Store.get_put_same _ _ _ _

theorem run_updEng_ne (i : Nat) (f : Engine → Engine) (s : State) {j : Nat} (h : i ≠ j) : (run (updEng i f) s).eng j = s.eng j :=
  Store.get_put_ne _ _ _ _ h

@[simp] theorem run_updTone_same (i : Nat) (f : Tone → Tone) (s : State) : (run (updTone i f) s).tone i = f (s.tone i) :=
  Store.get_put_same _ _ _ _

theorem run_updTone_ne (i : Nat) (f : Tone → Tone) (s : State) {j : Nat} (h : i ≠ j) : (run (updTone i f) s).tone j = s.tone j :=
  Store.get_put_ne _ _ _ _ h

@[simp] theorem run_updOutput_same (i : Nat) (f : Output → Output) (s : State) : (run (updOutput i f) s).output i = f (s.output i) :=
  Store.get_put_same _ _ _ _

theorem run_updOutput_ne (i : Nat) (f : Output → Output) (s : State) {j : Nat} (h : i ≠ j) : (run (updOutput i f) s).output j = s.output j :=
  Store.get_put_ne _ _ _ _ h

@[simp] theorem run_updGroup_same (i : Nat) (f : Group → Group) (s : State) : (run (updGroup i f) s).group i = f (s.group i) :=
  Store.get_put_same _ _ _ _

theorem run_updGroup_ne (i : Nat) (f : Group → Group) (s : State) {j : Nat} (h : i ≠ j) : (run (updGroup i f) s).group j = s.group j :=
  Store.get_put_ne _ _ _ _ h

@[simp] theorem run_updBlk_same (i : Nat) (f : Block → Block) (s : State) : (run (updBlk i f) s).blk i = f (s.blk i) :=
  Store.get_put_same _ _ _ _

theorem run_updBlk_ne (i : Nat) (f : Block → Block) (s : State) {j : Nat} (h : i ≠ j) : (run (updBlk i f) s).blk j = s.blk j :=
  Store.get_put_ne _ _ _ _ h

@[simp] theorem run_updSlot_same (i : Nat) (f : DecSlot → DecSlot) (s : State) : (run (updSlot i f) s).slot i = f (s.slot i) :=
  Store.get_put_same _ _ _ _

theorem run_updSlot_ne (i : Nat) (f : DecSlot → DecSlot) (s : State) {j : Nat} (h : i ≠ j) : (run (updSlot i f) s).slot j = s.slot j :=
  Store.get_put_ne _ _ _ _ h

@[simp] theorem run_updTrig_same (i : Nat) (f : TrigUnit → TrigUnit) (s : State) : (run (updTrig i f) s).trig i = f (s.trig i) :=
  Store.get_put_same _ _ _ _

theorem run_updTrig_ne (i : Nat) (f : TrigUnit → TrigUnit) (s : State) {j : Nat} (h : i ≠ j) : (run (updTrig i f) s).trig j = s.trig j :=
  Store.get_put_ne _ _ _ _ h

@[simp] theorem run_updRx_same (i : Nat) (f : RxState → RxState) (s : State) : (run (updRx i f) s).rx i = f (s.rx i) :=
  Store.get_put_same _ _ _ _

theorem run_updRx_ne (i : Nat) (f : RxState → RxState) (s : State) {j : Nat} (h : i ≠ j) : (run (updRx i f) s).rx j = s.rx j :=
  Store.get_put_ne _ _ _ _ h

@[simp] theorem run_updFunc_same (i : Nat) (f : FuncState → FuncState) (s : State) : (run (updFunc i f) s).func i = f (s.func i) :=
  Store.get_put_same _ _ _ _

theorem run_updFunc_ne (i : Nat) (f : FuncState → FuncState) (s : State) {j : Nat} (h : i ≠ j) : (run (updFunc i f) s).func j = s.func j :=
  Store.get_put_ne _ _ _ _ h

@[simp] theorem run_updFormer_same (i : Nat) (f : Former → Former) (s : State) : (run (updFormer i f) s).former i = f (s.former i) :=
  Store.get_put_same _ _ _ _

theorem run_updFormer_ne (i : Nat) (f : Former → Former) (s : State) {j : Nat} (h : i ≠ j) : (run (updFormer i f) s).former j = s.former j :=
  Store.get_put_ne _ _ _ _ h

@[simp] theorem run_updCapq_same (i : Nat) (f : CapQueue → CapQueue) (s : State) : (run (updCapq i f) s).capq i = f (s.capq i) :=
  Store.get_put_same _ _ _ _

theorem run_updCapq_ne (i : Nat) (f : CapQueue → CapQueue) (s : State) {j : Nat} (h : i ≠ j) : (run (updCapq i f) s).capq j = s.capq j :=
  Store.get_put_ne _ _ _ _ h

@[simp] theorem run_updCoinc_same (i : Nat) (f : CoincState → CoincState) (s : State) : (run (updCoinc i f) s).coinc i = f (s.coinc i) :=
  Store.get_put_same _ _ _ _

theorem run_updCoinc_ne (i : Nat) (f : CoincState → CoincState) (s : State) {j : Nat} (h : i ≠ j) : (run (updCoinc i f) s).coinc j = s.coinc j :=
  Store.get_put_ne _ _ _ _ h

@[simp] theorem run_updDsp_same (i : Nat) (f : DspState → DspState) (s : State) : (run (updDsp i f) s).dsp i = f (s.dsp i) :=
  Store.get_put_same _ _ _ _

theorem run_updDsp_ne (i : Nat) (f : DspState → DspState) (s : State) {j : Nat} (h : i ≠ j) : (run (updDsp i f) s).dsp j = s.dsp j :=
  Store.get_put_ne _ _ _ _ h

@[simp] theorem run_updDq_same (i : Nat) (f : PorterQueue → PorterQueue) (s : State) : (run (updDq i f) s).dq i = f (s.dq i) :=
  Store.get_put_same _ _ _ _

theorem run_updDq_ne (i : Nat) (f : PorterQueue → PorterQueue) (s : State) {j : Nat} (h : i ≠ j) : (run (updDq i f) s).dq j = s.dq j :=
  Store.get_put_ne _ _ _ _ h

@[simp] theorem run_updLink_same (i : Nat) (f : PortLink → PortLink) (s : State) : (run (updLink i f) s).link i = f (s.link i) :=
  Store.get_put_same _ _ _ _

theorem run_updLink_ne (i : Nat) (f : PortLink → PortLink) (s : State) {j : Nat} (h : i ≠ j) : (run (updLink i f) s).link j = s.link j :=
  Store.get_put_ne _ _ _ _ h

@[simp] theorem run_updFence_same (i : Nat) (f : FenceState → FenceState) (s : State) : (run (updFence i f) s).fence i = f (s.fence i) :=
  Store.get_put_same _ _ _ _

theorem run_updFence_ne (i : Nat) (f : FenceState → FenceState) (s : State) {j : Nat} (h : i ≠ j) : (run (updFence i f) s).fence j = s.fence j :=
  Store.get_put_ne _ _ _ _ h

@[simp] theorem run_updTime_same (f : TimeState → TimeState) (s : State) : (run (updTime f) s).time = f s.time := rfl

@[simp] theorem run_updLed_same (f : LedgerState → LedgerState) (s : State) : (run (updLed f) s).led = f s.led := rfl

@[simp] theorem run_updFab_same (f : FabricState → FabricState) (s : State) : (run (updFab f) s).fab = f s.fab := rfl

@[simp] theorem run_updTend_same (f : WatchState → WatchState) (s : State) : (run (updTend f) s).tend = f s.tend := rfl

@[simp] theorem run_updPower_same (f : PowerState → PowerState) (s : State) : (run (updPower f) s).power = f s.power := rfl

@[simp] theorem run_updStart_same (f : StartState → StartState) (s : State) : (run (updStart f) s).start = f s.start := rfl

@[simp] theorem run_emit_out (x : Emit) (s : State) : (run (emit x) s).out = s.out ++ [x] := rfl
@[simp] theorem run_setRdata_rdata (v : Nat) (s : State) : (run (setRdata v) s).rdata = v := rfl
@[simp] theorem run_drawFree_free (s : State) : (run drawFree s).free = s.free + 1 := rfl
@[simp] theorem run_setWord_same (t : Table) (i v : Nat) (s : State) : (run (setWord t i v) s).word t i = v % 2 ^ 32 :=
  Store.get_put_same _ _ _ _
theorem run_setWord_ne (t u : Table) (i j v : Nat) (s : State) (h : tblKey t i ≠ tblKey u j) :
    (run (setWord t i v) s).word u j = s.word u j := Store.get_put_ne _ _ _ _ h
@[simp] theorem run_setF_same (p : Page) (f : Field) (v : Nat) (s : State) : (run (setF p f v) s).get p f = v % 2 ^ f.width :=
  Store.get_put_same _ _ _ _
theorem run_setF_ne (p q : Page) (f g : Field) (v : Nat) (s : State) (h : regKey p f ≠ regKey q g) :
    (run (setF p f v) s).get q g = s.get q g := Store.get_put_ne _ _ _ _ h

/-- Words of one table at different indices lie apart, and tables lie 2^44 apart. -/
theorem tblKey_inj {t u : Table} {i j : Nat} (hi : i < 2 ^ 44) (hj : j < 2 ^ 44) (h : tblKey t i = tblKey u j) : t = u ∧ i = j := by
  unfold tblKey at h
  have ht : t.number = u.number := by omega
  have : t = u := by revert ht; cases t <;> cases u <;> decide
  subst this
  exact ⟨rfl, by omega⟩

end Sys2Proof.Machine
end

