-- ==== Sys2Proof/Laws/Pages.lean ====
section
/-! SUPPORT. The register map's cells do not overlap: two fields of the register store share a cell only where page, offset and lowest
bit are the same (R497 to R499). -/

namespace Sys2Proof.Machine

/-- Pages of 4 KiB start at multiples of 4 KiB. -/
theorem pageBase_aligned (p : Page) : pageBase p % 4096 = 0 := by
  cases p <;> simp only [pageBase] <;> omega

/-- The type and instance of the page that starts at an address. -/
def identAt (a : Nat) : Nat × Nat :=
  if a < 0x10_0000 ∨ 2 ^ 32 ≤ a then
    (match a % 2 ^ 32 / 0x1000 with
    | 0 => (1, 0) | 1 => (2, 0) | 2 => (3, a / 2 ^ 32) | 3 => (4, 0) | 4 => (5, 0)
    | 16 => (0x10, 0) | 17 => (0x11, 0) | 18 => (0x11, 1) | 24 => (0x18, 0) | 32 => (0x20, 0) | 48 => (0x30, 0)
    | 49 => (0x31, 0) | 50 => (0x31, 1) | 51 => (0x31, 2) | 52 => (0x31, 3) | 64 => (0x40, 0) | 80 => (0x50, 0)
    | 96 => (0x60, 0) | _ => (0x70, 0))
  else if a < 0x80_0000 then (6, a / 0x1000 - 0x100)
  else if a < 0x100_0000 then
    let n := (a - 0x80_0000) / 0x4_0000
    let r := a % 0x4_0000 / 0x1000
    if r = 0 then (0x80, n) else if r < 8 then (0x81, 4 * n + (r - 4)) else if r < 12 then (0x82, n)
    else if r < 16 then (0x83, n) else (0x84, n)
  else
    let k := (a - 0x100_0000) / 0x2_0000
    let r := a % 0x2_0000 / 0x1000
    if r = 0 then (0xA0, k) else if r < 4 then (0xA1, 2 * k + (r - 2)) else if r < 6 then (0xA2, 2 * k + (r - 4))
    else if r < 8 then (0xA3, k) else if r < 16 then (0xA4, k) else (0xA5, 16 * k + (r - 16))

theorem identAt_base (p : Page) : identAt (pageBase p) = pageIdent p := by
  cases p with
  | feed i => revert i; decide
  | port i => revert i; decide
  | fence g => revert g; decide
  | session g => revert g; decide
  | region g => revert g; decide
  | decision g => revert g; decide
  | acquisition g => revert g; decide
  | porter g => revert g; decide
  | transceiver g => revert g; decide
  | block g => revert g; decide
  | dsp g => revert g; decide
  | bank g => revert g; decide
  | drive g => revert g; decide
  | flux g => revert g; decide
  | cell e =>
    have := e.isLt
    have h₁ : ¬ (0x100_0000 + e.val / 16 * 0x2_0000 + 0x1_0000 + e.val % 16 * 0x1000 < 0x10_0000 ∨
        2 ^ 32 ≤ 0x100_0000 + e.val / 16 * 0x2_0000 + 0x1_0000 + e.val % 16 * 0x1000) := by omega
    have h₂ : (0x100_0000 + e.val / 16 * 0x2_0000 + 0x1_0000 + e.val % 16 * 0x1000) % 0x2_0000 / 0x1000 = 16 + e.val % 16 := by omega
    have h₃ : (0x100_0000 + e.val / 16 * 0x2_0000 + 0x1_0000 + e.val % 16 * 0x1000 - 0x100_0000) / 0x2_0000 = e.val / 16 := by omega
    simp only [identAt, pageBase, pageIdent, h₁, h₂, h₃, if_false]
    rw [if_neg (by omega), if_neg (by omega), if_neg (by omega), if_neg (by omega), if_neg (by omega), if_neg (by omega), if_neg (by omega)]
    congr 1; omega
  | _ => rfl

/-- No two pages have the same PAGE_ID. -/
theorem pageIdent_inj {p q : Page} (h : pageIdent p = pageIdent q) : p = q := by
  cases p <;> cases q <;> simp [pageIdent, Fin.val_inj] at h <;> first | rfl | (subst h; rfl)

/-- No two pages start at the same address. -/
theorem pageBase_inj {p q : Page} (h : pageBase p = pageBase q) : p = q :=
  pageIdent_inj (by rw [← identAt_base p, ← identAt_base q, h])

/-- The cells of two fields differ unless page, offset and lowest bit agree. -/
theorem regKey_eq_iff {p q : Page} {f g : Field} (hf : f.off < 4096 ∧ f.lo < 32) (hg : g.off < 4096 ∧ g.lo < 32) :
    regKey p f = regKey q g ↔ p = q ∧ f.off = g.off ∧ f.lo = g.lo := by
  constructor
  · intro h
    unfold regKey at h
    have hp := pageBase_aligned p
    have hq := pageBase_aligned q
    have hb : pageBase p = pageBase q := by omega
    exact ⟨pageBase_inj hb, by omega, by omega⟩
  · rintro ⟨rfl, h₁, h₂⟩
    simp [regKey, h₁, h₂]

/-- A write of one field of a page leaves a field at another place of any page alone. -/
theorem get_setF_other {p q : Page} {f g : Field} {v : Nat} {s : State} (hf : f.off < 4096 ∧ f.lo < 32) (hg : g.off < 4096 ∧ g.lo < 32)
    (h : p ≠ q ∨ f.off ≠ g.off ∨ f.lo ≠ g.lo) : (run (setF p f v) s).get q g = s.get q g :=
  run_setF_ne p q f g v s fun e => by
    have := (regKey_eq_iff hf hg).1 e
    tauto

/-! A page by its number is the page itself. -/

theorem Fin.ofNat_val_self {n : Nat} [NeZero n] (i : Fin n) : Fin.ofNat n i.val = i := by
  apply Fin.ext; simp

@[simp] theorem cellPage_val (i : Fin 1024) : cellPage i.val = .cell i := congrArg Page.cell (Fin.ofNat_val_self i)
@[simp] theorem blockPage_val (i : Fin 64) : blockPage i.val = .block i := congrArg Page.block (Fin.ofNat_val_self i)
@[simp] theorem regionPage_val (i : Fin 8) : regionPage i.val = .region i := congrArg Page.region (Fin.ofNat_val_self i)
@[simp] theorem drivePage_val (i : Fin 128) : drivePage i.val = .drive i := congrArg Page.drive (Fin.ofNat_val_self i)
@[simp] theorem fluxPage_val (i : Fin 128) : fluxPage i.val = .flux i := congrArg Page.flux (Fin.ofNat_val_self i)
@[simp] theorem rxPage_val (i : Fin 32) : rxPage i.val = .transceiver i := congrArg Page.transceiver (Fin.ofNat_val_self i)
@[simp] theorem dspPage_val (i : Fin 64) : dspPage i.val = .dsp i := congrArg Page.dsp (Fin.ofNat_val_self i)
@[simp] theorem bankPage_val (i : Fin 64) : bankPage i.val = .bank i := congrArg Page.bank (Fin.ofNat_val_self i)
@[simp] theorem decPage_val (i : Fin 8) : decPage i.val = .decision i := congrArg Page.decision (Fin.ofNat_val_self i)
@[simp] theorem acqPage_val (i : Fin 8) : acqPage i.val = .acquisition i := congrArg Page.acquisition (Fin.ofNat_val_self i)
@[simp] theorem porterPage_val (i : Fin 8) : porterPage i.val = .porter i := congrArg Page.porter (Fin.ofNat_val_self i)
@[simp] theorem portPage_val (i : Fin 4) : portPage i.val = .port i := congrArg Page.port (Fin.ofNat_val_self i)

end Sys2Proof.Machine
end

