-- ==== Sys2Proof/Laws/Frames.lean ====
section
/-! SUPPORT. Frames by what an act may touch: the pieces of the state and the register cells of its primitive changes. -/

namespace Sys2Proof.Machine

/-- The piece of the state a primitive change touches. -/
def Eff.piece : Eff → Piece
  | .reg .. => .regs | .mem .. => .mem | .tbl .. => .tbl | .emit _ => .out | .rdata _ => .rdata | .free => .free
  | .clear .regs _ _ => .regs | .clear .mem _ _ => .mem | .clear .tbl _ _ => .tbl | .clear .engs _ _ => .engs
  | .clear .tones _ _ => .tones | .clear .outputs _ _ => .outputs | .clear .groups _ _ => .groups | .clear .blks _ _ => .blks
  | .clear .slots _ _ => .slots | .clear .trigs _ _ => .trigs | .clear .rxs _ _ => .rxs | .clear .funcs _ _ => .funcs
  | .clear .formers _ _ => .formers | .clear .capqs _ _ => .capqs | .clear .coincs _ _ => .coincs | .clear .dsps _ _ => .dsps
  | .clear .dqs _ _ => .dqs | .clear .links _ _ => .links | .clear .fences _ _ => .fences
  | .time _ => .time | .eng .. => .engs | .tone .. => .tones | .output .. => .outputs | .group .. => .groups | .blk .. => .blks
  | .led _ => .led | .fab _ => .fab | .tend _ => .tend | .slot .. => .slots | .trig .. => .trigs | .rx .. => .rxs | .func .. => .funcs
  | .former .. => .formers | .capq .. => .capqs | .coinc .. => .coincs | .dsp .. => .dsps | .dq .. => .dqs | .link .. => .links
  | .fence .. => .fences | .power _ => .power | .start _ => .start

/-- A primitive change leaves every piece but its own alone. -/
theorem Eff.apply_same (e : Eff) (s : State) (x : Piece) (h : x ≠ e.piece) : x.same s (e.apply s) := by
  cases e with
  | clear p lo hi => cases p <;> cases x <;> first | rfl | exact absurd rfl h
  | _ => cases x <;> first | rfl | exact absurd rfl h

theorem Piece.same_refl (s : State) (x : Piece) : x.same s s := by cases x <;> rfl
theorem Piece.same_trans {s t u : State} {x : Piece} (h : x.same s t) (h' : x.same t u) : x.same s u := by
  cases x <;> simp only [Piece.same] at * <;> exact h'.trans h

/-- Whether a primitive change is of an allowed piece and, for a register field, of an allowed cell. -/
def Eff.within (P : Piece → Prop) (K : Nat → Prop) : Eff → Prop
  | .reg k _ _ => P .regs ∧ K k
  | .clear .regs lo hi => P .regs ∧ ∀ k, lo ≤ k → k < hi → K k
  | e => P e.piece

/-- In every state, an act changes only allowed pieces and register cells. -/
def Act.within (P : Piece → Prop) (K : Nat → Prop) (a : Act) : Prop := ∀ s, ∀ e ∈ a s, e.within P K

variable {P : Piece → Prop} {K : Nat → Prop}

theorem within_skip : Act.within P K skip := fun _ _ h => absurd h (by simp [skip])
theorem within_nil : Act.within P K (acts []) := within_skip
theorem within_cons {a : Act} {as : List Act} (h : Act.within P K a) (h' : Act.within P K (acts as)) : Act.within P K (acts (a :: as)) := by
  intro s e he
  rcases List.mem_append.1 he with he | he
  · exact h s e he
  · exact h' _ e he
theorem within_look {f : State → Act} (h : ∀ s, Act.within P K (f s)) : Act.within P K (look f) := fun s => h s s
theorem within_onlyIf {c : State → Bool} {a : Act} (h : Act.within P K a) : Act.within P K (onlyIf c a) := by
  intro s e he
  unfold onlyIf at he
  split at he
  · exact h s e he
  · simp at he
theorem within_ite {c : Prop} [Decidable c] {a b : Act} (h : c → Act.within P K a) (h' : ¬c → Act.within P K b) : Act.within P K (if c then a else b) := by
  split
  · exact h ‹_›
  · exact h' ‹_›
theorem within_forEach {α : Type} {xs : List α} {f : α → Act} (h : ∀ x ∈ xs, Act.within P K (f x)) : Act.within P K (forEach xs f) := by
  induction xs with
  | nil => exact within_skip
  | cons x xs ih =>
    intro s e he
    rcases List.mem_append.1 he with he | he
    · exact h x (by simp) s e he
    · exact ih (fun y hy => h y (List.mem_cons_of_mem _ hy)) _ e he
theorem within_setF {p : Page} {f : Field} {v : Nat} (h : P .regs) (h' : K (regKey p f)) : Act.within P K (setF p f v) := by
  intro s e he; simp [setF] at he; subst he; exact ⟨h, h'⟩

theorem within_modF {p : Page} {f : Field} {g : Nat → Nat} (h : P .regs) (h' : K (regKey p f)) : Act.within P K (modF p f g) :=
  fun s => within_setF h h' s
theorem within_countF {p : Page} {f : Field} (h : P .regs) (h' : K (regKey p f)) : Act.within P K (countF p f) := within_modF h h'
theorem within_wrapF {p : Page} {f : Field} (h : P .regs) (h' : K (regKey p f)) : Act.within P K (wrapF p f) := within_modF h h'
theorem within_setB {p : Page} {f : Field} {b : Bool} (h : P .regs) (h' : K (regKey p f)) : Act.within P K (setB p f b) := within_setF h h'
theorem within_setPair {p : Page} {lo hi : Field} {v : Nat} (h : P .regs) (hl : K (regKey p lo)) (hh : K (regKey p hi)) :
    Act.within P K (setPair p lo hi v) :=
  within_cons (within_setF h hl) (within_cons (within_setF h hh) within_nil)

/-- An act of changes of one piece, other than register fields. -/
theorem within_of_piece {a : Act} {x : Piece} (hx : P x) (hr : x ≠ .regs) (h : ∀ s, ∀ e ∈ a s, e.piece = x) : Act.within P K a := by
  intro s e he
  have hp := h s e he
  subst hp
  cases e with
  | clear p lo hi => cases p <;> first | exact hx | exact absurd rfl hr
  | reg => exact absurd rfl hr
  | _ => exact hx

theorem applyAll_same (es : List Eff) (s : State) (x : Piece) (h : ∀ e ∈ es, e.within P K) (hx : ¬P x) : x.same s (applyAll es s) := by
  induction es generalizing s with
  | nil => exact Piece.same_refl s x
  | cons e es ih =>
    refine Piece.same_trans (Eff.apply_same e s x ?_) (ih _ fun y hy => h y (List.mem_cons_of_mem _ hy))
    rintro rfl
    have := h e (by simp)
    cases e with
    | clear p lo hi => cases p <;> first | exact hx this | exact hx this.1
    | reg => exact hx this.1
    | _ => exact hx this

/-- An act leaves every piece outside the allowed ones alone. -/
theorem Act.within.keeps {a : Act} (h : Act.within P K a) (s : State) {but : List Piece} (hb : ∀ x, P x → x ∈ but) : Keeps but s (run a s) :=
  fun x hx => applyAll_same _ s x (h s) fun hp => hx (hb x hp)

/-- An act leaves every register cell outside the allowed ones alone. -/
theorem Act.within.cell {a : Act} (h : Act.within P K a) (s : State) {k : Nat} (hk : ¬K k) (d : Nat) :
    Store.get d (run a s).regs k = Store.get d s.regs k := by
  unfold run
  have he := h s
  generalize a s = es at he
  induction es generalizing s with
  | nil => rfl
  | cons e es ih =>
    rw [applyAll, ih _ fun y hy => he y (List.mem_cons_of_mem _ hy)]
    have := he e (by simp)
    cases e with
    | reg j v r => exact Store.get_put_ne _ _ _ _ fun h => hk (h ▸ this.2)
    | clear p lo hi =>
      cases p <;> first
        | rfl
        | exact Store.get_clear_out _ _ (by
            by_contra hc
            exact hk (this.2 k (by omega) (by omega)))
    | _ => rfl

theorem Act.within.fields {a : Act} {but : List (Page × Field)} (h : Act.within P (fun k => ∃ x ∈ but, k = regKey x.1 x.2) a) (s : State) :
    FieldsKept but s (run a s) :=
  fun _ f hp => h.cell s (fun ⟨x, hx, hk⟩ => hp x hx hk) f.reset

/-- An act of changes to the fields of some pages leaves every other page's fields alone. -/
theorem Act.within.pages {a : Act} {but : List Page} (h : Act.within P (fun k => ∃ p ∈ but, ∃ f : Field, f.off < 4096 ∧ f.lo < 32 ∧ k = regKey p f) a)
    (s : State) : PagesKept but s (run a s) := by
  intro _ f hp ho hl
  refine h.cell s ?_ f.reset
  rintro ⟨q, hq, g, hg, hg', hk⟩
  exact hp (((regKey_eq_iff ⟨ho, hl⟩ ⟨hg, hg'⟩).1 hk).1 ▸ hq)

theorem Act.within.frame {a : Act} {but : List (Page × Field)} {ps : List Piece}
    (h : Act.within (· ∈ Piece.regs :: ps) (fun k => ∃ x ∈ but, k = regKey x.1 x.2) a) (s : State) : OnlyChanges but ps s (run a s) :=
  ⟨h.fields s, h.keeps s fun _ hx => hx⟩

theorem Act.within.pageFrame {a : Act} {but : List Page} {ps : List Piece}
    (h : Act.within (· ∈ Piece.regs :: ps) (fun k => ∃ p ∈ but, ∃ f : Field, f.off < 4096 ∧ f.lo < 32 ∧ k = regKey p f) a) (s : State) :
    OnlyPagesChange but ps s (run a s) :=
  ⟨h.pages s, h.keeps s fun _ hx => hx⟩

/-- Frames compose act by act. -/
theorem OnlyChanges.refl (but : List (Page × Field)) (ps : List Piece) (s : State) : OnlyChanges but ps s s :=
  ⟨fun _ _ _ => rfl, fun x _ => Piece.same_refl s x⟩

theorem OnlyChanges.step {a : Act} {but : List (Page × Field)} {ps : List Piece} {s t : State}
    (ha : Act.within (· ∈ Piece.regs :: ps) (fun k => ∃ x ∈ but, k = regKey x.1 x.2) a) (h : OnlyChanges but ps s t) :
    OnlyChanges but ps s (run a t) :=
  ⟨fun p f hp => ((ha.frame t).1 p f hp).trans (h.1 p f hp), fun x hx => Piece.same_trans (h.2 x hx) ((ha.frame t).2 x hx)⟩

theorem OnlyPagesChange.refl (but : List Page) (ps : List Piece) (s : State) : OnlyPagesChange but ps s s :=
  ⟨fun _ _ _ _ _ => rfl, fun x _ => Piece.same_refl s x⟩

theorem OnlyPagesChange.step {a : Act} {but : List Page} {ps : List Piece} {s t : State}
    (ha : Act.within (· ∈ Piece.regs :: ps) (fun k => ∃ p ∈ but, ∃ f : Field, f.off < 4096 ∧ f.lo < 32 ∧ k = regKey p f) a)
    (h : OnlyPagesChange but ps s t) : OnlyPagesChange but ps s (run a t) :=
  ⟨fun p f hp ho hl => ((ha.pageFrame t).1 p f hp ho hl).trans (h.1 p f hp ho hl),
   fun x hx => Piece.same_trans (h.2 x hx) ((ha.pageFrame t).2 x hx)⟩

theorem Keeps.refl (ps : List Piece) (s : State) : Keeps ps s s := fun x _ => Piece.same_refl s x

theorem Keeps.step {a : Act} {ps : List Piece} {s t : State} (ha : Act.within (· ∈ ps) (fun _ => True) a) (h : Keeps ps s t) :
    Keeps ps s (run a t) :=
  fun x hx => Piece.same_trans (h x hx) (ha.keeps t (fun _ h => h) x hx)

/-! The acts that change one piece -/

theorem within_updEng {i : Nat} {f : Engine → Engine} (h : P .engs) : Act.within P K (updEng i f) :=
  within_of_piece h (by decide) fun s e he => by simp [updEng] at he; subst he; rfl
theorem within_updTone {i : Nat} {f : Tone → Tone} (h : P .tones) : Act.within P K (updTone i f) :=
  within_of_piece h (by decide) fun s e he => by simp [updTone] at he; subst he; rfl
theorem within_updOutput {i : Nat} {f : Output → Output} (h : P .outputs) : Act.within P K (updOutput i f) :=
  within_of_piece h (by decide) fun s e he => by simp [updOutput] at he; subst he; rfl
theorem within_updGroup {i : Nat} {f : Group → Group} (h : P .groups) : Act.within P K (updGroup i f) :=
  within_of_piece h (by decide) fun s e he => by simp [updGroup] at he; subst he; rfl
theorem within_updBlk {i : Nat} {f : Block → Block} (h : P .blks) : Act.within P K (updBlk i f) :=
  within_of_piece h (by decide) fun s e he => by simp [updBlk] at he; subst he; rfl
theorem within_updSlot {i : Nat} {f : DecSlot → DecSlot} (h : P .slots) : Act.within P K (updSlot i f) :=
  within_of_piece h (by decide) fun s e he => by simp [updSlot] at he; subst he; rfl
theorem within_updTrig {i : Nat} {f : TrigUnit → TrigUnit} (h : P .trigs) : Act.within P K (updTrig i f) :=
  within_of_piece h (by decide) fun s e he => by simp [updTrig] at he; subst he; rfl
theorem within_updRx {i : Nat} {f : RxState → RxState} (h : P .rxs) : Act.within P K (updRx i f) :=
  within_of_piece h (by decide) fun s e he => by simp [updRx] at he; subst he; rfl
theorem within_updFunc {i : Nat} {f : FuncState → FuncState} (h : P .funcs) : Act.within P K (updFunc i f) :=
  within_of_piece h (by decide) fun s e he => by simp [updFunc] at he; subst he; rfl
theorem within_updFormer {i : Nat} {f : Former → Former} (h : P .formers) : Act.within P K (updFormer i f) :=
  within_of_piece h (by decide) fun s e he => by simp [updFormer] at he; subst he; rfl
theorem within_updCapq {i : Nat} {f : CapQueue → CapQueue} (h : P .capqs) : Act.within P K (updCapq i f) :=
  within_of_piece h (by decide) fun s e he => by simp [updCapq] at he; subst he; rfl
theorem within_updCoinc {i : Nat} {f : CoincState → CoincState} (h : P .coincs) : Act.within P K (updCoinc i f) :=
  within_of_piece h (by decide) fun s e he => by simp [updCoinc] at he; subst he; rfl
theorem within_updDsp {i : Nat} {f : DspState → DspState} (h : P .dsps) : Act.within P K (updDsp i f) :=
  within_of_piece h (by decide) fun s e he => by simp [updDsp] at he; subst he; rfl
theorem within_updDq {i : Nat} {f : PorterQueue → PorterQueue} (h : P .dqs) : Act.within P K (updDq i f) :=
  within_of_piece h (by decide) fun s e he => by simp [updDq] at he; subst he; rfl
theorem within_updLink {i : Nat} {f : PortLink → PortLink} (h : P .links) : Act.within P K (updLink i f) :=
  within_of_piece h (by decide) fun s e he => by simp [updLink] at he; subst he; rfl
theorem within_updFence {i : Nat} {f : FenceState → FenceState} (h : P .fences) : Act.within P K (updFence i f) :=
  within_of_piece h (by decide) fun s e he => by simp [updFence] at he; subst he; rfl
theorem within_updTime {f : TimeState → TimeState} (h : P .time) : Act.within P K (updTime f) :=
  within_of_piece h (by decide) fun s e he => by simp [updTime] at he; subst he; rfl
theorem within_updLed {f : LedgerState → LedgerState} (h : P .led) : Act.within P K (updLed f) :=
  within_of_piece h (by decide) fun s e he => by simp [updLed] at he; subst he; rfl
theorem within_updFab {f : FabricState → FabricState} (h : P .fab) : Act.within P K (updFab f) :=
  within_of_piece h (by decide) fun s e he => by simp [updFab] at he; subst he; rfl
theorem within_updTend {f : WatchState → WatchState} (h : P .tend) : Act.within P K (updTend f) :=
  within_of_piece h (by decide) fun s e he => by simp [updTend] at he; subst he; rfl
theorem within_updPower {f : PowerState → PowerState} (h : P .power) : Act.within P K (updPower f) :=
  within_of_piece h (by decide) fun s e he => by simp [updPower] at he; subst he; rfl
theorem within_updStart {f : StartState → StartState} (h : P .start) : Act.within P K (updStart f) :=
  within_of_piece h (by decide) fun s e he => by simp [updStart] at he; subst he; rfl
theorem within_setWord {t : Table} {i v : Nat} (h : P .tbl) : Act.within P K (setWord t i v) :=
  within_of_piece h (by decide) fun s e he => by simp [setWord] at he; subst he; rfl
theorem within_emit {x : Emit} (h : P .out) : Act.within P K (emit x) :=
  within_of_piece h (by decide) fun s e he => by simp [emit] at he; subst he; rfl
theorem within_setRdata {v : Nat} (h : P .rdata) : Act.within P K (setRdata v) :=
  within_of_piece h (by decide) fun s e he => by simp [setRdata] at he; subst he; rfl
theorem within_drawFree (h : P .free) : Act.within P K drawFree :=
  within_of_piece h (by decide) fun s e he => by simp [drawFree] at he; subst he; rfl

theorem writeBytes_mem {a v n : Nat} {e : Eff} (h : e ∈ writeBytes a v n) : e.piece = .mem := by
  induction n generalizing a v with
  | zero => simp [writeBytes] at h
  | succ n ih =>
    rcases List.mem_cons.1 h with rfl | h
    · rfl
    · exact ih h

theorem writeList_mem {a : Nat} {bs : List Byte} {e : Eff} (h : e ∈ writeList a bs) : e.piece = .mem := by
  induction bs generalizing a with
  | nil => simp [writeList] at h
  | cons b bs ih =>
    rcases List.mem_cons.1 h with rfl | h
    · rfl
    · exact ih h

theorem clearPoison_tbl {a n : Nat} {e : Eff} (h : e ∈ clearPoison a n) : e.piece = .tbl := by
  simp [clearPoison] at h; obtain ⟨i, -, rfl⟩ := h; rfl

theorem Eff.within_piece {e : Eff} {x : Piece} (h : e.piece = x) (hr : x ≠ .regs) (hx : P x) : e.within P K := by
  subst h
  cases e with
  | clear p lo hi => cases p <;> first | exact hx | exact absurd rfl hr
  | reg => exact absurd rfl hr
  | _ => exact hx

theorem within_storeBytes {a v n : Nat} (h : P .mem) (h' : P .tbl) : Act.within P K (storeBytes a v n) := by
  intro s e he
  rcases List.mem_append.1 he with he | he
  · exact Eff.within_piece (writeBytes_mem he) (by decide) h
  · exact Eff.within_piece (clearPoison_tbl he) (by decide) h'

theorem within_storeList {a : Nat} {bs : List Byte} (h : P .mem) (h' : P .tbl) : Act.within P K (storeList a bs) := by
  intro s e he
  rcases List.mem_append.1 he with he | he
  · exact Eff.within_piece (writeList_mem he) (by decide) h
  · exact Eff.within_piece (clearPoison_tbl he) (by decide) h'

end Sys2Proof.Machine
end

