-- ==== Sys2Proof/Laws/Views.lean ====
section
/-! SUPPORT. The tests of page states, engine states, receive conditions and one-bit fields, as equations of register fields. -/

namespace Sys2Proof.Machine

theorem decide_view {p : Prop} [Decidable p] : (decide p = true) = p := propext decide_eq_true_iff
theorem decide_view_not {p : Prop} [Decidable p] : (decide p = false) = ¬p := propext decide_eq_false_iff_not

theorem pageIs_off (s : State) (p : Page) : (s.pageIs p .off = true) = (s.get p ALL.PAGE_STATE_STATE = 0) := decide_view
theorem pageIs_off_not (s : State) (p : Page) : (s.pageIs p .off = false) = ¬(s.get p ALL.PAGE_STATE_STATE = 0) := decide_view_not
theorem pageIs_starting (s : State) (p : Page) : (s.pageIs p .starting = true) = (s.get p ALL.PAGE_STATE_STATE = 1) := decide_view
theorem pageIs_starting_not (s : State) (p : Page) : (s.pageIs p .starting = false) = ¬(s.get p ALL.PAGE_STATE_STATE = 1) := decide_view_not
theorem pageIs_ready (s : State) (p : Page) : (s.pageIs p .ready = true) = (s.get p ALL.PAGE_STATE_STATE = 2) := decide_view
theorem pageIs_ready_not (s : State) (p : Page) : (s.pageIs p .ready = false) = ¬(s.get p ALL.PAGE_STATE_STATE = 2) := decide_view_not
theorem pageIs_draining (s : State) (p : Page) : (s.pageIs p .draining = true) = (s.get p ALL.PAGE_STATE_STATE = 3) := decide_view
theorem pageIs_draining_not (s : State) (p : Page) : (s.pageIs p .draining = false) = ¬(s.get p ALL.PAGE_STATE_STATE = 3) := decide_view_not
theorem pageIs_quarantined (s : State) (p : Page) : (s.pageIs p .quarantined = true) = (s.get p ALL.PAGE_STATE_STATE = 4) := decide_view
theorem pageIs_quarantined_not (s : State) (p : Page) : (s.pageIs p .quarantined = false) = ¬(s.get p ALL.PAGE_STATE_STATE = 4) := decide_view_not
theorem engIs_stopped (s : State) (e : Nat) : (s.engIs e .stopped = true) = (s.get (cellPage e) CELL.STATUS_STATE = 0) := decide_view
theorem engIs_stopped_not (s : State) (e : Nat) : (s.engIs e .stopped = false) = ¬(s.get (cellPage e) CELL.STATUS_STATE = 0) := decide_view_not
theorem engIs_running (s : State) (e : Nat) : (s.engIs e .running = true) = (s.get (cellPage e) CELL.STATUS_STATE = 1) := decide_view
theorem engIs_running_not (s : State) (e : Nat) : (s.engIs e .running = false) = ¬(s.get (cellPage e) CELL.STATUS_STATE = 1) := decide_view_not
theorem engIs_waitTT (s : State) (e : Nat) : (s.engIs e .waitTT = true) = (s.get (cellPage e) CELL.STATUS_STATE = 2) := decide_view
theorem engIs_waitTT_not (s : State) (e : Nat) : (s.engIs e .waitTT = false) = ¬(s.get (cellPage e) CELL.STATUS_STATE = 2) := decide_view_not
theorem engIs_waitLease (s : State) (e : Nat) : (s.engIs e .waitLease = true) = (s.get (cellPage e) CELL.STATUS_STATE = 3) := decide_view
theorem engIs_waitLease_not (s : State) (e : Nat) : (s.engIs e .waitLease = false) = ¬(s.get (cellPage e) CELL.STATUS_STATE = 3) := decide_view_not
theorem engIs_waitDecision (s : State) (e : Nat) : (s.engIs e .waitDecision = true) = (s.get (cellPage e) CELL.STATUS_STATE = 4) := decide_view
theorem engIs_waitDecision_not (s : State) (e : Nat) : (s.engIs e .waitDecision = false) = ¬(s.get (cellPage e) CELL.STATUS_STATE = 4) := decide_view_not
theorem engIs_waitST (s : State) (e : Nat) : (s.engIs e .waitST = true) = (s.get (cellPage e) CELL.STATUS_STATE = 5) := decide_view
theorem engIs_waitST_not (s : State) (e : Nat) : (s.engIs e .waitST = false) = ¬(s.get (cellPage e) CELL.STATUS_STATE = 5) := decide_view_not
theorem engIs_curfew (s : State) (e : Nat) : (s.engIs e .curfew = true) = (s.get (cellPage e) CELL.STATUS_STATE = 6) := decide_view
theorem engIs_curfew_not (s : State) (e : Nat) : (s.engIs e .curfew = false) = ¬(s.get (cellPage e) CELL.STATUS_STATE = 6) := decide_view_not
theorem engIs_watch (s : State) (e : Nat) : (s.engIs e .watch = true) = (s.get (cellPage e) CELL.STATUS_STATE = 7) := decide_view
theorem engIs_watch_not (s : State) (e : Nat) : (s.engIs e .watch = false) = ¬(s.get (cellPage e) CELL.STATUS_STATE = 7) := decide_view_not
theorem engIs_stopover (s : State) (e : Nat) : (s.engIs e .stopover = true) = (s.get (cellPage e) CELL.STATUS_STATE = 8) := decide_view
theorem engIs_stopover_not (s : State) (e : Nat) : (s.engIs e .stopover = false) = ¬(s.get (cellPage e) CELL.STATUS_STATE = 8) := decide_view_not
theorem engIs_faulted (s : State) (e : Nat) : (s.engIs e .faulted = true) = (s.get (cellPage e) CELL.STATUS_STATE = 9) := decide_view
theorem engIs_faulted_not (s : State) (e : Nat) : (s.engIs e .faulted = false) = ¬(s.get (cellPage e) CELL.STATUS_STATE = 9) := decide_view_not
theorem rxIs_off (s : State) (t : Nat) : (s.rxIs t .off = true) = (s.get (rxPage t) TRANSCEIVER.RX_STATUS_COND = 0) := decide_view
theorem rxIs_off_not (s : State) (t : Nat) : (s.rxIs t .off = false) = ¬(s.get (rxPage t) TRANSCEIVER.RX_STATUS_COND = 0) := decide_view_not
theorem rxIs_calibrating (s : State) (t : Nat) : (s.rxIs t .calibrating = true) = (s.get (rxPage t) TRANSCEIVER.RX_STATUS_COND = 1) := decide_view
theorem rxIs_calibrating_not (s : State) (t : Nat) : (s.rxIs t .calibrating = false) = ¬(s.get (rxPage t) TRANSCEIVER.RX_STATUS_COND = 1) := decide_view_not
theorem rxIs_live (s : State) (t : Nat) : (s.rxIs t .live = true) = (s.get (rxPage t) TRANSCEIVER.RX_STATUS_COND = 2) := decide_view
theorem rxIs_live_not (s : State) (t : Nat) : (s.rxIs t .live = false) = ¬(s.get (rxPage t) TRANSCEIVER.RX_STATUS_COND = 2) := decide_view_not
theorem rxIs_unavailable (s : State) (t : Nat) : (s.rxIs t .unavailable = true) = (s.get (rxPage t) TRANSCEIVER.RX_STATUS_COND = 3) := decide_view
theorem rxIs_unavailable_not (s : State) (t : Nat) : (s.rxIs t .unavailable = false) = ¬(s.get (rxPage t) TRANSCEIVER.RX_STATUS_COND = 3) := decide_view_not
theorem flag_iff (s : State) (p : Page) (f : Field) : (s.flag p f = true) = (s.get p f = 1) := decide_view
theorem flag_iff_not (s : State) (p : Page) (f : Field) : (s.flag p f = false) = ¬(s.get p f = 1) := decide_view_not
theorem inShot_iff (s : State) (e : Nat) : (s.inShot e = true) = (s.get (cellPage e) CELL.STATUS_IN_SHOT = 1) := decide_view
theorem inShot_iff_not (s : State) (e : Nat) : (s.inShot e = false) = ¬(s.get (cellPage e) CELL.STATUS_IN_SHOT = 1) := decide_view_not

end Sys2Proof.Machine
end

