-- ==== Sys2Proof/Laws/Shared.lean ====
section
/-! SUPPORT. What the shared operations on faults, outputs and engines may touch, once for each, so that no proof unfolds them. -/

namespace Sys2Proof.Machine

variable {P : Piece → Prop} {K : Nat → Prop}

/-! FAULT bits (R509 to R511) -/

/-- The header fields a FAULT bit writes. -/
def faultFields (p : Page) : List (Page × Field) :=
  [(p, ALL.FAULT_BITS), (p, ALL.FAULT_FIRST_INDEX), (p, ALL.FAULT_FIRST_VALID), (p, ALL.FAULT_ST_LO), (p, ALL.FAULT_ST_HI),
   (p, ALL.EVENT_COUNT_COUNT)]

theorem faultFields_all {p : Page} {Q : Nat → Prop} : (∀ x ∈ faultFields p, Q (regKey x.1 x.2)) ↔
    Q (regKey p ALL.FAULT_BITS) ∧ Q (regKey p ALL.FAULT_FIRST_INDEX) ∧ Q (regKey p ALL.FAULT_FIRST_VALID) ∧ Q (regKey p ALL.FAULT_ST_LO)
      ∧ Q (regKey p ALL.FAULT_ST_HI) ∧ Q (regKey p ALL.EVENT_COUNT_COUNT) := by
  simp only [faultFields, List.forall_mem_cons, List.not_mem_nil, false_implies, implies_true, and_true]

theorem within_faultIrq {p : Page} (ho : P .out) : Act.within P K (faultIrq p) := by
  refine within_look fun s => within_cons ?_ (within_cons ?_ within_nil)
  · split
    · exact within_emit ho
    · exact within_skip
  · exact within_ite (fun _ => within_skip) fun _ => within_emit ho

theorem within_recordFirst {p : Page} {i : Nat} (hr : P .regs) (hk : ∀ x ∈ faultFields p, K (regKey x.1 x.2)) :
    Act.within P K (recordFirst p i) := by
  obtain ⟨-, h2, h3, h4, h5, -⟩ := faultFields_all.1 hk
  refine within_look fun s => within_ite (fun _ => within_skip) fun _ => ?_
  exact within_cons (within_setF hr h2) (within_cons (within_setF hr h3)
    (within_cons (within_cons (within_setF hr h4) (within_cons (within_setF hr h5) within_nil)) within_nil))

/-- Setting a FAULT bit writes the page's fault fields and may raise interrupts, and nothing else. -/
theorem within_setFaultBit {p : Page} {b : Nat} (hr : P .regs) (ho : P .out) (hk : ∀ x ∈ faultFields p, K (regKey x.1 x.2)) :
    Act.within P K (setFaultBit p b) := by
  obtain ⟨h1, -, -, -, -, h6⟩ := faultFields_all.1 hk
  refine within_look fun s => within_cons (within_setF hr h1)
    (within_cons (within_ite (fun _ => within_recordFirst hr hk) fun _ => within_skip) (within_cons (within_ite (fun _ => ?_) fun _ => within_skip)
      (within_cons (within_ite (fun _ => within_faultIrq ho) fun _ => within_skip) within_nil)))
  exact within_wrapF hr h6

/-- The bit is set, the other bits stay. -/
theorem setFaultBit_bits (p : Page) (b : Nat) (s : State) :
    (run (setFaultBit p b) s).get p ALL.FAULT_BITS = (s.get p ALL.FAULT_BITS ||| 2 ^ b) % 2 ^ 32 := by
  have key : ∀ (a : Act) (t : State), Act.within (fun _ => True) (fun k => k ≠ regKey p ALL.FAULT_BITS) a →
      (run a t).get p ALL.FAULT_BITS = t.get p ALL.FAULT_BITS := fun a t h => h.cell t (fun h => h rfl) _
  have off : ∀ (f : Field), f.off ≠ 0x00C → f.off < 4096 → f.lo < 32 → regKey p f ≠ regKey p ALL.FAULT_BITS := by
    intro f h1 h2 h3 h
    exact h1 ((regKey_eq_iff ⟨h2, h3⟩ (by decide)).1 h).2.1
  show (run (look _) s).get p _ = _
  rw [run_look, run_acts_cons, run_acts_cons, run_acts_cons, run_acts_cons, run_acts_nil]
  rw [key, key, key, run_setF_same]
  · rfl
  · refine within_ite (fun _ => within_look fun t => within_ite (fun _ => within_skip) fun _ => ?_) fun _ => within_skip
    refine within_cons (within_setF trivial (off _ (by decide) (by decide) (by decide))) (within_cons
      (within_setF trivial (off _ (by decide) (by decide) (by decide))) (within_cons (within_cons
        (within_setF trivial (off _ (by decide) (by decide) (by decide))) (within_cons
          (within_setF trivial (off _ (by decide) (by decide) (by decide))) within_nil)) within_nil))
  · exact within_ite (fun _ => within_wrapF trivial (off _ (by decide) (by decide) (by decide))) fun _ => within_skip
  · exact within_ite (fun _ => within_faultIrq trivial) fun _ => within_skip

/-- A FAULT bit that draws no FAULT_STOP_EN is set and nothing more. -/
theorem raiseFault_of_not_stops {p : Page} {b : Nat} {s : State} (h : s.stopsOn p b = false) : run (raiseFault p b) s = run (setFaultBit p b) s := by
  unfold raiseFault
  rw [run_look, run_acts_cons, run_acts_cons, run_acts_nil, h]
  rfl

/-- Any field but the page's fault fields reads as before. -/
theorem get_setFaultBit {p q : Page} {b : Nat} {f : Field} {s : State} (h : ∀ x ∈ faultFields p, regKey x.1 x.2 ≠ regKey q f) :
    (run (setFaultBit p b) s).get q f = s.get q f :=
  (within_setFaultBit (P := fun _ => True) (K := fun k => k ≠ regKey q f) trivial trivial h).cell s (fun h => h rfl) f.reset

/-- Every piece but the registers and what leaves the block is as before. -/
theorem setFaultBit_keeps (p : Page) (b : Nat) (s : State) : Keeps [.regs, .out] s (run (setFaultBit p b) s) :=
  (within_setFaultBit (P := (· ∈ [Piece.regs, .out])) (K := fun _ => True) (by simp) (by simp) fun _ _ => trivial).keeps s fun _ h => h

/-- The pieces a FAULT bit leaves alone. -/
@[simp] theorem setFaultBit_frame (p : Page) (b : Nat) (s : State) :
    (run (setFaultBit p b) s).pending = s.pending ∧ (run (setFaultBit p b) s).mem = s.mem ∧ (run (setFaultBit p b) s).tbl = s.tbl ∧ (run (setFaultBit p b) s).rdata = s.rdata ∧ (run (setFaultBit p b) s).free = s.free ∧ (run (setFaultBit p b) s).time = s.time ∧ (run (setFaultBit p b) s).led = s.led ∧ (run (setFaultBit p b) s).fab = s.fab ∧ (run (setFaultBit p b) s).tend = s.tend ∧ (run (setFaultBit p b) s).power = s.power ∧ (run (setFaultBit p b) s).start = s.start ∧ (run (setFaultBit p b) s).engs = s.engs ∧ (run (setFaultBit p b) s).tones = s.tones ∧ (run (setFaultBit p b) s).outputs = s.outputs ∧ (run (setFaultBit p b) s).groups = s.groups ∧ (run (setFaultBit p b) s).blks = s.blks ∧ (run (setFaultBit p b) s).slots = s.slots ∧ (run (setFaultBit p b) s).trigs = s.trigs ∧ (run (setFaultBit p b) s).rxs = s.rxs ∧ (run (setFaultBit p b) s).funcs = s.funcs ∧ (run (setFaultBit p b) s).formers = s.formers ∧ (run (setFaultBit p b) s).capqs = s.capqs ∧ (run (setFaultBit p b) s).coincs = s.coincs ∧ (run (setFaultBit p b) s).dsps = s.dsps ∧ (run (setFaultBit p b) s).dqs = s.dqs ∧ (run (setFaultBit p b) s).links = s.links ∧ (run (setFaultBit p b) s).fences = s.fences :=
  ⟨setFaultBit_keeps p b s .pending (by decide), setFaultBit_keeps p b s .mem (by decide), setFaultBit_keeps p b s .tbl (by decide), setFaultBit_keeps p b s .rdata (by decide), setFaultBit_keeps p b s .free (by decide), setFaultBit_keeps p b s .time (by decide), setFaultBit_keeps p b s .led (by decide), setFaultBit_keeps p b s .fab (by decide), setFaultBit_keeps p b s .tend (by decide), setFaultBit_keeps p b s .power (by decide), setFaultBit_keeps p b s .start (by decide), setFaultBit_keeps p b s .engs (by decide), setFaultBit_keeps p b s .tones (by decide), setFaultBit_keeps p b s .outputs (by decide), setFaultBit_keeps p b s .groups (by decide), setFaultBit_keeps p b s .blks (by decide), setFaultBit_keeps p b s .slots (by decide), setFaultBit_keeps p b s .trigs (by decide), setFaultBit_keeps p b s .rxs (by decide), setFaultBit_keeps p b s .funcs (by decide), setFaultBit_keeps p b s .formers (by decide), setFaultBit_keeps p b s .capqs (by decide), setFaultBit_keeps p b s .coincs (by decide), setFaultBit_keeps p b s .dsps (by decide), setFaultBit_keeps p b s .dqs (by decide), setFaultBit_keeps p b s .links (by decide), setFaultBit_keeps p b s .fences (by decide)⟩

@[simp] theorem setFaultBit_reads (p : Page) (b : Nat) (s : State) :
    (run (setFaultBit p b) s).st = s.st ∧ (∀ (u : Table) (i : Nat), (run (setFaultBit p b) s).word u i = s.word u i) ∧ (∀ (a : Nat), (run (setFaultBit p b) s).byte a = s.byte a) ∧ (∀ (a n : Nat), (run (setFaultBit p b) s).bytes a n = s.bytes a n) ∧ (∀ (i : Nat), (run (setFaultBit p b) s).eng i = s.eng i) ∧ (∀ (i : Nat), (run (setFaultBit p b) s).tone i = s.tone i) ∧ (∀ (i : Nat), (run (setFaultBit p b) s).output i = s.output i) ∧ (∀ (i : Nat), (run (setFaultBit p b) s).group i = s.group i) ∧ (∀ (i : Nat), (run (setFaultBit p b) s).blk i = s.blk i) ∧ (∀ (i : Nat), (run (setFaultBit p b) s).slot i = s.slot i) ∧ (∀ (i : Nat), (run (setFaultBit p b) s).trig i = s.trig i) ∧ (∀ (i : Nat), (run (setFaultBit p b) s).rx i = s.rx i) ∧ (∀ (i : Nat), (run (setFaultBit p b) s).func i = s.func i) ∧ (∀ (i : Nat), (run (setFaultBit p b) s).former i = s.former i) ∧ (∀ (i : Nat), (run (setFaultBit p b) s).capq i = s.capq i) ∧ (∀ (i : Nat), (run (setFaultBit p b) s).coinc i = s.coinc i) ∧ (∀ (i : Nat), (run (setFaultBit p b) s).dsp i = s.dsp i) ∧ (∀ (i : Nat), (run (setFaultBit p b) s).dq i = s.dq i) ∧ (∀ (i : Nat), (run (setFaultBit p b) s).link i = s.link i) ∧ (∀ (i : Nat), (run (setFaultBit p b) s).fence i = s.fence i) :=
  ⟨State.st_congr (setFaultBit_frame p b s).2.2.2.2.2.1 , fun u i => State.word_congr (setFaultBit_frame p b s).2.2.1 u i, fun a => State.byte_congr (setFaultBit_frame p b s).2.1 a, fun a n => State.bytes_congr (setFaultBit_frame p b s).2.1 a n, fun i => State.eng_congr (setFaultBit_frame p b s).2.2.2.2.2.2.2.2.2.2.2.1 i, fun i => State.tone_congr (setFaultBit_frame p b s).2.2.2.2.2.2.2.2.2.2.2.2.1 i, fun i => State.output_congr (setFaultBit_frame p b s).2.2.2.2.2.2.2.2.2.2.2.2.2.1 i, fun i => State.group_congr (setFaultBit_frame p b s).2.2.2.2.2.2.2.2.2.2.2.2.2.2.1 i, fun i => State.blk_congr (setFaultBit_frame p b s).2.2.2.2.2.2.2.2.2.2.2.2.2.2.2.1 i, fun i => State.slot_congr (setFaultBit_frame p b s).2.2.2.2.2.2.2.2.2.2.2.2.2.2.2.2.1 i, fun i => State.trig_congr (setFaultBit_frame p b s).2.2.2.2.2.2.2.2.2.2.2.2.2.2.2.2.2.1 i, fun i => State.rx_congr (setFaultBit_frame p b s).2.2.2.2.2.2.2.2.2.2.2.2.2.2.2.2.2.2.1 i, fun i => State.func_congr (setFaultBit_frame p b s).2.2.2.2.2.2.2.2.2.2.2.2.2.2.2.2.2.2.2.1 i, fun i => State.former_congr (setFaultBit_frame p b s).2.2.2.2.2.2.2.2.2.2.2.2.2.2.2.2.2.2.2.2.1 i, fun i => State.capq_congr (setFaultBit_frame p b s).2.2.2.2.2.2.2.2.2.2.2.2.2.2.2.2.2.2.2.2.2.1 i, fun i => State.coinc_congr (setFaultBit_frame p b s).2.2.2.2.2.2.2.2.2.2.2.2.2.2.2.2.2.2.2.2.2.2.1 i, fun i => State.dsp_congr (setFaultBit_frame p b s).2.2.2.2.2.2.2.2.2.2.2.2.2.2.2.2.2.2.2.2.2.2.2.1 i, fun i => State.dq_congr (setFaultBit_frame p b s).2.2.2.2.2.2.2.2.2.2.2.2.2.2.2.2.2.2.2.2.2.2.2.2.1 i, fun i => State.link_congr (setFaultBit_frame p b s).2.2.2.2.2.2.2.2.2.2.2.2.2.2.2.2.2.2.2.2.2.2.2.2.2.1 i, fun i => State.fence_congr (setFaultBit_frame p b s).2.2.2.2.2.2.2.2.2.2.2.2.2.2.2.2.2.2.2.2.2.2.2.2.2.2 i⟩

/-! Sample time (R43, R45) -/

/-- ST moves to an event's time, or stays where that time has passed: it never goes back. -/
@[simp] theorem advanceTo_st (t : Stamp) (s : State) : (run (advanceTo t) s).st = if Stamp.future t s.st then t else s.st := by
  unfold advanceTo
  rw [run_look, run_ite]
  by_cases h : Stamp.future t s.st = true
  · by_cases h' : t = s.st
    · simp [h']
    · simp only [h, h', ne_eq, not_false_eq_true, decide_true, Bool.and_self, if_true]
      show s.time.coarse + BitVec.ofNat 64 (((t - s.st).toNat + s.time.fine.val) / 200 * 200) + BitVec.ofNat 64 (((t - s.st).toNat + s.time.fine.val) % 200) = t
      have hs : s.st = s.time.coarse + BitVec.ofNat 64 s.time.fine.val := rfl
      have hd : ((t - s.st).toNat + s.time.fine.val) / 200 * 200 + ((t - s.st).toNat + s.time.fine.val) % 200 = (t - s.st).toNat + s.time.fine.val := by omega
      rw [BitVec.add_assoc, ← BitVec.ofNat_add, hd, BitVec.ofNat_add, BitVec.ofNat_toNat, BitVec.setWidth_eq, hs]
      bv_omega
  · simp [h]

theorem within_advanceTo {t : Stamp} (h : P .time) : Act.within P K (advanceTo t) :=
  within_look fun _ => within_ite (fun _ => within_updTime h) fun _ => within_skip

theorem advanceTo_keeps (t : Stamp) (s : State) : Keeps [.time] s (run (advanceTo t) s) :=
  (within_advanceTo (P := (· ∈ [Piece.time])) (K := fun _ => True) (by simp)).keeps s fun _ h => h

/-- The pieces a move of ST leaves alone. -/
@[simp] theorem advanceTo_frame (t : Stamp) (s : State) :
    (run (advanceTo t) s).pending = s.pending ∧ (run (advanceTo t) s).regs = s.regs ∧ (run (advanceTo t) s).mem = s.mem ∧ (run (advanceTo t) s).tbl = s.tbl ∧ (run (advanceTo t) s).out = s.out ∧ (run (advanceTo t) s).rdata = s.rdata ∧ (run (advanceTo t) s).free = s.free ∧ (run (advanceTo t) s).led = s.led ∧ (run (advanceTo t) s).fab = s.fab ∧ (run (advanceTo t) s).tend = s.tend ∧ (run (advanceTo t) s).power = s.power ∧ (run (advanceTo t) s).start = s.start ∧ (run (advanceTo t) s).engs = s.engs ∧ (run (advanceTo t) s).tones = s.tones ∧ (run (advanceTo t) s).outputs = s.outputs ∧ (run (advanceTo t) s).groups = s.groups ∧ (run (advanceTo t) s).blks = s.blks ∧ (run (advanceTo t) s).slots = s.slots ∧ (run (advanceTo t) s).trigs = s.trigs ∧ (run (advanceTo t) s).rxs = s.rxs ∧ (run (advanceTo t) s).funcs = s.funcs ∧ (run (advanceTo t) s).formers = s.formers ∧ (run (advanceTo t) s).capqs = s.capqs ∧ (run (advanceTo t) s).coincs = s.coincs ∧ (run (advanceTo t) s).dsps = s.dsps ∧ (run (advanceTo t) s).dqs = s.dqs ∧ (run (advanceTo t) s).links = s.links ∧ (run (advanceTo t) s).fences = s.fences :=
  ⟨advanceTo_keeps t s .pending (by decide), advanceTo_keeps t s .regs (by decide), advanceTo_keeps t s .mem (by decide), advanceTo_keeps t s .tbl (by decide), advanceTo_keeps t s .out (by decide), advanceTo_keeps t s .rdata (by decide), advanceTo_keeps t s .free (by decide), advanceTo_keeps t s .led (by decide), advanceTo_keeps t s .fab (by decide), advanceTo_keeps t s .tend (by decide), advanceTo_keeps t s .power (by decide), advanceTo_keeps t s .start (by decide), advanceTo_keeps t s .engs (by decide), advanceTo_keeps t s .tones (by decide), advanceTo_keeps t s .outputs (by decide), advanceTo_keeps t s .groups (by decide), advanceTo_keeps t s .blks (by decide), advanceTo_keeps t s .slots (by decide), advanceTo_keeps t s .trigs (by decide), advanceTo_keeps t s .rxs (by decide), advanceTo_keeps t s .funcs (by decide), advanceTo_keeps t s .formers (by decide), advanceTo_keeps t s .capqs (by decide), advanceTo_keeps t s .coincs (by decide), advanceTo_keeps t s .dsps (by decide), advanceTo_keeps t s .dqs (by decide), advanceTo_keeps t s .links (by decide), advanceTo_keeps t s .fences (by decide)⟩

@[simp] theorem advanceTo_reads (t : Stamp) (s : State) :
    (∀ (q : Page) (f : Field), (run (advanceTo t) s).get q f = s.get q f) ∧ (∀ (u : Table) (i : Nat), (run (advanceTo t) s).word u i = s.word u i) ∧ (∀ (a : Nat), (run (advanceTo t) s).byte a = s.byte a) ∧ (∀ (a n : Nat), (run (advanceTo t) s).bytes a n = s.bytes a n) ∧ (∀ (i : Nat), (run (advanceTo t) s).eng i = s.eng i) ∧ (∀ (i : Nat), (run (advanceTo t) s).tone i = s.tone i) ∧ (∀ (i : Nat), (run (advanceTo t) s).output i = s.output i) ∧ (∀ (i : Nat), (run (advanceTo t) s).group i = s.group i) ∧ (∀ (i : Nat), (run (advanceTo t) s).blk i = s.blk i) ∧ (∀ (i : Nat), (run (advanceTo t) s).slot i = s.slot i) ∧ (∀ (i : Nat), (run (advanceTo t) s).trig i = s.trig i) ∧ (∀ (i : Nat), (run (advanceTo t) s).rx i = s.rx i) ∧ (∀ (i : Nat), (run (advanceTo t) s).func i = s.func i) ∧ (∀ (i : Nat), (run (advanceTo t) s).former i = s.former i) ∧ (∀ (i : Nat), (run (advanceTo t) s).capq i = s.capq i) ∧ (∀ (i : Nat), (run (advanceTo t) s).coinc i = s.coinc i) ∧ (∀ (i : Nat), (run (advanceTo t) s).dsp i = s.dsp i) ∧ (∀ (i : Nat), (run (advanceTo t) s).dq i = s.dq i) ∧ (∀ (i : Nat), (run (advanceTo t) s).link i = s.link i) ∧ (∀ (i : Nat), (run (advanceTo t) s).fence i = s.fence i) :=
  ⟨fun q f => State.get_congr (advanceTo_frame t s).2.1 q f, fun u i => State.word_congr (advanceTo_frame t s).2.2.2.1 u i, fun a => State.byte_congr (advanceTo_frame t s).2.2.1 a, fun a n => State.bytes_congr (advanceTo_frame t s).2.2.1 a n, fun i => State.eng_congr (advanceTo_frame t s).2.2.2.2.2.2.2.2.2.2.2.2.1 i, fun i => State.tone_congr (advanceTo_frame t s).2.2.2.2.2.2.2.2.2.2.2.2.2.1 i, fun i => State.output_congr (advanceTo_frame t s).2.2.2.2.2.2.2.2.2.2.2.2.2.2.1 i, fun i => State.group_congr (advanceTo_frame t s).2.2.2.2.2.2.2.2.2.2.2.2.2.2.2.1 i, fun i => State.blk_congr (advanceTo_frame t s).2.2.2.2.2.2.2.2.2.2.2.2.2.2.2.2.1 i, fun i => State.slot_congr (advanceTo_frame t s).2.2.2.2.2.2.2.2.2.2.2.2.2.2.2.2.2.1 i, fun i => State.trig_congr (advanceTo_frame t s).2.2.2.2.2.2.2.2.2.2.2.2.2.2.2.2.2.2.1 i, fun i => State.rx_congr (advanceTo_frame t s).2.2.2.2.2.2.2.2.2.2.2.2.2.2.2.2.2.2.2.1 i, fun i => State.func_congr (advanceTo_frame t s).2.2.2.2.2.2.2.2.2.2.2.2.2.2.2.2.2.2.2.2.1 i, fun i => State.former_congr (advanceTo_frame t s).2.2.2.2.2.2.2.2.2.2.2.2.2.2.2.2.2.2.2.2.2.1 i, fun i => State.capq_congr (advanceTo_frame t s).2.2.2.2.2.2.2.2.2.2.2.2.2.2.2.2.2.2.2.2.2.2.1 i, fun i => State.coinc_congr (advanceTo_frame t s).2.2.2.2.2.2.2.2.2.2.2.2.2.2.2.2.2.2.2.2.2.2.2.1 i, fun i => State.dsp_congr (advanceTo_frame t s).2.2.2.2.2.2.2.2.2.2.2.2.2.2.2.2.2.2.2.2.2.2.2.2.1 i, fun i => State.dq_congr (advanceTo_frame t s).2.2.2.2.2.2.2.2.2.2.2.2.2.2.2.2.2.2.2.2.2.2.2.2.2.1 i, fun i => State.link_congr (advanceTo_frame t s).2.2.2.2.2.2.2.2.2.2.2.2.2.2.2.2.2.2.2.2.2.2.2.2.2.2.1 i, fun i => State.fence_congr (advanceTo_frame t s).2.2.2.2.2.2.2.2.2.2.2.2.2.2.2.2.2.2.2.2.2.2.2.2.2.2.2 i⟩

end Sys2Proof.Machine
end

