-- ==== Sys2Proof/Laws/Play.lean ====
section
/-! SUPPORT. What the passing of ST may do, said once (R42, R43, R193): `passed_spec` is what every proof about a command that lets ST
pass cites. -/

namespace Sys2Proof.Machine

/-- What an act may touch, widened. -/
theorem Act.within.mono {P Q : Piece → Prop} {K L : Nat → Prop} {a : Act} (h : Act.within P K a) (hp : ∀ x, P x → Q x)
    (hk : ∀ k, K k → L k) : Act.within Q L a := by
  intro s e he
  have := h s e he
  revert this
  cases e with
  | clear p lo hi =>
    cases p with
    | regs => exact fun h => ⟨hp _ h.1, fun k h1 h2 => hk k (h.2 k h1 h2)⟩
    | _ => exact hp _
  | reg k v r => exact fun h => ⟨hp _ h.1, hk k h.2⟩
  | _ => exact hp _

/-! Acts of the passing of ST that do not move it -/

/-- The register cells of the pages that show what plays. -/
def playCell (k : Nat) : Prop := ∃ p ∈ playPages, ∃ f : Field, f.off < 4096 ∧ f.lo < 32 ∧ k = regKey p f

/-- The pieces that change as samples leave the outputs. -/
def playPiece (x : Piece) : Prop := x ∈ [Piece.regs, .outputs, .tones, .blks]

/-- The tones keep their frames. -/
def FramesKept (s t : State) : Prop := ∀ k, (t.tone k).f = (s.tone k).f ∧ (t.tone k).p = (s.tone k).p

/-- An act of the passing of ST that does not move ST: it changes what plays, and what shows it, and keeps every frame. -/
def Act.plays (a : Act) : Prop := Act.within playPiece playCell a ∧ ∀ s, FramesKept s (run a s)

theorem FramesKept.refl (s : State) : FramesKept s s := fun _ => ⟨rfl, rfl⟩
theorem FramesKept.trans {s t u : State} (h : FramesKept s t) (h' : FramesKept t u) : FramesKept s u :=
  fun k => ⟨(h' k).1.trans (h k).1, (h' k).2.trans (h k).2⟩
theorem FramesKept.of_tones {s t : State} (h : t.tones = s.tones) : FramesKept s t :=
  fun k => ⟨by rw [State.tone_congr h], by rw [State.tone_congr h]⟩

theorem plays_skip : skip.plays := ⟨within_skip, FramesKept.refl⟩
theorem plays_nil : (acts []).plays := plays_skip
theorem plays_cons {a : Act} {as : List Act} (h : a.plays) (h' : (acts as).plays) : (acts (a :: as)).plays :=
  ⟨within_cons h.1 h'.1, fun s => by rw [run_acts_cons]; exact (h.2 s).trans (h'.2 _)⟩
theorem plays_look {f : State → Act} (h : ∀ s, (f s).plays) : (look f).plays :=
  ⟨within_look fun s => (h s).1, fun s => by rw [run_look]; exact (h s).2 s⟩
theorem plays_ite {c : Prop} [Decidable c] {a b : Act} (h : a.plays) (h' : b.plays) : (if c then a else b).plays := by
  split
  · exact h
  · exact h'
theorem plays_forEach {α : Type} {xs : List α} {f : α → Act} (h : ∀ x, (f x).plays) : (forEach xs f).plays := by
  refine ⟨within_forEach fun x _ => (h x).1, fun s => ?_⟩
  induction xs generalizing s with
  | nil => exact FramesKept.refl s
  | cons x xs ih => rw [run_forEach_cons]; exact ((h x).2 s).trans (ih _)

/-- An act that changes no tone plays if it stays within the pieces and cells. -/
theorem plays_of {a : Act} (h : Act.within (· ∈ [Piece.regs, .outputs, .blks]) playCell a) : a.plays :=
  ⟨h.mono (fun x hx => by simp only [playPiece, List.mem_cons] at *; tauto) fun _ hk => hk,
   fun s => FramesKept.of_tones (h.keeps s (fun _ hx => hx) .tones (by decide))⟩

theorem playCell_of {p : Page} {f : Field} (hp : p ∈ playPages) (h : f.off < 4096 ∧ f.lo < 32) : playCell (regKey p f) :=
  ⟨p, hp, f, h.1, h.2, rfl⟩
theorem plays_setF {p : Page} {f : Field} {v : Nat} (hp : p ∈ playPages) (h : f.off < 4096 ∧ f.lo < 32) : (setF p f v).plays :=
  plays_of (within_setF (by simp) (playCell_of hp h))
theorem plays_setB {p : Page} {f : Field} {b : Bool} (hp : p ∈ playPages) (h : f.off < 4096 ∧ f.lo < 32) : (setB p f b).plays :=
  plays_of (within_setB (by simp) (playCell_of hp h))
theorem plays_countF {p : Page} {f : Field} (hp : p ∈ playPages) (h : f.off < 4096 ∧ f.lo < 32) : (countF p f).plays :=
  plays_of (within_countF (by simp) (playCell_of hp h))
theorem plays_updOutput {i : Nat} {f : Output → Output} : (updOutput i f).plays := plays_of (within_updOutput (by simp))
theorem plays_updBlk {i : Nat} {f : Block → Block} : (updBlk i f).plays := plays_of (within_updBlk (by simp))

/-- A change of a tone that keeps its frame. -/
theorem plays_updTone {i : Nat} {f : Tone → Tone} (h : ∀ t, (f t).f = t.f ∧ (f t).p = t.p) : (updTone i f).plays := by
  refine ⟨within_updTone (by simp [playPiece]), fun s k => ?_⟩
  by_cases hk : i = k
  · subst hk; rw [run_updTone_same]; exact h _
  · rw [run_updTone_ne i f s hk]; exact ⟨rfl, rfl⟩

/-! The pages that show what plays -/

theorem outputPage_play (o : OutputId) : outputPage o ∈ playPages := by cases o <;> simp [outputPage, playPages]
theorem tonePage_play (key : Nat) : tonePage key ∈ playPages := outputPage_play _
theorem fluxPage_play (f : Nat) : fluxPage f ∈ playPages := by simp [fluxPage, playPages]
theorem blockPage_play (k : Nat) : blockPage k ∈ playPages := by simp [blockPage, playPages]
theorem acqPage_play (n : Nat) : acqPage n ∈ playPages := by simp [acqPage, playPages]

/-- The slots of an output page's tone registers lie in the page. -/
theorem toneOutput_slot (k : Nat) : (toneOutput k).2 < 32 := by
  unfold toneOutput
  split <;> simp <;> omega

/-! Each act of the passing -/

theorem plays_freeSlot (k : Nat) (slot : Option Nat) : (freeSlot k slot).plays := by
  refine plays_look fun s => ?_
  cases slot with
  | none => exact plays_skip
  | some i => exact plays_cons plays_updBlk (plays_cons (plays_setF (blockPage_play k) (by decide)) plays_nil)

theorem plays_showTone (key : Nat) : (showTone key).plays := by
  refine plays_look fun s => plays_ite plays_skip ?_
  have hs := toneOutput_slot key
  have hp := outputPage_play (toneOutput key).1
  revert hs hp
  generalize toneOutput key = x
  obtain ⟨o, slot⟩ := x
  intro hs hp
  refine plays_cons (plays_setB hp ?_) (plays_cons (plays_setB hp ?_) (plays_cons ?_ plays_nil))
  · simp [OUTP.TONE_STATUS_PLAYING] at *; omega
  · simp [OUTP.TONE_STATUS_STREAMING] at *; omega
  · split
    · refine plays_cons (plays_setB hp ?_) (plays_cons (plays_setF hp ?_) (plays_cons (plays_setF hp ?_) plays_nil))
      · simp [OUTP.TONE_STATUS_JUMP_HELD] at *; omega
      · simp [OUTP.TONE_STATUS_SLOT] at *; omega
      · simp [OUTP.TONE_SEG_ADDR] at *; omega
    · refine plays_cons (plays_setF hp ?_) (plays_cons (plays_setF hp ?_) plays_nil)
      · simp [OUTP.TONE_STATUS_JUMP_HELD] at *; omega
      · simp [OUTP.TONE_STATUS_SLOT] at *; omega

theorem plays_endStream (key : Nat) : (endStream key).plays := by
  refine plays_look fun s => ?_
  split
  · exact plays_skip
  · refine plays_cons (plays_freeSlot _ _) (plays_cons ?_ (plays_cons (plays_updTone fun _ => ⟨rfl, rfl⟩) (plays_cons (plays_showTone key) plays_nil)))
    split
    · exact plays_freeSlot _ _
    · exact plays_skip

theorem plays_judgeJump (key : Nat) : (judgeJump key).plays := by
  refine plays_look fun s => ?_
  split
  · exact plays_skip
  split
  · exact plays_skip
  refine plays_ite plays_skip ?_
  split
  · exact plays_skip
  refine plays_cons (plays_ite (plays_countF (tonePage_play key) ?_) plays_skip) (plays_cons (plays_updTone fun _ => ⟨rfl, rfl⟩) plays_nil)
  have hs := toneOutput_slot key
  simp [OUTP.TONE_COUNT_LATE_JUMP, toneSlot] at *; omega

theorem plays_setJump (key : Nat) (x : Streaming) (j : JumpReq) : (setJump key x j).plays := plays_updTone fun _ => ⟨rfl, rfl⟩

theorem plays_holdJump (key : Nat) (j : JumpReq) : (holdJump key j).plays := by
  refine plays_look fun s => ?_
  split
  · exact plays_skip
  refine plays_cons ?_ (plays_cons (plays_judgeJump key) (plays_cons (plays_showTone key) plays_nil))
  split
  · exact plays_setJump _ _ _
  refine plays_cons (plays_setF (tonePage_play key) ?_) (plays_cons (plays_ite (plays_freeSlot _ _) ?_) plays_nil)
  · have hs := toneOutput_slot key
    simp [OUTP.TONE_STATUS_REPLACED, toneSlot] at *; omega
  · exact plays_cons (plays_freeSlot _ _) (plays_cons (plays_setJump _ _ _) plays_nil)

theorem plays_arriveJumps (key : Nat) : (arriveJumps key).plays := by
  refine plays_look fun s => ?_
  split
  · exact plays_skip
  · exact plays_forEach fun j => plays_cons (plays_updTone fun _ => ⟨rfl, rfl⟩) (plays_cons (plays_holdJump key j) plays_nil)

theorem plays_countClips (o : OutputId) (a : Stamp) (n : Nat) : (countClips o a n).plays :=
  plays_forEach fun _ => plays_look fun _ => plays_ite
    (plays_cons (plays_countF (outputPage_play o) (by decide)) (plays_cons plays_updOutput plays_nil)) plays_skip

theorem plays_fluxSample (f : Nat) (n : Stamp) : (fluxSample f n).plays :=
  plays_look fun _ => plays_cons plays_updOutput
    (plays_cons (plays_ite (plays_countF (fluxPage_play f) (by decide)) plays_skip) plays_nil)

theorem plays_playSamples (a : Stamp) (n : Nat) : (playSamples a n).plays :=
  plays_look fun _ => plays_cons (plays_forEach fun o => plays_countClips o a n)
    (plays_cons (plays_forEach fun f => plays_forEach fun t => plays_fluxSample f t) plays_nil)

theorem plays_sweepTone (k : Nat) : (sweepTone k).plays := by
  refine plays_cons (plays_arriveJumps k) (plays_cons (plays_look fun s => ?_) (plays_cons (plays_look fun s => ?_) (plays_cons (plays_showTone k) plays_nil)))
  · split
    · exact plays_ite (plays_updTone fun _ => ⟨rfl, rfl⟩) plays_skip
    · exact plays_skip
  · split
    · exact plays_ite (plays_endStream k) plays_skip
    · exact plays_skip

theorem plays_sweepFlux (f : Nat) : (sweepFlux f).plays := by
  refine plays_look fun s => ?_
  split
  · exact plays_ite (plays_cons plays_updOutput (plays_cons (plays_look fun _ => plays_setB (fluxPage_play f) (by decide)) plays_nil)) plays_skip
  · exact plays_skip

theorem plays_sweepOver : sweepOver.plays :=
  plays_cons (plays_look fun _ => plays_forEach plays_sweepTone) (plays_cons (plays_look fun _ => plays_forEach plays_sweepFlux) plays_nil)

/-! The passing itself -/

/-- What an act of the passing may do, its moves of ST among it. -/
structure Passes (s u : State) : Prop where
  /-- Of the timebase only ST and the end of a HOLD change. -/
  time : u.time = { s.time with coarse := u.time.coarse, fine := u.time.fine, liveAt := u.time.liveAt }
  /-- The tones keep their frames. -/
  frames : FramesKept s u
  /-- Beside tones, outputs and stream slots, only registers that show them change. -/
  pages : OnlyPagesChange playPages [.time, .outputs, .tones, .blks] s u

theorem Passes.refl (s : State) : Passes s s := ⟨rfl, FramesKept.refl s, OnlyPagesChange.refl _ _ s⟩

theorem Act.plays.time {a : Act} (h : a.plays) (s : State) : (run a s).time = s.time :=
  h.1.keeps (but := [.regs, .outputs, .tones, .blks]) s (fun _ hx => hx) .time (by decide)

theorem Act.plays.st {a : Act} (h : a.plays) (s : State) : (run a s).st = s.st := State.st_congr (h.time s)

/-- One more act that does not move ST. -/
theorem Passes.play {a : Act} {s u : State} (ha : a.plays) (h : Passes s u) : Passes s (run a u) := by
  refine ⟨by rw [ha.time]; exact h.time, h.frames.trans (ha.2 u), h.pages.step ?_⟩
  exact ha.1.mono (fun x hx => by simp only [playPiece, List.mem_cons] at *; tauto) fun _ hk => hk

/-- One more change of the timebase. -/
theorem Passes.tick {f : TimeState → TimeState} {s u : State}
    (hf : ∀ x, f x = { x with coarse := (f x).coarse, fine := (f x).fine, liveAt := (f x).liveAt }) (h : Passes s u) :
    Passes s (run (updTime f) u) := by
  refine ⟨?_, h.frames.trans (FramesKept.of_tones (by simp)), h.pages.step (within_updTime (by simp))⟩
  rw [run_updTime_same, hf, h.time]

theorem Passes.advance {t : Stamp} {s u : State} (h : Passes s u) : Passes s (run (advanceTo t) u) := by
  show Passes s (run (look _) u)
  rw [run_look, run_ite]
  split
  · exact h.tick fun _ => rfl
  · exact h

/-- The passing of ST to `t` moves ST to `t`, or leaves it where `t` has passed. -/
theorem passBy_spec {t : Stamp} {s u : State} (h : Passes s u) :
    Passes s (run (passBy t) u) ∧ (run (passBy t) u).st = if Stamp.future t u.st then t else u.st := by
  have h1 : Act.plays (if u.forms then playSamples u.st (t - u.st).toNat else skip) := plays_ite (plays_playSamples _ _) plays_skip
  have h2 : Act.plays (if u.time.frozen then skip else sweepOver) := plays_ite plays_skip plays_sweepOver
  show Passes s (run (look _) u) ∧ (run (look _) u).st = _
  rw [run_look, run_acts_cons, run_acts_cons, run_acts_cons, run_acts_nil]
  refine ⟨((h.play h1).advance).play h2, ?_⟩
  rw [h2.st, advanceTo_st, h1.st]

theorem setCond_plays (o : OutputId) (c : Cond) : (setCond o c).plays := by
  refine plays_setF (by cases o <;> simp [condField, playPages]) ?_
  cases o <;> simp only [condField] <;> exact ⟨by decide, by decide⟩

theorem setMarkCond_plays (m : Nat) (c : Cond) : (setMarkCond m c).plays :=
  plays_setF (acqPage_play _) (by unfold markCond; dsimp only; split <;> decide)

theorem leaveHold_spec {s u : State} (h : Passes s u) : Passes s (run leaveHold u) ∧ (run leaveHold u).st = u.st := by
  have h1 : Act.plays (acts [forEach allOutputs fun o => look fun s => if s.cond o = Cond.hold.code then setCond o .live else skip,
      forEach (upTo 16) fun m => look fun s => if s.markerCond m = Cond.hold.code then setMarkCond m .live else skip]) :=
    plays_cons (plays_forEach fun o => plays_look fun s => plays_ite (setCond_plays o _) plays_skip)
      (plays_cons (plays_forEach fun m => plays_look fun s => plays_ite (setMarkCond_plays m _) plays_skip) plays_nil)
  unfold leaveHold
  rw [run_acts_cons]
  exact ⟨(h.tick fun _ => rfl).play h1, h1.st _⟩

/-- On the way to a later `a`, a stop at `b` not after `a` changes nothing. -/
theorem future_by {a b n : Stamp} (ha : Stamp.future a n) (hb : Stamp.atOrAfter a b) :
    (if Stamp.future a (if Stamp.future b n then b else n) then a else if Stamp.future b n then b else n) = if Stamp.future a n then a else n := by
  have h : Stamp.future a b = true := hb
  by_cases hn : Stamp.future b n = true
  · rw [if_pos hn, if_pos h, if_pos ha]
  · rw [if_neg hn]

/-- The passing of ST does what `Passed` says and nothing else. -/
theorem passed_spec (a : Stamp) (s : State) : Passed a s (s.passed a) := by
  suffices h : Passes s (s.passed a) ∧ (s.passed a).st = if Stamp.future a s.st then a else s.st from ⟨h.2, h.1.time, h.1.frames, h.1.pages⟩
  show Passes s (run (look _) s) ∧ (run (look _) s).st = _
  rw [run_look, run_ite]
  split
  · rename_i hf
    simp only [ne_eq, Bool.and_eq_true, decide_eq_true_eq] at hf
    split
    · rename_i b _
      rw [run_ite]
      split
      · rename_i hb
        obtain ⟨p1, e1⟩ := passBy_spec (t := b) (Passes.refl s)
        obtain ⟨p2, e2⟩ := leaveHold_spec p1
        obtain ⟨p3, e3⟩ := passBy_spec (t := a) p2
        rw [run_acts_cons, run_acts_cons, run_acts_cons, run_acts_nil]
        refine ⟨p3, ?_⟩
        rw [e3, e2, e1, future_by hf.1 hb]
      · exact passBy_spec (Passes.refl s)
    · exact passBy_spec (Passes.refl s)
  · rename_i hf
    refine ⟨Passes.refl s, ?_⟩
    simp only [ne_eq, Bool.and_eq_true, decide_eq_true_eq, not_and, not_not] at hf
    split
    · rename_i h; exact (hf h).symm
    · rfl

end Sys2Proof.Machine
end

