-- ==== Sys2Proof/Tests/Slice0.lean ====
section
/-! SUPPORT. Small checks of the model: an ill-formed command for each check of the well-formed ones; worked examples of the spec; and for every
statement with hypotheses states and operands that meet them. -/

open Sys2Proof Sys2Proof.Machine

namespace Sys2Proof.Tests

/-! Well-formed commands -/

theorem test_aligned_register : wellFormed (.registerWrite 0 0x60 0) = true ∧ wellFormed (.registerWrite 0 0x61 0) = false := by decide +kernel
theorem test_configuration_register : wellFormed (.outCfgWrite (.flux 0) (.pd 0) 0) = true ∧ wellFormed (.outCfgWrite (.flux 0) .mode 0) = false ∧
    wellFormed (.outCfgWrite (.drive 0) .pdCtrl 0) = false := by decide +kernel
theorem test_unstamped_register : wellFormed (.unstampedWriteApply (.bias 0) 0) = true ∧
    wellFormed (.unstampedWriteApply (.outGain (.flux 0)) 0) = false := by decide +kernel
theorem test_drive_frame_index : wellFormed (.setfrq 0 0 ⟨0, 15⟩ 0 0 0 false) = true ∧ wellFormed (.setfrq 0 0 ⟨0, 16⟩ 0 0 0 false) = false := by decide +kernel
theorem test_readout_frame_index : wellFormed (.shiftph 0 0 false ⟨2, 127⟩ (.ph 0) 0 false) = true ∧
    wellFormed (.shiftph 0 0 false ⟨2, 128⟩ (.ph 0) 0 false) = false := by decide +kernel
theorem test_bar2_data : wellFormed (.bar2Write 0 0xFFFFFFFFF [1]) = true ∧ wellFormed (.bar2Write 0 0xFFFFFFFFF [1, 2]) = false ∧
    wellFormed (.bar2Write 0 0 []) = false := by decide +kernel
theorem test_result_frame_index : wellFormed (.dec 0 ⟨0, 1, 0, true, 0, 0⟩ false 1023 0 0 0 0) = true ∧
    wellFormed (.dec 0 ⟨0, 1, 0, true, 0, 0⟩ false 1024 0 0 0 0) = false := by decide +kernel
theorem test_four_eyes : wellFormed (.eyeScanDone 0 [(0, 0), (0, 0), (0, 0), (0, 0)] 0) = true ∧ wellFormed (.eyeScanDone 0 [] 0) = false := by decide +kernel
theorem test_routes_bytes : wellFormed (.routes 0 ⟨0, 1, 0, false, 0, 0⟩ (List.replicate 64 0)) = true ∧
    wellFormed (.routes 0 ⟨0, 1, 0, false, 0, 0⟩ (List.replicate 63 0)) = false := by decide +kernel
theorem test_link_widths : wellFormed (.hostLinkRecovery 0 16 0) = true ∧ wellFormed (.hostLinkRecovery 0 2 0) = false ∧
    wellFormed (.firmwareStart 0 32 0) = false := by decide +kernel
theorem test_clamp_order : wellFormed (.clamp 0 10 10) = true ∧ wellFormed (.clamp 0 10 9) = false := by decide +kernel
/-! Worked examples of the spec -/

/-- What a command leaves of a state. -/
def after (c : Instr) (s : State) : State :=
  match exec c s with
  | .next t => t
  | _ => s

/-- Engine 300 (Scope and conventions): drive output 37, slot 4; feedline 9, slot 12, readout tone 300; its pages. -/
theorem test_default_map : (State.reset.driveTone 300).map toneOutput = some (.drive 37, 4) ∧ State.reset.readTone 300 = some 300 ∧
    toneOutput (probeTone 300) = (.probe 9, 12) ∧ pageBase (.region 2) = 0x880000 ∧ pageBase (.block 18) = 0x1240000 ∧
    pageBase (.cell 300) = 0x125C000 := by decide +kernel

/-- The route words after R35: without step 1 the write of step 2 clashes; after it, it is taken, and step 3 is, after both. -/
theorem test_route_clash : (after (.routeWrite 0 (.read 300) 0x80000060) State.reset).get (.region 2) ALL.FAULT_BITS = 2 ^ 15 ∧
    (after (.routeWrite 0 (.read 300) 0x80000060) State.reset).readTone 300 = some 300 := by decide +kernel

theorem test_route_swap : let s := after (.routeWrite 0 (.read 300) 0x80000060) (after (.routeWrite 0 (.read 352) 0xC0000000) State.reset)
    s.readTone 300 = some 352 ∧ s.readTone 352 = none ∧ (after (.routeWrite 0 (.read 352) 0x8000002C) s).readTone 352 = some 300 := by decide +kernel
/-- The phase frame example after R59: 0 before the hop, 0.25 turn from it, 0.125 turn at 1,004,000 with the offset, 0.375 with the rotation. -/
theorem test_frame_phase : framePhase 0x3C0000000000 0 0 0 1000000 = 0 ∧ framePhase 0x3D0000000000 0 0 0 1000000 = 2 ^ 18 ∧
    framePhase 0x3D0000000000 0xC0000000 0 0 1000000 = 0 ∧ framePhase 0x3D0000000000 0xC0000000 0 0 1004000 = 2 ^ 17 ∧
    framePhase 0x3D0000000000 (0xC0000000 + 0x40000000) 0 0 1004000 = 3 * 2 ^ 17 := by decide +kernel

/-- The replay example of the ledger: t_r + REPLAY_GAP is 2,082,100, and the new start 2,082,112. -/
theorem test_new_start : newStartAt 2000000 5 (2042100 + 40000) = 2082112 := by decide +kernel

/-- Engine 300's branch of the active reset: W = 2,040,256 from T0 = 2,000,000, WDELAY 8 and WLEN 1,250. -/
theorem test_window_end : windowEnd 2000000 (BitVec.ofNat 512 (1250 * 2 ^ 320 + 8 * 2 ^ 336)) = 2040256 := by decide +kernel

/-! States that meet the hypotheses of the statements -/

/-- A state with some register fields set. -/
def st (l : List (Page × Field × Nat)) (s : State := State.reset) : State :=
  { s with regs := l.foldl (fun r x => Store.put x.2.1.reset (regKey x.1 x.2.1) x.2.2 r) s.regs }

/-- A state with engine 0's record changed. -/
def en (f : Engine → Engine) (s : State) : State := { s with engs := Store.put Engine.init 0 (f (s.eng 0)) s.engs }

/-- Engine 0 runs. -/
def run0 : State := st [(.cell 0, CELL.STATUS_STATE, 1)]

/-- The pages of drive output 0 and of flux output 0 are READY, with some fields set. -/
def readyOut (l : List (Page × Field × Nat) := []) : State :=
  st ([(.drive 0, ALL.PAGE_STATE_STATE, 2), (.flux 0, ALL.PAGE_STATE_STATE, 2)] ++ l)

/-- Drive output 0 is powering. -/
def powering0 : State := { readyOut with outputs := [(0, { Output.init with powering := true })] }

/-- The pages marker 0 needs are READY. -/
def readyMark : State := st [(markPage 0, ALL.PAGE_STATE_STATE, 2), (regionPage 0, ALL.PAGE_STATE_STATE, 2)]

/-- The device is READY, with some fields set. -/
def readyDev (l : List (Page × Field × Nat) := []) : State :=
  { st ((.power, POWER.PSTATUS_STATE, 2) :: l) with start := { StartState.init with phase := .complete } }

/-- Guest 1 is READY and leases engine 0. -/
def leased0 (l : List (Page × Field × Nat) := []) : State := { readyDev ((.cell 0, ALL.GUEST_OWNER_GUEST, 1) :: l) with tbl := [(tblKey .guests 129, 2)] }

/-- Engine 0 runs and has one marker entry in its timetable. -/
def oneEntry : State := en (fun r => { r with timetable := [plainEntry .mark .marker 5 256 1] }) (readyDev [(.cell 0, CELL.STATUS_STATE, 1)])

/-- Engine 0 has one committed entry. -/
def due1 (x : Entry) : State := en (fun r => { r with due := [x] }) run0

/-- Voltage scaling is on, and the interval's smallest slack sample is 4,000 ST, of engine 7. -/
def sampled (l : List (Page × Field × Nat)) : State :=
  { st ((.timebase, TIMEBASE.TB_CTRL_AVS_EN, 1) :: l) with time := { TimeState.init with minSlack := some (4000, 7) } }

/-- A pulse entry of a context of 4 samples at full rate. -/
def pulseEntry (k : EntryKind) (c : TargetClass) : Entry := { plainEntry k c 0 256 0 with ctx := BitVec.ofNat 512 (2 ^ 30 * 2 ^ 224 + 4 * 2 ^ 288) }

/-- The same on flux output 0, at that output's full rate. -/
def fluxEntry : Entry := { pulseEntry .fluxPulse .flux with ctx := BitVec.ofNat 512 (2 ^ 29 * 2 ^ 224 + 4 * 2 ^ 288) }

/-- Engine 0 runs and names a word of its checkpoint area. -/
def runCkpt : State := st [(.cell 0, CELL.G_VALUE 1, 8128)] run0

/-- Engine 0 runs with seven return points on its stack. -/
def runDeep : State := en (fun r => { r with stack := [⟨1, none⟩, ⟨2, some 3⟩, ⟨3, none⟩, ⟨4, none⟩, ⟨5, none⟩, ⟨6, none⟩, ⟨4095, none⟩] }) run0

/-- Contexts of region 0: 1 a flux pulse, 2 a readout window, 3 a streamed drive pulse, 4 the same window with a probe pulse; context 0 is an empty drive pulse. -/
def ctxMem : List Host.Cell :=
  [(ctxAddr 0 1, 3), (ctxAddr 0 2, 2), (ctxAddr 0 2 + 40, 1), (ctxAddr 0 3 + 1, 0x10), (ctxAddr 0 4, 2), (ctxAddr 0 4 + 1, 8), (ctxAddr 0 4 + 40, 1)]

/-- Engine 0 runs over those contexts, holds flux output 0 and marker 5, and has one entry in its timetable. -/
def runCtx : State :=
  en (fun r => { r with timetable := [plainEntry .mark .marker 5 256 1], lastStamp := some 256 })
    { st [(.cell 0, CELL.STATUS_STATE, 1), (.flux 0, FLUX.LEASE_HELD, 1), (.cell 0, CELL.MARK_ROUTE_OWN, 32)] with mem := ctxMem }

/-- A timed instruction of context `i` at T0 + 256, which writes T1. -/
def timed (i : BitVec 17) : Timed := ⟨0, 1, true, .imm i, 256⟩

def waitLease : State :=
  en (fun r => { r with wait := .lease 0 })
    { st [(.cell 0, CELL.STATUS_STATE, 3)] with outputs := [(160, { Output.init with waiters := [0, 3] })] }

/-- Engine 0 runs, engine 1 holds flux output 0, and engine 0 has watch budget left. -/
def runHeld : State :=
  en (fun r => { r with openTimeLast := 1000 }) (st [(.flux 0, FLUX.LEASE_HELD, 1), (.flux 0, FLUX.LEASE_HOLDER, 1), (.cell 0, CELL.STATUS_STATE, 1)])

/-- Engine 0 STOPPED on a READY page with a program start at 7; the same running, and running with a held request. -/
def stopped0 : State := st [(.cell 0, ALL.PAGE_STATE_STATE, 2), (.cell 0, CELL.START_PC_PC, 7), (.cell 0, CELL.CW_Z, 1)]

def ready0 : State := st [(.cell 0, CELL.STATUS_STATE, 1)] stopped0

def held0 : State := st [(.cell 0, CELL.STATUS_START_PENDING, 1)] ready0

def crit0 : State := st [(.thermal, THERMAL.TSTATE_STATE, 3)] stopped0

/-- A load of engine 0 in progress: of no instruction, and of one NOP at HBM byte 64. -/
def loading0 : State := st [(.cell 0, CELL.LOAD_STATUS_BUSY, 1)]

/-- Engine 0 runs in the first attempt of its group of one's open shot. -/
def inShot0 : State := { st [(.cell 0, CELL.STATUS_STATE, 1), (.cell 0, CELL.STATUS_IN_SHOT, 1), (.cell 0, CELL.STATUS_ATTEMPT, 1)] with
  groups := [(256, { Group.init with open' := true, started := true, shot := 4, attempt := 1, anchor := 4096, begun := 4096 })] }

/-- Group 5 of engines 0 and 33, both in its open shot, which both have closed; the same void; the same restored. -/
def group5 : State :=
  { st [(.cell 0, CELL.STATUS_STATE, 6), (.cell 0, CELL.STATUS_IN_SHOT, 1), (.cell 33, CELL.STATUS_STATE, 6), (.cell 33, CELL.STATUS_IN_SHOT, 1)] with
    tbl := [(tblKey .groups 320, 1), (tblKey .groups 336, 1), (tblKey .groups 337, 2)],
    groups := [(5, { Group.init with open' := true, started := true, shot := 9, attempt := 1, anchor := 4096, begun := 4096 })],
    engs := [(0, { Engine.init with closed := true, wait := .settle .proceed }), (33, { Engine.init with closed := true, wait := .settle .proceed })] }

def void5 : State := { group5 with
  groups := [(5, { Group.init with open' := true, started := true, shot := 9, attempt := 1, anchor := 4096, begun := 4096, voidedNow := true })],
  engs := [(33, { Engine.init with closed := true, wait := .settle .proceed })] }

/-- A checkpoint with the frame of drive tone 0 latched, and no PREP declaration. -/
def ckpt0 : Checkpoint := ⟨[7], [4096, 5000], [], 0, ⟨3, none⟩, [], none, 0, [(0, ⟨1, 2⟩)], true⟩

def restoring5 : State := { void5 with
  engs := [(0, { Engine.init with voided := true, ckpt := some ckpt0, wait := .newStart }),
    (33, { Engine.init with voided := true, restored := true, ckpt := some ckpt0, wait := .newStart })] }

def restored5 : State := { restoring5 with
  groups := [(5, { Group.init with open' := true, started := true, shot := 9, attempt := 1, anchor := 4096, begun := 4096, voidedNow := true, newStart := 8192, startSet := true })],
  engs := [(0, { Engine.init with voided := true, restored := true, ckpt := some ckpt0, wait := .newStart }),
    (33, { Engine.init with voided := true, restored := true, ckpt := some ckpt0, wait := .newStart })] }

/-- A branch on readout tone 5 that takes on value 1, with P at 5000; its result known; missed. -/
def branch5 : Branch := ⟨.tone none 5, 0, 3000, true, false, 2, 5000, none, false, .empty, .empty, 9, 1⟩

def branchHas : Branch := { branch5 with result := some 1 }

def branchMissed : Branch := { branch5 with missed := true }

/-- Engine 0 waits for the decision, the slot of tone 5 published with the matching window end; with a later one. -/
def waiting5 : State :=
  { en (fun r => { r with branch := some branch5, wait := .branch }) (st [(.cell 0, CELL.STATUS_STATE, 4)]) with
    slots := [(5, { DecSlot.init with value := 1, w := 3000, valid := true, seen := true })] }

def waitingLate : State := { waiting5 with slots := [(5, { DecSlot.init with value := 1, w := 3200, valid := true, seen := true })] }

def waitingHas : State := en (fun r => { r with branch := some branchHas, wait := .branch }) waiting5

def waitingMissed : State := en (fun r => { r with branch := some branchMissed, wait := .branch }) waiting5

/-- Engine 0 in a trap routine of level 1; at a curfew. -/
def trap1 : State := st [(.cell 0, CELL.STATUS_STATE, 8), (.cell 0, CELL.SO_STATUS_LEVEL, 1)]

def parked : State := en (fun r => { r with wait := .curfew .block 3 }) (st [(.cell 0, CELL.STATUS_STATE, 6)])

/-- Engine 0 runs; its builder holds a MARK entry at 256, and its IR names marker 5, writes T1, and names device 2 in SENDM. -/
def micro0 : State :=
  en (fun r => { r with
      micro := { r.micro with
        ir := 0x1012_0800_0000_0000#64 ||| 0x0005_0000_0000_0000
        builders := [{ Builder.init with eb := 0x0000_0000_0000_0100_5805_0000_0000_0001 }, .init, .init] }
      openTimeLast := 1000 })
    (st [(.cell 0, CELL.STATUS_STATE, 1), (.cell 0, CELL.MARK_ROUTE_OWN, 0xFFFF)])

/-- The same with a full timetable; with flux output 1 held by engine 3 and a LEASE TRY of it in IR; with a branch in IR. -/
def microFull : State := en (fun r => { r with timetable := List.replicate 64 (plainEntry .mark .marker 5 256 1) }) micro0

def microTry : State :=
  en (fun r => { r with micro := { r.micro with ir := 0x4041_0000_0000_0000#64 } })
    (st [(.cell 0, CELL.STATUS_STATE, 1), (.flux 1, FLUX.LEASE_HELD, 1), (.flux 1, FLUX.LEASE_HOLDER, 3)])

def microBranch : State := en (fun r => { r with micro := { r.micro with ir := 0x3200_000F_A000_0000#64 } }) run0

/-- Engine 0 runs with deadline-miss and doorbell stopovers pending. -/
def pending1 : State := st [(.cell 0, CELL.SO_STATUS_PEND, 34)] run0

/-- A control-store load of block 0 from beyond the HBM; of the standard image; pace pinned to PACED with both modes declared. -/
def ucFar : State := { st [(.block 0, BLOCK.UC_STATUS_BUSY, 1)] with blks := [(0, { Block.init with ucFrom := some 0x5_C000_0000 })] }

def ucStd0 : State := st [(.block 0, BLOCK.UC_STATUS_BUSY, 1)]

def pinned : State := st [(.block 0, BLOCK.PACE_CTRL_PIN_PACED, 1), (.block 0, BLOCK.UC_INFO_MODES, 3)]

/-- A streamed drive context: RATE 2^30, DURATION 2^20, first descriptor 0. -/
def segCtx : BitVec 512 := BitVec.ofNat 512 (0x1000 + 2 ^ (224 + 30) + 2 ^ (288 + 20))

/-- The HBM holds at 0 a descriptor of 1,024 samples whose next is itself, and at 64 one that ends the stream. -/
def segMem : List Host.Cell :=
  [(0, 1), (5, 4), (8, 2), (64, 1), (69, 4), (76, 255), (77, 255), (78, 255), (79, 255)]

def segEntry : Entry := { ctxEntry .streamStart .drive 0 320 3 segCtx with slot := some 0 }

/-- The entry is due; drive tone 0 plays the stream in its first repetition. -/
def dueStream : State := en (fun r => { r with due := [segEntry] }) { State.reset with mem := segMem }

def stream0 : Streaming := ⟨segCtx, 320, 320 + BitVec.ofNat 64 (2 ^ 20), 0, 0, 0, 320, 0, none, [], 2368, none, none, [], [], false⟩

def streams (x : Streaming) (s : State := { State.reset with mem := segMem }) : State :=
  { s with tones := [(0, { Tone.init with stream := some x })], blks := [(0, { Block.init with slots := [(0, 0)] })] }

/-- Feedline 0's receive input on a READY page, in a condition. -/
def rxAt (c : Nat) (l : List (Page × Field × Nat) := []) : State :=
  st ([(.transceiver 0, ALL.PAGE_STATE_STATE, 2), (.transceiver 0, TRANSCEIVER.RX_STATUS_COND, c)] ++ l)

/-- An apply request is pending; two samples in a row were clamped. -/
def applying : State := { rxAt 2 with rxs := [(0, { RxState.init with applyBy := some 500 })] }

def clamped : State := { rxAt 2 with rxs := [(0, { RxState.init with runs := [⟨100, 120, none⟩] })] }

/-- A window of 2 samples on receive tone 0 from 320 to 384; its entry is due; a result of it is latched. -/
def rcvCtx : BitVec 512 := BitVec.ofNat 512 (2 + 2 * 2 ^ 320)

def rcvEntry : Entry := ctxEntry .windowOpen .receive 0 320 2 rcvCtx

def rcvWindow : OpenWindow := ⟨rcvCtx, 320, 384, 0, 0, [], none⟩

def rcvDue (s : State := State.reset) : State := en (fun r => { r with due := [{ rcvEntry with stamp := 352 }] }) s

def rcvOpen (s : State := State.reset) : State := { s with tones := [(rxTone 0, { Tone.init with window := some rcvWindow })] }

def rcvDone (flags : Nat) (s : State := State.reset) : State :=
  { s with tones := [(rxTone 0, { Tone.init with latched := [⟨320, 384, rcvCtx, 0, 5, 7, flags, none⟩] })] }

def shot0 (l : List (Page × Field × Nat) := []) : State :=
  { st ((.cell 0, CELL.STATUS_IN_SHOT, 1) :: l) with groups := [(256, { Group.init with open' := true, attempt := 1 })] }

/-- Function 0 of region 0 has an evaluation with no inputs ready; it is in mode 1. -/
def funcReady (bad : Bool) : State := { State.reset with funcs := [(0, { FuncState.init with ready := [⟨384, [], bad⟩] })] }

def funcSet : State := { State.reset with tbl := [(tblKey .functions 134, 1)] }

/-- Word `w` of unit `u` of region 0 holds `v` beside its reset value. -/
def uw (l : List (Nat × Nat × Nat)) (s : State := State.reset) : State :=
  { s with tbl := l.foldl (fun r x => Store.put 0 (tblKey .units (16 * x.1 + x.2.1)) x.2.2 r) s.tbl }

/-- Tone unit 0 and external unit 0 are enabled, the input is LIVE; tone unit 0 is armed. -/
def unitOn : State :=
  { uw [(0, 0, 3), (132, 0, 1)] (rxAt 2) with trigs := [(0, { TrigUnit.init with armed := true })] }

def fired0 : State := { State.reset with trigs := [(0, { TrigUnit.init with waiting := [64] })] }

/-- Function 0 of region 0 is in trigger mode, its input 0 the tone unit 0, which fired at 0; its table reads 1 at 1. -/
def trigFunc : State :=
  { State.reset with
    tbl := [(tblKey .functions 0, 2), (tblKey .functions 128, 0x4000), (tblKey .functions 134, 2)]
    trigs := [(0, { TrigUnit.init with progress := 64, firings := [32] })]
    time := { State.reset.time with coarse := 200 } }

/-- Coincidence unit 0 of region 0 is enabled on tone unit 0, with and without an event of it. -/
def coinc0 (ev : List (Nat × Stamp)) : State :=
  { uw [(136, 0, 1), (136, 1, 0x2000), (136, 2, 0x20000000)] with
    coincs := [(0, { CoincState.init with events := ev })], time := { State.reset.time with coarse := 200 } }

/-- Former 0 takes the firings of its own unit, which fired at 64; it has a record open, which has ended. -/
def forming0 : State :=
  { uw [(0, 3, 1)] (rxAt 2) with trigs := [(0, { TrigUnit.init with firings := [64] })] }

def openRec : OpenRecord :=
  { kind := 0, x := 64, g := 64, dl := 0, qty := 1, rshift := 0, preAct := 0, len := 1, flags := 0, missed := 0, shot := none, owner := 0, ended := true }

def recording0 : State := { forming0 with formers := [(0, { Former.init with record := some openRec })] }

/-- A record of 64 bytes waits for region 0's ring of the physical function, enabled with 65,536 bytes, or disabled. -/
def ring0 (l : List (Page × Field × Nat)) : State :=
  { st ((.region 0, ALL.PAGE_STATE_STATE, 2) :: l) with capqs := [(0, { CapQueue.init with recs := [⟨0, List.replicate 64 7⟩] })] }

def ringOn : State := ring0 [(.acquisition 0, ACQUISITION.RING_CTRL_EN, 1), (.acquisition 0, ACQUISITION.RING_SIZE_UNITS, 1)]

/-- The queue of region 0 holds `n` bytes. -/
def queueOf (n : Nat) : State := { State.reset with capqs := [(0, { CapQueue.init with recs := [⟨0, List.replicate n 7⟩] })] }

/-- Processor 0 runs, in a state of its registers. -/
def dspRun (f : DspState → DspState := id) (l : List (Page × Field × Nat) := []) : State :=
  { st ((.dsp 0, DSP.STATUS_STATE, 1) :: l) with dsps := [(0, f DspState.init)] }

def dspAt (c : Nat) (l : List (Page × Field × Nat) := []) : State :=
  st ((.dsp 0, DSP.STATUS_STATE, c) :: (.dsp 0, ALL.PAGE_STATE_STATE, 2) :: l)

def dw (w : BitVec 26) : DspArgs := ⟨w, false, false, false⟩

/-- D1 is 5, A0 and A1 as given, SW as given. -/
def dspAcc0 (a0 a1 : BitVec 40) (sw : Nat) : State := dspRun fun x => { x with a := [a0, a1], sw := sw, d := (x.d.set 1 5).set 3 0x7FFF7FFF }

/-- Processor 0 in its last delay slot, or at the end of a repeat's body, or with interrupts enabled and two sources pending. -/
def dspSlot (h : Bool) : State := dspRun fun x => { x with slots := 1, target := some 9, haltReq := h }

def dspLoop : State := dspRun fun x => { x with pc := 4, rpt := some (2, 4, 3) }

def dspIrq : State := dspRun (fun x => { x with sw := 0x50 }) [(.dsp 0, DSP.IRQ_STATUS_PEND, 6)]

/-- Region 0's queue of the physical function is enabled with one descriptor not fetched; one is fetched, which copies 64 bytes of the HBM. -/
def dqOn (l : List (Page × Field × Nat) := []) : State :=
  st ((.porter 0, ALL.PAGE_STATE_STATE, 2) :: (.porter 0, PORTER.DQ_CTRL_EN, 1) :: (.porter 0, PORTER.DQ_SIZE_ENTRIES, 4) ::
    (.porter 0, PORTER.DQ_TAIL_INDEX, 1) :: l)

def copyDesc : BitVec 256 := BitVec.ofNat 256 (0x2000 + 0x1000 * 2 ^ 64 + 64 * 2 ^ 128)

def dqHeld (d : BitVec 256) : State := { dqOn with dqs := [(queueNo 0 0, ⟨[d]⟩)], mem := [(0x2000, 5), (0x2001, 6)] }

/-- A library load of one NOP from HBM byte 64 into page 2 of block 0 is busy; the same with an engine that executes from the page. -/
def libBusy : State :=
  { st [(.block 0, BLOCK.LIB_STATUS_BUSY, 1)] with blks := [(0, { Block.init with libFrom := 64, libDst := 2, libLen := 1 })], mem := [(71, 1)] }

def libHeld : State :=
  { st [(.cell 0, CELL.STATUS_STATE, 1), (.cell 0, CELL.STATUS_LIB, 1)] libBusy with engs := [(0, { Engine.init with page := 2 })] }

/-- Group entry 0 has engine 0 as its member and is enabled. -/
def grp0 (l : List (Page × Field × Nat)) : State := { st l with tbl := [(tblKey .groups 0, 1), (tblKey .groups 16, 1)] }

/-- Entry 1 is enabled too, and its members are selected. -/
def grp1 : State :=
  { st [(.ledger, LEDGER.GRP_SEL_GROUP, 1), (.ledger, LEDGER.GRP_SEL_WORD, 16)] with tbl := (grp0 []).tbl ++ [(tblKey .groups 64, 1)] }

def ledOn (l : List (Page × Field × Nat) := []) : State :=
  { st ([(.ledger, LEDGER.LRING_BASE_HI, 2 ^ 31), (.ledger, LEDGER.LRING_SIZE_UNITS, 1), (.ledger, LEDGER.LRING_CTRL_EN, 1)] ++ l) with
    led := ⟨[⟨0, 0, List.replicate 64 7, some 5⟩], []⟩ }

def spare0 (f : Block → Block) (l : List (Page × Field × Nat) := []) : State := { st l with blks := [(0, f Block.init)] }

def shadowed : State := spare0 (fun b => { b with running := true, shadowShots := 2 ^ 20 }) [(.cell 1, CELL.STATUS_IN_SHOT, 1)]

def taken0 : State := { spare0 (fun b => { b with takeover := some 0 }) [(.cell 0, CELL.STATUS_STATE, 9)] with mem := [(keptProgAddr 0 3, 7)] }

/-- Engine 0 is tended in its context 0, with a route for it, and block 0's signal processor is lent to the watch. -/
def tend0 (l : List (Page × Field × Nat) := []) : State :=
  { st ([(.watch, WATCH.WCTRL_TRACK_FREQ, 1), (.watch, WATCH.WCTRL_TRACK_DISC, 1), (.cell 0, CELL.STATUS_STATE, 1), (.dsp 0, DSP.CFG_WATCH_EN, 1)] ++ l) with
    tbl := [(tblKey .tending 0, 3), (tblKey .tending 1, 1 * 2 ^ 20)] }

def unrouted : State := tend0 [(.block 0, BLOCK.CELL_ROUTE_EN 0, 1), (.block 0, BLOCK.CELL_ROUTE_NONE 0, 1)]

def idle0 : State := st [(.watch, WATCH.WCTRL_IDLE_EN, 1), (.cell 0, ALL.PAGE_STATE_STATE, 2), (.watch, WATCH.WCTRL_TRACK_TRIM, 1)]

/-- Guest 1's state and EN, with engine 0 leased. -/
def guest1 (stt en' : Nat) (l : List (Page × Field × Nat) := []) : State :=
  { st l with tbl := [(tblKey .guests 128, en'), (tblKey .guests 129, stt), (tblKey .guests 130, 1)].filter fun x => x.2 ≠ 0 }

/-- Guest 2 is READY with the same engine. -/
def rival : State := { guest1 0 0 with tbl := (guest1 0 0).tbl ++ [(tblKey .guests 256, 1), (tblKey .guests 258, 1)] }

/-- Function 0 has one fence outstanding, whose request does or does not wait. -/
def fence0 (w : Bool) (at' : Stamp := 0) : State :=
  { st [(.fence 0, FENCE.WB_ADDR_HI, 2 ^ 31), (.fence 0, FENCE.WAIT_LIMIT_UNITS, 1)] with
    fences := [(0, ⟨[⟨[⟨1, 5, w, true, true, false⟩], at'⟩]⟩)], time := { State.reset.time with coarse := 2 ^ 20 } }

/-- Port 0 is UP with some receive and transmit lanes in a state of their own. -/
def port0 (rx tx : List Nat) (l : List (Page × Field × Nat) := []) (f : PortLink → PortLink := id) : State :=
  { st ([(.port 0, PORT.PSTATUS_STATE, 2)] ++ ((upTo 4).map fun i => (Page.port 0, rxField i, rx.getD i 2))
      ++ ((upTo 4).map fun i => (Page.port 0, txField i, tx.getD i 2)) ++ l) with links := [(0, f PortLink.init)] }

def trained : State :=
  { st ([(.port 0, PORT.PSTATUS_STATE, 1)] ++ ((upTo 4).map fun i => (Page.port 0, rxField i, 1)) ++ ((upTo 4).map fun i => (Page.port 0, txField i, 1))) with
    links := [(0, { PortLink.init with change := true, rdy := 15, peerRdy := 15 })] }

def idlePort : State :=
  { port0 [] [] [(.port 0, PORT.SLEEP_CTRL_AUTO, 1)] with time := { State.reset.time with coarse := 2 ^ 20 } }

/-- A frame of this device for device 5, to which a route leads, with or without a deadline. -/
def toFive (d : Option Stamp) (src : Nat := 0) : Frame := ⟨.msg, 5, src, d, 3, [], none, none⟩

/-- Frames wait at port 0, at ST 2^40. -/
def waiting (l : List Frame) (f : PortLink → PortLink := id) : State :=
  { port0 [] [] [] f with
    tbl := [(tblKey .routes 5, 0x60)], fab := { FabricState.init with sendq := l }, time := { State.reset.time with coarse := 2 ^ 40 } }

/-- A member of fabric ID 0 and not chair, whose port 0 is UP and expects SEQ 0, with table words and fields. -/
def memberOf (l : List (Page × Field × Nat) := []) (w : List (Nat × Nat) := []) : State :=
  { st ([(.port 0, PORT.PSTATUS_STATE, 2), (.fabric, FABRIC.FSTATUS_STATE, 2), (.timebase, TIMEBASE.TB_CTRL_SYNC_MODE, 2)] ++ l) with
    tbl := w.map fun x => x }

/-- Tag 0 names engine 0. -/
def tagged (l : List (Page × Field × Nat) := []) : State := memberOf ((.cell 0, ALL.PAGE_STATE_STATE, 2) :: l) [(tblKey .tags 0, 0x80000000)]

/-- Entry 0 of GROUP_ID 3 has engine 0 and an open shot 0 of attempt 1. -/
def grouped (f : Group → Group := id) : State :=
  { memberOf [] [(tblKey .groups 0, 1), (tblKey .groups 1, 3), (tblKey .groups 16, 1)] with
    groups := [(0, f { Group.init with open' := true, attempt := 1 })] }

def coincOn : State := memberOf [] [(tblKey .units (136 * 16), 1), (tblKey .units (136 * 16 + 2), 0xA0000000 + 5 * 2 ^ 16)]

/-- Device 5 is present beside this one. -/
def withFive (l : List (Page × Field × Nat) := []) (f : FabricState → FabricState := id) : State :=
  { memberOf ((.fabric, FABRIC.PRESENT_LO, 33) :: (.fabric, ALL.PAGE_STATE_STATE, 2) :: l) with fab := f FabricState.init }

def alone (l : List (Page × Field × Nat) := []) (f : FabricState → FabricState := id) : State := withFive ((.fabric, FABRIC.FSTATUS_STATE, 0) :: l) f

def joiner (n : Nat) : State := withFive [(.fabric, FABRIC.FSTATUS_STATE, 1)] fun r => { r with joinTries := n }

def counting (s : State) : State := { s with time := { s.time with counting := true } }

def aligning (rejoin : Bool) : State := withFive [(.timebase, TIMEBASE.TB_STATUS_ALIGN_PENDING, 1), (.timebase, TIMEBASE.ALIGN_OFFSET_LO, 500)] fun r => { r with rejoin := rejoin }

/-- Epoch 1 has begun and its boundary has not been taken. -/
def newEpoch (s : State) : State := { s with time := { s.time with coarse := 2 ^ 24 } }

/-- Stage A is active, stage B cold and armed. -/
def fed (l : List (Page × Field × Nat) := []) : State :=
  st ([(.feed 0, FEED.KSTATUS_ROLE, 2), (.feed 0, FEED.KSTATUS_FEED_GOOD, 1), (.feed 0, FEED.KSTATUS_GOOD_MS, 100), (.feed 1, FEED.KSTATUS_ROLE, 1),
    (.feed 1, FEED.KSTATUS_GOOD_MS, 100), (.feed 1, FEED.KSTATUS_TRIMS_VALID, 1), (.feed 1, FEED.KSTATUS_ARMED, 1), (.power, POWER.PSTATUS_REDUNDANT, 1),
    (.power, ALL.PAGE_CTRL_ENABLE, 1), (.power, POWER.PSTATUS_AUX_A_OK, 1), (.power, POWER.PSTATUS_STATE, 2)] ++ l)
    { State.reset with power := { PowerState.init with keepers := [.init, { Keeper.init with checked := true }] } }

def pow (f : PowerState → PowerState) (s : State := fed) : State := { s with power := f s.power }

/-- A gap runs, VBUS is back, the clocks have relocked; engine 0 leads an open shot and an entry of its timetable lies in the gap. -/
def gap (l : List (Page × Field × Nat) := []) : State :=
  { pow (fun p => { p with triggered := true, shedAt := 5, returned := true, relocked := true }) (fed ([(.power, POWER.PSTATUS_SWITCHING, 1)] ++ l)) with
    time := { TimeState.init with coarse := 10, frozen := true } }

def gapShot : State :=
  { gap [(.cell 0, CELL.STATUS_IN_SHOT, 1), (.cell 0, CELL.STATUS_STATE, 1), ((condField (.drive 0)).1, (condField (.drive 0)).2, Cond.hold.code)] with
    groups := [(256, { Group.init with open' := true, attempt := 1 })]
    engs := [(0, { Engine.init with timetable := [{ ctxEntry .freqSet .drive 0 40 3 0 with slot := some 0 }, { ctxEntry .freqSet .drive 0 99999 3 0 with slot := some 1 }] })] }

/-- The thresholds in force are `n`; each reading is `v`. -/
def warm (n : Nat) (v : Nat := 0) (s : State := st [(.thermal, THERMAL.TSTATE_SOURCE, 0), (.thermal, THERMAL.TSTATE_STATE, n.log2 + 1), (.cell 0, CELL.STATUS_STATE, 1)]) : State :=
  { pow (fun p => { p with inForce := n }) s with tbl := (List.range 80).map fun i => (tblKey .sensors i, v) }

/-- The life-cycle state is `lc`; no token fails but by what the bytes of memory say. -/
def lcIs (lc : Nat) (l : List (Page × Field × Nat) := []) : State := { st l with tbl := [(tblKey .fuses 34, lc)] }

def cmd (c : SecurityCmd) (l : List (Page × Field × Nat) := []) : State :=
  { st ((.security, SECURITY.CMD_STATUS_BUSY, 1) :: l) with start := { StartState.init with security := some c } }

def begun (ph : StartPhase) (f : StartState → StartState := id) (l : List (Page × Field × Nat) := []) : State :=
  { st l with start := f { StartState.init with phase := ph } }

def asked (c : FirmwareCmd) (l : List (Page × Field × Nat) := []) : State := begun .complete (fun r => { r with firmware := some c }) l

/-- The hold of a switch is in force. -/
def held (f : StartState → StartState := id) : State := { begun .complete f with tbl := [(tblKey .misc 1, 1)] }

def heldOpen : State := { held (fun r => { r with firmware := some .switch }) with groups := [(256, { Group.init with open' := true, attempt := 1 })] }

/-- Guest 3 of the example after R522 is READY and leases engine 300 and the first 1,024 contexts of region 2. -/
def guest3 : State :=
  { st [(.power, POWER.PSTATUS_STATE, 2), (.cell 300, ALL.GUEST_OWNER_GUEST, 3), (.session 2, ALL.PAGE_STATE_STATE, 2)] with
    start := { StartState.init with phase := .complete }
    tbl := [(tblKey .guests (128 * 3 + 1), 2)] }

/-- Beside it engine 0 runs on its READY page. -/
def runs3 : State := st [(.cell 0, CELL.STATUS_STATE, 1), (.cell 0, ALL.PAGE_STATE_STATE, 2)] guest3

/-- Eight drive tones of block 0 play at the full rate, and engine 0 holds one more such pulse. -/
def overBudget : State :=
  { en (fun r => { r with timetable := [pulseEntry .toneStart .drive] }) (readyDev [(.cell 0, CELL.STATUS_STATE, 1)]) with
    tones := (List.range 8).map fun i => (i + 1, { Tone.init with pulse := some ⟨(pulseEntry .toneStart .drive).ctx, 256, 260, i + 1, false⟩ }) }

/-- Entry 0 has engine 0, and devices 0 and 1. -/
def twoDevices (l : List (Page × Field × Nat) := []) : State :=
  memberOf l [(tblKey .groups 0, 1), (tblKey .groups 1, 3), (tblKey .groups 5, 3), (tblKey .groups 16, 1)]

/-- The entry builder of engine 0 holds a stream start at 256. -/
def microStream : State :=
  en (fun r => { r with micro := { r.micro with builders := [{ Builder.init with eb := 0x0000_0000_0000_0100_6000_0000_0000_0001 }, .init, .init] } }) micro0

/-- The shot of group 256 is void; its engine is at its new start. -/
def shotVoid : State :=
  { st [(.cell 0, CELL.STATUS_IN_SHOT, 1)] with
    groups := [(256, { Group.init with open' := true, attempt := 1, voidedNow := true, anchored := true, started := true, startSet := true })],
    engs := [(0, { Engine.init with voided := true, restored := true, ckpt := some ckpt0, wait := .newStart })] }

/-- Stream 0 in its last repetition of segment 0; in segment 1, the last; with a jump to segment 1 held; out of data. -/
def streamLast : Streaming := { stream0 with rep := 2 }

def streamEnd1 : Streaming := { stream0 with seg := 1 }

def streamJump : Streaming := { stream0 with jump := some ⟨400, 1, true, none, some false⟩ }

def streamDry : Streaming := { stream0 with seg := 1, start := 0, segStart := 0, upTo := 0 }

/-- Raw-input unit 0 watches the Q of its samples, which is 0; former 1,024 takes its firings, and has one at 64. -/
def rawUnit : State := { uw [(128, 0, 5), (128, 1, 0), (128, 2, 0)] (rxAt 2) with trigs := [(1024, { TrigUnit.init with armed := true })] }

/-- Coincidence unit 0 of region 0 is enabled on tone unit 0 alone, which fired at 64. -/
def coincWaits (at' : Stamp) : State :=
  { uw [(136, 0, 1), (136, 2, 0x20000000)] with
    trigs := [(0, { TrigUnit.init with waiting := [64] })], coincs := [(0, { CoincState.init with at' := at' })] }

/-- The record of former 0 is still being written, and takes further triggers; former 0 is slow. -/
def openRec1 : OpenRecord := { openRec with ended := false }

def extending0 : State :=
  { uw [(0, 3, 3)] (rxAt 2) with
    trigs := [(0, { TrigUnit.init with firings := [64] })], formers := [(0, { Former.init with record := some openRec1 })] }

/-- The former of raw input 0 takes the firings of coincidence unit 0, which fired at 64 with a lag of 8,000. -/
def lagging : State :=
  { uw [(128, 3, 1 + 3 * 2 ^ 2), (136, 1, 8000)] (rxAt 2) with coincs := [(0, { CoincState.init with firings := [64] })] }

/-- The queue of region 0 holds `n` bytes, and AUTO last rose at `x`. -/
def queueRose (n : Nat) (x : Stamp) : State :=
  { State.reset with capqs := [(0, { CapQueue.init with recs := [⟨0, List.replicate n 7⟩], lastRise := some x })] }

/-- Guest 1 leases engine 0, which runs. -/
def guestRuns : State := { run0 with tbl := [(tblKey .guests 130, 1)] }

/-- Entry 0 has the void shot 0 of attempt 1, and tag 0 names its engine. -/
def voidTagged : State :=
  { (grouped fun g => { g with voidedNow := true }) with tbl := [(tblKey .tags 0, 0x80000000), (tblKey .groups 0, 1), (tblKey .groups 1, 3), (tblKey .groups 16, 1)] }

/-- Every remote slot but device 5's is seen. -/
def slotsFull : State := { (tagged) with slots := (List.range 2048).map fun i => (4096 + i, { DecSlot.init with seen := true }) }

/-- A frame of device 5 for this device; the same in order of its origin. -/
def frameOf5 : FrameHead := ⟨0, 5, 0, true, 64, 100⟩

def orderOf5 : FrameHead := ⟨0, 5, 0, false, 1, 100⟩

/-- Entries 0 and 1 have engine 0, and word 16 of entry 0 is selected. -/
def bothEntries : State :=
  { st [(.ledger, LEDGER.GRP_SEL_WORD, 16)] with tbl := [(tblKey .groups 0, 1), (tblKey .groups 64, 1), (tblKey .groups 80, 1)] }

/-- A record of the physical function that is no tag record waits. -/
def ledShot : State := { ledOn with led := ⟨[⟨0, 0, List.replicate 64 7, none⟩], []⟩ }

/-- A copy of 8 bytes of host memory to HBM byte 0x1000. -/
def hostDesc : BitVec 256 := BitVec.ofNat 256 (2 ^ 63 + 0x1000 * 2 ^ 64 + 8 * 2 ^ 128)

/-- An owner key with an empty payload. -/
def emptyKey : State := { State.reset with mem := [(0x60, 112)] }

/-- Port 0 has a neighbour, and no fabric is joined. -/
def neighbour : State := alone [(.port 0, PORT.PSTATUS_NB_VALID, 1)]

/-- An align step is pending at the present edge; a start of engine 0 waits for it. -/
def alignStart : State :=
  { withFive [(.timebase, TIMEBASE.TB_STATUS_ALIGN_PENDING, 1), (.cell 0, CELL.STATUS_START_PENDING, 1), (.cell 0, ALL.PAGE_STATE_STATE, 2)]
      fun r => { r with offered := some (4, 1) } with pending := [] }

/-! Hypotheses over every value of a type, from a check on the state -/

theorem slotless {w : Wait} (h : (match w with | .streamSlot _ _ => false | _ => true) = true) : ∀ xs td, w ≠ .streamSlot xs td := by
  rintro xs td rfl; cases h
theorem roomy {w : Wait} (h : (match w with | .space _ _ => false | _ => true) = true) : ∀ xs td, w ≠ .space xs td := by
  rintro xs td rfl; cases h
theorem uncurfewed {w : Wait} (h : (match w with | .curfew _ _ => false | _ => true) = true) : ∀ sc tag, w ≠ .curfew sc tag := by
  rintro sc tag rfl; cases h
theorem ungranted {w : Wait} (h : (match w with | .grant _ _ => false | _ => true) = true) : ∀ a b, w ≠ .grant a b := by
  rintro a b rfl; cases h
theorem unmessaged {x : BranchSource} (h : (match x with | .message _ _ => false | _ => true) = true) : ∀ d tag, x ≠ .message d tag := by
  rintro d tag rfl; cases h
theorem external {u : TriggerId} (h : (match u with | .ext _ => false | _ => true) = true) : ∀ i, u ≠ .ext i := by
  rintro i rfl; cases h
theorem othersWaitNot_of {s : State} {e : EngineId}
    (h : ∀ i ∈ enginesOfBlock (blockOf e), (s.eng i).tail = none ∧ (match (s.eng i).wait with | .streamSlot _ _ => false | _ => true) = true) :
    othersWaitNot s e := fun i hi _ => ⟨(h i hi).1, slotless (h i hi).2⟩
theorem noneWaits_of {s : State} {k : Nat}
    (h : ∀ i ∈ enginesOfBlock k, (s.eng i).tail = none ∧ (match (s.eng i).wait with | .streamSlot _ _ => false | _ => true) = true) :
    noneWaits s k := fun i hi => ⟨(h i hi).1, slotless (h i hi).2⟩
theorem membersStopped_of {s : State} {g i v : Nat} (h : ∀ e ∈ s.members g ++ s.membersAfter g i v, s.engStopped e = true) : membersStopped s g i v :=
  fun e he => h e (by simpa using he)
theorem vacuous {α : Type} {o : Option α} {P : α → Prop} (h : o.isNone = true) : ∀ y, o = some y → P y := by
  rintro y rfl; cases h
theorem unnamed {s : State} {group : BitVec 16} {attempt : BitVec 4} {shot : BitVec 48} (h : (s.groupById group.toNat).isNone = true) :
    ∀ g, ¬namesOpen s group attempt shot g := by
  intro g x; rw [x.1] at h; cases h
theorem notAhead {s : State} {group : BitVec 16} {attempt : BitVec 4} {shot : BitVec 48} (h : (s.groupById group.toNat).isNone = true) :
    ∀ g, ¬namesAhead s group attempt shot g := by
  intro g x; rw [x.1] at h; cases h
theorem resumables {s : State} {g k : Nat} (h : s.members g = [k])
    (hk : (match (s.eng k).ckpt with
      | some c => decide (opListed ((s.instrAt k (resumePoint c).page (resumePoint c).pc).toNat / 2 ^ 56) = true ∧ (c.prep.isSome = true → c.stack.length < 8))
      | none => true) = true) :
    ∀ e ∈ s.members g, s.inShot e = true → (s.eng e).voided = true → resumable s e := by
  intro e he _ _
  obtain rfl : e = k := by simpa [h] using he
  unfold resumable
  cases hc : (s.eng e).ckpt with
  | none => trivial
  | some c => rw [hc] at hk; exact of_decide_eq_true hk
theorem queueOf_fill (n : Nat) : (queueOf n).queueFill ((0 : RegionId) : Nat) = n := by
  simp [State.queueFill, State.capq, queueOf, Store.get]
theorem queueRose_fill (n : Nat) (x : Stamp) : (queueRose n x).queueFill ((0 : RegionId) : Nat) = n := by
  simp [State.queueFill, State.capq, queueRose, Store.get]
theorem noneListed {α : Type} {l : List α} {P : α → Prop} (h : l.isEmpty = true) : ∀ x ∈ l, P x := by
  simp [List.isEmpty_iff.1 h]
theorem noneSelected {s : State} {n : RegionId} {f : Fin 256} {P : TriggerId → Prop} (h : ∀ i, i < 12 → (selTrigger (s.selector n f i)).isNone = true) :
    ∀ i u, i < 12 → selTrigger (s.selector n f i) = some u → P u := by
  intro i u hi hu
  have := h i hi
  rw [hu] at this
  cases this

/-! For every statement with hypotheses, and for each of its clauses, a state and operands that meet them -/

theorem witness_OutputConditionCommands :
    (∃ o : OutputId, ∃ s : State, s.pageIs (outputPage o) .ready ∧ s.crit = false ∧ (s.output (outputNo o)).settling = false) ∧
    (∃ o : OutputId, ∃ s : State, (s.output (outputNo o)).powering = true) ∧
    (∃ m : Fin 16, ∃ s : State, s.pageIs (markPage m) .ready = true ∧ s.pageIs (regionPage (m.val / 2)) .quarantined = false ∧ s.crit = false ∧
      s.markerCond m ≤ Cond.muted.code) :=
  ⟨⟨(.probe 0), (rxAt 2), by decide +kernel⟩,
   ⟨(.drive 0), powering0, by decide +kernel⟩,
   ⟨0, readyMark, by decide +kernel⟩⟩

theorem witness_OutputSettings :
    (∃ o : OutputId, ∃ r : OutCfgReg, ∃ s : State, hasCfg o r = true ∧ s.cond o ≤ Cond.muted.code) ∧
    (∃ d : DriveId, ∃ s : State, Cond.muted.code < s.cond (.drive d) ∧ s.stopsOn (.drive d) 0 = false) ∧
    (∃ o : OutputId, ∃ s : State, (s.output (outputNo o)).enableWaits = false) ∧
    (∃ r : UnstampedReg, hasUnstamped r = true) :=
  ⟨⟨(.drive 0), .fs, fed, by decide +kernel⟩,
   ⟨0, gapShot, by decide +kernel⟩,
   ⟨(.flux 0), gap, by decide +kernel⟩,
   ⟨(.bias 0), by decide +kernel⟩⟩

theorem witness_TimetableRegisters :
    (∃ fn : FuncId, ∃ e : EngineId, ∃ s : State, ∃ x : Entry, ∃ rest : List Entry, s.reachesCell fn e = true ∧ (s.eng e).timetable = x :: rest) ∧
    (∃ fn : FuncId, ∃ e : EngineId, ∃ s : State, s.reachesCell fn e = true ∧ (s.eng e).timetable = []) ∧
    (∃ fn : FuncId, ∃ e : EngineId, ∃ s : State, s.reachesCell fn e = false) ∧
    (∃ fn : FuncId, ∃ e : EngineId, ∃ s : State, s.reachesCell fn e = true) ∧
    (∃ fn : FuncId, ∃ e : EngineId, ∃ s : State, ∃ c : Instr, (c = .ttClearSlack fn e ∨ c = .ttClearCounts fn e ∨ c = .ttClearFlags fn e) ∧
      s.reachesCell fn e = false) :=
  ⟨⟨0, 0, runCtx, { stamp := 256, kind := .mark, cls := .marker, index := 5, operand := 1, ctx := 0, slot := none, watch := false, silent := false },
     [], by decide +kernel⟩,
   ⟨0, 0, crit0, by decide +kernel⟩,
   ⟨1, 0, grp1, by decide +kernel⟩,
   ⟨0, 1, ucStd0, by decide +kernel⟩,
   ⟨1, 0, run0, (.ttClearSlack 1 0), by decide +kernel⟩⟩

theorem witness_FrameEvents :
    (∃ e : EngineId, ∃ s : State, ∃ x : Entry, s.nextDue e .freqSet = some x) ∧
    (∃ e : EngineId, ∃ s : State, ∃ x : Entry, s.nextDue e .phaseAdd = some x) ∧
    (∃ e : EngineId, ∃ s : State, ∃ x : Entry, s.nextDue e .phaseSet = some x) ∧
    (∃ e : EngineId, ∃ s : State, ∃ x : Entry, s.nextDue e .mark = some x) ∧
    (∃ e : EngineId, ∃ s : State, s.nextDue e .freqSet = none) ∧
    (∃ e : EngineId, ∃ s : State, s.nextDue e .phaseAdd = none) ∧
    (∃ e : EngineId, ∃ s : State, s.nextDue e .phaseSet = none) ∧
    (∃ e : EngineId, ∃ s : State, s.nextDue e .mark = none) :=
  ⟨⟨0, (due1 (plainEntry .freqSet .drive 0 256 1)),
     { stamp := 256, kind := .freqSet, cls := .drive, index := 0, operand := 1, ctx := 0, slot := none, watch := false, silent := false },
     by decide +kernel⟩,
   ⟨1,
     { trigFunc with engs := [(1, { Engine.init with due := [{ stamp := 3, kind := .phaseAdd, cls := .receive, index := 3, operand := 0, ctx := 3, slot := some 3, watch := true, silent := false }] })] },
     { stamp := 3, kind := .phaseAdd, cls := .receive, index := 3, operand := 0, ctx := 3, slot := some 3, watch := true, silent := false },
     by decide +kernel⟩,
   ⟨0,
     { forming0 with engs := [(0, { Engine.init with due := [{ stamp := 2, kind := .phaseSet, cls := .marker, index := 15, operand := 3, ctx := 54, slot := none, watch := true, silent := false }] })] },
     { stamp := 2, kind := .phaseSet, cls := .marker, index := 15, operand := 3, ctx := 54, slot := none, watch := true, silent := false },
     by decide +kernel⟩,
   ⟨0, (due1 (plainEntry .mark .marker 5 256 1)),
     { stamp := 256, kind := .mark, cls := .marker, index := 5, operand := 1, ctx := 0, slot := none, watch := false, silent := false },
     by decide +kernel⟩,
   ⟨0, ucFar, by decide +kernel⟩,
   ⟨0, fed, by decide +kernel⟩,
   ⟨0, idle0, by decide +kernel⟩,
   ⟨0, gapShot, by decide +kernel⟩⟩

theorem witness_Release :
    (∃ e : EngineId, ∃ s : State, ∃ x : Entry, ∃ rest : List Entry, (s.eng e).timetable = x :: rest ∧ s.time.frozen = false ∧ notStalled s e ∧
      noneWaits s (blockOf e) ∧ inWordOf s e x.stamp < 8 ∧ s.envelopeBad e x = false ∧ budgetCheck e x (s.passed (formedAt x.stamp)) = false) ∧
    (∃ e : EngineId, ∃ s : State, ∃ x : Entry, ∃ rest : List Entry, (s.eng e).timetable = x :: rest ∧ s.time.frozen = false ∧ notStalled s e ∧
      noneWaits s (blockOf e) ∧ inWordOf s e x.stamp < 8 ∧ s.envelopeBad e x = false ∧ s.inShot e = false ∧
      budgetCheck e x (s.passed (formedAt x.stamp)) = true) ∧
    (∃ e : EngineId, ∃ err : GateError, ∃ s : State, ∃ x : Entry, ∃ rest : List Entry, err ≠ .entry ∧ (s.eng e).timetable = x :: rest ∧
      s.time.frozen = false ∧ notStalled s e ∧ noneWaits s (blockOf e) ∧ 8 ≤ inWordOf s e x.stamp ∧ s.inShot e = false) ∧
    (∃ e : EngineId, ∃ s : State, ∃ x : Entry, ∃ rest : List Entry, (s.eng e).timetable = x :: rest ∧ s.time.frozen = false ∧ notStalled s e ∧
      noneWaits s (blockOf e) ∧ inWordOf s e x.stamp < 8 ∧ s.inShot e = false ∧ budgetCheck e x (s.passed (formedAt x.stamp)) = false) ∧
    (∃ e : EngineId, ∃ s : State, ∃ x : Entry, ∃ rest : List Entry, (s.eng e).timetable = x :: rest ∧ s.time.frozen = false ∧ noneWaits s (blockOf e)) ∧
    (∃ e : EngineId, ∃ s : State, ((s.eng e).timetable = [] ∨ s.time.frozen = true)) :=
  ⟨⟨0, runCtx, { stamp := 256, kind := .mark, cls := .marker, index := 5, operand := 1, ctx := 0, slot := none, watch := false, silent := false }, [],
     by decide +kernel, by decide +kernel, roomy (by decide +kernel), noneWaits_of (by decide +kernel), by decide +kernel, by decide +kernel,
     by decide +kernel⟩,
   ⟨0, overBudget, pulseEntry .toneStart .drive, [], by decide +kernel, by decide +kernel, roomy (by decide +kernel), noneWaits_of (by decide +kernel),
     by decide +kernel, by decide +kernel, by decide +kernel, by decide +kernel⟩,
   ⟨0, .envelope, en (fun r => { r with word := wordOf 256, inWord := 8 }) oneEntry, plainEntry .mark .marker 5 256 1, [], by decide +kernel,
     by decide +kernel, by decide +kernel, roomy (by decide +kernel), noneWaits_of (by decide +kernel), by decide +kernel, by decide +kernel⟩,
   ⟨0, runCtx, { stamp := 256, kind := .mark, cls := .marker, index := 5, operand := 1, ctx := 0, slot := none, watch := false, silent := false }, [],
     by decide +kernel, by decide +kernel, roomy (by decide +kernel), noneWaits_of (by decide +kernel), by decide +kernel, by decide +kernel,
     by decide +kernel⟩,
   ⟨0, runCtx, { stamp := 256, kind := .mark, cls := .marker, index := 5, operand := 1, ctx := 0, slot := none, watch := false, silent := false }, [],
     by decide +kernel, by decide +kernel, noneWaits_of (by decide +kernel)⟩,
   ⟨3, runCkpt, by decide +kernel⟩⟩

theorem witness_TimebaseCommands :
    (∃ fn : FuncId, ∃ s : State, fn.val = 0 ∧ s.anyRunning = false ∧ s.outputsQuiet = true) ∧
    (∃ fn : FuncId, ∃ s : State, fn.val = 0 ∧ (s.anyRunning = true ∨ s.outputsQuiet = false)) ∧
    (∃ fn : FuncId, fn.val = 0) ∧
    (∃ fn : FuncId, ∃ s : State, fn.val = 0 ∧ s.anyRunning = false) ∧
    (∃ fn : FuncId, ∃ s : State, fn.val = 0 ∧ s.anyRunning = true) ∧
    (∃ s : State, s.get .timebase TIMEBASE.TB_CTRL_SYNC_MODE = 2 ∧ s.time.counting = true ∧ s.time.syncGone = false) ∧
    (∃ s : State, (s.get .timebase TIMEBASE.TB_CTRL_SYNC_MODE ≠ 2 ∨ s.time.syncGone = true)) ∧
    (∃ fn : FuncId, ∃ v : Byte, ∃ c : Instr, (c = .clkTrimWrite fn v ∨ c = .syncArm fn) ∧ fn.val ≠ 0) :=
  ⟨⟨0, ringOn, by decide +kernel⟩,
   ⟨0, void5, by decide +kernel⟩,
   ⟨0, by decide +kernel⟩,
   ⟨0, crit0, by decide +kernel⟩,
   ⟨0, runs3, by decide +kernel⟩,
   ⟨(counting withFive), by decide +kernel⟩,
   ⟨runCtx, by decide +kernel⟩,
   ⟨1, 27, (.clkTrimWrite 1 27), by decide +kernel⟩⟩

theorem witness_VoltageScalingInterval :
    (∃ s : State, ∃ m : ℤ, m = intervalMin s) ∧
    (∃ s : State, ∃ m : ℤ, m = intervalMin s ∧ lowersVcp s m = true) ∧
    (∃ s : State, ∃ m : ℤ, m = intervalMin s ∧ lowersVcp s m = false ∧
      s.get .timebase TIMEBASE.VCP_STATE_VCP_FLOOR < s.get .timebase TIMEBASE.VCP_STATE_STEP) ∧
    (∃ s : State, ∃ m : ℤ, m = intervalMin s ∧ lowersVcp s m = false ∧
      s.get .timebase TIMEBASE.VCP_STATE_STEP ≤ s.get .timebase TIMEBASE.VCP_STATE_VCP_FLOOR) ∧
    (∃ s : State, ∃ m : ℤ, m = intervalMin s ∧ s.time.raised = false) :=
  ⟨⟨(warm 0), 0x7fffffff, by decide +kernel⟩,
   ⟨sampled [], 4000, by decide +kernel⟩,
   ⟨sampled [(.timebase, TIMEBASE.VCP_STATE_STEP, 29)], 4000, by decide +kernel⟩,
   ⟨State.reset, 2147483647, by decide +kernel⟩,
   ⟨State.reset, 2147483647, by decide +kernel⟩⟩

theorem witness_PulseEvents :
    (∃ e : EngineId, ∃ s : State, ∃ x : Entry, s.nextDue e .toneStart = some x ∧ entryTone e x < 2048 ∧
      s.stopsOn (outputPage (toneOutput (entryTone e x)).1) 2 = false) ∧
    (∃ e : EngineId, ∃ s : State, ∃ x : Entry, s.nextDue e .fluxPulse = some x ∧ s.stopsOn (fluxPage (fluxOf e x.index)) 2 = false) ∧
    (∃ e : EngineId, ∃ s : State, s.nextDue e .toneStart = none) ∧
    (∃ e : EngineId, ∃ s : State, s.nextDue e .fluxPulse = none) :=
  ⟨⟨0, (due1 (pulseEntry .toneStart .drive)),
     { stamp := 256, kind := .toneStart, cls := .drive, index := 0, operand := 0, ctx := 0x4000000004000000000000000000000000000000000000000000000000000000000000000, slot := none, watch := false, silent := false },
     by decide +kernel⟩,
   ⟨0, (due1 fluxEntry), fluxEntry, by decide +kernel⟩,
   ⟨3, rcvDue, by decide +kernel⟩,
   ⟨0, runs3, by decide +kernel⟩⟩

theorem witness_ArithmeticInstructions :
    ∃ e : EngineId, ∃ s : State, fetches s e :=
  ⟨0, runs3, by unfold fetches; decide +kernel⟩

theorem witness_MemoryInstructions :
    (∃ e : EngineId, ∃ b : Fin 16, ∃ imm : Word, ∃ s : State, fetches s e ∧ s.poisoned (localAddr e (localAt s e b imm)) = false) ∧
    (∃ e : EngineId, ∃ b : Fin 16, ∃ imm : Word, ∃ ue : Bool, ∃ s : State, fetches s e ∧ (ue = true ∨
      s.poisoned (localAddr e (localAt s e b imm)) = true)) ∧
    (∃ e : EngineId, ∃ b : Fin 16, ∃ imm : Word, ∃ s : State, fetches s e ∧ localAt s e b imm < 8128) ∧
    (∃ e : EngineId, ∃ b : Fin 16, ∃ imm : Word, ∃ s : State, fetches s e ∧ 8128 ≤ localAt s e b imm ∧ s.stopsOn (.cell e) 5 = false) ∧
    (∃ e : EngineId, ∃ b : Fin 16, ∃ imm : Word, ∃ s : State, fetches s e ∧ s.bankBad (blockOf e) (bankAt s e b imm) false = false) ∧
    (∃ e : EngineId, ∃ b : Fin 16, ∃ imm : Word, ∃ ue : Bool, ∃ s : State, fetches s e ∧ s.inShot e = false ∧
      s.bankBad (blockOf e) (bankAt s e b imm) ue = true) ∧
    (∃ e : EngineId, ∃ mismatch : Bool, ∃ s : State, fetches s e ∧ agrees s e mismatch) ∧
    (∃ e : EngineId, ∃ s : State, fetches s e) :=
  ⟨⟨0, 1, 1, run0, by unfold fetches; decide +kernel⟩,
   ⟨0, 0, 0x75e521, true, run0, by unfold fetches; decide +kernel⟩,
   ⟨0, 8, 384, held0, by unfold fetches; decide +kernel⟩,
   ⟨0, 0, 0xffffffff, held0, by unfold fetches; decide +kernel⟩,
   ⟨0, 15, 2, run0, by unfold fetches; decide +kernel⟩,
   ⟨0, 0, 3, true, runs3, by unfold fetches; decide +kernel⟩,
   ⟨0, true, runCtx, by unfold agrees fetches; decide +kernel⟩,
   ⟨0, micro0, by unfold fetches; decide +kernel⟩⟩

theorem witness_FlowInstructions :
    (∃ e : EngineId, ∃ s : State, fetches s e) ∧
    (∃ e : EngineId, ∃ s : State, fetches s e ∧ (s.eng e).stack.length < 8) ∧
    (∃ e : EngineId, ∃ r : ReturnPoint, ∃ rest : List ReturnPoint, ∃ s : State, fetches s e ∧ (s.eng e).stack = r :: rest) ∧
    (∃ e : EngineId, ∃ first : Bool, ∃ s : State, fetches s e ∧ s.inShot e = true ∧ (first = false ∨ s.get (.cell e) CELL.STATUS_ATTEMPT ≠ 1)) ∧
    (∃ e : EngineId, ∃ s : State, fetches s e ∧ s.inShot e = true ∧ s.get (.cell e) CELL.STATUS_ATTEMPT = 1 ∧ (s.eng e).stack.length < 8) :=
  ⟨⟨0, run0, by unfold fetches; decide +kernel⟩,
   ⟨0, run0, by unfold fetches; decide +kernel⟩,
   ⟨0, { pc := 1, page := none }, [{ pc := 2, page := some 3 }, { pc := 3, page := none }, { pc := 4, page := none }, { pc := 5, page := none },
     { pc := 6, page := none }, { pc := 4095, page := none }], runDeep, by unfold fetches; decide +kernel⟩,
   ⟨0, false, inShot0, by unfold fetches; decide +kernel⟩,
   ⟨0, inShot0, by unfold fetches; decide +kernel⟩⟩

theorem witness_TimedInstructions :
    (∃ e : EngineId, ∃ i : Timed, ∃ mismatch : Bool, ∃ c : BitVec 512, ∃ s : State, fetchesPlain s e ∧ agrees s e mismatch ∧ names s e i c ∧
      takes s e (stampOf s e i) ∧ s.routeOk e c = true ∧ Ctx.cls c ≤ 1 ∧ Ctx.streamed c = false) ∧
    (∃ e : EngineId, ∃ i : Timed, ∃ mismatch : Bool, ∃ c : BitVec 512, ∃ s : State, fetchesPlain s e ∧ agrees s e mismatch ∧ names s e i c ∧
      takes s e (stampOf s e i) ∧ s.routeOk e c = true ∧ Ctx.cls c = 3 ∧ Ctx.streamed c = false) ∧
    (∃ e : EngineId, ∃ i : Timed, ∃ mismatch : Bool, ∃ c : BitVec 512, ∃ s : State, fetchesPlain s e ∧ agrees s e mismatch ∧ names s e i c ∧
      takes s e (stampOf s e i + BitVec.ofNat 64 (32 * Ctx.wdelay c)) ∧ s.routeOk e c = true ∧ Ctx.cls c = 2 ∧ Ctx.streamed c = false ∧
      1 ≤ Ctx.wlen c ∧ Ctx.wlen c ≤ 4096 ∧ Ctx.probe c = false) ∧
    (∃ e : EngineId, ∃ i : Timed, ∃ mismatch : Bool, ∃ c : BitVec 512, ∃ s : State, fetchesPlain s e ∧ agrees s e mismatch ∧ names s e i c ∧
      takes s e (stampOf s e i) ∧ 256 ≤ Stamp.ahead (stampOf s e i + BitVec.ofNat 64 (32 * Ctx.wdelay c)) (Stamp.gridUp 5 s.st) ∧
      (s.eng e).timetable.length < 63 ∧ s.routeOk e c = true ∧ Ctx.cls c = 2 ∧ Ctx.streamed c = false ∧ 1 ≤ Ctx.wlen c ∧ Ctx.wlen c ≤ 4096 ∧
      Ctx.probe c = true) ∧
    (∃ e : EngineId, ∃ i : Timed, ∃ mismatch : Bool, ∃ c : BitVec 512, ∃ s : State, ∃ k : ℕ, fetchesPlain s e ∧ agrees s e mismatch ∧ names s e i c ∧
      takes s e (stampOf s e i) ∧ s.routeOk e c = true ∧ Ctx.cls c ≤ 1 ∧ Ctx.streamed c = true ∧ k < 8 ∧
      (s.blk (blockOf e)).slots.all (fun x => x.1 ≠ k) = true ∧ (∀ j, j < k → (s.blk (blockOf e)).slots.any (fun x => x.1 = j) = true)) ∧
    (∃ e : EngineId, ∃ i : Timed, ∃ mismatch : Bool, ∃ s : State, ∃ c : Instr, fetchesPlain s e ∧ agrees s e mismatch ∧ (c = .play e i none mismatch ∨
      c = .acquire e i none mismatch ∨ c = .stream e i none mismatch) ∧ s.ctxLeased e (s.ctxIndex e i.ctx) = false) :=
  ⟨⟨0, timed 0, false, runCtx.context 0 0, runCtx, by unfold agrees fetchesPlain fetches names takes; decide +kernel⟩,
   ⟨0, timed 1, false, runCtx.context 0 1, runCtx, by unfold agrees fetchesPlain fetches names takes; decide +kernel⟩,
   ⟨0, timed 2, false, runCtx.context 0 2, runCtx, by unfold agrees fetchesPlain fetches names takes; decide +kernel⟩,
   ⟨0, timed 4, false, runCtx.context 0 4, runCtx, by unfold agrees fetchesPlain fetches names takes; decide +kernel⟩,
   ⟨0, timed 3, false, runCtx.context 0 3, runCtx, 0, by unfold agrees fetchesPlain fetches names takes; decide +kernel⟩,
   ⟨0, { ts := 0, td := 0, tadv := true, ctx := .reg 0, toff := 2 }, false, (st [(.cell 0, ALL.GUEST_OWNER_GUEST, 1), (.cell 0, CELL.STATUS_STATE,
     1)] (held)), (.play 0 { ts := 0, td := 0, tadv := true, ctx := .reg 0, toff := 2 } none false),
     by unfold agrees fetchesPlain fetches; decide +kernel⟩⟩

theorem witness_FrameAndMessageInstructions :
    (∃ e : EngineId, ∃ ts : Fin 4, ∃ tgt : FrameTarget, ∃ toff : Word, ∃ mismatch : Bool, ∃ s : State, fetchesPlain s e ∧ agrees s e mismatch ∧
      takes s e (s.treg e ts + BitVec.ofNat 64 toff.toNat) ∧ s.owns e (frameTone e tgt) = true) ∧
    (∃ e : EngineId, ∃ ts : Fin 4, ∃ tgt : FrameTarget, ∃ toff : BitVec 20, ∃ mismatch : Bool, ∃ s : State, fetchesPlain s e ∧ agrees s e mismatch ∧
      takes s e (s.treg e ts + BitVec.ofNat 64 toff.toNat) ∧ s.owns e (frameTone e tgt) = true) ∧
    (∃ e : EngineId, ∃ ts : Fin 4, ∃ m : Fin 16, ∃ toff : Word, ∃ mismatch : Bool, ∃ s : State, fetchesPlain s e ∧ agrees s e mismatch ∧
      takes s e (s.treg e ts + BitVec.ofNat 64 toff.toNat) ∧ Nat.testBit (s.get (.cell e) CELL.MARK_ROUTE_OWN) m = true) ∧
    (∃ e : EngineId, ∃ dev : Fin 64, ∃ s : State, fetchesPlain s e ∧ dev ≠ 63 ∧ s.inShot e = false ∧ s.deadlineFrames (s.routePort dev) < 512) ∧
    (∃ e : EngineId, ∃ s : State, fetchesPlain s e ∧ s.inShot e = false) :=
  ⟨⟨0, 3, { cls := 0, idx := 0 }, 0xc4d4cd24, false, (warm 3), by unfold agrees fetchesPlain fetches takes; decide +kernel⟩,
   ⟨0, 3, { cls := 1, idx := 0 }, 0xfcf8c, true, (warm 7), by unfold agrees fetchesPlain fetches takes; decide +kernel⟩,
   ⟨0, 0, 0, 0x8d6d7d95, true, micro0, by unfold agrees fetchesPlain fetches takes; decide +kernel⟩,
   ⟨0, 0, ready0, by unfold fetchesPlain fetches; decide +kernel⟩,
   ⟨0, held0, by unfold fetchesPlain fetches; decide +kernel⟩⟩

theorem witness_WaitInstructions :
    (∃ e : EngineId, ∃ s : State, fetchesPlain s e) ∧
    (∃ e : EngineId, ∃ a : Stamp, ∃ s : State, waitsIn s e (.until a) ∧ s.time.frozen = false) ∧
    (∃ e : EngineId, ∃ j : Fin 2, ∃ s : State, fetches s e ∧ s.fluxDenied e j = false ∧ (s.holds e (fluxOf e j) = true ∨ ¬leaseBusy s (fluxOf e j))) ∧
    (∃ e : EngineId, ∃ try1 : Bool, ∃ j : Fin 2, ∃ s : State, fetches s e ∧ (s.fluxDenied e j = true ∨ (try1 = true ∧ leaseBusy s (fluxOf e j) ∧
      s.holds e (fluxOf e j) = false))) ∧
    (∃ e : EngineId, ∃ j : Fin 2, ∃ s : State, fetchesPlain s e ∧ s.fluxDenied e j = false ∧ leaseBusy s (fluxOf e j) ∧ s.holds e (fluxOf e j) = false) ∧
    (∃ e : EngineId, ∃ s : State, fetches s e) ∧
    (∃ f : FluxId, ∃ e : EngineId, ∃ rest : List ℕ, ∃ j : ℕ, ∃ s : State, s.get (.flux f) FLUX.LEASE_HELD = 0 ∧
      (s.output (160 + f.val)).waiters = e.val :: rest ∧ waitsIn s e (.lease j)) ∧
    (∃ e : EngineId, ∃ s : State, fetchesPlain s e ∧ s.inShot e = false ∧ s.budgetLeft e = true) ∧
    (∃ e : EngineId, ∃ s : State, fetches s e ∧ s.inShot e = false ∧ s.budgetLeft e = false) ∧
    (∃ e : EngineId, ∃ s : State, fetches s e ∧ s.inShot e = true ∧ s.stopsOn (.cell e) 7 = false) ∧
    (∃ e : EngineId, ∃ noWork : Bool, ∃ a : Stamp, ∃ b : Stamp, ∃ s : State, waitsIn s e (.grant a b) ∧ s.time.frozen = false ∧ (noWork = true ∨
      s.budgetLeft e = false)) ∧
    (∃ e : EngineId, ∃ a : Stamp, ∃ b : Stamp, ∃ s : State, waitsIn s e (.grant a b) ∧ s.time.frozen = false ∧ s.budgetLeft e = true) :=
  ⟨⟨0, held0, by unfold fetchesPlain fetches; decide +kernel⟩,
   ⟨0, 2, { (warm 1) with engs := [(0, { Engine.init with wait := .until 2 })] }, by unfold waitsIn; decide +kernel⟩,
   ⟨0, 0, run0, by unfold fetches leaseBusy; decide +kernel⟩,
   ⟨0, true, 0, runHeld, by unfold fetches leaseBusy; decide +kernel⟩,
   ⟨0, 0, runHeld, by unfold fetchesPlain fetches leaseBusy; decide +kernel⟩,
   ⟨0, run0, by unfold fetches; decide +kernel⟩,
   ⟨0, 0, [3], 0, waitLease, by unfold waitsIn; decide +kernel⟩,
   ⟨0, micro0, by unfold fetchesPlain fetches; decide +kernel⟩,
   ⟨0, runCtx, by unfold fetches; decide +kernel⟩,
   ⟨0, inShot0, by unfold fetches; decide +kernel⟩,
   ⟨0, true, 0, 2, { st [(.cell 0, CELL.STATUS_STATE, 1)] clamped with engs := [(0, { Engine.init with wait := .grant 0 2 })] },
     by unfold waitsIn; decide +kernel⟩,
   ⟨0, 2, 0, { runHeld with engs := [(0, { Engine.init with wait := .grant 2 0, openTimeLast := 1000 })] }, by unfold waitsIn; decide +kernel⟩⟩

theorem witness_StartAndStop :
    (∃ fn : FuncId, ∃ e : EngineId, ∃ s : State, s.reachesCell fn e = true ∧ s.crit = false ∧ s.startBarred e = false ∧
      s.pageIs (.cell e) .starting = false ∧ s.loading e = false ∧ s.aligning = false ∧ s.engIs e .stopped = true ∧ (s.eng e).tending = false ∧
      startsListed s e) ∧
    (∃ fn : FuncId, ∃ e : EngineId, ∃ s : State, s.reachesCell fn e = true ∧ s.crit = false ∧ s.startBarred e = false ∧
      s.pageIs (.cell e) .starting = false ∧ s.loading e = false ∧ s.aligning = false ∧ s.engIs e .stopped = true ∧ ¬startsListed s e) ∧
    (∃ fn : FuncId, ∃ e : EngineId, ∃ s : State, s.reachesCell fn e = true ∧ s.crit = false ∧ s.startBarred e = false ∧ (s.engIs e .stopped = false ∨
      s.loading e = true ∨ s.aligning = true ∨ s.pageIs (.cell e) .starting = true) ∧ s.get (.cell e) CELL.STATUS_START_PENDING = 0) ∧
    (∃ fn : FuncId, ∃ e : EngineId, ∃ s : State, s.reachesCell fn e = true ∧ s.crit = true) ∧
    (∃ fn : FuncId, ∃ e : EngineId, ∃ s : State, s.reachesCell fn e = true ∧ s.inShot e = false ∧ (∀ u ∈ s.tend.pending, u.engine ≠ e.val)) ∧
    (∃ fn : FuncId, ∃ e : EngineId, ∃ s : State, s.reachesCell fn e = true) ∧
    (∃ e : EngineId, ∃ s : State, s.executes e = true ∧ s.inShot e = false ∧ (s.get (.cell e) CELL.STATUS_START_PENDING = 0 ∨ s.quiesced e = true) ∧
      (∀ u ∈ s.tend.pending, u.engine ≠ e.val)) ∧
    (∃ e : EngineId, ∃ s : State, s.executes e = true ∧ s.inShot e = false ∧ s.get (.cell e) CELL.STATUS_START_PENDING = 1 ∧ s.quiesced e = false ∧
      startsListed s e) ∧
    (∃ fn : FuncId, ∃ e : EngineId, ∃ s : State, ∃ c : Instr, (c = .start fn e ∨ c = .stop fn e ∨ c = .clrPending fn e ∨ c = .load fn e) ∧
      s.reachesCell fn e = false) :=
  ⟨⟨0, 0, idle0, by unfold startsListed; decide +kernel⟩,
   ⟨0, 0, { readyDev [(.cell 0, ALL.PAGE_STATE_STATE, 2)] with mem := [(spadAddr 0 7, 0xFF)] }, by unfold startsListed; decide +kernel⟩,
   ⟨0, 0, runs3, by decide +kernel⟩,
   ⟨0, 3, crit0, by decide +kernel⟩,
   ⟨0, 0, run0, by decide +kernel⟩,
   ⟨0, 887, grp1, by decide +kernel⟩,
   ⟨0, runs3, by decide +kernel⟩,
   ⟨0, held0, by unfold startsListed; decide +kernel⟩,
   ⟨1, 1, taken0, (.start 1 1), by decide +kernel⟩⟩

theorem witness_ProgramLoads :
    (∃ fn : FuncId, ∃ e : EngineId, ∃ s : State, s.reachesCell fn e = true ∧ s.engStopped e = true ∧ s.get (.cell e) CELL.LOAD_STATUS_BUSY = 0) ∧
    (∃ fn : FuncId, ∃ e : EngineId, ∃ s : State, s.reachesCell fn e = true ∧ (s.engStopped e = false ∨ s.get (.cell e) CELL.LOAD_STATUS_BUSY = 1) ∧
      s.stopsOn (.cell e) 8 = false) ∧
    (∃ e : EngineId, ∃ s : State, s.get (.cell e) CELL.LOAD_STATUS_BUSY = 1 ∧ s.get (.cell e) CELL.STATUS_START_PENDING = 0 ∧ ((s.eng e).loadLen = 0 ∨
      4096 < (s.eng e).loadLen)) ∧
    (∃ e : EngineId, ∃ s : State, s.get (.cell e) CELL.LOAD_STATUS_BUSY = 1 ∧ s.get (.cell e) CELL.STATUS_START_PENDING = 0 ∧ 0 < (s.eng e).loadLen ∧
      (s.eng e).loadLen ≤ 4096 ∧ s.memRange (s.guestOf e) (s.eng e).loadFrom (8 * (s.eng e).loadLen) = true ∧
      (s.loadFailure e (s.eng e).loadLen false fun i => BitVec.ofNat 64 (s.bytes ((s.eng e).loadFrom + 8 * i) 8)) = none) :=
  ⟨⟨0, 0, fired0, by decide +kernel⟩,
   ⟨0, 0, runs3, by decide +kernel⟩,
   ⟨0, loading0, by decide +kernel⟩,
   ⟨3, { st [(.cell 3, CELL.LOAD_STATUS_BUSY, 1)] runCkpt with engs := [(3, { Engine.init with loadLen := 1 })] }, by decide +kernel⟩⟩

theorem witness_ShotInstructions :
    (∃ e : EngineId, ∃ s : State, s.executes e = true ∧ s.inShot e = true ∧ s.get (.cell e) CELL.SO_STATUS_LEVEL = 0) ∧
    (∃ e : EngineId, ∃ s : State, fetchesPlain s e ∧ s.inShot e = false ∧ s.quiesced e = false) ∧
    (∃ e : EngineId, ∃ differ : Bool, ∃ s : State, fetchesPlain s e ∧ s.inShot e = false ∧ mayOpenNow s e ∧ entriesAgree s e differ ∧
      (s.group (s.groupOf e)).open' = false ∧ (s.group (s.groupOf e)).early = []) ∧
    (∃ e : EngineId, ∃ differ : Bool, ∃ s : State, fetchesPlain s e ∧ s.inShot e = false ∧ mayOpenNow s e ∧ entriesAgree s e differ ∧
      (s.group (s.groupOf e)).open' = true ∧ (s.group (s.groupOf e)).anchored = true ∧ (s.group (s.groupOf e)).voidedNow = false ∧
      (s.group (s.groupOf e)).attempt < 16) ∧
    (∃ e : EngineId, ∃ differ : Bool, ∃ s : State, fetchesPlain s e ∧ s.inShot e = false ∧ entriesAgree s e differ ∧ s.quiesced e = false ∧
      s.crit = false ∧ (s.firmwareHold = true ∨ s.ledgerFull (s.groupGuest (s.groupOf e)) = true ∨ (s.group (s.groupOf e)).mayOpen = false)) ∧
    (∃ e : EngineId, ∃ s : State, fetchesPlain s e ∧ s.inShot e = false ∧ ¬entriesAgree s e true) :=
  ⟨⟨0, inShot0, by decide +kernel⟩,
   ⟨0, run0, by unfold fetchesPlain fetches; decide +kernel⟩,
   ⟨0, true, held0, by unfold entriesAgree fetchesPlain fetches mayOpenNow; decide +kernel⟩,
   ⟨0, true, { runs3 with groups := [(256, { Group.init with open' := true, anchored := true })] },
     by unfold entriesAgree fetchesPlain fetches mayOpenNow; decide +kernel⟩,
   ⟨0, true, { st [(.cell 0, CELL.STATUS_STATE, 1)] (ledOn) with tbl := [(0xd00000000001, 1)] },
     by unfold entriesAgree fetchesPlain fetches; decide +kernel⟩,
   ⟨0, st [(.cell 0, CELL.STATUS_STATE, 1)] (twoDevices), by unfold entriesAgree fetchesPlain fetches; decide +kernel⟩⟩

theorem witness_ShotEvents :
    (∃ g : GroupNo, ∃ idle : BitVec 64, ∃ s : State, (s.group g).open' = true ∧ s.settledHere g = true ∧ s.ledgerFull (s.groupGuest g) = false ∧
      s.leads g = true ∧ (∀ d ∈ s.otherDevices g, (s.group g).settledDevs.contains d = true ∨ idle.getLsbD d = true) ∧ membersProceed s g) ∧
    (∃ g : GroupNo, ∃ s : State, (s.group g).open' = true ∧ s.settledHere g = true ∧ s.ledgerFull (s.groupGuest g) = false ∧ s.leads g = false ∧
      (s.group g).settledDevs.contains s.fabricId = false) ∧
    (∃ g : GroupNo, ∃ s : State, (s.group g).open' = true ∧ s.settledHere g = false) ∧
    (∃ e : EngineId, ∃ s : State, s.inShot e = true ∧ (s.group (s.groupOf e)).open' = true ∧ (s.group (s.groupOf e)).anchored = true ∧
      (s.group (s.groupOf e)).voidedNow = false ∧ s.changesBefore e (s.group (s.groupOf e)).begun = false) ∧
    (∃ e : EngineId, ∃ s : State, (s.inShot e = false ∨ (s.group (s.groupOf e)).voidedNow = true ∨
      s.changesBefore e (s.group (s.groupOf e)).begun = true)) ∧
    (∃ e : EngineId, ∃ s : State, s.inShot e = true ∧ (s.group (s.groupOf e)).open' = true ∧ (s.group (s.groupOf e)).voidedNow = true ∧
      (s.eng e).voided = false ∧ s.engStopped e = false ∧ s.get (.cell e) CELL.SO_STATUS_LEVEL = 0 ∧ othersWaitNot s e) ∧
    (∃ e : EngineId, ∃ s : State, ∃ c : Checkpoint, (s.eng e).ckpt = some c ∧ (s.eng e).voided = true ∧ (s.eng e).restored = false ∧
      s.quietTones e = true ∧ c.latched = true ∧ (c.frames.map (·.1)).Nodup) ∧
    (∃ e : EngineId, ∃ s : State, ∃ c : Checkpoint, (s.eng e).ckpt = some c ∧ (s.eng e).voided = true ∧ (s.eng e).restored = false ∧
      s.quietTones e = true ∧ c.latched = false) :=
  ⟨⟨0, 608, grouped, by unfold membersProceed; decide +kernel⟩,
   ⟨0, { (grouped) with regs := (st [(.fabric, FABRIC.FSTATUS_FABRIC_ID, 2)] (grouped)).regs, tbl := (twoDevices).tbl }, by decide +kernel⟩,
   ⟨0, { rival with groups := [(0, { Group.init with open' := true, windows := 1 })] }, by decide +kernel⟩,
   ⟨0, { st [(.cell 0, CELL.STATUS_IN_SHOT, 1)] held0 with groups := [(256, { Group.init with open' := true, anchored := true })] }, by decide +kernel⟩,
   ⟨0, parked, by decide +kernel⟩,
   ⟨0, void5, by decide +kernel, by decide +kernel, by decide +kernel, by decide +kernel, by decide +kernel, by decide +kernel,
     othersWaitNot_of (by decide +kernel)⟩,
   ⟨0, restoring5, ckpt0, by decide +kernel⟩,
   ⟨0,
     { (dspSlot false) with engs := [(0, { Engine.init with ckpt := some { g := [], t := [448], l := [], cw := 6, ret := { pc := 14, page := some 3 }, stack := [], prep := none, ts := 13, frames := [], latched := false }, voided := true })] },
     { g := [], t := [448], l := [], cw := 6, ret := { pc := 14, page := some 3 }, stack := [], prep := none, ts := 13, frames := [], latched := false },
     by decide +kernel⟩⟩

theorem witness_Replay :
    (∃ g : GroupNo, ∃ idle : BitVec 64, ∃ far : Fin 64, ∃ s : State, (s.group g).open' = true ∧ (s.group g).voidedNow = true ∧
      (s.group g).anchored = true ∧ s.leads g = true ∧ s.readyHere g = true ∧ (∀ d ∈ s.otherDevices g, (s.group g).readyDevs.contains d = true ∨
      idle.getLsbD d = true) ∧ -(2 ^ 62) ≤ Stamp.ahead (earliestStart s g far) (s.group g).anchor) ∧
    (∃ g : GroupNo, ∃ s : State, (s.leads g = false ∨ s.readyHere g = false ∨ (s.group g).voidedNow = false)) ∧
    (∃ g : GroupNo, ∃ s : State, (s.group g).open' = true ∧ (s.group g).voidedNow = true ∧ (s.group g).startSet = true ∧ s.readyHere g = true ∧
      (s.group g).attempt < 15 ∧ (s.group g).early = [] ∧ (∀ e ∈ s.members g, s.inShot e = true → (s.eng e).voided = true → resumable s e)) ∧
    (∃ g : GroupNo, ∃ s : State, ((s.group g).startSet = false ∨ s.readyHere g = false)) :=
  ⟨⟨0, 1, 1, { (warm 1) with groups := [(0, { Group.init with open' := true, voidedNow := true, anchored := true })] }, by decide +kernel⟩,
   ⟨0, (lcIs 1), by decide +kernel⟩,
   ⟨256, shotVoid, by decide +kernel, by decide +kernel, by decide +kernel, by decide +kernel, by decide +kernel, by decide +kernel,
     resumables (k := 0) (by decide +kernel) (by decide +kernel)⟩,
   ⟨0, void5, by decide +kernel⟩⟩

theorem witness_Curfews :
    (∃ e : EngineId, ∃ s : State, fetchesPlain s e) ∧
    (∃ e : EngineId, ∃ scope : CurfewScope, ∃ tag : BitVec 16, ∃ s : State, allArrived s e scope tag ∧ s.time.frozen = false ∧ s.tend.pending = []) ∧
    (∃ e : EngineId, ∃ s : State, (∀ scope tag, (s.eng e).wait ≠ .curfew scope tag)) :=
  ⟨⟨0, runs3, by unfold fetchesPlain fetches; decide +kernel⟩,
   ⟨0, .chip, 4, { (warm 1) with engs := [(0, { Engine.init with wait := .curfew .chip 4 })] }, by unfold allArrived; decide +kernel⟩,
   ⟨3, ledOn, uncurfewed (by decide +kernel)⟩⟩

theorem witness_Branches :
    (∃ e : EngineId, ∃ mismatch : Bool, ∃ s : State, mayArm s e mismatch) ∧
    (∃ e : EngineId, ∃ s : State, ∃ x : Branch, (s.eng e).branch = some x ∧ awaits s x ∧ slotCounts s e x.src = true ∧ (slotNamed s x.src).seen = true ∧
      (slotNamed s x.src).w = x.ref ∧ (slotNamed s x.src).valid = true ∧ (slotNamed s x.src).voids = false) ∧
    (∃ e : EngineId, ∃ s : State, ∃ x : Branch, (s.eng e).branch = some x ∧ awaits s x ∧ slotCounts s e x.src = true ∧ (slotNamed s x.src).seen = true ∧
      (slotNamed s x.src).w ≠ x.ref ∧ Stamp.atOrAfter (slotNamed s x.src).w x.ref = true) ∧
    (∃ e : EngineId, ∃ u : TriggerId, ∃ s : State, ∃ x : Branch, (s.eng e).branch = some x ∧ awaits s x ∧ x.src = .trigger u ∧ x.mask < 16 ∧
      (s.trig (triggerNo u)).firings.any (fun f => Stamp.atOrAfter f (x.ref - BitVec.ofNat 64 (32 * 2 ^ x.mask)) && Stamp.future x.ref f) = true) ∧
    (∃ e : EngineId, ∃ u : TriggerId, ∃ s : State, ∃ x : Branch, (s.eng e).branch = some x ∧ awaits s x ∧ x.src = .trigger u ∧
      (s.trig (triggerNo u)).firings = [] ∧ Stamp.atOrAfter (s.trig (triggerNo u)).progress x.ref = true) ∧
    (∃ e : EngineId, ∃ s : State, (s.eng e).branch = none) ∧
    (∃ e : EngineId, ∃ mismatch : Bool, ∃ s : State, ∃ x : Branch, ∃ v : ℕ, (s.eng e).branch = some x ∧ x.result = some v ∧ (∀ d tag,
      x.src ≠ .message d tag) ∧ x.missed = false ∧ resolvesAt s e x mismatch ∧ (pathOf x (takenBy x v)).built = false) ∧
    (∃ e : EngineId, ∃ mismatch : Bool, ∃ s : State, ∃ x : Branch, ∃ m : InMsg, ∃ rest : List InMsg, (s.eng e).branch = some x ∧
      (s.eng e).inbox = m :: rest ∧ x.src = .message m.dev m.tag ∧ Stamp.atOrAfter (x.play - 640) m.arrival = true ∧ x.missed = false ∧
      resolvesAt s e x mismatch ∧ (pathOf x (Nat.testBit x.mask (m.payload.toNat % 4))).built = false) ∧
    (∃ e : EngineId, ∃ mismatch : Bool, ∃ s : State, ∃ x : Branch, ∃ v : ℕ, ∃ p : Staged, ∃ y : Entry, (s.eng e).branch = some x ∧ x.result = some v ∧
      p = pathOf x (takenBy x v) ∧ p.entries = [y] ∧ (∀ d tag, x.src ≠ .message d tag) ∧ x.missed = false ∧ resolvesAt s e x mismatch ∧
      p.built = true ∧ p.fault = none ∧ p.ecc = false ∧ y.kind ≠ .streamStart ∧ takes (s.passed (x.play - 640)) e y.stamp) ∧
    (∃ e : EngineId, ∃ mismatch : Bool, ∃ s : State, ∃ x : Branch, (s.eng e).branch = some x ∧ x.missed = true ∧ s.inShot e = false ∧
      resolvesAt s e x mismatch ∧ (pathOf x x.dflt).built = false) ∧
    (∃ e : EngineId, ∃ mismatch : Bool, ∃ s : State, ∃ x : Branch, (s.eng e).branch = some x ∧ (x.missed = true ∨ (x.result = none ∧ ∀ d tag,
      x.src ≠ .message d tag)) ∧ s.inShot e = true ∧ resolvesAt s e x mismatch ∧ voidable s (s.groupOf e) ∧ s.otherDevices (s.groupOf e) = []) :=
  ⟨⟨0, false, held0, by unfold mayArm agrees fetchesPlain fetches; decide +kernel⟩,
   ⟨0, waiting5, branch5, by unfold awaits; decide +kernel⟩,
   ⟨0, waitingLate, branch5, by unfold awaits; decide +kernel⟩,
   ⟨0, (.tone 0),
     { trigFunc with time := { trigFunc.time with coarse := 0xfffffffffffffee0 }, engs := [(0, { Engine.init with branch := some { src := .trigger (.tone 0), ts := 2, ref := 160, dflt := true, keep := true, mask := 2, play := 352, result := none, missed := false, taken := { built := true, entries := [], tWrite := some (22, 2), fault := some 31, ecc := true }, fallen := { built := true, entries := [{ stamp := 2, kind := .toneStart, cls := .probe, index := 2, operand := 2, ctx := 3, slot := some 100, watch := false, silent := true }], tWrite := some (55, 416), fault := none, ecc := true }, target := 0, next := 31 } })] },
     { src := .trigger (.tone 0), ts := 2, ref := 160, dflt := true, keep := true, mask := 2, play := 352, result := none, missed := false, taken := { built := true, entries := [], tWrite := some (22, 2), fault := some 31, ecc := true }, fallen := { built := true, entries := [{ stamp := 2, kind := .toneStart, cls := .probe, index := 2, operand := 2, ctx := 3, slot := some 100, watch := false, silent := true }], tWrite := some (55, 416), fault := none, ecc := true }, target := 0, next := 31 },
     by unfold awaits; decide +kernel⟩,
   ⟨0, (.ext 0),
     { (aligning true) with engs := [(0, { Engine.init with branch := some { src := .trigger (.ext 0), ts := 3, ref := 0, dflt := false, keep := false, mask := 23, play := 640, result := none, missed := false, taken := { built := true, entries := [], tWrite := none, fault := some 255, ecc := false }, fallen := { built := false, entries := [], tWrite := some (4095, 511), fault := none, ecc := true }, target := 1, next := 3 } })] },
     { src := .trigger (.ext 0), ts := 3, ref := 0, dflt := false, keep := false, mask := 23, play := 640, result := none, missed := false, taken := { built := true, entries := [], tWrite := none, fault := some 255, ecc := false }, fallen := { built := false, entries := [], tWrite := some (4095, 511), fault := none, ecc := true }, target := 1, next := 3 },
     by unfold awaits; decide +kernel⟩,
   ⟨0, (rxAt 3), by decide +kernel⟩,
   ⟨0, true, waitingHas, branchHas, 1, by decide +kernel, by decide +kernel, unmessaged (by decide +kernel), by decide +kernel,
     by unfold resolvesAt agrees; decide +kernel, by decide +kernel⟩,
   ⟨0, true,
     { st [(.cell 0, CELL.STATUS_STATE, 1)] (rcvDone 1) with engs := [(0, { Engine.init with inbox := [{ tag := 8, dev := 7, payload := 1, arrival := 288, attempt := some (3, 4095, 0) }], wait := .branch, branch := some { src := .message 7 8, ts := 2, ref := 544, dflt := false, keep := true, mask := 255, play := 928, result := some 1, missed := false, taken := { built := false, entries := [], tWrite := some (517, 2), fault := none, ecc := false }, fallen := { built := false, entries := [{ stamp := 160, kind := .windowOpen, cls := .probe, index := 3, operand := 1, ctx := 2, slot := none, watch := false, silent := true }], tWrite := some (1, 1), fault := some 2, ecc := true }, target := 4141, next := 67 } })] },
     { src := .message 7 8, ts := 2, ref := 544, dflt := false, keep := true, mask := 255, play := 928, result := some 1, missed := false, taken := { built := false, entries := [], tWrite := some (517, 2), fault := none, ecc := false }, fallen := { built := false, entries := [{ stamp := 160, kind := .windowOpen, cls := .probe, index := 3, operand := 1, ctx := 2, slot := none, watch := false, silent := true }], tWrite := some (1, 1), fault := some 2, ecc := true }, target := 4141, next := 67 },
     { tag := 8, dev := 7, payload := 1, arrival := 288, attempt := some (3, 4095, 0) }, [], by unfold resolvesAt agrees; decide +kernel⟩,
   ⟨913, false,
     { st [(.cell 913, CELL.STATUS_STATE, 10)] guest3 with engs := [(913, { Engine.init with wait := .branch, branch := some { src := .func none 2 1, ts := 0, ref := 3, dflt := true, keep := true, mask := 15, play := 3, result := some 1, missed := false, taken := { built := true, entries := [{ stamp := 608, kind := .toneStart, cls := .marker, index := 33, operand := 2, ctx := 1, slot := some 511, watch := true, silent := false }], tWrite := none, fault := none, ecc := false }, fallen := { built := false, entries := [], tWrite := none, fault := none, ecc := true }, target := 5, next := 1 } })] },
     { src := .func none 2 1, ts := 0, ref := 3, dflt := true, keep := true, mask := 15, play := 3, result := some 1, missed := false, taken := { built := true, entries := [{ stamp := 608, kind := .toneStart, cls := .marker, index := 33, operand := 2, ctx := 1, slot := some 511, watch := true, silent := false }], tWrite := none, fault := none, ecc := false }, fallen := { built := false, entries := [], tWrite := none, fault := none, ecc := true }, target := 5, next := 1 },
     1,
     { built := true, entries := [{ stamp := 608, kind := .toneStart, cls := .marker, index := 33, operand := 2, ctx := 1, slot := some 511, watch := true, silent := false }], tWrite := none, fault := none, ecc := false },
     { stamp := 608, kind := .toneStart, cls := .marker, index := 33, operand := 2, ctx := 1, slot := some 511, watch := true, silent := false },
     by decide +kernel, by decide +kernel, by decide +kernel, by decide +kernel, unmessaged (by decide +kernel), by decide +kernel,
     by unfold resolvesAt agrees; decide +kernel, by decide +kernel, by decide +kernel, by decide +kernel, by decide +kernel,
     by unfold takes; decide +kernel⟩,
   ⟨0, true, waitingMissed, branchMissed, by unfold resolvesAt agrees; decide +kernel⟩,
   ⟨0, false,
     { st [(.cell 0, CELL.STATUS_STATE, 1), (.cell 0, CELL.STATUS_IN_SHOT, 1)] ucFar with engs := [(0, { Engine.init with wait := .branch, branch := some { src := .func none 4095 1, ts := 3, ref := 2, dflt := true, keep := false, mask := 0, play := 7, result := none, missed := true, taken := { built := false, entries := [], tWrite := none, fault := some 15, ecc := false }, fallen := { built := false, entries := [], tWrite := none, fault := some 0, ecc := true }, target := 128, next := 1 } })], groups := [(256, { Group.init with open' := true })] },
     { src := .func none 4095 1, ts := 3, ref := 2, dflt := true, keep := false, mask := 0, play := 7, result := none, missed := true, taken := { built := false, entries := [], tWrite := none, fault := some 15, ecc := false }, fallen := { built := false, entries := [], tWrite := none, fault := some 0, ecc := true }, target := 128, next := 1 },
     by decide +kernel, .inl (by decide +kernel), by decide +kernel, by unfold resolvesAt agrees; decide +kernel, by unfold voidable; decide +kernel,
     by decide +kernel⟩⟩

theorem witness_PlainMicrowords :
    (∃ e : EngineId, ∃ m : MicroArgs, ∃ s : State, readsWord s e m ∧ m.a = 0 ∧ m.b = 0) ∧
    (∃ e : EngineId, ∃ m : MicroArgs, ∃ s : State, readsWord s e m ∧ (m.a ≠ 0 ∨ m.b ≠ 0)) ∧
    (∃ e : EngineId, ∃ m : MicroArgs, ∃ s : State, readsWord s e m ∧ m.a.toNat < 4) ∧
    (∃ e : EngineId, ∃ m : MicroArgs, ∃ s : State, ∃ v : Word, s.source e m.a.toNat = some v ∧ readsWord s e m ∧ m.a.toNat < 20 ∧ m.b.toNat < 4) ∧
    (∃ e : EngineId, ∃ m : MicroArgs, ∃ s : State, ∃ r : ReturnPoint, ∃ rest : List ReturnPoint, (s.eng e).stack = r :: rest ∧ readsWord s e m ∧
      m.a = 20 ∧ m.b.toNat < 4) ∧
    (∃ e : EngineId, ∃ m : MicroArgs, ∃ s : State, (s.eng e).stack = [] ∧ readsWord s e m ∧ m.a = 20 ∧ m.b.toNat < 4) ∧
    (∃ e : EngineId, ∃ m : MicroArgs, ∃ s : State, ∃ v : Word, ∃ f : AluFn, s.source e m.a.toNat = some v ∧ AluFn.ofCode (m.b.toNat % 16) = some f ∧
      readsWord s e m ∧ m.a.toNat < 20 ∧ m.b.toNat < 64) ∧
    (∃ e : EngineId, ∃ m : MicroArgs, ∃ s : State, readsWord s e m ∧ m.a = 0) ∧
    (∃ e : EngineId, ∃ m : MicroArgs, ∃ s : State, ∃ c : Bool, s.condition e m.a.toNat = some c ∧ readsWord s e m ∧ m.b.toNat < 2) ∧
    (∃ e : EngineId, ∃ m : MicroArgs, ∃ s : State, ∃ c : Bool, s.condition e m.a.toNat = some c ∧ readsWord s e m ∧ m.b.toNat < 2 ∧
      (s.eng e).micro.holdoff = 0 ∧ s.get (blockPage (blockOf e)) BLOCK.PACE_STATUS_MODE = 0) ∧
    (∃ e : EngineId, ∃ m : MicroArgs, ∃ s : State, readsWord s e m ∧ ((s.eng e).micro.holdoff ≠ 0 ∨
      s.get (blockPage (blockOf e)) BLOCK.PACE_STATUS_MODE = 1)) ∧
    (∃ e : EngineId, ∃ m : MicroArgs, ∃ s : State, readsWord s e m ∧ m.a = 0 ∧ 1 ≤ m.b.toNat ∧ m.b.toNat ≤ 16 ∧ (s.eng e).micro.holdoff = 0) ∧
    (∃ e : EngineId, ∃ m : MicroArgs, ∃ ue : Bool, ∃ mismatch : Bool, ∃ differ : Bool, ∃ j : Option (Fin 8), ∃ seq : List WatchStep, ∃ lead : Stamp,
      ∃ s : State, ∃ c : Instr, c ∈ wordCommands e m ue mismatch differ j seq lead ∧ s.runsWords e = true ∧ (s.eng e).micro.csHeld = false ∧
      m.read = .bad) ∧
    (∃ e : EngineId, ∃ m : MicroArgs, ∃ ue : Bool, ∃ mismatch : Bool, ∃ differ : Bool, ∃ j : Option (Fin 8), ∃ seq : List WatchStep, ∃ lead : Stamp,
      ∃ s : State, ∃ c : Instr, c ∈ wordCommands e m ue mismatch differ j seq lead ∧ (s.runsWords e = false ∨ (s.eng e).micro.csHeld = true)) ∧
    (∃ e : EngineId, ∃ m : MicroArgs, ∃ ue : Bool, ∃ mismatch : Bool, ∃ differ : Bool, ∃ j : Option (Fin 8), ∃ seq : List WatchStep, ∃ lead : Stamp,
      ∃ s : State, ∃ c : Instr, c ∈ wordCommands e m ue mismatch differ j seq lead ∧ s.runsWords e = true ∧ (s.eng e).micro.csHeld = false ∧
      m.read ≠ .bad ∧ s.csReserved e = true) :=
  ⟨⟨0, { a := 0, b := 0, next := 5886, read := .clean }, unrouted, by unfold readsWord; decide +kernel⟩,
   ⟨0, { a := 2, b := 254, next := 608, read := .clean }, void5, by unfold readsWord; decide +kernel⟩,
   ⟨0, { a := 3, b := 1, next := 2, read := .clean }, run0, by unfold readsWord; decide +kernel⟩,
   ⟨0, { a := 0, b := 3, next := 1, read := .clean }, void5, 0, by unfold readsWord; decide +kernel⟩,
   ⟨0, { a := 20, b := 2, next := 0, read := .clean }, runDeep, { pc := 1, page := none }, [{ pc := 2, page := some 3 }, { pc := 3, page := none },
     { pc := 4, page := none }, { pc := 5, page := none }, { pc := 6, page := none }, { pc := 4095, page := none }],
     by unfold readsWord; decide +kernel⟩,
   ⟨0, { a := 20, b := 3, next := 5, read := .clean }, (warm 7), by unfold readsWord; decide +kernel⟩,
   ⟨0, { a := 3, b := 49, next := 8191, read := .clean }, void5, 0, .sub, by unfold readsWord; decide +kernel⟩,
   ⟨0, { a := 0, b := 160, next := 5047, read := .clean }, trap1, by unfold readsWord; decide +kernel⟩,
   ⟨0, { a := 0, b := 0, next := 416, read := .clean }, run0, true, by unfold readsWord; decide +kernel⟩,
   ⟨0, { a := 1, b := 0, next := 544, read := .clean }, libHeld, false, by unfold readsWord; decide +kernel⟩,
   ⟨0, { a := 3, b := 230, next := 6216, read := .clean }, (st [(.block 0, BLOCK.PACE_STATUS_MODE, 1), (.cell 0, CELL.STATUS_STATE, 1)] (dspRun)),
     by unfold readsWord; decide +kernel⟩,
   ⟨0, { a := 0, b := 1, next := 384, read := .clean }, trap1, by unfold readsWord; decide +kernel⟩,
   ⟨0, ⟨0, 0, 9, .bad⟩, false, false, false, none, [], 0, run0, .nopw 0 ⟨0, 0, 9, .bad⟩, List.mem_cons_self, by decide +kernel⟩,
   ⟨0, ⟨0, 0, 9, .bad⟩, false, false, false, none, [], 0, en (fun r => { r with micro := { r.micro with csHeld := true } }) run0, .nopw 0 ⟨0, 0, 9,
     .bad⟩, List.mem_cons_self, by decide +kernel⟩,
   ⟨0, ⟨0, 0, 9, .clean⟩, false, false, false, none, [], 0, { run0 with mem := [(csAddr 0 0 + 3, 0xFF)] }, .nopw 0 ⟨0, 0, 9, .clean⟩,
     List.mem_cons_self, by decide +kernel⟩⟩

theorem witness_SequencingMicrowords :
    (∃ e : EngineId, ∃ m : MicroArgs, ∃ s : State, writesTo s e m 6) ∧
    (∃ e : EngineId, ∃ m : MicroArgs, ∃ s : State, writesTo s e m 7) ∧
    (∃ e : EngineId, ∃ m : MicroArgs, ∃ s : State, writesTo s e m 8) ∧
    (∃ e : EngineId, ∃ m : MicroArgs, ∃ s : State, writesTo s e m 9) ∧
    (∃ e : EngineId, ∃ m : MicroArgs, ∃ s : State, writesTo s e m 10) ∧
    (∃ e : EngineId, ∃ m : MicroArgs, ∃ s : State, writesTo s e m 11) ∧
    (∃ e : EngineId, ∃ m : MicroArgs, ∃ s : State, ∃ p : ℕ, (p = (if irBits s e 63 56 = 0x21 ∧
      irBits s e 55 55 = 1 then irBits s e 17 12 else (s.eng e).page)) ∧ writesTo s e m 12) ∧
    (∃ e : EngineId, ∃ m : MicroArgs, ∃ s : State, writesTo s e m 15 ∧ (s.eng e).stack.length < 8) ∧
    (∃ e : EngineId, ∃ m : MicroArgs, ∃ s : State, writesTo s e m 15 ∧ 8 ≤ (s.eng e).stack.length) ∧
    (∃ e : EngineId, ∃ m : MicroArgs, ∃ n : ℕ, ∃ s : State, ∃ x : SaveSlot, (s.eng e).micro.slots[n - 1]? = some x ∧ returnsFrom s e m n x ∧
      s.get (blockPage (blockOf e)) BLOCK.UC_INFO_STD = 0) ∧
    (∃ e : EngineId, ∃ m : MicroArgs, ∃ n : ℕ, ∃ s : State, ∃ x : SaveSlot, (s.eng e).micro.slots[n - 1]? = some x ∧ returnsFrom s e m n x ∧
      s.get (blockPage (blockOf e)) BLOCK.UC_INFO_STD = 1 ∧ s.poisoned (localAddr e 8127) = false ∧ 1 ≤ x.src) ∧
    (∃ e : EngineId, ∃ m : MicroArgs, ∃ s : State, dispatches s e m ∧ s.page e = none ∧ s.poisoned (spadAddr e (8 * dispPC s e m)) = false ∧
      opListed ((s.instrAt e none (dispPC s e m)).toNat / 2 ^ 56) = true) ∧
    (∃ e : EngineId, ∃ m : MicroArgs, ∃ s : State, ∃ p : ℕ, s.page e = some p ∧ dispatches s e m ∧
      s.bankBad (blockOf e) (4096 * p + dispPC s e m) false = false ∧ opListed ((s.instrAt e (some p) (dispPC s e m)).toNat / 2 ^ 56) = true) ∧
    (∃ e : EngineId, ∃ m : MicroArgs, ∃ s : State, dispatches s e m ∧ s.page e = none ∧ s.poisoned (spadAddr e (8 * dispPC s e m)) = false ∧
      opListed ((s.instrAt e none (dispPC s e m)).toNat / 2 ^ 56) = false) ∧
    (∃ e : EngineId, ∃ m : MicroArgs, ∃ s : State, dispatches s e m ∧ s.page e = none) ∧
    (∃ e : EngineId, ∃ m : MicroArgs, ∃ s : State, readsWord s e m ∧ m.a = 0 ∧ m.b = 0 ∧ (s.eng e).micro.inFaultTrap = false ∧ s.inShot e = false ∧
      s.get (.cell e) CELL.STATUS_START_PENDING = 0 ∧ (∀ u ∈ s.tend.pending, u.engine ≠ e.val)) ∧
    (∃ e : EngineId, ∃ m : MicroArgs, ∃ s : State, readsWord s e m ∧ m.a = 0 ∧ m.b = 0 ∧ (s.eng e).micro.inFaultTrap = false ∧ s.inShot e = true ∧
      s.get (.cell e) CELL.SO_STATUS_LEVEL = 0) ∧
    (∃ e : EngineId, ∃ m : MicroArgs, ∃ s : State, readsWord s e m ∧ m.a = 0 ∧ 0 < m.b.toNat ∧ m.b.toNat < 32 ∧ (s.eng e).micro.inFaultTrap = false ∧
      s.inShot e = false ∧ s.entryOf e = none ∧ (s.group (256 + e.val)).open' = false ∧ s.get (.cell e) CELL.SO_CTRL_FLT_EN = 0 ∧
      s.stopsOn (.cell e) m.b.toNat = false) ∧
    (∃ e : EngineId, ∃ m : MicroArgs, ∃ s : State, readsWord s e m ∧ m.a = 0 ∧ m.b = 0 ∧ (s.eng e).micro.inFaultTrap = false ∧ s.inShot e = false ∧
      (s.group (s.groupOf e)).voidedNow = false ∧ s.get (.cell e) CELL.SO_CTRL_FLT_EN = 0 ∧ s.stopsOn (.cell e) 0 = false ∧
      (s.blk (blockOf e)).spareUsed = false ∧ (s.blk (blockOf e)).takeover = none) ∧
    (∃ e : EngineId, ∃ m : MicroArgs, ∃ s : State, readsWord s e m ∧ ((∃ sc tag, (s.eng e).wait = .curfew sc tag) ∨ (∃ a b,
      (s.eng e).wait = .grant a b)) ∧ m.a = 0 ∧ m.b = 0) ∧
    (∃ e : EngineId, ∃ m : MicroArgs, ∃ s : State, readsWord s e m ∧ (∀ sc tag, (s.eng e).wait ≠ .curfew sc tag) ∧ (∀ a b, (s.eng e).wait ≠ .grant a b) ∧
      m.a = 0 ∧ m.b = 0) :=
  ⟨⟨0, { a := 6, b := 0, next := 2, read := .clean }, (warm 7), by unfold writesTo readsWord; decide +kernel⟩,
   ⟨0, { a := 7, b := 3, next := 4095, read := .clean }, runs3, by unfold writesTo readsWord; decide +kernel⟩,
   ⟨0, { a := 8, b := 3, next := 5636, read := .clean }, held0, by unfold writesTo readsWord; decide +kernel⟩,
   ⟨0, { a := 9, b := 3, next := 392, read := .clean }, ready0, by unfold writesTo readsWord; decide +kernel⟩,
   ⟨0, { a := 10, b := 0, next := 0, read := .clean }, run0, by unfold writesTo readsWord; decide +kernel⟩,
   ⟨0, { a := 11, b := 0, next := 5421, read := .clean }, runs3, by unfold writesTo readsWord; decide +kernel⟩,
   ⟨0, { a := 12, b := 0, next := 1780, read := .clean }, held0, 0, by unfold writesTo readsWord; decide +kernel⟩,
   ⟨0, { a := 15, b := 0, next := 2, read := .clean }, libHeld, by unfold writesTo readsWord; decide +kernel⟩,
   ⟨2, { a := 15, b := 0, next := 0, read := .corrected },
     { st [(.cell 2, CELL.STATUS_STATE, 10)] (dspAt 2) with engs := [(2, { Engine.init with stack := List.replicate 8 { pc := 0, page := none } })] },
     by unfold writesTo readsWord; decide +kernel⟩,
   ⟨0, { a := 0, b := 0, next := 0, read := .clean }, 1, trap1, SaveSlot.init, by unfold returnsFrom readsWord; decide +kernel⟩,
   ⟨0, ⟨0, 0, 0, .clean⟩, 1, st [(.block 0, BLOCK.UC_INFO_STD,
     1)] (en (fun r => { r with micro := { r.micro with slots := [{ SaveSlot.init with src := 1 }] } }) trap1), { SaveSlot.init with src := 1 },
     by unfold returnsFrom readsWord; decide +kernel⟩,
   ⟨0, { a := 0, b := 1, next := 0, read := .clean }, trap1, by unfold dispatches readsWord; decide +kernel⟩,
   ⟨0, { a := 0, b := 1, next := 0, read := .clean }, libHeld, 2, by unfold dispatches readsWord; decide +kernel⟩,
   ⟨0, ⟨0, 0, 0, .clean⟩, { run0 with mem := [(spadAddr 0 7, 0xFF)] }, by unfold dispatches readsWord; decide +kernel⟩,
   ⟨0, { a := 0, b := 0, next := 0, read := .clean }, run0, by unfold dispatches readsWord; decide +kernel⟩,
   ⟨0, { a := 0, b := 0, next := 5749, read := .clean }, micro0, by unfold readsWord; decide +kernel⟩,
   ⟨0, { a := 0, b := 0, next := 2, read := .clean }, void5, by unfold readsWord; decide +kernel⟩,
   ⟨0, { a := 0, b := 1, next := 3, read := .clean }, (warm 1), by unfold readsWord; decide +kernel⟩,
   ⟨0, { a := 0, b := 0, next := 2, read := .clean }, held0, by unfold readsWord; decide +kernel⟩,
   ⟨0, ⟨0, 0, 9, .clean⟩, st [(.cell 0, CELL.STATUS_STATE, 1)] parked, ⟨by decide +kernel, by decide +kernel, by decide +kernel, by decide +kernel⟩,
     .inl ⟨.block, 3, by decide +kernel⟩, by decide +kernel⟩,
   ⟨0, { a := 0, b := 0, next := 8191, read := .clean }, runs3, by unfold readsWord; decide +kernel, uncurfewed (by decide +kernel),
     ungranted (by decide +kernel), by decide +kernel, by decide +kernel⟩⟩

theorem witness_EntryMicrowords :
    (∃ e : EngineId, ∃ m : MicroArgs, ∃ s : State, readsWord s e m ∧ m.a = 0 ∧ m.b = 0 ∧ buildersOk s e ∧ s.ctxLeased e (irIndex s e) = true ∧
      s.ctxBad e (irIndex s e) none = false) ∧
    (∃ e : EngineId, ∃ m : MicroArgs, ∃ s : State, readsWord s e m ∧ m.a = 0 ∧ m.b = 0 ∧ buildersOk s e ∧ s.ctxLeased e (irIndex s e) = true ∧
      s.ctxBad e (irIndex s e) none = true ∧ s.stopsOn (porterPage (regionOf e)) 1 = false) ∧
    (∃ e : EngineId, ∃ m : MicroArgs, ∃ s : State, readsWord s e m ∧ m.a = 0 ∧ m.b = 0 ∧ s.ctxLeased e (irIndex s e) = false) ∧
    (∃ e : EngineId, ∃ m : MicroArgs, ∃ op : TimedOp, ∃ s : State, ((m.b = 0 ∧ op = TimedOp.play) ∨ (m.b = 1 ∧ op = .stream) ∨ (m.b = 2 ∧
      op = .acquire)) ∧ readsWord s e m ∧ m.a = 0) ∧
    (∃ e : EngineId, ∃ m : MicroArgs, ∃ s : State, readsWord s e m ∧ m.a = 0 ∧ m.b = 3) ∧
    (∃ e : EngineId, ∃ m : MicroArgs, ∃ s : State, readsWord s e m ∧ m.a = 0 ∧ m.b = 4) ∧
    (∃ e : EngineId, ∃ m : MicroArgs, ∃ s : State, readsWord s e m ∧ m.a = 0 ∧ m.b.toNat < 4 ∧ buildersOk s e) ∧
    (∃ e : EngineId, ∃ m : MicroArgs, ∃ s : State, writesTo s e m 13 ∧ buildersOk s e) ∧
    (∃ e : EngineId, ∃ m : MicroArgs, ∃ s : State, writesTo s e m 14 ∧ buildersOk s e) ∧
    (∃ e : EngineId, ∃ m : MicroArgs, ∃ s : State, ∃ k : EntryKind, EntryKind.ofCode (m.b.toNat % 16) = some k ∧ builds s e m false ∧ k ≠ .windowOpen) ∧
    (∃ e : EngineId, ∃ m : MicroArgs, ∃ s : State, m.b = 1 ∧ builds s e m false) ∧
    (∃ e : EngineId, ∃ m : MicroArgs, ∃ s : State, ∃ k : EntryKind, EntryKind.ofCode (m.b.toNat % 16) = some k ∧ builds s e m true ∧ k ≠ .mark) ∧
    (∃ e : EngineId, ∃ m : MicroArgs, ∃ s : State, m.b = 21 ∧ builds s e m true) ∧
    (∃ e : EngineId, ∃ m : MicroArgs, ∃ mismatch : Bool, ∃ s : State, ∃ x : Entry, x = (s.builder e).entry ∧ enqueues s e m mismatch ∧
      x.kind ≠ .streamStart ∧ ((s.builder e).cbBad = false ∨ s.inShot e = false ∨ x.kind.usesCtx = false) ∧ takes s e x.stamp) ∧
    (∃ e : EngineId, ∃ m : MicroArgs, ∃ mismatch : Bool, ∃ s : State, ∃ x : Entry, ∃ k : ℕ, x = (s.builder e).entry ∧
      s.freeStreamSlot (blockOf e) = some k ∧ enqueues s e m mismatch ∧ x.kind = .streamStart ∧ ((s.builder e).cbBad = false ∨ s.inShot e = false) ∧
      takes s e x.stamp) ∧
    (∃ e : EngineId, ∃ m : MicroArgs, ∃ mismatch : Bool, ∃ s : State, enqueues s e m mismatch ∧ 64 ≤ (s.eng e).timetable.length) ∧
    (∃ e : EngineId, ∃ m : MicroArgs, ∃ mismatch : Bool, ∃ s : State, enqueues s e m mismatch ∧ (s.eng e).timetable.length < 64 ∧ s.inShot e = true ∧
      (s.builder e).entry.kind.usesCtx = true ∧ (s.builder e).cbBad = true ∧ voidable s (s.groupOf e) ∧ s.otherDevices (s.groupOf e) = []) ∧
    (∃ e : EngineId, ∃ m : MicroArgs, ∃ s : State, readsWord s e m ∧ m.a = 0 ∧ m.b.toNat < 2 ∧ irBits s e 51 51 = 1) ∧
    (∃ e : EngineId, ∃ m : MicroArgs, ∃ s : State, readsWord s e m ∧ m.a = 0 ∧ m.b.toNat < 2 ∧ irBits s e 51 51 = 0) :=
  ⟨⟨0, { a := 0, b := 0, next := 3, read := .clean }, (warm 1), by unfold buildersOk readsWord; decide +kernel⟩,
   ⟨0, ⟨0, 0, 9, .clean⟩, { micro0 with tbl := [(tblKey .poison (ctxAddr 0 (irIndex micro0 0) / 8), 1)] },
     by unfold buildersOk readsWord; decide +kernel⟩,
   ⟨0, { a := 0, b := 0, next := 1407, read := .clean }, (st [(.cell 0, CELL.STATUS_STATE, 1)] (leased0)), by unfold readsWord; decide +kernel⟩,
   ⟨0, { a := 0, b := 1, next := 96, read := .clean }, .stream, held0, by unfold readsWord; decide +kernel⟩,
   ⟨0, { a := 0, b := 3, next := 0, read := .clean }, run0, by unfold readsWord; decide +kernel⟩,
   ⟨0, { a := 0, b := 4, next := 1, read := .clean }, run0, by unfold readsWord; decide +kernel⟩,
   ⟨0, { a := 0, b := 0, next := 8191, read := .clean }, runs3, by unfold buildersOk readsWord; decide +kernel⟩,
   ⟨0, { a := 13, b := 0, next := 1, read := .clean }, void5, by unfold buildersOk writesTo readsWord; decide +kernel⟩,
   ⟨0, { a := 14, b := 3, next := 2, read := .clean }, ready0, by unfold buildersOk writesTo readsWord; decide +kernel⟩,
   ⟨0, { a := 0, b := 0, next := 6884, read := .clean }, (warm 3), .toneStart, by unfold builds buildersOk readsWord; decide +kernel⟩,
   ⟨0, { a := 0, b := 1, next := 3641, read := .clean }, runCtx, by unfold builds buildersOk readsWord; decide +kernel⟩,
   ⟨0, { a := 0, b := 16, next := 5000, read := .clean }, void5, .toneStart, by unfold builds buildersOk readsWord; decide +kernel⟩,
   ⟨0, { a := 0, b := 21, next := 2, read := .clean }, micro0, by unfold builds buildersOk readsWord; decide +kernel⟩,
   ⟨0, { a := 0, b := 0, next := 7, read := .clean }, true, micro0,
     { stamp := 256, kind := .mark, cls := .marker, index := 5, operand := 1, ctx := 0, slot := none, watch := false, silent := false },
     by unfold enqueues agrees buildersOk readsWord takes; decide +kernel⟩,
   ⟨0, ⟨0, 0, 9, .clean⟩, false, microStream, (microStream.builder 0).entry, 0, by unfold enqueues agrees buildersOk readsWord takes; decide +kernel⟩,
   ⟨0, { a := 0, b := 0, next := 0, read := .clean }, true, microFull, by unfold enqueues agrees buildersOk readsWord; decide +kernel⟩,
   ⟨0, { a := 0, b := 0, next := 7246, read := .clean }, false,
     { st [(.cell 0, CELL.STATUS_IN_SHOT, 1)] (tend0) with engs := [(0, { Engine.init with micro := { Micro.init with builders := [{ Builder.init with cbBad := true }, Builder.init, Builder.init] } })], groups := [(256, { Group.init with open' := true })] },
     by unfold enqueues agrees buildersOk readsWord voidable; decide +kernel⟩,
   ⟨0, { a := 0, b := 1, next := 6533, read := .corrected },
     { oneEntry with engs := [(0, { Engine.init with micro := { Micro.init with ir := 0x8000000000000 } })] }, by unfold readsWord; decide +kernel⟩,
   ⟨0, { a := 0, b := 1, next := 1785, read := .clean }, held0, by unfold readsWord; decide +kernel⟩⟩

theorem witness_MemoryMicrowords :
    (∃ e : EngineId, ∃ m : MicroArgs, ∃ s : State, ∃ i : ℕ, i = (s.ureg e m.a.toNat).toNat % 8192 ∧ readsWord s e m ∧ m.a.toNat < 4 ∧ m.b.toNat < 4 ∧
      buildersOk s e ∧ s.poisoned (localAddr e i) = false ∧ i < 8128) ∧
    (∃ e : EngineId, ∃ m : MicroArgs, ∃ ue : Bool, ∃ s : State, ∃ i : ℕ, i = (s.ureg e m.a.toNat).toNat % 8192 ∧ readsWord s e m ∧ m.a.toNat < 4 ∧
      m.b.toNat < 4 ∧ (ue = true ∨ s.poisoned (localAddr e i) = true)) ∧
    (∃ e : EngineId, ∃ m : MicroArgs, ∃ s : State, ∃ i : ℕ, i = (s.ureg e m.a.toNat).toNat % 8192 ∧ readsWord s e m ∧ m.a.toNat < 4 ∧ m.b.toNat < 4 ∧
      i < 8128) ∧
    (∃ e : EngineId, ∃ m : MicroArgs, ∃ s : State, ∃ i : ℕ, i = (s.ureg e m.a.toNat).toNat % 8192 ∧ readsWord s e m ∧ m.a.toNat < 4 ∧ m.b.toNat < 4 ∧
      8128 ≤ i ∧ s.stopsOn (.cell e) 5 = false) ∧
    (∃ e : EngineId, ∃ m : MicroArgs, ∃ s : State, ∃ w : ℕ, w = (s.ureg e m.a.toNat).toNat % 262144 ∧ readsWord s e m ∧ m.a.toNat < 4 ∧ m.b.toNat < 8 ∧
      buildersOk s e ∧ s.bankBad (blockOf e) w false = false) ∧
    (∃ e : EngineId, ∃ m : MicroArgs, ∃ ue : Bool, ∃ s : State, ∃ w : ℕ, w = (s.ureg e m.a.toNat).toNat % 262144 ∧ readsWord s e m ∧ m.a.toNat < 4 ∧
      m.b.toNat < 8 ∧ buildersOk s e ∧ s.bankBad (blockOf e) w ue = true ∧ s.inShot e = false ∧ s.stopsOn (bankPage (blockOf e)) 0 = false) ∧
    (∃ e : EngineId, ∃ m : MicroArgs, ∃ mismatch : Bool, ∃ s : State, ∃ w : ℕ, w = (s.ureg e m.a.toNat).toNat % 262144 ∧ readsWord s e m ∧
      agrees s e mismatch ∧ m.a.toNat < 4 ∧ m.b.toNat < 8) :=
  ⟨⟨0, { a := 3, b := 1, next := 0, read := .clean }, micro0, 0, by unfold buildersOk readsWord; decide +kernel⟩,
   ⟨0, { a := 0, b := 3, next := 2, read := .clean }, true, runCtx, 0, by unfold readsWord; decide +kernel⟩,
   ⟨0, { a := 1, b := 3, next := 2334, read := .clean }, (warm 1), 0, by unfold readsWord; decide +kernel⟩,
   ⟨0, { a := 0, b := 1, next := 0, read := .corrected },
     { run0 with engs := [(0, { Engine.init with due := [fluxEntry], micro := { Micro.init with u := [8128, 0, 0, 0] } })] }, 8128,
     by unfold readsWord; decide +kernel⟩,
   ⟨0, { a := 1, b := 1, next := 0, read := .clean }, runs3, 0, by unfold buildersOk readsWord; decide +kernel⟩,
   ⟨0, { a := 0, b := 7, next := 6539, read := .clean }, true, held0, 0, by unfold buildersOk readsWord; decide +kernel⟩,
   ⟨0, { a := 2, b := 2, next := 1, read := .clean }, false, run0, 0, by unfold agrees readsWord; decide +kernel⟩⟩

theorem witness_RequestMicrowords :
    (∃ e : EngineId, ∃ m : MicroArgs, ∃ s : State, ∃ j : ℕ, j = irBits s e 48 48 ∧ requests s e m ∧ irBits s e 55 55 = 1) ∧
    (∃ e : EngineId, ∃ m : MicroArgs, ∃ s : State, ∃ j : ℕ, j = irBits s e 48 48 ∧ requests s e m ∧ irBits s e 55 55 = 0 ∧ s.fluxDenied e j = false ∧
      (s.holds e (fluxOf e j) = true ∨ ¬leaseBusy s (fluxOf e j))) ∧
    (∃ e : EngineId, ∃ m : MicroArgs, ∃ s : State, ∃ j : ℕ, j = irBits s e 48 48 ∧ requests s e m ∧ irBits s e 55 55 = 0 ∧ (s.fluxDenied e j = true ∨
      (irBits s e 54 54 = 1 ∧ leaseBusy s (fluxOf e j) ∧ s.holds e (fluxOf e j) = false))) ∧
    (∃ e : EngineId, ∃ m : MicroArgs, ∃ s : State, ∃ j : ℕ, j = irBits s e 48 48 ∧ requests s e m ∧ irBits s e 55 55 = 0 ∧ irBits s e 54 54 = 0 ∧
      s.fluxDenied e j = false ∧ leaseBusy s (fluxOf e j) ∧ s.holds e (fluxOf e j) = false) ∧
    (∃ e : EngineId, ∃ m : MicroArgs, ∃ s : State, ∃ sc : CurfewScope, CurfewScope.ofCode (irBits s e 55 53) = some sc ∧ requests s e m) ∧
    (∃ e : EngineId, ∃ m : MicroArgs, ∃ s : State, requests s e m ∧ CurfewScope.ofCode (irBits s e 55 53) = none) ∧
    (∃ e : EngineId, ∃ m : MicroArgs, ∃ s : State, requests s e m ∧ irBits s e 53 48 ≠ 63 ∧ s.inShot e = false ∧
      (s.deadlineFrames (s.routePort (irBits s e 53 48)) < 512 ∨ irBits s e 27 12 = 0)) ∧
    (∃ e : EngineId, ∃ m : MicroArgs, ∃ s : State, requests s e m ∧ irBits s e 53 48 = 63 ∧ s.inShot e = false ∧ irBits s e 27 12 = 0) ∧
    (∃ e : EngineId, ∃ m : MicroArgs, ∃ s : State, requests s e m ∧ irBits s e 53 48 ≠ 63 ∧ 512 ≤ s.deadlineFrames (s.routePort (irBits s e 53 48)) ∧
      irBits s e 27 12 ≠ 0) ∧
    (∃ e : EngineId, ∃ m : MicroArgs, ∃ s : State, ∃ a : Stamp, ∃ b : Stamp, a = irWindow s e ∧ b = a + BitVec.ofNat 64 (32 * irBits s e 47 32) ∧
      requests s e m ∧ s.inShot e = false ∧ s.budgetLeft e = true) ∧
    (∃ e : EngineId, ∃ m : MicroArgs, ∃ s : State, requests s e m ∧ s.inShot e = false ∧ s.budgetLeft e = false ∧ notParked s e) ∧
    (∃ e : EngineId, ∃ m : MicroArgs, ∃ s : State, requests s e m ∧ s.inShot e = true ∧ s.stopsOn (.cell e) 7 = false ∧ notParked s e) ∧
    (∃ e : EngineId, ∃ m : MicroArgs, ∃ differ : Bool, ∃ s : State, ∃ g : ℕ, g = s.groupOf e ∧ requests s e m ∧ (s.eng e).branching = false ∧
      s.inShot e = false ∧ mayOpenNow s e ∧ entriesAgree s e differ ∧ (s.group g).open' = false ∧ (s.group g).early = []) ∧
    (∃ e : EngineId, ∃ m : MicroArgs, ∃ s : State, requests s e m ∧ s.inShot e = true) ∧
    (∃ e : EngineId, ∃ m : MicroArgs, ∃ s : State, requests s e m ∧ s.inShot e = false) ∧
    (∃ e : EngineId, ∃ m : MicroArgs, ∃ mismatch : Bool, ∃ s : State, ∃ x : BranchArgs × BranchSource, irBranch s e = some x ∧ requests s e m ∧
      agrees s e mismatch ∧ (s.eng e).tail = none) ∧
    (∃ e : EngineId, ∃ m : MicroArgs, ∃ mismatch : Bool, ∃ s : State, irBranch s e = none ∧ requests s e m ∧ agrees s e mismatch) ∧
    (∃ e : EngineId, ∃ m : MicroArgs, ∃ mismatch : Bool, ∃ differ : Bool, ∃ seq : List WatchStep, ∃ lead : Stamp, ∃ s : State, ∃ c : Instr,
      c ∈ [Instr.reqLease e m, .reqCurfew e m, .reqSendm e m, .reqWatch e m seq, .reqShotOpen e m differ lead, .reqShotClose e m, .reqPrep e m,
      .brArm e m mismatch] ∧ readsWord s e m ∧ s.get (.cell e) CELL.SO_STATUS_LEVEL ≠ 0) :=
  ⟨⟨1, { a := 0, b := 0, next := 3, read := .clean },
     { st [(.cell 1, CELL.STATUS_STATE, 1)] pinned with engs := [(1, { Engine.init with micro := { Micro.init with ir := 0x80000000000000 } })] }, 0,
     by unfold requests readsWord; decide +kernel⟩,
   ⟨0, { a := 0, b := 3, next := 2, read := .clean }, runDeep, 0, by unfold leaseBusy requests readsWord; decide +kernel⟩,
   ⟨0, { a := 0, b := 1, next := 1127, read := .clean }, microTry, 1, by unfold leaseBusy requests readsWord; decide +kernel⟩,
   ⟨0, { a := 0, b := 1, next := 0, read := .clean }, runHeld, 0, by unfold leaseBusy requests readsWord; decide +kernel⟩,
   ⟨0, { a := 0, b := 16, next := 7999, read := .clean }, group5, .cell, by unfold requests readsWord; decide +kernel⟩,
   ⟨0, ⟨0, 2, 9, .clean⟩, en (fun r => { r with micro := { r.micro with ir := BitVec.ofNat 64 (7 * 2 ^ 53) } }) run0,
     by unfold requests readsWord; decide +kernel⟩,
   ⟨0, { a := 0, b := 3, next := 8191, read := .clean }, runs3, by unfold requests readsWord; decide +kernel⟩,
   ⟨0, { a := 0, b := 0, next := 608, read := .clean },
     { run0 with engs := [(0, { Engine.init with micro := { Micro.init with ir := 0x3f000000000000 } })] },
     by unfold requests readsWord; decide +kernel⟩,
   ⟨0, { a := 0, b := 1, next := 1023, read := .clean },
     { st [(.port 0, PORT.WAYSTATION_OUTSTANDING_DL, 512)] (warm 0) with engs := [(0, { Engine.init with micro := { Micro.init with ir := 4096 } })] },
     by unfold requests readsWord; decide +kernel⟩,
   ⟨0, { a := 0, b := 3, next := 434, read := .clean }, micro0, 0, 0x10000, by unfold requests readsWord; decide +kernel⟩,
   ⟨0, { a := 0, b := 0, next := 1, read := .clean }, (warm 3), by unfold requests readsWord; decide +kernel, by decide +kernel, by decide +kernel,
     ⟨uncurfewed (by decide +kernel), ungranted (by decide +kernel)⟩⟩,
   ⟨0, { a := 0, b := 252, next := 5321, read := .clean }, void5, by unfold requests readsWord; decide +kernel, by decide +kernel, by decide +kernel,
     ⟨uncurfewed (by decide +kernel), ungranted (by decide +kernel)⟩⟩,
   ⟨0, { a := 0, b := 2, next := 8191, read := .clean }, false, parked, 256, by unfold entriesAgree mayOpenNow requests readsWord; decide +kernel⟩,
   ⟨0, { a := 0, b := 2, next := 69, read := .clean }, void5, by unfold requests readsWord; decide +kernel⟩,
   ⟨0, { a := 0, b := 3, next := 224, read := .clean }, parked, by unfold requests readsWord; decide +kernel⟩,
   ⟨0, { a := 0, b := 2, next := 288, read := .clean }, true, microBranch,
     ({ ts := 0, dflt := false, keep := false, lat := 0, mask := 0, dgap := 0, target := 4000 }, .trigger (.tone 0)),
     by unfold agrees requests readsWord; decide +kernel⟩,
   ⟨0, { a := 0, b := 0, next := 8118, read := .clean }, true, runHeld, by unfold agrees requests readsWord; decide +kernel⟩,
   ⟨0, { a := 26, b := 1, next := 2, read := .clean }, true, true, [], 224, trap1, (.reqLease 0 { a := 26, b := 1, next := 2, read := .clean }),
     by decide +kernel, by unfold readsWord; decide +kernel⟩⟩

theorem witness_Stopovers :
    (∃ fn : FuncId, ∃ e : EngineId, ∃ s : State, s.reachesCell fn e = true ∧ s.engIs e .stopped = true) ∧
    (∃ fn : FuncId, ∃ e : EngineId, ∃ s : State, s.reachesCell fn e = true ∧ s.engIs e .stopped = false ∧
      Nat.testBit (s.get (.cell e) CELL.SO_STATUS_PEND) 5 = false) ∧
    (∃ fn : FuncId, ∃ e : EngineId, ∃ s : State, s.reachesCell fn e = true ∧ s.engIs e .stopped = false ∧
      Nat.testBit (s.get (.cell e) CELL.SO_STATUS_PEND) 5 = true) ∧
    (∃ fn : FuncId, ∃ e : EngineId, ∃ s : State, s.reachesCell fn e = false) ∧
    (∃ e : EngineId, ∃ i : ℕ, ∃ n : ℕ, ∃ s : State, mayTake s e ∧ s.get (.cell e) CELL.SO_STATUS_LEVEL = n ∧ (n = 0 ∨ (n = 1 ∧
      i < ((s.eng e).micro.slots.getD 0 .init).src)) ∧ i < 6 ∧ Nat.testBit (s.get (.cell e) CELL.SO_STATUS_PEND) i = true ∧ (∀ j,
      j < i → Nat.testBit (s.get (.cell e) CELL.SO_STATUS_PEND) j = false)) ∧
    (∃ e : EngineId, ∃ s : State, (s.get (.cell e) CELL.SO_STATUS_LEVEL = 2 ∨ (s.eng e).micro.holdoff ≠ 0 ∨ s.get (.cell e) CELL.SO_STATUS_PEND = 0)) :=
  ⟨⟨0, 0, crit0, by decide +kernel⟩,
   ⟨0, 0, trap1, by decide +kernel⟩,
   ⟨0, 0, pending1, by decide +kernel⟩,
   ⟨1, 0, run0, by decide +kernel⟩,
   ⟨0, 1, 0, pending1, by unfold mayTake; decide +kernel⟩,
   ⟨0, unitOn, by decide +kernel⟩⟩

theorem witness_ControlStore :
    (∃ k : BlockId, ∃ s : State, s.get (.block k) BLOCK.UC_STATUS_BUSY = 0) ∧
    (∃ k : BlockId, ∃ s : State, ∃ c : Instr, (c = .ucLoad k ∨ c = .ucStd k) ∧ s.get (.block k) BLOCK.UC_STATUS_BUSY = 1) ∧
    (∃ k : BlockId, ∃ s : State, ∃ a : ℕ, (s.blk k).ucFrom = some a ∧ s.get (.block k) BLOCK.UC_STATUS_BUSY = 1 ∧ 0x5_C000_0000 < a + 62688 ∧ (∀ i,
      i < 16 → s.get (cellPage (16 * k.val + i)) CELL.STATUS_START_PENDING = 0)) ∧
    (∃ k : BlockId, ∃ s : State, s.get (.block k) BLOCK.UC_STATUS_BUSY = 1 ∧ (s.blk k).ucFrom = none ∧ (s.blk k).ucBusy = false ∧ (∀ i,
      i < 16 → s.get (cellPage (16 * k.val + i)) CELL.STATUS_START_PENDING = 0)) ∧
    (∃ k : BlockId, ∃ want : ℕ, ∃ s : State, paceDue s k want ∧ Nat.testBit (s.get (.block k) BLOCK.UC_INFO_MODES) want = true ∧ (∀ i,
      i < 16 → s.pageIs (cellPage (16 * k.val + i)) .starting = false)) ∧
    (∃ k : BlockId, ∃ want : ℕ, ∃ s : State, ∃ c : ℕ, (s.blk k).paceCell = some c ∧ c < 16 ∧ paceDue s k want ∧
      Nat.testBit (s.get (.block k) BLOCK.UC_INFO_MODES) want = true ∧ s.pageIs (cellPage (16 * k.val + c)) .starting = true ∧
      s.get (cellPage (16 * k.val + c)) ALL.PAGE_CTRL_ENABLE = 1 ∧ s.get (cellPage (16 * k.val + c)) CELL.STATUS_START_PENDING = 0 ∧
      s.pageIs (.block k) .ready = true ∧ s.pageIs (regionPage (k.val / 8)) .ready = true) ∧
    (∃ k : BlockId, ∃ want : ℕ, ∃ s : State, paceDue s k want ∧ Nat.testBit (s.get (.block k) BLOCK.UC_INFO_MODES) want = false ∧
      s.stopsOn (.block k) 16 = false) ∧
    (∃ k : BlockId, ∃ s : State, (s.blockIdle k = false ∨ s.pacePending k = false)) :=
  ⟨⟨0, (rxAt 0), by decide +kernel⟩,
   ⟨0, ucFar, (.ucLoad 0), by decide +kernel⟩,
   ⟨0, ucFar, 0x5c0000000, by decide +kernel⟩,
   ⟨0, ucStd0, by decide +kernel⟩,
   ⟨0, 1, pinned, by unfold paceDue; decide +kernel⟩,
   ⟨2, 0,
     { st [(.region 0, ALL.PAGE_STATE_STATE, 2), (.block 2, ALL.PAGE_STATE_STATE, 2), (.block 2, BLOCK.PACE_STATUS_MODE, 1), (.block 2, BLOCK.UC_INFO_MODES, 1), (.cell 32, ALL.PAGE_CTRL_ENABLE, 1), (.cell 32, ALL.PAGE_STATE_STATE, 1)] ucFar with blks := [(2, { Block.init with paceCell := some 0 })] },
     0, by unfold paceDue; decide +kernel⟩,
   ⟨1, 0, (st [(.block 1, BLOCK.PACE_STATUS_MODE, 1)] parked), by unfold paceDue; decide +kernel⟩,
   ⟨0, gap, by decide +kernel⟩⟩

theorem witness_Streams :
    (∃ e : EngineId, ∃ s : State, ∃ x : Entry, s.nextDue e .streamStart = some x ∧ startsOn s e x ∧
      ((s.passed (actsAt x)).tone (entryTone e x)).streamsAt x.stamp = false ∧ Ctx.duration x.ctx ≠ 0 ∧ overAt (streamEnd s e x) x.stamp = false ∧
      Ctx.envAddr x.ctx ≠ segEnd ∧ s.segValid e (Ctx.envAddr x.ctx) x.ctx = true) ∧
    (∃ e : EngineId, ∃ s : State, ∃ x : Entry, s.nextDue e .streamStart = some x ∧ startsOn s e x ∧
      ((s.passed (actsAt x)).tone (entryTone e x)).streamsAt x.stamp = false ∧ (Ctx.duration x.ctx = 0 ∨ overAt (streamEnd s e x) x.stamp = true) ∧
      noneWaits s (blockOf e)) ∧
    (∃ e : EngineId, ∃ s : State, ∃ x : Entry, s.nextDue e .streamStart = some x ∧ startsOn s e x ∧
      ((s.passed (actsAt x)).tone (entryTone e x)).streamsAt x.stamp = false ∧ Ctx.duration x.ctx ≠ 0 ∧ overAt (streamEnd s e x) x.stamp = false ∧
      Ctx.envAddr x.ctx ≠ segEnd ∧ s.segValid e (Ctx.envAddr x.ctx) x.ctx = false ∧ s.inShot e = false ∧ noneWaits s (blockOf e)) ∧
    (∃ e : EngineId, ∃ s : State, ∃ x : Entry, ∃ y : Streaming, s.nextDue e .streamStart = some x ∧
      ((s.passed (actsAt x)).tone (entryTone e x)).stream = some y ∧ startsOn s e x ∧ overAt y.stop x.stamp = false ∧ y.jump = none ∧
      noneWaits s (blockOf y.engine)) ∧
    (∃ e : EngineId, ∃ s : State, s.nextDue e .streamStart = none) ∧
    (∃ o : OutputId, ∃ slot : Fin 32, ∃ s : State, ∃ x : Streaming, ∃ y : Streaming, (s.tone (outputTone o slot)).stream = some x ∧
      ((s.passed (boundary s x)).tone (outputTone o slot)).stream = some y ∧ playing s o slot x ∧ s.time.frozen = false ∧
      y.jump.all (fun j => j.verdict = some true) = true ∧ Stamp.atOrAfter (boundary s x) x.stop = false ∧ y.rep < Seg.rep (s.segDesc y.seg)) ∧
    (∃ o : OutputId, ∃ slot : Fin 32, ∃ s : State, ∃ x : Streaming, ∃ y : Streaming, (s.tone (outputTone o slot)).stream = some x ∧
      ((s.passed (boundary s x)).tone (outputTone o slot)).stream = some y ∧ playing s o slot x ∧ s.time.frozen = false ∧
      y.jump.all (fun j => j.verdict = some true) = true ∧ Stamp.atOrAfter (boundary s x) x.stop = false ∧ y.rep = Seg.rep (s.segDesc y.seg) ∧
      Seg.next (s.segDesc y.seg) ≠ segEnd ∧ s.segValid y.engine (Seg.next (s.segDesc y.seg)) y.ctx = true) ∧
    (∃ o : OutputId, ∃ slot : Fin 32, ∃ s : State, ∃ x : Streaming, ∃ y : Streaming, ∃ j : JumpReq, (s.tone (outputTone o slot)).stream = some x ∧
      ((s.passed (boundary s x)).tone (outputTone o slot)).stream = some y ∧ y.jump = some j ∧ playing s o slot x ∧ s.time.frozen = false ∧
      j.verdict = some false ∧ Stamp.atOrAfter (boundary s x) x.stop = false ∧ j.target ≠ segEnd ∧ s.segValid y.engine j.target y.ctx = true ∧
      noneWaits s (blockOf y.engine)) ∧
    (∃ o : OutputId, ∃ slot : Fin 32, ∃ s : State, ∃ x : Streaming, (s.tone (outputTone o slot)).stream = some x ∧ playing s o slot x ∧
      s.time.frozen = false ∧ Stamp.atOrAfter (boundary s x) x.stop = true ∧ noneWaits s (blockOf x.engine)) ∧
    (∃ o : OutputId, ∃ slot : Fin 32, ∃ s : State, ∃ x : Streaming, ∃ y : Streaming, (s.tone (outputTone o slot)).stream = some x ∧
      ((s.passed (boundary s x)).tone (outputTone o slot)).stream = some y ∧ playing s o slot x ∧ s.time.frozen = false ∧ y.jump = none ∧
      Stamp.atOrAfter (boundary s x) x.stop = false ∧ y.rep = Seg.rep (s.segDesc y.seg) ∧ Seg.next (s.segDesc y.seg) = segEnd ∧
      noneWaits s (blockOf y.engine)) ∧
    (∃ o : OutputId, ∃ slot : Fin 32, ∃ s : State, (s.tone (outputTone o slot)).stream = none) ∧
    (∃ o : OutputId, ∃ slot : Fin 32, ∃ s : State, ∃ x : Streaming, ∃ p : Page, ∃ i : ℕ, (s.tone (outputTone o slot)).stream = some x ∧
      p = outputPage o ∧ i = toneSlot (outputTone o slot) ∧ playing s o slot x ∧ s.time.frozen = false ∧ s.inShot x.engine = false ∧
      x.zero.contains s.formedWord = false ∧ wordLacks (s.lacks x) s.formedWord = true) ∧
    (∃ o : OutputId, ∃ slot : Fin 32, ∃ s : State, ∃ x : Streaming, (s.tone (outputTone o slot)).stream = some x ∧ playing s o slot x ∧
      s.time.frozen = false ∧ s.inShot x.engine = true ∧ voidable s (s.groupOf x.engine) ∧ s.otherDevices (s.groupOf x.engine) = [] ∧
      x.zero.contains s.formedWord = false ∧ wordLacks (s.lacks x) s.formedWord = true) ∧
    (∃ o : OutputId, ∃ slot : Fin 32, ∃ s : State, ∃ x : Streaming, (s.tone (outputTone o slot)).stream = some x ∧ (x.zero.contains s.formedWord = true ∨
      wordLacks (s.lacks x) s.formedWord = false)) ∧
    (∃ k : BlockId, ∃ slot : Fin 8, ∃ part : StreamPart, ∃ s : State, ∃ key : ℕ, ∃ x : Streaming, s.slotTone k slot = some key ∧
      (s.tone key).stream = some x ∧ part ≠ .target) ∧
    (∃ k : BlockId, ∃ slot : Fin 8, ∃ s : State, s.slotTone k slot = none ∧ (s.blk k).slots.any (fun y => y.1 = slot.val) = true) ∧
    (∃ k : BlockId, ∃ slot : Fin 8, ∃ part : StreamPart, ∃ s : State, s.slotTone k slot = none ∧ part ≠ .target) :=
  ⟨⟨0, dueStream, segEntry, by unfold startsOn; decide +kernel⟩,
   ⟨0,
     { idlePort with engs := [(0, { Engine.init with due := [{ stamp := 64, kind := .streamStart, cls := .probe, index := 1, operand := 0, ctx := 3, slot := none, watch := true, silent := false }] })] },
     { stamp := 64, kind := .streamStart, cls := .probe, index := 1, operand := 0, ctx := 3, slot := none, watch := true, silent := false },
     by decide +kernel, by unfold startsOn; decide +kernel, by decide +kernel, by decide +kernel, noneWaits_of (by decide +kernel)⟩,
   ⟨0, (st [(.cell 0, ALL.GUEST_OWNER_GUEST, 1)] dueStream), segEntry, by decide +kernel, by unfold startsOn; decide +kernel, by decide +kernel,
     by decide +kernel, by decide +kernel, by decide +kernel, by decide +kernel, by decide +kernel, noneWaits_of (by decide +kernel)⟩,
   ⟨0, (streams stream0 dueStream), segEntry, stream0, by decide +kernel, by decide +kernel, by unfold startsOn; decide +kernel, by decide +kernel,
     by decide +kernel, noneWaits_of (by decide +kernel)⟩,
   ⟨0, void5, by decide +kernel⟩,
   ⟨(.drive 0), 0, (streams stream0), stream0, stream0, by unfold playing; decide +kernel⟩,
   ⟨.drive 0, 0, streams streamLast, streamLast, streamLast, by unfold playing; decide +kernel⟩,
   ⟨.drive 0, 0, streams streamJump, streamJump, streamJump, ⟨400, 1, true, none, some false⟩, by decide +kernel, by decide +kernel, by decide +kernel,
     by unfold playing; decide +kernel, by decide +kernel, by decide +kernel, by decide +kernel, by decide +kernel, by decide +kernel,
     noneWaits_of (by decide +kernel)⟩,
   ⟨(.probe 31), 0,
     { (dspAt 2) with tones := [(2016, { Tone.init with stream := some { ctx := 1, start := 3, stop := 3, engine := 0, slot := 2, seg := 48, segStart := 3, rep := 53, jump := none, coming := [{ arrival := 0, target := 64, fromEngine := false, slot := some 17, verdict := none }], upTo := 1, openNext := none, openJump := some true, rotten := [(3, 0)], zero := [], silent := false } })] },
     { ctx := 1, start := 3, stop := 3, engine := 0, slot := 2, seg := 48, segStart := 3, rep := 53, jump := none, coming := [{ arrival := 0, target := 64, fromEngine := false, slot := some 17, verdict := none }], upTo := 1, openNext := none, openJump := some true, rotten := [(3, 0)], zero := [], silent := false },
     by decide +kernel, by unfold playing; decide +kernel, by decide +kernel, by decide +kernel, noneWaits_of (by decide +kernel)⟩,
   ⟨.drive 0, 0, streams streamEnd1, streamEnd1, streamEnd1, by decide +kernel, by decide +kernel, by unfold playing; decide +kernel, by decide +kernel,
     by decide +kernel, by decide +kernel, by decide +kernel, by decide +kernel, noneWaits_of (by decide +kernel)⟩,
   ⟨(.flux 0), 0, (warm 7), by decide +kernel⟩,
   ⟨.drive 0, 0, streams streamDry, streamDry, .drive 0, 0, by unfold playing; decide +kernel⟩,
   ⟨(.probe 0), 0,
     { st [(.cell 3, CELL.STATUS_IN_SHOT, 1)] (lcIs 2) with tones := [(1024, { Tone.init with stream := some { ctx := 0, start := 160, stop := 8189, engine := 3, slot := 2, seg := 1, segStart := 448, rep := 4, jump := none, coming := [{ arrival := 2, target := 3, fromEngine := true, slot := none, verdict := some true }], upTo := 3, openNext := none, openJump := none, rotten := [(2, 320), (1, 608)], zero := [64], silent := false } })], groups := [(259, { Group.init with open' := true })] },
     { ctx := 0, start := 160, stop := 8189, engine := 3, slot := 2, seg := 1, segStart := 448, rep := 4, jump := none, coming := [{ arrival := 2, target := 3, fromEngine := true, slot := none, verdict := some true }], upTo := 3, openNext := none, openJump := none, rotten := [(2, 320), (1, 608)], zero := [64], silent := false },
     by unfold playing voidable; decide +kernel⟩,
   ⟨.drive 0, 0, streams { stream0 with zero := [256] }, { stream0 with zero := [256] }, by decide +kernel, .inl (by decide +kernel)⟩,
   ⟨0, 0, .jump, (streams stream0 dueStream), 0, stream0, by decide +kernel⟩,
   ⟨0, 0, { State.reset with blks := [(0, { Block.init with slots := [(0, 0)] })] }, by decide +kernel⟩,
   ⟨0, 0, .next, idle0, by decide +kernel⟩⟩

theorem witness_ReceiveInputs :
    (∃ i : FeedlineId, ∃ s : State, s.pageIs (.transceiver i) .ready = true ∧ s.rxIs i .off = true) ∧
    (∃ i : FeedlineId, ∃ s : State, (s.pageIs (.transceiver i) .ready = false ∨ s.rxIs i .unavailable = true) ∧ s.stopsOn (.transceiver i) 4 = false) ∧
    (∃ i : FeedlineId, ∃ s : State, s.rxIs i .unavailable = false) ∧
    (∃ i : FeedlineId, ∃ s : State, s.rxIs i .unavailable = true) ∧
    (∃ i : FeedlineId, ∃ s : State, s.rxIs i .live = true) ∧
    (∃ i : FeedlineId, ∃ s : State, s.rxIs i .live = false) ∧
    (∃ i : FeedlineId, ∃ s : State, s.rxIs i .calibrating = true) ∧
    (∃ i : FeedlineId, ∃ s : State, s.rxIs i .calibrating = true ∧ s.get (.transceiver i) TRANSCEIVER.RX_STATUS_FAILS ≤ 2) ∧
    (∃ i : FeedlineId, ∃ s : State, s.rxIs i .calibrating = false) ∧
    (∃ i : FeedlineId, ∃ s : State, samples s i ∧ s.stopsOn (.transceiver i) 3 = false) ∧
    (∃ i : FeedlineId, ∃ s : State, (s.get (.transceiver i) TRANSCEIVER.RX_CTRL_TRIM_LOCK = 1 ∨ s.get .watch WATCH.WCTRL_TRACK_TRIM = 0 ∨
      s.watchWorks (i.val / 4) = false)) ∧
    (∃ i : FeedlineId, ∃ s : State, s.get (.transceiver i) TRANSCEIVER.RX_CTRL_TRIM_LOCK = 0 ∧ s.get .watch WATCH.WCTRL_TRACK_TRIM = 1 ∧
      s.watchWorks (i.val / 4) = true) ∧
    (∃ i : FeedlineId, ∃ s : State, ∃ limit : Stamp, (s.rx i).applyBy = some limit ∧ (s.windowsOpen i = false ∨ Stamp.atOrAfter s.st limit = true)) ∧
    (∃ i : FeedlineId, ∃ s : State, ∃ limit : Stamp, (s.rx i).applyBy = some limit ∧ s.windowsOpen i = true ∧ Stamp.atOrAfter s.st limit = false) ∧
    (∃ i : FeedlineId, ∃ s : State, (s.rx i).applyBy = none) ∧
    (∃ i : FeedlineId, ∃ s : State, ∃ first : Stamp, ∃ last : Stamp, samples s i ∧ Stamp.atOrAfter last first = true ∧ (s.rx i).runs = []) ∧
    (∃ i : FeedlineId, ∃ first : Stamp, ∃ last : Stamp, ∃ s : State, ∃ x : ClampRun, ∃ rest : List ClampRun, (s.rx i).runs = x :: rest ∧ samples s i ∧
      Stamp.atOrAfter last first = true ∧ x.cut = none ∧ Stamp.atOrAfter (x.last + 400) first = true) ∧
    (∃ i : FeedlineId, ∃ s : State, ¬samples s i) ∧
    (∃ r : BitVec 12, (r.toInt = 2047 ∨ r.toInt = -2048)) ∧
    (∃ r : BitVec 12, r.toInt ≠ 2047 ∧ r.toInt ≠ -2048) :=
  ⟨⟨0, (rxAt 0), by decide +kernel⟩,
   ⟨0, runs3, by decide +kernel⟩,
   ⟨3, rival, by decide +kernel⟩,
   ⟨0, (rxAt 3), by decide +kernel⟩,
   ⟨0, unitOn, by decide +kernel⟩,
   ⟨1, (lcIs 1), by decide +kernel⟩,
   ⟨0, (rxAt 1), by decide +kernel⟩,
   ⟨0, (rxAt 1), by decide +kernel⟩,
   ⟨0, (dspAt 2), by decide +kernel⟩,
   ⟨0, unitOn, by unfold samples; decide +kernel⟩,
   ⟨0, dqOn, by decide +kernel⟩,
   ⟨0, (st [(.watch, WATCH.WCTRL_TRACK_TRIM, 1), (.dsp 2, DSP.CFG_WATCH_EN, 1)] held0), by decide +kernel⟩,
   ⟨0, applying, 500, by decide +kernel⟩,
   ⟨0,
     { (alone) with tones := [(2077, { Tone.init with window := some { ctx := 0, opened := 0, close := 0, engine := 0, flags := 0, olds := [], shot := none } })], rxs := [(0, { RxState.init with applyBy := some 1 })] },
     1, by decide +kernel⟩,
   ⟨0, (rxAt 0), by decide +kernel⟩,
   ⟨0, (rxAt 2), 160, 640, by unfold samples; decide +kernel⟩,
   ⟨0, 3, 32, clamped, { first := 100, last := 120, cut := none }, [], by unfold samples; decide +kernel⟩,
   ⟨31, run0, by unfold samples; decide +kernel⟩,
   ⟨2047, by decide +kernel⟩,
   ⟨4094, by decide +kernel⟩⟩

theorem witness_WindowsAndResults :
    (∃ e : EngineId, ∃ s : State, ∃ x : Entry, s.nextDue e .windowOpen = some x ∧ ((s.passed (actsAt x)).tone (entryTone e x)).window = none) ∧
    (∃ e : EngineId, ∃ s : State, ∃ x : Entry, ∃ o : OpenWindow, s.nextDue e .windowOpen = some x ∧
      ((s.passed (actsAt x)).tone (entryTone e x)).window = some o ∧ Stamp.atOrAfter o.close (Stamp.gridUp 5 x.stamp) = true ∧
      o.close ≠ Stamp.gridUp 5 x.stamp ∧ 2048 ≤ entryTone e x ∧ weightsGood s o ((Stamp.gridUp 5 x.stamp - o.opened).toNat / 32)) ∧
    (∃ e : EngineId, ∃ s : State, s.nextDue e .windowOpen = none) ∧
    (∃ u : Fin 1024, ∃ s : State, ∃ x : OpenWindow, ∃ n : ℕ, (s.tone (rxTone u)).window = some x ∧ n = (x.close - x.opened).toNat / 32 ∧
      s.time.frozen = false ∧ (∀ i, i < n → tooHigh ((s.tone (rxTone u)).frameAt (x.sampleAt i)).f = false) ∧ weightsGood s x n) ∧
    (∃ u : Fin 1024, ∃ s : State, ((s.tone (rxTone u)).window = none ∨ s.time.frozen = true)) ∧
    (∃ u : Fin 1024, ∃ x : OpenWindow, ∃ raws : List (BitVec 12), ∃ s : State, ∃ n : ℕ, ∃ y : ℤ × ℤ, ∃ wi : ℤ, ∃ wq : ℤ, s.badWeight x none n = false ∧
      y = s.toneSample u (x.opened - 512) raws (Ctx.df x.ctx) (Ctx.dp x.ctx) (x.opened + BitVec.ofNat 64 (32 * n)) ∧
      wi = toSigned 16 (s.weightFor x n ((Ctx.wptr x.ctx + n) % 2 ^ 19)) ∧
      wq = toSigned 16 (s.weightFor x n ((Ctx.wptr x.ctx + n) % 2 ^ 19) / 2 ^ 16)) ∧
    (∃ u : Fin 1024, ∃ s : State, ∃ r : Latched, ∃ rest : List Latched, ∃ p : Page, (s.tone (rxTone u)).latched = r :: rest ∧ p = rxPage (u.val / 32) ∧
      s.get p TRANSCEIVER.RX_CTRL_OVR_VOID = 0) ∧
    (∃ u : Fin 1024, ∃ s : State, ∃ r : Latched, ∃ rest : List Latched, (s.tone (rxTone u)).latched = r :: rest ∧
      (s.group (s.groupOf r.engine)).open' = true ∧ (s.group (s.groupOf r.engine)).voidedNow = false ∧
      r.shot = some ((s.group (s.groupOf r.engine)).shot, (s.group (s.groupOf r.engine)).attempt) ∧
      s.get (rxPage (u.val / 32)) TRANSCEIVER.RX_CTRL_OVR_VOID = 0) ∧
    (∃ u : Fin 1024, ∃ s : State, ∃ r : Latched, ∃ rest : List Latched, (s.tone (rxTone u)).latched = r :: rest ∧
      s.get (rxPage (u.val / 32)) TRANSCEIVER.RX_CTRL_OVR_VOID = 1 ∧ Nat.testBit r.flags flagRxFault = true ∧ s.inShot r.engine = true ∧
      voidable s (s.groupOf r.engine)) ∧
    (∃ u : Fin 1024, ∃ s : State, (s.tone (rxTone u)).latched = []) ∧
    (∃ n : RegionId, ∃ f : Fin 256, ∃ s : State, ∃ ev : FuncEval, ∃ rest : List FuncEval, ∃ k : ℕ, k = 256 * n.val + f.val ∧
      (s.func k).ready = ev :: rest ∧ ev.bad = false ∧ (ev.held.all fun h => h.2.2.1 && s.toneUsable (selUnit (s.selector n f h.1))) = true) ∧
    (∃ n : RegionId, ∃ f : Fin 256, ∃ s : State, ∃ ev : FuncEval, ∃ rest : List FuncEval, ∃ k : ℕ, k = 256 * n.val + f.val ∧
      (s.func k).ready = ev :: rest ∧ ev.bad = true) ∧
    (∃ fn : FuncId, ∃ n : RegionId, ∃ s : State, ∃ i : ℕ, fn.val = 0 ∧ i = s.get (.decision n) DECISION.DF_SEL_WORD ∧ i < 136) ∧
    (∃ fn : FuncId, ∃ n : RegionId, ∃ s : State, ∃ i : ℕ, ∃ f : ℕ, fn.val = 0 ∧ i = s.get (.decision n) DECISION.DF_SEL_WORD ∧ i < 128 ∧
      f = s.get (.decision n) DECISION.DF_SEL_FUNC ∧ s.dfMode n f = 0) ∧
    (∃ fn : FuncId, ∃ n : RegionId, ∃ s : State, ∃ i : ℕ, ∃ f : ℕ, fn.val = 0 ∧ i = s.get (.decision n) DECISION.DF_SEL_WORD ∧ i < 134 ∧
      f = s.get (.decision n) DECISION.DF_SEL_FUNC ∧ s.dfMode n f ≠ 0) ∧
    (∃ fn : FuncId, ∃ n : RegionId, ∃ s : State, ∃ f : ℕ, ∃ k : ℕ, fn.val = 0 ∧ f = s.get (.decision n) DECISION.DF_SEL_FUNC ∧ k = 256 * n.val + f) ∧
    (∃ fn : FuncId, ∃ i : FeedlineId, ∃ slot : Fin 32, ∃ s : State, ∃ u : ℕ, u = 32 * i.val + slot.val ∧ s.reachesTone fn u = true) ∧
    (∃ fn : FuncId, ∃ i : FeedlineId, ∃ slot : Fin 32, ∃ s : State, s.reachesTone fn (32 * i.val + slot.val) = false) :=
  ⟨⟨0, rcvDue,
     { stamp := 352, kind := .windowOpen, cls := .receive, index := 0, operand := 2, ctx := 0x200000000000000000000000000000000000000000000000000000000000000000000000000000002, slot := none, watch := false, silent := false },
     by decide +kernel⟩,
   ⟨0, rcvDue rcvOpen, { rcvEntry with stamp := 352 }, rcvWindow, by unfold weightsGood; decide +kernel⟩,
   ⟨0, held0, by decide +kernel⟩,
   ⟨0, rcvOpen, rcvWindow, 2, by unfold weightsGood; decide +kernel⟩,
   ⟨0, unitOn, by decide +kernel⟩,
   ⟨0, rcvWindow, [], State.reset, 0, _, _, _, by decide +kernel, rfl, rfl, rfl⟩,
   ⟨0, (rcvDone 1),
     { opened := 320, w := 384, ctx := 0x200000000000000000000000000000000000000000000000000000000000000000000000000000002, engine := 0, i := 5, q := 7, flags := 1, shot := none },
     [], (.transceiver 0), by decide +kernel⟩,
   ⟨0,
     { (asked .stage) with tones := [(2048, { Tone.init with latched := [{ opened := 128, w := 448, ctx := 576, engine := 27, i := 1, q := -3, flags := 2, shot := some (0, 0) }] })], groups := [(283, { Group.init with open' := true })] },
     { opened := 128, w := 448, ctx := 576, engine := 27, i := 1, q := -3, flags := 2, shot := some (0, 0) }, [], by decide +kernel⟩,
   ⟨0,
     { st [(.transceiver 0, TRANSCEIVER.RX_CTRL_OVR_VOID, 1), (.cell 7, CELL.STATUS_IN_SHOT, 1)] parked with tones := [(2048, { Tone.init with latched := [{ opened := 160, w := 0, ctx := 2, engine := 7, i := 21, q := 1024, flags := 11, shot := none }] })], groups := [(263, { Group.init with open' := true })] },
     { opened := 160, w := 0, ctx := 2, engine := 7, i := 21, q := 1024, flags := 11, shot := none }, [], by unfold voidable; decide +kernel⟩,
   ⟨0, rival, by decide +kernel⟩,
   ⟨0, 1, { (joiner 3) with funcs := [(1, { FuncState.init with ready := [{ wa := 2, held := [], bad := false }] })] },
     { wa := 2, held := [], bad := false }, [], 1, by decide +kernel⟩,
   ⟨0, 0, (funcReady true), { wa := 384, held := [], bad := true }, [], 0, by decide +kernel⟩,
   ⟨0, 0, crit0, 0, by decide +kernel⟩,
   ⟨0, 0, runs3, 0, 0, by decide +kernel⟩,
   ⟨0, 0, funcSet, 0, 0, by decide +kernel⟩,
   ⟨0, 0, alone, 0, 0, by decide +kernel⟩,
   ⟨0, 0, 1, rcvOpen, 1, by decide +kernel⟩,
   ⟨1, 0, 12, idle0, by decide +kernel⟩⟩

theorem witness_TriggerUnits :
    (∃ u : TriggerId, ∃ x : Stamp, ∃ raws : List (BitVec 12), ∃ s : State, (∀ i, u ≠ .ext i) ∧ s.evaluates u x = true ∧ armedBy s u x raws = true) ∧
    (∃ u : TriggerId, ∃ x : Stamp, ∃ raws : List (BitVec 12), ∃ s : State, (s.evaluates u x = false ∨ armedBy s u x raws = false)) ∧
    (∃ u : TriggerId, ∃ x : Stamp, ∃ raws : List (BitVec 12), ∃ s : State, Store.wf Tone.init s.tones = true ∧ (∀ i, u ≠ .ext i) ∧
      s.evaluates u x = true ∧ ((s.trig (triggerNo u)).armed = true ∨ armedBy s u x raws = true) ∧ firedBy s u x raws = true) ∧
    (∃ u : TriggerId, ∃ x : Stamp, ∃ raws : List (BitVec 12), ∃ s : State, (s.evaluates u x = false ∨ firedBy s u x raws = false ∨
      ((s.trig (triggerNo u)).armed = false ∧ armedBy s u x raws = false))) ∧
    (∃ i : Fin 16, ∃ x : BitVec 64, ∃ levels : List Bool, ∃ more : List Bool, ∃ g : ℕ, ∃ a : BitVec 64, ∃ s : State, Store.wf Tone.init s.tones = true ∧
      s.evaluates (.ext i) x = true ∧ g = bitsOf (s.trigCfg (.ext i)) 19 16 ∧ a = x + BitVec.ofNat 64 (4 * g) ∧
      levels = (!decide (bitOf (s.trigCfg (.ext i)) 4 = 0)) :: (List.replicate (g + 1) (decide (bitOf (s.trigCfg (.ext i)) 4 = 0)) ++ more)) ∧
    (∃ i : Fin 16, ∃ levels : List Bool, ∃ s : State, levels.length < bitsOf (s.trigCfg (.ext i)) 19 16 + 2) ∧
    (∃ u : TriggerId, ∃ s : State, ∃ x : Stamp, ∃ rest : List Stamp, (s.trig (triggerNo u)).waiting = x :: rest ∧ noUsers s u) ∧
    (∃ u : TriggerId, ∃ s : State, ∃ x : Stamp, ∃ rest : List Stamp, ∃ n : RegionId, ∃ i : Fin 8, ∃ k : ℕ, ∃ j : ℕ,
      (s.trig (triggerNo u)).waiting = x :: rest ∧ s.startedBy u = [] ∧ s.enabledUnits .exporter = [] ∧
      s.enabledUnits .coinc = [256 * n.val + 136 + i.val] ∧ k = 8 * n.val + i.val ∧ j < 8 ∧ (∀ m,
      m < 8 → (selEvent (s.unitWord n (136 + i.val) (2 + m)) = some (.trig (triggerNo u)) ↔ m = j)) ∧
      Stamp.atOrAfter (s.coinc k).at' (Stamp.gridUp 5 x) = false) ∧
    (∃ u : TriggerId, ∃ s : State, ∃ x : Stamp, ∃ rest : List Stamp, ∃ n : RegionId, ∃ i : Fin 8, ∃ k : ℕ, ∃ j : ℕ,
      (s.trig (triggerNo u)).waiting = x :: rest ∧ s.startedBy u = [] ∧ s.enabledUnits .exporter = [] ∧
      s.enabledUnits .coinc = [256 * n.val + 136 + i.val] ∧ k = 8 * n.val + i.val ∧ j < 8 ∧ (∀ m,
      m < 8 → (selEvent (s.unitWord n (136 + i.val) (2 + m)) = some (.trig (triggerNo u)) ↔ m = j)) ∧
      Stamp.atOrAfter (s.coinc k).at' (Stamp.gridUp 5 x) = true) ∧
    (∃ u : TriggerId, ∃ s : State, (s.trig (triggerNo u)).waiting = []) ∧
    (∃ u : TriggerId, ∃ s : State, ∃ m : Stamp, (∀ x ∈ (s.trig (triggerNo u)).waiting, Stamp.atOrAfter m x = false) ∧ Stamp.atOrAfter s.st m = true) ∧
    (∃ u : TriggerId, ∃ s : State, ∃ m : Stamp, ((∃ x ∈ (s.trig (triggerNo u)).waiting, Stamp.atOrAfter m x = true) ∨ Stamp.atOrAfter s.st m = false)) ∧
    (∃ n : RegionId, ∃ f : Fin 256, ∃ s : State, ∃ k : ℕ, ∃ e : Stamp, ∃ i : ℕ, ∃ u : TriggerId, k = 256 * n.val + f.val ∧ e = (s.func k).at' + 32 ∧
      s.dfMode n f = 2 ∧ i < 12 ∧ selTrigger (s.selector n f i) = some u ∧ (∀ j, j < 12 → j ≠ i → selTrigger (s.selector n f j) = none) ∧
      Stamp.atOrAfter (s.trig (triggerNo u)).progress e = true ∧ Stamp.atOrAfter s.st e = true ∧
      (s.trig (triggerNo u)).firings.any (heldAt (bitsOf (s.trigCfg u) 15 8) e) = true ∧ bitOf (s.funcWord n f (2 ^ i / 32)) (2 ^ i % 32) = 1 ∧
      (s.func k).out = false ∧ s.enabledUnits .coinc = [] ∧ s.enabledUnits .exporter = []) ∧
    (∃ n : RegionId, ∃ f : Fin 256, ∃ s : State, ∃ k : ℕ, ∃ e : Stamp, k = 256 * n.val + f.val ∧ e = (s.func k).at' + 32 ∧ s.dfMode n f = 2 ∧ (∀ i u,
      i < 12 → selTrigger (s.selector n f i) = some u → Stamp.atOrAfter (s.trig (triggerNo u)).progress e = true ∧
      (s.trig (triggerNo u)).firings.any (heldAt (bitsOf (s.trigCfg u) 15 8) e) = false) ∧ Stamp.atOrAfter s.st e = true ∧
      bitOf (s.funcWord n f 0) 0 = 0) ∧
    (∃ n : RegionId, ∃ f : Fin 256, ∃ s : State, (s.dfMode n f ≠ 2 ∨ Stamp.atOrAfter s.st ((s.func (256 * n.val + f.val)).at' + 32) = false)) ∧
    (∃ n : RegionId, ∃ i : Fin 8, ∃ s : State, ∃ k : ℕ, ∃ e : Stamp, k = 8 * n.val + i.val ∧ e = (s.coinc k).at' + 32 ∧
      bitOf (s.unitWord n (136 + i.val) 0) 0 = 1 ∧ Stamp.atOrAfter s.st (e + BitVec.ofNat 64 (s.unitWord n (136 + i.val) 1)) = true ∧
      (s.coinc k).events = [] ∧ bitsOf (s.unitWord n (136 + i.val) 0) 2 1 = 0) ∧
    (∃ n : RegionId, ∃ i : Fin 8, ∃ s : State, ∃ k : ℕ, ∃ e : Stamp, ∃ j : ℕ, ∃ x : Stamp, k = 8 * n.val + i.val ∧ e = (s.coinc k).at' + 32 ∧
      bitOf (s.unitWord n (136 + i.val) 0) 0 = 1 ∧ Stamp.atOrAfter s.st (e + BitVec.ofNat 64 (s.unitWord n (136 + i.val) 1)) = true ∧
      bitsOf (s.unitWord n (136 + i.val) 0) 2 1 = 0 ∧ j < 8 ∧ (selEvent (s.unitWord n (136 + i.val) (2 + j))).isSome = true ∧ (j,
      x) ∈ (s.coinc k).events ∧ heldAt (bitsOf (s.unitWord n (136 + i.val) 0) 15 8) e x = true ∧ (s.coinc k).out = false ∧
      s.enabledUnits .exporter = []) ∧
    (∃ n : RegionId, ∃ i : Fin 8, ∃ s : State, (bitOf (s.unitWord n (136 + i.val) 0) 0 = 0 ∨
      Stamp.atOrAfter s.st ((s.coinc (8 * n.val + i.val)).at' + 32 + BitVec.ofNat 64 (s.unitWord n (136 + i.val) 1)) = false)) :=
  ⟨⟨.raw 0, 64, [], rawUnit, external (by decide +kernel), by decide +kernel, by decide +kernel⟩,
   ⟨(.ext 0), 5, [], microBranch, by decide +kernel⟩,
   ⟨.raw 0, 64, [], rawUnit, by decide +kernel, external (by decide +kernel), by decide +kernel, by decide +kernel, by decide +kernel⟩,
   ⟨(.raw 0), 54, [], libBusy, by decide +kernel⟩,
   ⟨0, 64, [false, true], [], 0, 64, unitOn, by decide +kernel⟩,
   ⟨0, [], rival, by decide +kernel⟩,
   ⟨(.ext 0), { (gap) with trigs := [(1056, { TrigUnit.init with waiting := [2] })] }, 2, [], by unfold noUsers; decide +kernel⟩,
   ⟨(.tone 0), { (coinc0 [(0,32)]) with trigs := [(0, { TrigUnit.init with waiting := [1, 3, 1] })] }, 1, [3, 1], 0, 0, 0, 0, by decide +kernel⟩,
   ⟨.tone 0, coincWaits 64, 64, [], 0, 0, 0, 0, by decide +kernel⟩,
   ⟨(.raw 1), gap, by decide +kernel⟩,
   ⟨.raw 2, State.reset, 0, noneListed (by decide +kernel), by decide +kernel⟩,
   ⟨.ext 0, State.reset, 352, .inr (by decide +kernel)⟩,
   ⟨0, 0, trigFunc, 0, 32, 0, (.tone 0), by decide +kernel⟩,
   ⟨0, 0, { State.reset with tbl := [(tblKey .functions 134, 2)], time := { TimeState.init with coarse := 32 } }, 0, 32, by decide +kernel,
     by decide +kernel, by decide +kernel, noneSelected (by decide +kernel), by decide +kernel⟩,
   ⟨7, 0, held0, by decide +kernel⟩,
   ⟨0, 0, (coinc0 []), 0, 32, by decide +kernel⟩,
   ⟨0, 0, (coinc0 [(0, 32)]), 0, 32, 0, 32, by decide +kernel⟩,
   ⟨0, 3, (dspAt 0), by decide +kernel⟩⟩

theorem witness_Capture :
    (∃ k : Fin 1056, ∃ x : Stamp, ∃ d : BitVec 32, ∃ s : State, triggers s k x d ∧ delaySamples (gridAt k (s.former k).dl) d.toNat < 4096 ∧
      (s.former k).record = none) ∧
    (∃ k : Fin 1056, ∃ x : Stamp, ∃ d : BitVec 32, ∃ s : State, ∃ r : OpenRecord, triggers s k x d ∧
      delaySamples (gridAt k (s.former k).dl) d.toNat < 4096 ∧ (s.former k).record = some r ∧ s.capExtend k = false) ∧
    (∃ k : Fin 1056, ∃ x : Stamp, ∃ d : BitVec 32, ∃ s : State, ∃ r : OpenRecord, triggers s k x d ∧
      delaySamples (gridAt k (s.former k).dl) d.toNat < 4096 ∧ (s.former k).record = some r ∧ s.capExtend k = true ∧ r.ended = false ∧ r.len ≠ 65536) ∧
    (∃ k : Fin 1056, ∃ x : Stamp, ∃ d : BitVec 32, ∃ s : State, triggers s k x d ∧ 4096 ≤ delaySamples (gridAt k (s.former k).dl) d.toNat) ∧
    (∃ k : Fin 1056, ∃ x : Stamp, ∃ d : BitVec 32, ∃ s : State, (s.forming k = false ∨ s.sourceFired k x = false ∨ s.longestDelay k < d.toNat)) ∧
    (∃ fn : FuncId, ∃ n : RegionId, ∃ unit : BitVec 8, ∃ s : State, ∃ k : ℕ, formerOf n unit.toNat = some k ∧ s.reachesUnit fn n unit.toNat = true ∧
      s.forming k = true ∧ (s.former k).record = none) ∧
    (∃ fn : FuncId, ∃ n : RegionId, ∃ unit : BitVec 8, ∃ s : State, (formerOf n unit.toNat = none ∨ s.reachesUnit fn n unit.toNat = false)) ∧
    (∃ k : Fin 1056, ∃ s : State, ∃ r : OpenRecord, ∃ n : ℕ, (s.former k).record = some r ∧ n = (formerPlace k).1 ∧
      s.nextWriter n = some (formerPlace k).2) ∧
    (∃ k : Fin 1056, ∃ s : State, ((s.former k).record = none ∨ s.nextWriter (formerPlace k).1 ≠ some (formerPlace k).2)) ∧
    (∃ n : RegionId, ∃ s : State, ∃ x : Stamp, ∃ a : Stamp, 3145728 < s.queueFill n ∧ s.get (.acquisition n) ACQUISITION.Q_STATUS_AUTO < 8 ∧
      (s.capq n).lastRise = some x ∧ a = x + 2000000) ∧
    (∃ n : RegionId, ∃ s : State, 3145728 < s.queueFill n ∧ s.get (.acquisition n) ACQUISITION.Q_STATUS_AUTO < 8 ∧ (s.capq n).lastRise = none) ∧
    (∃ n : RegionId, ∃ s : State, (s.queueFill n ≤ 3145728 ∨ 8 ≤ s.get (.acquisition n) ACQUISITION.Q_STATUS_AUTO)) ∧
    (∃ n : RegionId, ∃ s : State, ∃ x : Stamp, ∃ a : Stamp, (s.capq n).lowSince = some x ∧ s.get (.acquisition n) ACQUISITION.Q_STATUS_AUTO ≤ 15 ∧
      a = x + 20000000) ∧
    (∃ n : RegionId, ∃ s : State, (s.capq n).lowSince = none) ∧
    (∃ k : Fin 1056, ∃ s : State, (s.former k).record = none ∧ (s.former k).dl ≠ s.factorFor k) ∧
    (∃ k : Fin 1056, ∃ s : State, ((s.former k).record.isSome = true ∨ (s.former k).dl = s.factorFor k)) ∧
    (∃ n : RegionId, ∃ owner : FuncId, ∃ s : State, ∃ x : CapRecord, ∃ r : RingRegs, ∃ a : ℕ, ringReady s n owner x r ∧ s.ringBase r < 2 ^ 40 ∧
      a = s.ringBase r + s.get r.page r.wr) ∧
    (∃ n : RegionId, ∃ owner : FuncId, ∃ s : State, ∃ x : CapRecord, ∃ r : RingRegs, ∃ a : ℕ, ringReady s n owner x r ∧ s.ringBase r % 2 ^ 63 < 2 ^ 62 ∧
      bitOf (s.ringBase r) 63 = 1 ∧ a = s.ringBase r % 2 ^ 63 + s.get r.page r.wr) ∧
    (∃ n : RegionId, ∃ owner : FuncId, ∃ unit : Fin 4097, ∃ s : State, ∃ x : CapRecord, ∃ r : RingRegs, ∃ a : ℕ, ringReady s n owner x r ∧
      s.ringBase r < 2 ^ 40 ∧ 64 * unit.val + 64 ≤ x.bytes.length ∧ a = s.ringBase r + s.get r.page r.wr) ∧
    (∃ n : RegionId, ∃ owner : FuncId, ∃ s : State, ∃ x : CapRecord, ∃ r : RingRegs, (s.capq n).recs.find? (fun y => y.owner = owner.val) = some x ∧
      r = captureRing n owner ∧ s.pageIs (.region n) .ready = true ∧ s.ringTakes r x.bytes.length = false) ∧
    (∃ n : RegionId, ∃ owner : FuncId, ∃ s : State, ((s.capq n).recs.find? (fun y => y.owner = owner.val) = none ∨ s.pageIs (.region n) .ready = false)) ∧
    (∃ n : RegionId, ∃ s : State, ∃ u : ℕ, ∃ i : ℕ, u = s.get (.acquisition n) ACQUISITION.UNIT_SEL_UNIT ∧
      i = s.get (.acquisition n) ACQUISITION.UNIT_SEL_WORD) ∧
    (∃ fn : FuncId, ∃ n : RegionId, ∃ s : State, ∃ u : ℕ, ∃ i : ℕ, u = s.get (.acquisition n) ACQUISITION.UNIT_SEL_UNIT ∧
      i = s.get (.acquisition n) ACQUISITION.UNIT_SEL_WORD ∧ (s.reachesUnit fn n u = false ∨ (fn.val ≠ 0 ∧ 10 < i))) ∧
    (∃ fn : FuncId, ∃ n : RegionId, ∃ s : State, ∃ u : ℕ, ∃ i : ℕ, u = s.get (.acquisition n) ACQUISITION.UNIT_SEL_UNIT ∧
      i = s.get (.acquisition n) ACQUISITION.UNIT_SEL_WORD ∧ s.reachesUnit fn n u = true ∧ u < 128 ∧ (i = 1 ∨ i = 2 ∨ i = 4 ∨ i = 5) ∧
      bitOf (s.unitWord n u 0) 0 = 0 ∧ bitOf (s.unitWord n u 3) 0 = 0) ∧
    (∃ fn : FuncId, ∃ n : RegionId, ∃ s : State, ∃ u : ℕ, ∃ i : ℕ, u = s.get (.acquisition n) ACQUISITION.UNIT_SEL_UNIT ∧
      i = s.get (.acquisition n) ACQUISITION.UNIT_SEL_WORD ∧ s.reachesUnit fn n u = true ∧ u < 128 ∧ (i = 1 ∨ i = 2) ∧ bitOf (s.unitWord n u 0) 0 = 1) :=
  ⟨⟨0, 64, 0, forming0, ⟨by decide +kernel, by decide +kernel, vacuous (by decide +kernel), by decide +kernel⟩, by decide +kernel⟩,
   ⟨0, 64, 0, recording0, openRec, ⟨by decide +kernel, by decide +kernel, vacuous (by decide +kernel), by decide +kernel⟩, by decide +kernel⟩,
   ⟨0, 64, 0, extending0, openRec1, ⟨by decide +kernel, by decide +kernel, vacuous (by decide +kernel), by decide +kernel⟩, by decide +kernel⟩,
   ⟨1024, 64, 4096, lagging, ⟨by decide +kernel, by decide +kernel, vacuous (by decide +kernel), by decide +kernel⟩, by decide +kernel⟩,
   ⟨0, 224, 2, void5, by decide +kernel⟩,
   ⟨0, 0, 0, forming0, 0, by decide +kernel⟩,
   ⟨1, 0, 3, run0, by decide +kernel⟩,
   ⟨0, recording0, openRec, 0, by decide +kernel⟩,
   ⟨0, runHeld, by decide +kernel⟩,
   ⟨0, queueRose 3145729 0, 0, 2000000, by rw [queueRose_fill]; decide, by decide +kernel, rfl, rfl⟩,
   ⟨0, queueOf 3145729, by rw [queueOf_fill]; decide, by decide +kernel, rfl⟩,
   ⟨0, void5, by decide +kernel⟩,
   ⟨0, fed, 0, 0x1312d00, by decide +kernel⟩,
   ⟨0, { idle0 with capqs := [(0, { CapQueue.init with lowSince := none })] }, by decide +kernel⟩,
   ⟨0, { run0 with formers := [(0, { Former.init with dl := 1 })] }, by decide +kernel⟩,
   ⟨0, ready0, by decide +kernel⟩,
   ⟨0, 0, ringOn, ⟨0, List.replicate 64 7⟩, captureRing 0 0, 0, ⟨by decide +kernel, rfl, by decide +kernel, by decide +kernel, by decide +kernel,
     by decide +kernel⟩, by decide +kernel, by decide +kernel⟩,
   ⟨0, 0, ring0 [(.acquisition 0, ACQUISITION.RING_CTRL_EN, 1), (.acquisition 0, ACQUISITION.RING_SIZE_UNITS, 1), (.acquisition 0,
     ACQUISITION.RING_BASE_HI_ADDR, 2 ^ 31)], ⟨0, List.replicate 64 7⟩, captureRing 0 0, 0, ⟨by decide +kernel, rfl, by decide +kernel,
     by decide +kernel, by decide +kernel, by decide +kernel⟩, by decide +kernel, by decide +kernel, by decide +kernel⟩,
   ⟨0, 0, 0, ringOn, ⟨0, List.replicate 64 7⟩, captureRing 0 0, 0, ⟨by decide +kernel, rfl, by decide +kernel, by decide +kernel, by decide +kernel,
     by decide +kernel⟩, by decide +kernel, by decide +kernel, by decide +kernel⟩,
   ⟨0, 0, ring0 [], ⟨0, List.replicate 64 7⟩, captureRing 0 0, by decide +kernel, rfl, by decide +kernel⟩,
   ⟨7, 0, idle0, by decide +kernel⟩,
   ⟨0, (lcIs 2), 0, 0, by decide +kernel⟩,
   ⟨1, 0, (rxAt 1), 0, 0, by decide +kernel⟩,
   ⟨0, 0, (st [(.acquisition 0, ACQUISITION.UNIT_SEL_WORD, 5)] rival), 0, 5, by decide +kernel⟩,
   ⟨0, 0, (st [(.acquisition 0, ACQUISITION.UNIT_SEL_WORD, 2)] unitOn), 0, 2, by decide +kernel⟩⟩

theorem witness_DspArithmetic :
    (∃ k : BlockId, ∃ m : DspArgs, ∃ s : State, retires s k m ∧ m.w = 0) ∧
    (∃ k : BlockId, ∃ m : DspArgs, ∃ s : State, retires s k m) ∧
    (∃ k : BlockId, ∃ m : DspArgs, ∃ s : State, ∃ fn : AluFn, retires s k m ∧ AluFn.ofCode (Dw.f m.w 13 10) = some fn ∧ zeroBits m.w 9 0 = true) ∧
    (∃ k : BlockId, ∃ m : DspArgs, ∃ s : State, ∃ fn : AluFn, retires s k m ∧ AluFn.ofCode (Dw.f m.w 17 14) = some fn) ∧
    (∃ k : BlockId, ∃ m : DspArgs, ∃ s : State, ∃ i : ℕ, ∃ p : ℤ, retires s k m ∧ Dw.f m.w 24 23 ≤ 2 ∧ zeroBits m.w 22 22 = true ∧
      zeroBits m.w 10 0 = true ∧ i = Dw.acc m.w ∧
      p = macProduct (halfOf ((s.dsp k).reg (Dw.s m.w)) (Dw.f m.w 17 17)) (halfOf ((s.dsp k).reg (Dw.f m.w 16 13)) (Dw.f m.w 12 12)) (Dw.f m.w 11 11 = 1)) ∧
    (∃ k : BlockId, ∃ m : DspArgs, ∃ s : State, ∃ i : ℕ, ∃ v : ℤ, retires s k m ∧ zeroBits m.w 17 5 = true ∧ i = Dw.acc m.w ∧ ((Dw.f m.w 24 22 = 0 ∧
      v = 0) ∨ (Dw.f m.w 24 22 = 1 ∧ v = ((s.dsp k).reg (Dw.s m.w)).toInt) ∨ (Dw.f m.w 24 22 = 2 ∧
      v = (s.dsp k).accum i + ((s.dsp k).reg (Dw.s m.w)).toInt) ∨ (Dw.f m.w 24 22 = 3 ∧ v = (s.dsp k).accum i - ((s.dsp k).reg (Dw.s m.w)).toInt) ∨
      (Dw.f m.w 24 22 = 4 ∧ v = halfOf ((s.dsp k).reg (Dw.s m.w)) 0 * 2 ^ 16) ∨ (Dw.f m.w 24 22 = 5 ∧ v = (s.dsp k).accum i / 2 ^ Dw.sh m.w) ∨
      (Dw.f m.w 24 22 = 6 ∧ v = (s.dsp k).accum i * 2 ^ Dw.sh m.w))) ∧
    (∃ k : BlockId, ∃ m : DspArgs, ∃ s : State, ∃ v : ℤ, ∃ w : ℕ, retires s k m ∧ zeroBits m.w 19 5 = true ∧
      v = roundShift (s.dsp k).rnd (Dw.sh m.w) ((s.dsp k).accum (Dw.f m.w 21 21)) ∧ w = (if Dw.f m.w 20 20 = 1 then 32 else 16)) ∧
    (∃ k : BlockId, ∃ m : DspArgs, ∃ s : State, ∃ sh : ℕ, ∃ f : ℕ → ℤ → ℤ, retires s k m ∧ zeroBits m.w 9 0 = true ∧
      sh = 16 + ((s.dsp k).reg (Dw.f m.w 13 10)).toNat % 16 ∧ (∀ c sg,
      f c sg = roundShift (s.dsp k).rnd sh (halfOf ((s.dsp k).reg (Dw.t m.w)) c * 2 ^ 16 + sg * (s.dsp k).accum c)) ∧ (∀ c,
      c < 2 → satSigned 16 (f c 1) = f c 1 ∧ satSigned 16 (f c (-1)) = f c (-1))) ∧
    (∃ k : BlockId, ∃ m : DspArgs, ∃ s : State, ∃ sh : ℕ, ∃ f : ℕ → ℤ → ℤ, retires s k m ∧ zeroBits m.w 9 0 = true ∧
      sh = 16 + ((s.dsp k).reg (Dw.f m.w 13 10)).toNat % 16 ∧ (∀ c sg,
      f c sg = roundShift (s.dsp k).rnd sh (halfOf ((s.dsp k).reg (Dw.t m.w)) c * 2 ^ 16 + sg * (s.dsp k).accum c)) ∧ (∃ c sg, c < 2 ∧ (sg = 1 ∨
      sg = -1) ∧ satSigned 16 (f c sg) ≠ f c sg)) ∧
    (∃ k : BlockId, ∃ m : DspArgs, ∃ s : State, retires s k m ∧ zeroBits m.w 9 0 = true) ∧
    (∃ k : BlockId, ∃ m : DspArgs, ∃ s : State, ∃ c : Instr, ∃ d : ℕ, retires s k m ∧ zeroBits m.w 9 0 = true ∧ d = Dw.d m.w ∧ d % 2 = 0 ∧
      ((c = .maxi k m ∧ ((s.dsp k).reg d).toInt < ((s.dsp k).reg (Dw.s m.w)).toInt) ∨ (c = .mini k m ∧
      ((s.dsp k).reg (Dw.s m.w)).toInt < ((s.dsp k).reg d).toInt))) ∧
    (∃ k : BlockId, ∃ m : DspArgs, ∃ s : State, ∃ c : Instr, ∃ d : ℕ, retires s k m ∧ zeroBits m.w 9 0 = true ∧ d = Dw.d m.w ∧ d % 2 = 0 ∧
      ((c = .maxi k m ∧ ((s.dsp k).reg (Dw.s m.w)).toInt ≤ ((s.dsp k).reg d).toInt) ∨ (c = .mini k m ∧
      ((s.dsp k).reg d).toInt ≤ ((s.dsp k).reg (Dw.s m.w)).toInt))) ∧
    (∃ k : BlockId, ∃ m : DspArgs, ∃ s : State, ∃ v : ℕ, retires s k m ∧ zeroBits m.w 21 6 = true ∧
      (s.dsp k).sysRead (s.get (.dsp k) DSP.DOORBELL_VALUE) (Dw.f m.w 5 0) = some v) ∧
    (∃ k : BlockId, ∃ m : DspArgs, ∃ s : State, ∃ y : DspState, retires s k m ∧ zeroBits m.w 21 6 = true ∧
      (s.dsp k).commit.sysWrite (Dw.f m.w 5 0) ((s.dsp k).reg (Dw.d m.w)).toNat = some y) :=
  ⟨⟨0, { w := 0, fetchBad := false, bankBad := true, waited := true }, (dspAt 1), by unfold retires dspNext; decide +kernel⟩,
   ⟨0, { w := 59, fetchBad := false, bankBad := true, waited := true }, (dspAt 1), by unfold retires dspNext; decide +kernel⟩,
   ⟨0, { w := 0, fetchBad := false, bankBad := true, waited := true }, (dspAt 1), .add, by unfold retires dspNext; decide +kernel⟩,
   ⟨0, { w := 3, fetchBad := false, bankBad := true, waited := true }, (dspAt 1), .add, by unfold retires dspNext; decide +kernel⟩,
   ⟨0, { w := 0x10a7800, fetchBad := false, bankBad := true, waited := true }, dspLoop, 0, 0, by unfold retires dspNext; decide +kernel⟩,
   ⟨0, { w := 8, fetchBad := false, bankBad := true, waited := true }, (dspAt 1), 0, 0, by unfold retires dspNext; decide +kernel⟩,
   ⟨0, { w := 1, fetchBad := false, bankBad := false, waited := true }, dspLoop, 0, 16, by unfold retires dspNext; decide +kernel⟩,
   ⟨0, dw 0, dspRun, 16, fun c sg => roundShift ((dspRun).dsp 0).rnd 16 (halfOf (((dspRun).dsp 0).reg 0) c * 2 ^ 16 + sg * ((dspRun).dsp 0).accum c),
     ⟨⟨by decide +kernel, by decide +kernel, by decide +kernel⟩, by decide +kernel, by decide +kernel, by decide +kernel⟩, by decide +kernel,
     by decide +kernel, fun _ _ => rfl, by decide +kernel⟩,
   ⟨0, dw 0, dspAcc0 0x7FFFFFFFFF 0 0, 16,
     fun c sg => roundShift ((dspAcc0 0x7FFFFFFFFF 0 0).dsp 0).rnd 16 (halfOf (((dspAcc0 0x7FFFFFFFFF 0 0).dsp 0).reg 0) c * 2 ^ 16 + sg * ((dspAcc0 0x7FFFFFFFFF 0 0).dsp 0).accum c),
     ⟨⟨by decide +kernel, by decide +kernel, by decide +kernel⟩, by decide +kernel, by decide +kernel, by decide +kernel⟩, by decide +kernel,
     by decide +kernel, fun _ _ => rfl, 0, 1, by decide, .inl rfl, by decide +kernel⟩,
   ⟨0, { w := 0x95b400, fetchBad := false, bankBad := true, waited := true }, (dspAt 1), by unfold retires dspNext; decide +kernel⟩,
   ⟨0, dw (BitVec.ofNat 26 (2 ^ 18)), dspAcc0 0 0 0, .maxi 0 (dw (BitVec.ofNat 26 (2 ^ 18))), 0, ⟨⟨by decide +kernel, by decide +kernel,
     by decide +kernel⟩, by decide +kernel, by decide +kernel, by decide +kernel⟩, by decide +kernel, by decide +kernel, by decide +kernel,
     .inl ⟨rfl, by decide +kernel⟩⟩,
   ⟨0, { w := 0x1af1000, fetchBad := false, bankBad := true, waited := true }, dspLoop,
     (.maxi 0 { w := 0x1af1000, fetchBad := false, bankBad := true, waited := true }), 6, by unfold retires dspNext; decide +kernel⟩,
   ⟨0, { w := 3, fetchBad := false, bankBad := true, waited := true }, (dspAt 1), 0, by unfold retires dspNext; decide +kernel⟩,
   ⟨0, { w := 0, fetchBad := false, bankBad := true, waited := false }, (dspAt 1), DspState.init, by unfold retires dspNext; decide +kernel⟩⟩

theorem witness_DspMemory :
    (∃ k : BlockId, ∃ m : DspArgs, ∃ s : State, ∃ a : BitVec 19, ∃ y : DspState, accesses s k m a y ∧ goodWord s k m a) ∧
    (∃ k : BlockId, ∃ m : DspArgs, ∃ s : State, ∃ a : BitVec 19, ∃ y : DspState, ∃ c : Instr, accesses s k m a y ∧ ¬goodWord s k m a ∧ c ∈ dspReads k m) ∧
    (∃ k : BlockId, ∃ m : DspArgs, ∃ s : State, ∃ a : BitVec 19, ∃ y : DspState, accesses s k m a y) ∧
    (∃ fn : FuncId, ∃ k : BlockId, ∃ s : State, ∃ i : ℕ, s.reachesDsp fn k = true ∧ s.dspOpen k = true ∧ i = s.get (.dsp k) DSP.PMEM_SEL_ADDR) ∧
    (∃ fn : FuncId, ∃ k : BlockId, ∃ s : State, ∃ i : ℕ, s.reachesDsp fn k = true ∧ i = s.get (.dsp k) DSP.PMEM_SEL_ADDR) ∧
    (∃ fn : FuncId, ∃ k : BlockId, ∃ s : State, ∃ i : ℕ, s.reachesDsp fn k = true ∧ s.dspOpen k = true ∧ i = s.get (.dsp k) DSP.REG_SEL_REG ∧ i < 16) ∧
    (∃ fn : FuncId, ∃ k : BlockId, ∃ v : Word, ∃ s : State, ∃ i : ℕ, ∃ y : DspState, s.reachesDsp fn k = true ∧ s.dspOpen k = true ∧
      i = s.get (.dsp k) DSP.REG_SEL_REG ∧ 16 ≤ i ∧ (s.dsp k).sysWrite (i - 16) v.toNat = some y) ∧
    (∃ fn : FuncId, ∃ k : BlockId, ∃ s : State, ∃ i : ℕ, s.reachesDsp fn k = true ∧ i = s.get (.dsp k) DSP.REG_SEL_REG ∧ i < 16) ∧
    (∃ fn : FuncId, ∃ k : BlockId, ∃ s : State, ∃ c : Instr, s.reachesDsp fn k = false ∧ (c = .pmemData fn k none ∨ c = .regData fn k none)) ∧
    (∃ fn : FuncId, ∃ k : BlockId, ∃ v : Word, ∃ s : State, ∃ c : Instr, s.reachesDsp fn k = true ∧ s.dspOpen k = false ∧ (c = .pmemData fn k (some v) ∨
      c = .regData fn k (some v))) :=
  ⟨⟨0, { w := 0x1023544, fetchBad := false, bankBad := false, waited := true }, (dspAt 1), 0x3544, DspState.init,
     by unfold accesses goodWord retires dspNext; decide +kernel⟩,
   ⟨0, { w := 0, fetchBad := false, bankBad := true, waited := true }, (dspAt 1), 0, DspState.init,
     (.ldw 0 { w := 0, fetchBad := false, bankBad := true, waited := true }), by unfold accesses goodWord retires dspNext; decide +kernel⟩,
   ⟨0, { w := 1, fetchBad := false, bankBad := true, waited := true }, (dspAt 1), 0, { DspState.init with p := [1, 0, 0, 0, 0, 0, 0, 0] },
     by unfold accesses retires dspNext; decide +kernel⟩,
   ⟨0, 1, (rxAt 0), 0, by decide +kernel⟩,
   ⟨0, 0, parked, 0, by decide +kernel⟩,
   ⟨0, 0, runs3, 0, by decide +kernel⟩,
   ⟨0, 1, 0, (st [(.dsp 1, DSP.REG_SEL_REG, 16)] (lcIs 2)), 16, DspState.init, by decide +kernel⟩,
   ⟨0, 0, (rxAt 3), 0, by decide +kernel⟩,
   ⟨1, 3, (lcIs 2), (.pmemData 1 3 none), by decide +kernel⟩,
   ⟨0, 0, 17, (dspAt 4), (.pmemData 0 0 (some 17)), by decide +kernel⟩⟩

theorem witness_DspFlow :
    (∃ k : BlockId, ∃ m : DspArgs, ∃ s : State, retires s k m ∧ atBoundary s k ∧ branchLegal m.w = true) ∧
    (∃ k : BlockId, ∃ m : DspArgs, ∃ s : State, retires s k m ∧ atBoundary s k ∧ m.w = 0) ∧
    (∃ k : BlockId, ∃ m : DspArgs, ∃ s : State, retires s k m ∧ (s.dsp k).slots = 1 ∧ m.w = 0) ∧
    (∃ k : BlockId, ∃ m : DspArgs, ∃ s : State, retires s k m ∧ (s.dsp k).slots = 1 ∧ (s.dsp k).toLr = true ∧ m.w.toNat % 2 ^ 22 = 34) ∧
    (∃ k : BlockId, ∃ m : DspArgs, ∃ s : State, retires s k m ∧ atBoundary s k ∧ (s.dsp k).pc + 1 + Dw.f m.w 24 20 ≤ 8191) ∧
    (∃ k : BlockId, ∃ m : DspArgs, ∃ s : State, ∃ a : ℕ, ∃ n : ℕ, retires s k m ∧ (s.dsp k).slots = 0 ∧ (s.dsp k).rpt = some (a, (s.dsp k).pc, n + 1) ∧
      m.w = 0) ∧
    (∃ k : BlockId, ∃ m : DspArgs, ∃ s : State, retires s k m ∧ atBoundary s k ∧ m.w = 0 ∧ bitsOf (s.dsp k).isw 7 6 ≠ 3) ∧
    (∃ k : BlockId, ∃ m : DspArgs, ∃ s : State, retires s k m ∧ m.w = 0) ∧
    (∃ k : BlockId, ∃ s : State, ∃ i : ℕ, s.dspIs k .running = true ∧ s.time.frozen = false ∧ Nat.testBit (s.dsp k).sw 4 = true ∧ atBoundary s k ∧
      i < 3 ∧ bitOf (s.get (.dsp k) DSP.IRQ_STATUS_PEND) i = 1 ∧ (∀ j, j < i → bitOf (s.get (.dsp k) DSP.IRQ_STATUS_PEND) j = 0) ∧
      s.get (.dsp k) DSP.IRQ_STATUS_PEND < 8) ∧
    (∃ k : BlockId, ∃ s : State, (s.dspIs k .running = false ∨ s.dspIrqDue k = false ∨ s.time.frozen = true)) ∧
    (∃ k : BlockId, ∃ m : DspArgs, ∃ s : State, ∃ c : Instr, dspNext s k ∧ s.fetchBad k m = false ∧ (dspIllegal k m c ∨ (s.dspReserved k = true ∧
      c ∈ dspCommands k m))) ∧
    (∃ k : BlockId, ∃ m : DspArgs, ∃ s : State, ∃ c : Instr, dspNext s k ∧ s.fetchBad k m = false ∧ ¬atBoundary s k ∧ c ∈ [Instr.dspBr k m, .dspCall k m,
      .dspRet k m, .dspRpt k m, .dspHalt k m, .dspIdle k m, .dspReti k m]) ∧
    (∃ k : BlockId, ∃ m : DspArgs, ∃ s : State, ∃ c : Instr, dspNext s k ∧ s.fetchBad k m = true ∧ c ∈ dspCommands k m) ∧
    (∃ k : BlockId, ∃ m : DspArgs, ∃ s : State, ∃ c : Instr, (s.dspIs k .running = false ∨ s.dspIrqDue k = true ∨ s.time.frozen = true) ∧
      c ∈ dspCommands k m) ∧
    (∃ k : BlockId, ∃ s : State, s.dspIs k .running = true) ∧
    (∃ k : BlockId, ∃ s : State, s.dspIs k .running = false) :=
  ⟨⟨0, { w := 0, fetchBad := false, bankBad := true, waited := true }, (dspAt 1), by unfold atBoundary retires dspNext; decide +kernel⟩,
   ⟨0, { w := 0, fetchBad := false, bankBad := true, waited := true }, (dspAt 1), by unfold atBoundary retires dspNext; decide +kernel⟩,
   ⟨0, { w := 0, fetchBad := false, bankBad := true, waited := true }, (dspSlot false), by unfold retires dspNext; decide +kernel⟩,
   ⟨0, { w := 34, fetchBad := false, bankBad := false, waited := false },
     { (dspAt 1) with dsps := [(0, { DspState.init with slots := 1, toLr := true })] }, by unfold retires dspNext; decide +kernel⟩,
   ⟨0, { w := 0x282a446, fetchBad := false, bankBad := true, waited := false }, (dspAt 1), by unfold atBoundary retires dspNext; decide +kernel⟩,
   ⟨0, { w := 0, fetchBad := false, bankBad := true, waited := true }, dspLoop, 2, 2, by unfold retires dspNext; decide +kernel⟩,
   ⟨0, { w := 0, fetchBad := false, bankBad := true, waited := false }, (dspAt 1), by unfold atBoundary retires dspNext; decide +kernel⟩,
   ⟨0, { w := 0, fetchBad := false, bankBad := true, waited := false }, (dspAt 1), by unfold retires dspNext; decide +kernel⟩,
   ⟨0, dspIrq, 1, by unfold atBoundary; decide +kernel⟩,
   ⟨0, (warm 1), by decide +kernel⟩,
   ⟨0, { w := 61, fetchBad := false, bankBad := false, waited := true }, (dspAt 1),
     (.dspNop 0 { w := 61, fetchBad := false, bankBad := false, waited := true }), by unfold dspIllegal dspNext; decide +kernel⟩,
   ⟨0, { w := 0x3fffffe, fetchBad := false, bankBad := true, waited := true }, dspLoop,
     (.dspBr 0 { w := 0x3fffffe, fetchBad := false, bankBad := true, waited := true }), by unfold atBoundary dspNext; decide +kernel⟩,
   ⟨0, { w := 0x3fffffd, fetchBad := true, bankBad := true, waited := true }, dspLoop,
     (.dspNop 0 { w := 0x3fffffd, fetchBad := true, bankBad := true, waited := true }), by unfold dspNext; decide +kernel⟩,
   ⟨0, { w := 0x3ffffff, fetchBad := true, bankBad := true, waited := true }, ringOn,
     (.dspNop 0 { w := 0x3ffffff, fetchBad := true, bankBad := true, waited := true }), by decide +kernel⟩,
   ⟨0, dspIrq, by decide +kernel⟩,
   ⟨1, trap1, by decide +kernel⟩⟩

theorem witness_DspControl :
    (∃ fn : FuncId, ∃ k : BlockId, ∃ s : State, s.reachesDsp fn k = true ∧ s.pageIs (.dsp k) .ready = true ∧ (s.dspIs k .halted = true ∨
      s.dspIs k .faulted = true)) ∧
    (∃ fn : FuncId, ∃ k : BlockId, ∃ s : State, s.reachesDsp fn k = true ∧ (s.dspIs k .running = true ∨ s.dspIs k .idle = true) ∧ atBoundary s k) ∧
    (∃ fn : FuncId, ∃ k : BlockId, ∃ s : State, s.reachesDsp fn k = true ∧ (s.dspIs k .running = true ∨ s.dspIs k .idle = true) ∧ ¬atBoundary s k) ∧
    (∃ fn : FuncId, ∃ k : BlockId, ∃ s : State, s.reachesDsp fn k = true ∧ s.dspIs k .running = false ∧ s.dspIs k .idle = false) ∧
    (∃ k : BlockId, ∃ m : DspArgs, ∃ s : State, dspNext s k ∧ s.fetchBad k m = false ∧ s.dspReserved k = false ∧ m.w = 0 ∧ (s.dsp k).haltReq = true ∧
      (s.dsp k).slots = 1 ∧ (s.dsp k).rpt = none) ∧
    (∃ fn : FuncId, ∃ k : BlockId, ∃ s : State, s.reachesDsp fn k = true ∧ (s.dspIs k .running = true ∨ s.dspIs k .idle = true)) ∧
    (∃ fn : FuncId, ∃ k : BlockId, ∃ s : State, ∃ c : Instr, s.reachesDsp fn k = true ∧ s.dspIs k .watch = true ∧ ((c = .dspStart fn k ∧
      s.pageIs (.dsp k) .ready = true) ∨ c = .dspAbort fn k)) ∧
    (∃ k : BlockId, ∃ s : State, (s.pageIs (.dsp k) .ready = false ∨ s.dspIs k .running = true ∨ s.dspIs k .idle = true)) ∧
    (∃ fn : FuncId, ∃ k : BlockId, ∃ s : State, s.reachesDsp fn k = true ∧ (s.dspIs k .halted = true ∨ s.dspIs k .faulted = true)) ∧
    (∃ fn : FuncId, ∃ k : BlockId, ∃ s : State, s.reachesDsp fn k = true) ∧
    (∃ fn : FuncId, ∃ k : BlockId, ∃ s : State, s.reachesDsp fn k = true ∧ s.dspIs k .idle = true ∧ Nat.testBit (s.get (.dsp k) DSP.IRQ_EN_EN) 1 = true) ∧
    (∃ fn : FuncId, ∃ k : BlockId, ∃ s : State, s.reachesDsp fn k = true ∧ Nat.testBit (s.get (.dsp k) DSP.IRQ_EN_EN) 1 = false) ∧
    (∃ fn : FuncId, ∃ k : BlockId, ∃ v : Word, ∃ s : State, ∃ c : Instr, s.reachesDsp fn k = false ∧ (c = .dspStart fn k ∨ c = .dspCtrlHalt fn k ∨
      c = .dspAbort fn k ∨ c = .clrFlags fn k ∨ c = .dspDoorbell fn k v ∨ c = .pmemData fn k (some v) ∨ c = .regData fn k (some v))) ∧
    (∃ k : BlockId, ∃ s : State, s.dspIs k .halted = true ∧ s.get (.dsp k) DSP.CFG_WATCH_EN = 1 ∧ s.shed = false) ∧
    (∃ k : BlockId, ∃ s : State, (s.dspIs k .halted = false ∨ s.get (.dsp k) DSP.CFG_WATCH_EN ≠ 1 ∨ s.shed = true)) ∧
    (∃ k : BlockId, ∃ s : State, s.dspIs k .watch = true ∧ (s.dsp k).heldStart = none) ∧
    (∃ k : BlockId, ∃ s : State, s.dspIs k .watch = true) ∧
    (∃ k : BlockId, ∃ s : State, s.dspIs k .watch = true ∧ (s.dsp k).heldStart = some true) ∧
    (∃ k : BlockId, ∃ s : State, s.dspIs k .watch = true ∧ (s.dsp k).heldStart = some false) ∧
    (∃ k : BlockId, ∃ s : State, s.dspIs k .watch = false) ∧
    (∃ k : BlockId, ∃ s : State, (s.get (.dsp k) DSP.CFG_WATCH_EN ≠ 1 ∨ s.shed = true ∨ (s.dspIs k .running = false ∧ s.dspIs k .idle = false) ∨
      Nat.testBit (s.get (.dsp k) DSP.IRQ_EN_EN) 2 = false)) ∧
    (∃ k : BlockId, ∃ s : State, s.get (.dsp k) DSP.CFG_WATCH_EN = 1 ∧ s.shed = false ∧ (s.dspIs k .running = true ∨ s.dspIs k .idle = true) ∧
      Nat.testBit (s.get (.dsp k) DSP.IRQ_EN_EN) 2 = true) :=
  ⟨⟨0, 0, (dspAt 3), by decide +kernel⟩,
   ⟨0, 0, dspIrq, by unfold atBoundary; decide +kernel⟩,
   ⟨0, 0, dspLoop, by unfold atBoundary; decide +kernel⟩,
   ⟨0, 0, rival, by decide +kernel⟩,
   ⟨0, { w := 0, fetchBad := false, bankBad := true, waited := true }, (dspSlot true), by unfold dspNext; decide +kernel⟩,
   ⟨0, 0, dspIrq, by decide +kernel⟩,
   ⟨0, 0, (dspAt 4), (.dspStart 0 0), by decide +kernel⟩,
   ⟨0, held0, by decide +kernel⟩,
   ⟨0, 0, run0, by decide +kernel⟩,
   ⟨0, 0, void5, by decide +kernel⟩,
   ⟨0, 0, (st [(.dsp 0, DSP.STATUS_STATE, 2), (.dsp 0, DSP.IRQ_EN_EN, 2)] grp1), by decide +kernel⟩,
   ⟨0, 0, void5, by decide +kernel⟩,
   ⟨2, 0, 0, ucFar, (.dspStart 2 0), by decide +kernel⟩,
   ⟨1, (st [(.dsp 1, DSP.CFG_WATCH_EN, 1)] (dqOn)), by decide +kernel⟩,
   ⟨0, fired0, by decide +kernel⟩,
   ⟨0, (dspAt 4), by decide +kernel⟩,
   ⟨0, (dspAt 4), by decide +kernel⟩,
   ⟨0, { (dspAt 4) with dsps := [(0, { DspState.init with heldStart := some true })] }, by decide +kernel⟩,
   ⟨0, { (dspAt 4) with dsps := [(0, { DspState.init with heldStart := some false })] }, by decide +kernel⟩,
   ⟨41, (warm 0), by decide +kernel⟩,
   ⟨0, runs3, by decide +kernel⟩,
   ⟨0, (st [(.dsp 0, DSP.CFG_WATCH_EN, 1), (.dsp 0, DSP.IRQ_EN_EN, 4)] (dspAt 1)), by decide +kernel⟩⟩

theorem witness_MemoriesAndPorters :
    (∃ fn : FuncId, ∃ a : BitVec 36, ∃ data : List Byte, ∃ s : State, opensBar2 s fn ∧ a.toNat + data.length ≤ hbmEnd ∧
      s.get .hbm HBM.STATUS_WIPING = 0 ∧ (∀ i, i < data.length → s.hbmView fn (a.toNat + i) 1 = true)) ∧
    (∃ fn : FuncId, ∃ a : BitVec 36, ∃ data : List Byte, ∃ s : State, ∃ k : ℕ, ∃ w : ℕ, fn.val = 0 ∧ data.length = 8 ∧ a.toNat = bankAddr k w ∧ k < 64 ∧
      w < 262144 ∧ s.wipingBlock k = false) ∧
    (∃ fn : FuncId, ∃ a : BitVec 36, ∃ data : List Byte, ∃ s : State, ∃ e : EngineId, ∃ b : ℕ, opensBar2 s fn ∧ data.length = 8 ∧
      a.toNat = spadAddr e b ∧ b % 8 = 0 ∧ 0x8000 ≤ b ∧ b < 0xFF00 ∧ (fn.val = 0 ∨ s.guestOf e = fn.val) ∧ s.wipingBlock (blockOf e) = false) ∧
    (∃ fn : FuncId, ∃ a : BitVec 36, ∃ data : List Byte, ∃ s : State, ∃ n : RegionId, ∃ i : ℕ, opensBar2 s fn ∧ data.length = 8 ∧
      a.toNat = ctxAddr n 0 + 8 * i ∧ i < 2 ^ 20 ∧ s.ctxView fn n (i / 8) = true ∧ s.word .misc (wipeRegion n) = 0) ∧
    (∃ fn : FuncId, ∃ a : BitVec 36, ∃ data : List Byte, ∃ s : State, ∃ n : RegionId, ∃ i : ℕ, fn.val = 0 ∧ data.length = 4 ∧
      a.toNat = weightAddr n 0 + 4 * i ∧ i < 2 ^ 19 ∧ s.word .misc (wipeRegion n) = 0 ∧ s.wf = true) ∧
    (∃ fn : FuncId, ∃ a : BitVec 36, fn.val = 0 ∧ placeOf a.toNat = none) ∧
    (∃ fn : FuncId, ∃ a : BitVec 36, ∃ s : State, ∃ x : Place, placeOf a.toNat = some x ∧ (s.viewOf fn x = false ∨ x.writable = false ∨
      s.wiping x = true ∨ (fn.val ≠ 0 ∧ s.guestReady fn.val = false))) ∧
    (∃ n : RegionId, ∃ owner : FuncId, ∃ s : State, (s.nextQueue n ≠ some owner.val ∨ 256 ≤ s.inflight n ∨ s.pageIs (.porter n) .ready = false)) ∧
    (∃ n : RegionId, ∃ owner : FuncId, ∃ s : State, ∃ q : QueueRegs, q = queueRegs n owner ∧ s.nextQueue n = some owner.val ∧ s.inflight n < 256 ∧
      s.pageIs (.porter n) .ready = true) ∧
    (∃ n : RegionId, ∃ owner : FuncId, ∃ s : State, ∃ d : BitVec 256, ∃ rest : List (BitVec 256), ∃ z : ℕ, ∃ src : ℕ, ∃ dst : ℕ, ∃ len : ℕ,
      oldestDesc s n owner d rest z ∧ s.descReason n owner d.toNat = none ∧ src = Desc.src d.toNat ∧ dst = Desc.dst d.toNat ∧
      len = Desc.len d.toNat ∧ Desc.irq d.toNat = false ∧ src + len ≤ hbmEnd ∧ dst + len ≤ hbmEnd ∧ (∀ i,
      i < len / 8 → s.poisoned (src + 8 * i) = false) ∧ (dst + len ≤ z ∨ z + 4 ≤ dst)) ∧
    (∃ n : RegionId, ∃ owner : FuncId, ∃ s : State, ∃ d : BitVec 256, ∃ rest : List (BitVec 256), ∃ z : ℕ, ∃ src : ℕ, ∃ dst : ℕ, ∃ len : ℕ,
      oldestDesc s n owner d rest z ∧ s.descReason n owner d.toNat = none ∧ src = Desc.src d.toNat ∧ dst = Desc.dst d.toNat ∧
      len = Desc.len d.toNat ∧ src + len ≤ hbmEnd ∧ onHost dst = true ∧ (∀ i, i < len / 8 → s.poisoned (src + 8 * i) = false)) ∧
    (∃ n : RegionId, ∃ owner : FuncId, ∃ host : List Byte, ∃ s : State, ∃ d : BitVec 256, ∃ rest : List (BitVec 256), ∃ z : ℕ, ∃ src : ℕ, ∃ dst : ℕ,
      ∃ len : ℕ, oldestDesc s n owner d rest z ∧ s.descReason n owner d.toNat = none ∧ src = Desc.src d.toNat ∧ dst = Desc.dst d.toNat ∧
      len = Desc.len d.toNat ∧ onHost src = true ∧ dst + len ≤ hbmEnd ∧ host.length = len ∧ (dst + len ≤ z ∨ z + 4 ≤ dst)) ∧
    (∃ n : RegionId, ∃ owner : FuncId, ∃ s : State, ∃ d : BitVec 256, ∃ rest : List (BitVec 256), ∃ z : ℕ, ∃ src : ℕ, ∃ dst : ℕ, ∃ len : ℕ, ∃ i : ℕ,
      ∃ k : ℕ, oldestDesc s n owner d rest z ∧ s.descReason n owner d.toNat = none ∧ src = Desc.src d.toNat ∧ dst = Desc.dst d.toNat ∧
      len = Desc.len d.toNat ∧ src + len ≤ hbmEnd ∧ dst + len ≤ hbmEnd ∧ i < len / 8 ∧ s.poisoned (src + 8 * i) = true ∧ (∀ j,
      j < i → s.poisoned (src + 8 * j) = false) ∧ k = (src + 8 * i) / 64 * 64 - src ∧ (dst + len ≤ z ∨ z + 4 ≤ dst)) ∧
    (∃ n : RegionId, ∃ owner : FuncId, ∃ s : State, ∃ d : BitVec 256, ∃ rest : List (BitVec 256), ∃ z : ℕ, ∃ r : ℕ, oldestDesc s n owner d rest z ∧
      s.descReason n owner d.toNat = some r) ∧
    (∃ n : RegionId, ∃ owner : FuncId, ∃ s : State, (s.dq (queueNo n owner)).fetched = []) ∧
    (∃ fn : FuncId, ∃ n : RegionId, ∃ s : State, ∃ q : QueueRegs, q = queueRegs n fn ∧ s.get q.page q.en = 1 ∧ (fn.val = 0 ∨ s.guestReady fn.val = true)) ∧
    (∃ fn : FuncId, ∃ n : RegionId, ∃ s : State, ∃ d : BitVec 256, ∃ z : ℕ, oldestDesc s n fn d [] z ∧
      s.get (queueRegs n fn).page (queueRegs n fn).en = 1 ∧ opensBar2 s fn ∧
      s.get (queueRegs n fn).page (queueRegs n fn).head = s.get (queueRegs n fn).page (queueRegs n fn).tail) ∧
    (∃ fn : FuncId, ∃ n : RegionId, ∃ s : State, (s.get (queueRegs n fn).page (queueRegs n fn).en = 0 ∨ ¬opensBar2 s fn)) ∧
    (∃ k : BlockId, ∃ s : State, s.get (.block k) BLOCK.LIB_STATUS_BUSY = 0) ∧
    (∃ k : BlockId, ∃ s : State, s.get (.block k) BLOCK.LIB_STATUS_BUSY = 1) ∧
    (∃ k : BlockId, ∃ s : State, s.get (.block k) BLOCK.LIB_STATUS_BUSY = 1 ∧ s.libInUse k (s.blk k).libDst = false ∧ ((s.blk k).libLen = 0 ∨
      4096 < (s.blk k).libLen)) ∧
    (∃ k : BlockId, ∃ s : State, s.get (.block k) BLOCK.LIB_STATUS_BUSY = 1 ∧ s.libInUse k (s.blk k).libDst = true) ∧
    (∃ k : BlockId, ∃ s : State, ∃ b : Block, b = s.blk k ∧ s.get (.block k) BLOCK.LIB_STATUS_BUSY = 1 ∧ s.libInUse k b.libDst = false ∧ 1 ≤ b.libLen ∧
      b.libLen ≤ 4096 ∧ b.libDst < 64 ∧ b.libFrom + 8 * b.libLen ≤ hbmEnd ∧
      s.loadFailure (16 * k) b.libLen true (fun i => BitVec.ofNat 64 (s.bytes (b.libFrom + 8 * i) 8)) = none) :=
  ⟨⟨0, 1, [0], dspIrq, by unfold opensBar2; decide +kernel⟩,
   ⟨0, 0x700000000, [2, 0, 34, 32, 0, 0, 0, 0], (warm 1), 0, 0, by decide +kernel⟩,
   ⟨0, 0x700208000, [148, 0, 0, 0, 0, 0, 0, 0], (rxAt 1), 0, 0x8000, by unfold opensBar2; decide +kernel⟩,
   ⟨0, 0x600000000, [15, 1, 0, 0, 0, 0, 0, 0], runs3, 0, 0, by unfold opensBar2; decide +kernel⟩,
   ⟨0, 0x604800000, [17, 0, 0, 0], ucStd0, 1, 0, by decide +kernel⟩,
   ⟨0, 0xf52406c9c, by decide +kernel⟩,
   ⟨3, 1, crit0, (.hbm 1), by decide +kernel⟩,
   ⟨0, 3, pinned, by decide +kernel⟩,
   ⟨0, 0, dqOn, queueRegs 0 0, rfl, by decide +kernel, by decide +kernel, by decide +kernel⟩,
   ⟨0, 0, (dqHeld copyDesc), copyDesc, [], 28, 8192, 4096, 64, by unfold oldestDesc; decide +kernel⟩,
   ⟨0, 0, { (dqHeld 0) with dqs := [(0, { fetched := [0x4080000000000010000000000000002000] })] }, 0x4080000000000010000000000000002000, [], 28, 8192,
     0x8000000000001000, 64, by unfold oldestDesc; decide +kernel⟩,
   ⟨0, 0, List.replicate 8 7, dqHeld hostDesc, hostDesc, [], 28, 2 ^ 63, 0x1000, 8, by unfold oldestDesc; decide +kernel⟩,
   ⟨0, 0, { runCkpt with tbl := [(0xe00000000000, 1)], dqs := [(0, { fetched := [0x800000000000000000000000000000000] })] },
     0x800000000000000000000000000000000, [], 28, 0, 0, 8, 0, 0, by unfold oldestDesc; decide +kernel⟩,
   ⟨0, 0, (dqHeld 0), 0, [], 28, 2, by unfold oldestDesc; decide +kernel⟩,
   ⟨0, 0, idle0, by decide +kernel⟩,
   ⟨0, 0, dqOn, queueRegs 0 0, rfl, by decide +kernel, by decide +kernel⟩,
   ⟨0, 0, { st [(.porter 0, PORTER.DQ_CTRL_EN, 1)] (lcIs 1) with dqs := [(0, { fetched := [2] })] }, 2, 28,
     by unfold oldestDesc opensBar2; decide +kernel⟩,
   ⟨0, 0, fed, by unfold opensBar2; decide +kernel⟩,
   ⟨0, (rxAt 0), by decide +kernel⟩,
   ⟨0, libBusy, by decide +kernel⟩,
   ⟨3, (st [(.block 3, BLOCK.LIB_STATUS_BUSY, 1)] void5), by decide +kernel⟩,
   ⟨0, libHeld, by decide +kernel⟩,
   ⟨0, (st [(.cell 0, CELL.STATUS_STATE, 9)] libHeld), { Block.init with libFrom := 64, libDst := 2, libLen := 1 }, by decide +kernel⟩⟩

theorem witness_MemoryFaults :
    (∃ m : MemWord, wordIndex m < wordCount m) ∧
    (∃ m : MemWord, ∃ c : Page × Machine.Field, wordIndex m < wordCount m ∧ wordCounter m = some c) ∧
    (∃ n : RegionId, ∃ w : BitVec 20, ∃ v : BitVec 18, ∃ s : State, ∃ c : MemWord, (c = .context n w ∨ c = .weight n v) ∧
      s.pageIs (.region n) .quarantined = false) ∧
    (∃ m : MemWord, wordCount m ≤ wordIndex m) ∧
    (∃ k : BlockId, ∃ w : BitVec 18, ∃ s : State, s.knownBad (.bank k w) = false) ∧
    (∃ n : RegionId, ∃ w : BitVec 20, ∃ s : State, s.knownBad (.context n w) = false) ∧
    (∃ m : MemWord, ∃ s : State, wordIndex m < wordCount m ∧ s.knownBad m = true) ∧
    (∃ m : MemWord, ∃ s : State, s.word .poison (wordMark m) = 3) ∧
    (∃ m : MemWord, ∃ s : State, s.word .poison (wordMark m) ≠ 3) ∧
    (∃ m : MemWord, ∃ s : State, s.knownBad m = true) ∧
    (∃ n : RegionId, ∃ w : BitVec 19, ∃ v : BitVec 19, ∃ s : State, ∃ m : MemWord, (m = .ledger n w ∨ m = .capture n v) ∧ s.knownBad m = false) ∧
    (∃ k : BlockId, ∃ w : BitVec 13, ∃ s : State, s.knownBad (.program k w) = false) ∧
    (∃ k : BlockId, ∃ w : BitVec 18, ∃ s : State, s.knownBad (.bank k w) = false ∧ s.pageIs (.block k) .quarantined = false) ∧
    (∃ n : RegionId, ∃ w : BitVec 20, ∃ s : State, s.knownBad (.context n w) = false ∧ s.get (.porter n) PORTER.SPARE_ROWS_CONTEXT < 32) ∧
    (∃ n : RegionId, ∃ w : BitVec 19, ∃ s : State, s.knownBad (.ledger n w) = false ∧ 32 ≤ s.get (.porter n) PORTER.SPARE_ROWS_LEDGER ∧
      s.pageIs (.region n) .quarantined = false) ∧
    (∃ w : BitVec 32, ∃ s : State, ∃ a : ℕ, wordAddr (.hbm w) = some a ∧ s.knownBad (.hbm w) = false) ∧
    (∃ e : EngineId, ∃ s : State, (s.micro e).csHeld = true) ∧
    (∃ e : EngineId, ∃ s : State, (s.micro e).csHeld = true ∧ s.pageIs (blockPage (blockOf e)) .quarantined = false) ∧
    (∃ e : EngineId, ∃ s : State, (s.micro e).csHeld = false) ∧
    (∃ k : BlockId, ∃ s : State, s.pageIs (.block k) .quarantined = false) ∧
    (∃ k : BlockId, ∃ s : State, s.pageIs (.block k) .quarantined = true) ∧
    (∃ n : RegionId, ∃ s : State, s.pageIs (.region n) .quarantined = false) ∧
    (∃ n : RegionId, ∃ s : State, s.pageIs (.region n) .quarantined = true) :=
  ⟨⟨(.hbm 3), by decide +kernel⟩,
   ⟨(.hbm 0x843bd4b1), (.hbm, { off := 68, lo := 0, width := 16, acc := .ro, reset := 0 }), by decide +kernel⟩,
   ⟨0, 2, 160, gap, (.weight 0 160), by decide +kernel⟩,
   ⟨(.hbm 0xffffffff), by decide +kernel⟩,
   ⟨1, 2, trap1, by decide +kernel⟩,
   ⟨0, 480, ringOn, by decide +kernel⟩,
   ⟨(.hbm 1), { libHeld with tbl := [(0xe00000000001, 1)] }, by decide +kernel⟩,
   ⟨(.weight 0 0), { (gap) with tbl := [(0xe000c0100000, 3)] }, by decide +kernel⟩,
   ⟨(.ledger 7 794), (rxAt 1), by decide +kernel⟩,
   ⟨(.hbm 3), { microTry with tbl := [(0xe00000000003, 1)] }, by decide +kernel⟩,
   ⟨1, 3, 5128, alone, (.ledger 1 3), by decide +kernel⟩,
   ⟨0, 2378, dqOn, by decide +kernel⟩,
   ⟨28, 4095, grp1, by decide +kernel⟩,
   ⟨0, 3, (rxAt 3), by decide +kernel⟩,
   ⟨0, 2, (st [(.porter 0, PORTER.SPARE_ROWS_LEDGER, 32)] (rxAt 1)), by decide +kernel⟩,
   ⟨0, runs3, 0, by decide +kernel⟩,
   ⟨1, { grp1 with engs := [(1, { Engine.init with micro := { Micro.init with csHeld := true } })] }, by decide +kernel⟩,
   ⟨0, { ready0 with engs := [(0, { Engine.init with micro := { Micro.init with csHeld := true } })] }, by decide +kernel⟩,
   ⟨0, crit0, by decide +kernel⟩,
   ⟨0, run0, by decide +kernel⟩,
   ⟨2, (st [(.block 2, ALL.PAGE_STATE_STATE, 4)] shadowed), by decide +kernel⟩,
   ⟨0, (warm 1), by decide +kernel⟩,
   ⟨7, (st [(.region 7, ALL.PAGE_STATE_STATE, 4)] (gap)), by decide +kernel⟩⟩

theorem witness_LedgerAndSpares :
    (∃ fn : FuncId, ∃ s : State, ∃ g : ℕ, ∃ i : ℕ, g = s.get .ledger LEDGER.GRP_SEL_GROUP ∧ i = s.get .ledger LEDGER.GRP_SEL_WORD ∧
      s.reachesGroup fn g = true) ∧
    (∃ fn : FuncId, ∃ s : State, s.reachesGroup fn (s.get .ledger LEDGER.GRP_SEL_GROUP) = false) ∧
    (∃ fn : FuncId, ∃ v : Word, ∃ s : State, ∃ g : ℕ, ∃ i : ℕ, ∃ x : ℕ, g = s.get .ledger LEDGER.GRP_SEL_GROUP ∧ i = s.get .ledger LEDGER.GRP_SEL_WORD ∧
      g < 256 ∧ i < 48 ∧ s.reachesGroup fn g = true ∧ grpMask i ≠ 0 ∧ x = v.toNat &&& grpMask i ∧ (fn.val = 0 ∨ ∀ e ∈ engineBits i v.toNat,
      s.guestOf e = fn.val) ∧ membersStopped s g i x ∧ (staysDisabled s g i x ∨ ∀ e ∈ s.membersAfter g i x, s.memberElsewhere g e = false) ∧
      (i = 0 → x % 2 = 1 → (∀ e ∈ s.membersAfter g i x, s.guestOf e = x / 2 ^ 8 % 2 ^ 7) ∧ s.grpWord g 1 % 2 ^ 16 ≠ 0xFFFF)) ∧
    (∃ v : Word, ∃ s : State, ∃ g : ℕ, ∃ i : ℕ, ∃ x : ℕ, ∃ e : ℕ, g = s.get .ledger LEDGER.GRP_SEL_GROUP ∧ i = s.get .ledger LEDGER.GRP_SEL_WORD ∧
      i < 48 ∧ grpMask i ≠ 0 ∧ x = v.toNat &&& grpMask i ∧ (e ∈ s.members g ∨ e ∈ s.membersAfter g i x) ∧ s.engStopped e = false) ∧
    (∃ v : Word, ∃ s : State, ∃ g : ℕ, ∃ i : ℕ, ∃ x : ℕ, ∃ e : ℕ, g = s.get .ledger LEDGER.GRP_SEL_GROUP ∧ i = s.get .ledger LEDGER.GRP_SEL_WORD ∧
      i < 48 ∧ grpMask i ≠ 0 ∧ x = v.toNat &&& grpMask i ∧ membersStopped s g i x ∧ ¬ staysDisabled s g i x ∧ e ∈ s.membersAfter g i x ∧
      s.memberElsewhere g e = true) ∧
    (∃ v : Word, ∃ s : State, (v.toNat % 2 = 0 ∨ s.markOwned (v.toNat / 2 ^ 4 % 2 ^ 4) = false)) ∧
    (∃ v : Word, ∃ s : State, v.toNat % 2 = 1 ∧ s.markOwned (v.toNat / 2 ^ 4 % 2 ^ 4) = true) ∧
    (∃ owner : FuncId, ∃ s : State, ∃ r : LedRecord, ∃ ring : RingRegs, ∃ wr : ℕ, ring = ledgerRing owner ∧ wr = s.get ring.page ring.wr ∧
      s.led.waiting.find? (fun r => r.guest = owner.val) = some r ∧ 64 ≤ r.bytes.length ∧ s.ringTakes ring r.bytes.length = true ∧
      onHost (s.ringBase ring + wr) = true ∧ wr + r.bytes.length ≤ s.ringSize ring) ∧
    (∃ owner : FuncId, ∃ u : Fin 514, ∃ s : State, ∃ r : LedRecord, ∃ ring : RingRegs, ∃ wr : ℕ, ring = ledgerRing owner ∧ wr = s.get ring.page ring.wr ∧
      s.led.waiting.find? (fun r => r.guest = owner.val) = some r ∧ 64 ≤ r.bytes.length ∧ s.ringTakes ring r.bytes.length = true ∧
      onHost (s.ringBase ring + wr) = true ∧ wr + r.bytes.length ≤ s.ringSize ring ∧ r.tag = none ∧ 64 * u.val + 64 ≤ r.bytes.length) ∧
    (∃ owner : FuncId, ∃ s : State, ∃ r : LedRecord, ∃ ring : RingRegs, ring = ledgerRing owner ∧
      s.led.waiting.find? (fun r => r.guest = owner.val) = some r ∧ s.ringTakes ring r.bytes.length = false) ∧
    (∃ owner : FuncId, ∃ s : State, (∀ r ∈ s.led.waiting, r.guest ≠ owner.val)) ∧
    (∃ k : BlockId, ∃ s : State, ∃ b : Block, ∃ c : ℕ, b = s.blk k ∧ s.wf = true ∧ b.spareUsed = false ∧ b.copied = false ∧ b.takeover = none ∧
      b.shadow < 16 ∧ ((∃ i, i < 16 ∧ c = (b.shadow + i) % 16 ∧ s.inShot (16 * k + c) = true ∧ ∀ j,
      j < i → s.inShot (16 * k + (b.shadow + j) % 16) = false) ∨ (c = b.shadow ∧ ∀ j, j < 16 → s.inShot (16 * k + j) = false))) ∧
    (∃ k : BlockId, ∃ s : State, ((s.blk k).spareUsed = true ∨ (s.blk k).copied = true ∨ (s.blk k).takeover ≠ none)) ∧
    (∃ k : BlockId, ∃ s : State, ∃ b : Block, ∃ i : ℕ, b = s.blk k ∧ b.spareUsed = false ∧ b.running = true ∧ 2 ^ 20 ≤ b.shadowShots ∧ i < 16 ∧
      s.inShot (16 * k + (b.shadow + 1 + i) % 16) = true ∧ (∀ j, j < i → s.inShot (16 * k + (b.shadow + 1 + j) % 16) = false)) ∧
    (∃ k : BlockId, ∃ s : State, ((s.blk k).shadowShots < 2 ^ 20 ∨ (s.blk k).spareUsed = true ∨ (s.blk k).running = false ∨ (∀ i,
      i < 16 → s.inShot (16 * k + i) = false))) ∧
    (∃ e : EngineId, ∃ s : State, ∃ b : Block, b = s.blk (blockOf e) ∧ s.wf = true ∧ b.takeover = some (cellOf e) ∧ s.inShot e = false ∧
      s.engIs e .faulted = true ∧ s.leads (s.groupOf e) = true ∧ s.get (.cell e) CELL.STATUS_LIB = 0 ∧
      opListed (s.bytes (keptProgAddr e (8 * (s.pc e % 4096))) 8 / 2 ^ 56) = true) ∧
    (∃ e : EngineId, ∃ s : State, (s.blk (blockOf e)).takeover = some (cellOf e) ∧ s.inShot e = false ∧ s.engIs e .faulted = true ∧
      s.leads (s.groupOf e) = true) ∧
    (∃ e : EngineId, ∃ s : State, (s.blk (blockOf e)).takeover ≠ some (cellOf e)) :=
  ⟨⟨0, gap, 0, 0, by decide +kernel⟩,
   ⟨1, void5, by decide +kernel⟩,
   ⟨0, 4, rival, 0, 0, 0, by decide +kernel, by decide +kernel, by decide +kernel, by decide +kernel, by decide +kernel, by decide +kernel,
     by decide +kernel, by decide +kernel, membersStopped_of (by decide +kernel), by unfold staysDisabled; decide +kernel, by decide +kernel⟩,
   ⟨1, { run0 with tbl := [(0, 1), (16, 1)] }, 0, 0, 1, 0, by decide +kernel⟩,
   ⟨1, bothEntries, 0, 16, 1, 0, by decide +kernel, by decide +kernel, by decide +kernel, by decide +kernel, by decide +kernel,
     membersStopped_of (by decide +kernel), by unfold staysDisabled; decide +kernel, by decide +kernel, by decide +kernel⟩,
   ⟨2, idle0, by decide +kernel⟩,
   ⟨1, micro0, by decide +kernel⟩,
   ⟨0, ledOn, ⟨0, 0, List.replicate 64 7, some 5⟩, ledgerRing 0, 0, rfl, by decide +kernel, by decide +kernel, by decide +kernel, by decide +kernel,
     by decide +kernel, by decide +kernel⟩,
   ⟨0, 0, ledShot, ⟨0, 0, List.replicate 64 7, none⟩, ledgerRing 0, 0, rfl, by decide +kernel, by decide +kernel, by decide +kernel, by decide +kernel,
     by decide +kernel, by decide +kernel, by decide +kernel, by decide +kernel⟩,
   ⟨0, ledOn [(.ledger, LEDGER.LRING_CTRL_EN, 0)], ⟨0, 0, List.replicate 64 7, some 5⟩, ledgerRing 0, rfl, by decide +kernel, by decide +kernel⟩,
   ⟨0, grp1, by decide +kernel⟩,
   ⟨0, unitOn, Block.init, 0, by decide +kernel⟩,
   ⟨0, taken0, by decide +kernel⟩,
   ⟨0, shadowed, { Block.init with shadowShots := 0x100000, running := true }, 0, by decide +kernel⟩,
   ⟨0, fired0, by decide +kernel⟩,
   ⟨0, taken0, { Block.init with takeover := some 0 }, by decide +kernel⟩,
   ⟨0, taken0, by decide +kernel⟩,
   ⟨0, (rxAt 0), by decide +kernel⟩⟩

theorem witness_Watch :
    (∃ e : EngineId, ∃ i : BitVec 17, ∃ df : BitVec 48, ∃ sigma : ℕ, ∃ s : State, ∃ c : BitVec 512, ∃ d : ℤ, ∃ d' : ℤ,
      c = s.context (regionOf e) i.toNat ∧ proposes s e i (.freq df sigma) ∧ 0 < s.get .watch WATCH.DF_STEP_STEP ∧
      s.get .watch WATCH.CONF_MIN_CONF ≤ confidence sigma (s.get .watch WATCH.DF_STEP_STEP * 2 ^ 24) 0 ∧
      (otherUpdates s (regionOf e) i.toNat).length < 4096 ∧ s.engIs e .stopped = false ∧ d = toSigned 48 (df - Ctx.df c).toNat ∧
      d' = max (-(s.get .watch WATCH.DF_STEP_STEP * 2 ^ 24 : Nat) : Int) (min (s.get .watch WATCH.DF_STEP_STEP * 2 ^ 24 : Nat) d)) ∧
    (∃ e : EngineId, ∃ i : BitVec 17, ∃ bounds : BitVec 96, ∃ sc : ℕ, ∃ st : ℕ, ∃ s : State, ∃ c : BitVec 512, c = s.context (regionOf e) i.toNat ∧
      proposes s e i (.disc bounds sc st) ∧ 0 < s.get .watch WATCH.DISC_STEP_C ∧ 0 < s.get .watch WATCH.DISC_STEP_THETA ∧
      s.get .watch WATCH.CONF_MIN_CONF ≤ confidence sc (s.get .watch WATCH.DISC_STEP_C) 0 ∧
      s.get .watch WATCH.CONF_MIN_CONF ≤ confidence st (s.get .watch WATCH.DISC_STEP_THETA) 0 ∧ (otherUpdates s (regionOf e) i.toNat).length < 4096 ∧
      s.engIs e .stopped = false) ∧
    (∃ e : EngineId, ∃ i : BitVec 17, ∃ df : BitVec 48, ∃ sigma : ℕ, ∃ s : State, proposes s e i (.freq df sigma) ∧ 0 < s.get .watch WATCH.DF_STEP_STEP ∧
      confidence sigma (s.get .watch WATCH.DF_STEP_STEP * 2 ^ 24) 0 < s.get .watch WATCH.CONF_MIN_CONF) ∧
    (∃ e : EngineId, ∃ i : BitVec 17, ∃ m : WatchValue, ∃ s : State, (s.watchWorks (regionOf e) = false ∨ s.tends e i.toNat m = false ∨
      Ctx.wlock (s.context (regionOf e) i.toNat) = true)) ∧
    (∃ e : EngineId, ∃ i : BitVec 17, ∃ m : WatchValue, ∃ s : State, s.watchWorks (regionOf e) = true ∧ s.tends e i.toNat m = true ∧
      Ctx.wlock (s.context (regionOf e) i.toNat) = false ∧ s.routeOk e (s.context (regionOf e) i.toNat) = false) ∧
    (∃ s : State, ∃ e : EngineId, ∃ a : BitVec 64, a = BitVec.ofNat 64 ((s.tend.interval + 1) * 2 ^ 34) ∧ s.wf = true ∧ s.eng e ≠ Engine.init) ∧
    (∃ e : EngineId, ∃ s : State, idleTends s e) ∧
    (∃ e : EngineId, ∃ s : State, ¬idleTends s e) ∧
    (∃ o : OutputId, ∃ s : State, s.watchWorks (outputRegion o) = true ∧ s.get .watch WATCH.WCTRL_TRACK_TRIM = 1 ∧ (∀ k ∈ tonesOf o,
      (s.tone k).pulse = none ∧ (s.tone k).stream = none) ∧ (s.output (outputNo o)).pulse = none ∧ s.cond o ≠ Cond.hold.code) ∧
    (∃ o : OutputId, ∃ s : State, (s.watchWorks (outputRegion o) = false ∨ s.cond o = Cond.hold.code ∨ s.get .watch WATCH.WCTRL_TRACK_TRIM = 0 ∨
      s.outputIdle o = false)) ∧
    (∃ fn : FuncId, ∃ s : State, ∃ e : ℕ, ∃ i : ℕ, e = s.get .watch WATCH.TEND_SEL_ENTRY ∧ i = s.get .watch WATCH.TEND_SEL_WORD ∧ (fn.val = 0 ∨
      s.guestReady fn = true ∧ s.guestOf e = fn.val)) ∧
    (∃ fn : FuncId, ∃ s : State, ∃ e : ℕ, ∃ i : ℕ, e = s.get .watch WATCH.TEND_SEL_ENTRY ∧ i = s.get .watch WATCH.TEND_SEL_WORD ∧ e < 1024 ∧ i < 4 ∧
      (fn.val = 0 ∨ s.guestReady fn = true ∧ s.guestOf e = fn.val)) ∧
    (∃ fn : FuncId, ∃ s : State, fn.val ≠ 0 ∧ s.guestOf (s.get .watch WATCH.TEND_SEL_ENTRY) ≠ fn.val) :=
  ⟨⟨0, 0, 0, 0, tend0, 0, 0, 0, by unfold proposes; decide +kernel⟩,
   ⟨0, 0, 0, 0, 0, tend0, 0, by unfold proposes; decide +kernel⟩,
   ⟨0, 0, 0, 2 ^ 60, tend0, by unfold proposes; decide +kernel⟩,
   ⟨0, 0x11a3c, (.freq 0x7272ddcb2819 13), dqOn, by decide +kernel⟩,
   ⟨0, 0, .freq 0 0, unrouted, by decide +kernel⟩,
   ⟨parked, 0, 0x400000000, by decide +kernel⟩,
   ⟨0, idle0, by unfold idleTends; decide +kernel⟩,
   ⟨0, taken0, by unfold idleTends; decide +kernel⟩,
   ⟨(.flux 0), (st [(.watch, WATCH.WCTRL_TRACK_TRIM, 1), (.dsp 2, DSP.CFG_WATCH_EN, 1)] ringOn), by decide +kernel⟩,
   ⟨(.flux 0), held0, by decide +kernel⟩,
   ⟨0, grp1, 0, 0, by decide +kernel⟩,
   ⟨0, unitOn, 0, 0, by decide +kernel⟩,
   ⟨1, run0, by decide +kernel⟩⟩

theorem witness_GuestLeases :
    (∃ s : State, ∃ g : ℕ, ∃ i : ℕ, g = s.get .guests GUESTS.GSEL_GUEST ∧ i = s.get .guests GUESTS.GSEL_WORD ∧ 1 ≤ g ∧ g ≤ 64 ∧ i ≤ 78) ∧
    (∃ g : GuestId, ∃ s : State, ∃ i : ℕ, s.get .guests GUESTS.GSEL_GUEST = g.val + 1 ∧ i = s.get .guests GUESTS.GSEL_WORD ∧ 2 ≤ i ∧ i ≤ 78 ∧
      gword s g 1 % 8 = 0) ∧
    (∃ g : GuestId, ∃ s : State, ∃ i : ℕ, s.get .guests GUESTS.GSEL_GUEST = g.val + 1 ∧ i = s.get .guests GUESTS.GSEL_WORD ∧ 2 ≤ i ∧ i ≤ 78 ∧
      gword s g 1 % 8 ≠ 0) ∧
    (∃ fn : FuncId, fn.val ≠ 0) ∧
    (∃ g : GuestId, ∃ s : State, gword s g 1 % 8 = 0 ∧ s.leaseFaults (g.val + 1) = []) ∧
    (∃ g : GuestId, ∃ h : GuestId, ∃ s : State, ∃ e : ℕ, gword s g 1 % 8 = 0 ∧ h ≠ g ∧ gword s h 0 % 2 = 1 ∧ e ∈ s.leasedEngines (g.val + 1) ∧
      e ∈ s.leasedEngines (h.val + 1)) ∧
    (∃ g : GuestId, ∃ s : State, gword s g 1 % 8 = 0 ∧ (∀ b ∈ s.leaseFaults (g.val + 1), b = 0) ∧ s.leaseFaults (g.val + 1) ≠ []) ∧
    (∃ g : GuestId, ∃ s : State, gword s g 1 % 8 = 1) ∧
    (∃ g : GuestId, ∃ s : State, gword s g 1 % 8 ≠ 1) ∧
    (∃ g : GuestId, ∃ s : State, quietGuest s g) ∧
    (∃ g : GuestId, ∃ s : State, (gword s g 1 % 8 = 0 ∨ gword s g 1 % 8 = 3)) ∧
    (∃ g : GuestId, ∃ s : State, gword s g 1 % 8 = 3 ∧ gword s g 0 % 2 = 0) ∧
    (∃ g : GuestId, ∃ s : State, gword s g 1 % 8 ≠ 3) ∧
    (∃ g : GuestId, ∃ s : State, quietGuest s g ∧ gword s g 0 % 2 = 1) ∧
    (∃ g : GuestId, ∃ s : State, gword s g 1 % 8 = 0) ∧
    (∃ en : Bool, ∃ n : FuncId, ∃ s : State, (∀ h : GuestId, (en = false ∨ n.val < h.val + 1) → gword s h 1 % 8 = 0)) ∧
    (∃ en : Bool, ∃ n : FuncId, ∃ s : State, ∃ g : GuestId, (en = false ∨ n.val < g.val + 1) ∧ quietGuest s g ∧ (∀ h : GuestId, h ≠ g → (en = false ∨
      n.val < h.val + 1) → gword s h 1 % 8 = 0)) :=
  ⟨⟨(st [(.guests, GUESTS.GSEL_GUEST, 1)] runs3), 1, 0, by decide +kernel⟩,
   ⟨0, (st [(.guests, GUESTS.GSEL_GUEST, 1), (.guests, GUESTS.GSEL_WORD, 2)] ringOn), 2, by decide +kernel⟩,
   ⟨0, (st [(.guests, GUESTS.GSEL_GUEST, 1), (.guests, GUESTS.GSEL_WORD, 2)] (guest1 3 0)), 2, by decide +kernel⟩,
   ⟨1, by decide +kernel⟩,
   ⟨0, grp1, by decide +kernel⟩,
   ⟨0, 1, rival, 0, by decide +kernel⟩,
   ⟨0, guestRuns, by decide +kernel⟩,
   ⟨0, (guest1 1 1), by decide +kernel⟩,
   ⟨0, held0, by decide +kernel⟩,
   ⟨0, leased0, by unfold quietGuest; decide +kernel⟩,
   ⟨0, void5, by decide +kernel⟩,
   ⟨0, (guest1 3 0), by decide +kernel⟩,
   ⟨0, grp1, by decide +kernel⟩,
   ⟨0, (guest1 2 1), by unfold quietGuest; decide +kernel⟩,
   ⟨3, run0, by decide +kernel⟩,
   ⟨true, 2, void5, by decide +kernel⟩,
   ⟨true, 0, leased0, 0, by unfold quietGuest; decide +kernel⟩⟩

theorem witness_FencesAndHostLink :
    (∃ fn : FuncId, ∃ v : Word, ∃ s : State, ∃ n : ℕ, ∃ r : FenceReq, s.reachesFence fn = true ∧
      n = (if s.get (.fence fn) FENCE.FENCE_STATUS_REQ_SEQ = 0xFFFF then 1 else s.get (.fence fn) FENCE.FENCE_STATUS_REQ_SEQ + 1) ∧ r = (⟨n,
      v.toNat % 2 ^ 16, v.getLsbD 16, v.getLsbD 17, v.getLsbD 18, s.led.tags.contains (fn.val, v.toNat % 2 ^ 16)⟩ : FenceReq)) ∧
    (∃ fn : FuncId, ∃ s : State, s.reachesFence fn = false) ∧
    (∃ fn : FuncId, ∃ s : State, ∃ f : Fence, ∃ r : FenceReq, ∃ rest : List Fence, (s.fence fn).open' = f :: rest ∧ f.reqs = [r] ∧ (r.wait = false ∨
      r.met = true) ∧ onHost (s.wbAddr fn) = true) ∧
    (∃ fn : FuncId, ∃ s : State, ∃ f : Fence, ∃ l : List FenceReq, ∃ r : FenceReq, ∃ rest : List Fence, (s.fence fn).open' = f :: rest ∧
      f.reqs = l ++ [r] ∧ (∀ q ∈ f.reqs, q.wait = false ∨ q.met = true) ∧ onHost (s.wbAddr fn) = true) ∧
    (∃ fn : FuncId, ∃ s : State, ∃ f : Fence, ∃ r : FenceReq, ∃ rest : List Fence, (s.fence fn).open' = f :: rest ∧ f.reqs = [r] ∧ (r.wait = false ∨
      r.met = true) ∧ r.wb = true ∧ r.irq = false ∧ s.wbAddr fn + 8 ≤ hbmEnd ∧ s.hbmView fn (s.wbAddr fn) 1 = true ∧ s.get .hbm HBM.STATUS_WIPING = 0) ∧
    (∃ fn : FuncId, ∃ s : State, (∀ f ∈ (s.fence fn).open'.head?, ∃ r ∈ f.reqs, r.wait = true ∧ r.met = false)) ∧
    (∃ fn : FuncId, ∃ s : State, ∃ f : Fence, ∃ r : FenceReq, ∃ rest : List Fence, (s.fence fn).open' = f :: rest ∧ f.reqs = [r] ∧ r.wait = true ∧
      r.met = false ∧ onHost (s.wbAddr fn) = true ∧ s.get (.fence fn) FENCE.WAIT_LIMIT_UNITS ≠ 0 ∧
      s.get (.fence fn) FENCE.WAIT_LIMIT_UNITS * 2 ^ 20 ≤ (s.st - f.arrived).toNat) ∧
    (∃ fn : FuncId, ∃ s : State, (s.get (.fence fn) FENCE.WAIT_LIMIT_UNITS = 0 ∨ (∀ f ∈ (s.fence fn).open'.head?,
      (s.st - f.arrived).toNat < s.get (.fence fn) FENCE.WAIT_LIMIT_UNITS * 2 ^ 20))) ∧
    (∃ fn : FuncId, ∃ s : State, s.reachesFence fn = true) ∧
    (∃ w : BitVec 5, ∃ s : State, ∃ limit : ℕ, limit = max 1 (min w.toNat (s.get .host HOST.LINK_LIMIT_MAX_WIDTH))) :=
  ⟨⟨0, 2, ucFar, 1, { seq := 1, tag := 2, wait := false, irq := false, wb := false, met := false }, by decide +kernel, by decide +kernel, rfl⟩,
   ⟨1, (lcIs 2), by decide +kernel⟩,
   ⟨0, (fence0 false), { reqs := [{ seq := 1, tag := 5, wait := false, irq := true, wb := true, met := false }], arrived := 0 },
     { seq := 1, tag := 5, wait := false, irq := true, wb := true, met := false }, [], by decide +kernel⟩,
   ⟨0,
     { st [(.fence 0, FENCE.WB_ADDR_LO, 0x1000000000000000)] runDeep with fences := [(0, { open' := [{ reqs := [{ seq := 1, tag := 28, wait := false, irq := false, wb := true, met := false }], arrived := 1 }] })] },
     { reqs := [{ seq := 1, tag := 28, wait := false, irq := false, wb := true, met := false }], arrived := 1 }, [],
     { seq := 1, tag := 28, wait := false, irq := false, wb := true, met := false }, [], by decide +kernel⟩,
   ⟨0,
     { (dspRun) with fences := [(0, { open' := [{ reqs := [{ seq := 1, tag := 5, wait := false, irq := false, wb := true, met := true }], arrived := 40 }] })] },
     { reqs := [{ seq := 1, tag := 5, wait := false, irq := false, wb := true, met := true }], arrived := 40 },
     { seq := 1, tag := 5, wait := false, irq := false, wb := true, met := true }, [], by decide +kernel⟩,
   ⟨0, (rxAt 2), by decide +kernel⟩,
   ⟨0, (fence0 true), { reqs := [{ seq := 1, tag := 5, wait := true, irq := true, wb := true, met := false }], arrived := 0 },
     { seq := 1, tag := 5, wait := true, irq := true, wb := true, met := false }, [], by decide +kernel⟩,
   ⟨0, (warm 7), by decide +kernel⟩,
   ⟨0, crit0, by decide +kernel⟩,
   ⟨1, dspIrq, 1, by decide +kernel⟩⟩

theorem witness_Lanes :
    (∃ p : PortId, ∃ l : Fin 4, ∃ s : State, s.laneRxIs p l .live = true ∧ 3 ≤ s.rxWidth p ∧ 2 ≤ s.txWidth p ∧ (s.link p).trial = none) ∧
    (∃ p : PortId, ∃ l : Fin 4, ∃ s : State, s.laneRxIs p l .live = true ∧ s.rxWidth p = 2 ∧ s.get (.port p) PORT.PSTATUS_STATE = 2 ∧ s.fab.sendq = [] ∧
      (s.link p).way = []) ∧
    (∃ p : PortId, ∃ l : Fin 4, ∃ s : State, s.laneRxIs p l .live = false) ∧
    (∃ p : PortId, ∃ l : Fin 4, ∃ s : State, (s.laneRxIs p l .train = true ∨ s.laneRxIs p l .retrain = true)) ∧
    (∃ p : PortId, ∃ l : Fin 4, ∃ d : BitVec 16, ∃ skew : Bool, ∃ s : State, ∃ c : Instr, s.laneRxIs p l .train = false ∧
      s.laneRxIs p l .retrain = false ∧ c ∈ [Instr.laneReady p l d, .laneTrainFail p l skew, .retrainRestart p l]) ∧
    (∃ p : PortId, ∃ l : Fin 4, ∃ s : State, s.laneRxIs p l .retrain = true ∧ Nat.testBit (s.link p).rdy l = false) ∧
    (∃ s : State, s.time.frozen = false) ∧
    (∃ p : PortId, ∃ s : State, ∃ a : Stamp, a = s.markerTime ∧ (s.link p).change = true ∧ s.time.frozen = false ∧
      (s.get (.port p) PORT.PSTATUS_STATE ≠ 2 ∨ (2 ≤ s.rxWidth p ∧
      2 ≤ (lanes.filter fun l => s.laneTxIs p l .live && Nat.testBit (s.link p).peerAcc l).length))) ∧
    (∃ p : PortId, ∃ s : State, ((s.link p).change = false ∨ s.time.frozen = true)) ∧
    (∃ p : PortId, ∃ s : State, (s.link p).trial = none) ∧
    (∃ p : PortId, ∃ n : BitVec 13, ∃ s : State, 3584 < n.toNat ∧ (s.link p).trial = none) ∧
    (∃ n : BitVec 13, n.toNat ≤ 3584) ∧
    (∃ p : PortId, ∃ l : Fin 4, ∃ v : Word, ∃ s : State, v.toNat % 2 ^ 4 = 2 ^ l.val ∧ v.toNat / 2 ^ 16 % 2 ^ 3 ≠ 4 ∧ (∀ i,
      i < 4 → s.laneTxIs p i .live = true) ∧ 2 ≤ s.rxWidth p) ∧
    (∃ p : PortId, ∃ l : Fin 4, ∃ v : Word, ∃ s : State, v.toNat % 2 ^ 9 = 0 ∧ s.laneTxIs p l .sleep = true) ∧
    (∃ p : PortId, ∃ l : Fin 4, ∃ v : Word, ∃ s : State, v.toNat % 2 ^ 9 = 2 ^ 8 ∧ s.laneTxIs p l .sleep = true) ∧
    (∃ fn : FuncId, fn.val ≠ 0) ∧
    (∃ p : PortId, ∃ s : State, s.get (.port p) PORT.SLEEP_CTRL_AUTO = 1 ∧ s.linkRuns p = true ∧ s.frameWaits p = false ∧ 2 ≤ s.rxWidth p ∧
      64 * 12800 ≤ (s.st - (s.link p).lastSent).toNat) ∧
    (∃ p : PortId, ∃ l : Fin 4, ∃ s : State, s.laneRxIs p l .live = true ∧ 3 ≤ s.rxWidth p ∧ 2 ≤ s.txWidth p) ∧
    (∃ p : PortId, ∃ l : Fin 4, ∃ s : State, s.laneRxIs p l .sleep = true) ∧
    (∃ p : PortId, ∃ l : Fin 4, ∃ s : State, s.laneTxIs p l .sleep = true ∧ (s.get (.port p) PORT.SLEEP_CTRL_AUTO = 0 ∨ s.frameWaits p = true) ∧
      Nat.testBit (s.get (.port p) PORT.SLEEP_CTRL_TX_SLEEP) l = false) ∧
    (∃ p : PortId, ∃ l : Fin 4, ∃ s : State, s.laneRxIs p l .sleep = false) ∧
    (∃ p : PortId, ∃ l : Fin 4, ∃ s : State, (s.laneTxIs p l .sleep = false ∨ Nat.testBit (s.get (.port p) PORT.SLEEP_CTRL_TX_SLEEP) l = true)) :=
  ⟨⟨0, 1, idlePort, by decide +kernel⟩,
   ⟨0, 0, (port0 [2, 2, 3, 3] []), by decide +kernel⟩,
   ⟨0, 0, trap1, by decide +kernel⟩,
   ⟨0, 0, trained, by decide +kernel⟩,
   ⟨2, 3, 3, true, ucStd0, (.laneReady 2 3 3), by decide +kernel⟩,
   ⟨0, 0, (port0 [3] []), by decide +kernel⟩,
   ⟨(rxAt 2), by decide +kernel⟩,
   ⟨0, { clamped with links := [(0, { PortLink.init with change := true })] }, 0, by decide +kernel⟩,
   ⟨3, trap1, by decide +kernel⟩,
   ⟨0, (warm 7), by decide +kernel⟩,
   ⟨0, 3585, ucFar, by decide +kernel⟩,
   ⟨1, by decide +kernel⟩,
   ⟨0, 0, 1, idlePort, by decide +kernel⟩,
   ⟨0, 0, 0, (port0 [] [3]), by decide +kernel⟩,
   ⟨0, 0, 256, (port0 [] [3]), by decide +kernel⟩,
   ⟨3, by decide +kernel⟩,
   ⟨0, idlePort, by decide +kernel⟩,
   ⟨0, 0, idlePort, by decide +kernel⟩,
   ⟨0, 0, (port0 [4] []), by decide +kernel⟩,
   ⟨0, 0, (port0 [] [3]), by decide +kernel⟩,
   ⟨3, 0, held0, by decide +kernel⟩,
   ⟨0, 1, grp1, by decide +kernel⟩⟩

theorem witness_LinkLayer :
    (∃ p : PortId, ∃ s : State, ∃ f : Frame, ∃ rest : List Frame, s.time.frozen = false ∧ (s.link p).linkq = f :: rest) ∧
    (∃ p : PortId, ∃ s : State, s.time.frozen = false ∧ (s.link p).linkq = [] ∧ (s.link p).mapDue = true ∧ (s.link p).mapAt ≠ s.markerPeriod) ∧
    (∃ p : PortId, ∃ s : State, ∃ i : ℕ, ∃ f : Frame, ∃ rest : List ℕ, s.linkRuns p = true ∧ (s.link p).linkq = [] ∧ (s.link p).mapDue = false ∧
      (∀ g ∈ s.fab.sendq, s.reaches g.dest = true) ∧ (s.link p).resend = i :: rest ∧ (s.link p).way.find? (fun x => x.1 = i) = some (i, f)) ∧
    (∃ p : PortId, ∃ s : State, ∃ f : Frame, readyToSend s p ∧ s.fab.sendq = [f] ∧ goesBy s p f ∧ f.deadline = none ∧ f.origin = none) ∧
    (∃ p : PortId, ∃ s : State, ∃ a : Frame, ∃ b : Frame, ∃ c : Frame, ∃ da : Stamp, ∃ db : Stamp, readyToSend s p ∧ s.fab.sendq = [c, a, b] ∧
      goesBy s p a ∧ goesBy s p b ∧ goesBy s p c ∧ a.deadline = some da ∧ b.deadline = some db ∧ c.deadline = none ∧ Stamp.atOrAfter db da = false ∧
      s.pastStop p b = false ∧ a ≠ b) ∧
    (∃ p : PortId, ∃ s : State, ∃ f : Frame, ∃ d : Stamp, readyToSend s p ∧ s.fab.sendq = [f] ∧ goesBy s p f ∧ f.deadline = some d ∧
      s.pastStop p f = true ∧ f.src ≠ s.fabricId) ∧
    (∃ s : State, s.time.frozen = true) ∧
    (∃ p : PortId, ∃ s : State, s.linkRuns p = true ∧ (s.link p).way ≠ [] ∧ (∀ x ∈ (s.link p).way, x.2.deadline = none) ∧
      2400 ≤ (s.st - (s.link p).lastSent).toNat ∧ s.get (.port p) PORT.ACK_TIMEOUT_ST ≤ (s.st - (s.link p).lastSent).toNat) ∧
    (∃ p : PortId, ∃ seq : BitVec 12, ∃ s : State, ∃ f : Frame, ∃ before : List (ℕ × Frame), ∃ after : List (ℕ × Frame), s.linkRuns p = true ∧
      (s.link p).way = before ++ (seq.toNat, f) :: after ∧ (s.link p).resend = [] ∧ (∀ x ∈ before, x.1 ≠ seq.toNat ∧ ∀ y ∈ after, y.1 ≠ x.1) ∧
      (∀ y ∈ after, y.1 ≠ seq.toNat)) ∧
    (∃ p : PortId, ∃ seq : BitVec 12, ∃ s : State, ∃ before : List (ℕ × Frame), ∃ after : List (ℕ × Frame), s.linkRuns p = true ∧
      (s.link p).way = before ++ after ∧ (∀ x ∈ (s.link p).way, x.2.deadline = none) ∧ (∀ x ∈ before, x.1 ≠ seq.toNat ∧ ∀ y ∈ after, y.1 ≠ x.1) ∧
      after.head?.map (·.1) = some seq.toNat) ∧
    (∃ p : PortId, ∃ s : State, s.get (.port p) PORT.PSTATUS_STATE ≠ 0 ∧ s.isChair = true) ∧
    (∃ s : State, s.time.frozen = false ∧ s.fab.joinWanted = false ∧ s.fabState ≠ 2) ∧
    (∃ p : PortId, ∃ s : State, s.linkRuns p = true ∧ (s.link p).naked = none) ∧
    (∃ c : Instr, ∃ p : PortId, ∃ h : FrameHead, ∃ s : State, isFrame p h c ∧ s.linkRuns p = true ∧ h.seq.toNat ≠ (s.link p).rxSeq ∧
      (s.link p).naked = none) ∧
    (∃ c : Instr, ∃ p : PortId, ∃ h : FrameHead, ∃ s : State, isFrame p h c ∧ (s.linkRuns p = false ∨ (h.seq.toNat = (s.link p).rxSeq ∧
      64 ≤ (s.link p).imports.length) ∨ (h.seq.toNat ≠ (s.link p).rxSeq ∧ (s.link p).naked = some ((s.link p).rxSeq, s.markerPeriod)))) ∧
    (∃ p : PortId, ∃ h : FrameHead, ∃ s : State, accepted s p h ∧ h.dlv = false) ∧
    (∃ p : PortId, ∃ s : State, ∃ f : Frame, ∃ d : Stamp, (s.link p).imports = [f] ∧ f.deadline = some d ∧ Stamp.atOrAfter d s.st = false ∧
      f.src ≠ s.fabricId) ∧
    (∃ s : State, ∃ i : ℕ, i = s.get .fabric FABRIC.TAG_SEL_INDEX ∧ i < 4096) ∧
    (∃ s : State, ∃ k : ℕ, ∃ i : ℕ, ∃ j : ℕ, k = s.get .fabric FABRIC.SUB_SEL_KIND ∧ i = s.get .fabric FABRIC.SUB_SEL_INDEX ∧
      j = s.get .fabric FABRIC.SUB_SEL_WORD) ∧
    (∃ s : State, ∃ k : ℕ, ∃ i : ℕ, ∃ j : ℕ, k = s.get .fabric FABRIC.SUB_SEL_KIND ∧ i = s.get .fabric FABRIC.SUB_SEL_INDEX ∧
      j = s.get .fabric FABRIC.SUB_SEL_WORD ∧ k < 2 ∧ i < 2048 ∧ j < 4) ∧
    (∃ fn : FuncId, fn.val ≠ 0) :=
  ⟨⟨2,
     { coincOn with links := [(2, { PortLink.init with linkq := [{ kind := .dec, dest := 4095, src := 0, deadline := none, group := 1549, words := [], origin := some 7, via := some 2 }] })] },
     { kind := .dec, dest := 4095, src := 0, deadline := none, group := 1549, words := [], origin := some 7, via := some 2 }, [], by decide +kernel⟩,
   ⟨1, { (fence0 true) with links := [(1, { PortLink.init with mapDue := true })] }, by decide +kernel⟩,
   ⟨0,
     { st [(.port 0, PORT.PSTATUS_STATE, 2)] (coinc0 []) with links := [(0, { PortLink.init with way := [(2, { kind := .lost, dest := 0, src := 1023, deadline := some 3, group := 63, words := [1], origin := none, via := none })], resend := [2] })] },
     2, { kind := .lost, dest := 0, src := 1023, deadline := some 3, group := 63, words := [1], origin := none, via := none }, [], by decide +kernel⟩,
   ⟨0, (waiting [toFive none]), { kind := .msg, dest := 5, src := 0, deadline := none, group := 3, words := [], origin := none, via := none },
     by unfold goesBy readyToSend; decide +kernel⟩,
   ⟨0, (waiting [toFive none, toFive (some (2 ^ 42)), toFive (some (2 ^ 41))]),
     { kind := .msg, dest := 5, src := 0, deadline := some 0x40000000000, group := 3, words := [], origin := none, via := none },
     { kind := .msg, dest := 5, src := 0, deadline := some 0x20000000000, group := 3, words := [], origin := none, via := none },
     { kind := .msg, dest := 5, src := 0, deadline := none, group := 3, words := [], origin := none, via := none }, 0x40000000000, 0x20000000000,
     by unfold goesBy readyToSend; decide +kernel⟩,
   ⟨0,
     { idlePort with fab := { idlePort.fab with sendq := [{ kind := .joinReq, dest := 0, src := 1, deadline := some 1, group := 68, words := [1024, 32], origin := some 7, via := none }] } },
     { kind := .joinReq, dest := 0, src := 1, deadline := some 1, group := 68, words := [1024, 32], origin := some 7, via := none }, 1,
     by unfold goesBy readyToSend; decide +kernel⟩,
   ⟨gap, by decide +kernel⟩,
   ⟨0,
     { (newEpoch (withFive)) with links := [(0, { PortLink.init with way := [(66, { kind := .void, dest := 1, src := 511, deadline := none, group := 1, words := [3], origin := none, via := none })] })] },
     by decide +kernel⟩,
   ⟨1, 2626,
     { st [(.port 1, PORT.PSTATUS_STATE, 2)] (guest1 0 0) with links := [(1, { PortLink.init with way := [(2626, { kind := .msg, dest := 5, src := 4, deadline := none, group := 16, words := [9], origin := none, via := some 51 }), (1, { kind := .leave, dest := 27, src := 50, deadline := none, group := 6, words := [1], origin := some 41, via := none })] })] },
     { kind := .msg, dest := 5, src := 4, deadline := none, group := 16, words := [9], origin := none, via := some 51 }, [], [(1,
     { kind := .leave, dest := 27, src := 50, deadline := none, group := 6, words := [1], origin := some 41, via := none })], by decide +kernel⟩,
   ⟨0, 1023,
     { st [(.port 0, PORT.PSTATUS_STATE, 2)] (guest1 2 1) with links := [(0, { PortLink.init with way := [(1023, { kind := .laneMap, dest := 24, src := 0, deadline := none, group := 15, words := [69], origin := some 5, via := some 2 })] })] },
     [], [(1023, { kind := .laneMap, dest := 24, src := 0, deadline := none, group := 15, words := [69], origin := some 5, via := some 2 })],
     by decide +kernel⟩,
   ⟨0, alone, by decide +kernel⟩,
   ⟨ucStd0, by decide +kernel⟩,
   ⟨0, idlePort, by decide +kernel⟩,
   ⟨.stub 0 ⟨5, 0, 0, true, 0, 0⟩, 0, ⟨5, 0, 0, true, 0, 0⟩, port0 [] [], .inl rfl, by decide +kernel⟩,
   ⟨.stub 0 ⟨0, 0, 0, true, 0, 0⟩, 0, ⟨0, 0, 0, true, 0, 0⟩, State.reset, .inl rfl, .inl (by decide +kernel)⟩,
   ⟨0, { seq := 0, src := 2, dst := 1, dlv := false, word := 192, lat := 2 }, (joiner 1), by unfold accepted; decide +kernel⟩,
   ⟨3,
     { idlePort with links := [(0, PortLink.init), (3, { PortLink.init with imports := [{ kind := .present, dest := 511, src := 1, deadline := some 55, group := 3, words := [], origin := some 511, via := none }] })] },
     { kind := .present, dest := 511, src := 1, deadline := some 55, group := 3, words := [], origin := some 511, via := none }, 55,
     by decide +kernel⟩,
   ⟨(rxAt 2), 0, by decide +kernel⟩,
   ⟨held0, 0, 0, 0, by decide +kernel⟩,
   ⟨idle0, 0, 0, 0, by decide +kernel⟩,
   ⟨1, by decide +kernel⟩⟩

theorem witness_FabricFrames :
    (∃ p : PortId, ∃ h : FrameHead, ∃ tag : BitVec 16, ∃ group : BitVec 16, ∃ shot : BitVec 48, ∃ attempt : BitVec 4, ∃ s : State, ∃ e : ℕ,
      timely s p h ∧ s.tagEngine tag.toNat = some e ∧ (s.eng e).inbox.length < 8 ∧ (group.toNat = 0xFFFF ∨
      s.carriesVoided e group.toNat shot.toNat attempt.toNat = false)) ∧
    (∃ p : PortId, ∃ h : FrameHead, ∃ tag : BitVec 16, ∃ group : BitVec 16, ∃ shot : BitVec 48, ∃ attempt : BitVec 4, ∃ s : State, ∃ e : ℕ,
      timely s p h ∧ s.tagEngine tag.toNat = some e ∧ group.toNat ≠ 0xFFFF ∧ s.carriesVoided e group.toNat shot.toNat attempt.toNat = true) ∧
    (∃ p : PortId, ∃ h : FrameHead, ∃ tag : BitVec 16, ∃ group : BitVec 16, ∃ s : State, ∃ e : ℕ, timely s p h ∧ s.tagEngine tag.toNat = some e ∧
      8 ≤ (s.eng e).inbox.length ∧ group.toNat = 0xFFFF) ∧
    (∃ c : Instr, ∃ p : PortId, ∃ h : FrameHead, ∃ tag : BitVec 16, ∃ s : State, ((∃ a b d v, c = .msg p h tag a b d v) ∨ c = .startFrame p h tag) ∧
      timely s p h ∧ s.tagEngine tag.toNat = none) ∧
    (∃ p : PortId, ∃ h : FrameHead, ∃ tag : BitVec 16, ∃ s : State, ∃ e : EngineId, timely s p h ∧ s.tagEngine tag.toNat = some e.val ∧ s.crit = false ∧
      s.startBarred e = false ∧ s.pageIs (.cell e) .starting = false ∧ s.loading e = false ∧ s.aligning = false ∧ s.engIs e .stopped = true ∧
      (s.eng e).tending = false ∧ startsListed s e) ∧
    (∃ p : PortId, ∃ h : FrameHead, ∃ tag : BitVec 16, ∃ s : State, ∃ e : EngineId, timely s p h ∧ s.tagEngine tag.toNat = some e.val ∧ s.crit = false ∧
      s.startBarred e = false ∧ s.engIs e .stopped = false ∧ s.get (.cell e) CELL.STATUS_START_PENDING = 0) ∧
    (∃ p : PortId, ∃ h : FrameHead, ∃ tag : BitVec 16, ∃ fire : Stamp, ∃ s : State, ∃ n : RegionId, ∃ i : Fin 8, ∃ j : ℕ, timely s p h ∧
      s.enabledUnits .coinc = [256 * n.val + (136 + i.val)] ∧ j < 8 ∧ (∀ k,
      k < 8 → (selEvent (s.unitWord n (136 + i.val) (2 + k)) = some (.remote h.src.toNat tag.toNat) ↔ k = j)) ∧
      Stamp.atOrAfter (s.coinc (8 * n.val + i.val)).at' (Stamp.gridUp 5 fire) = false) ∧
    (∃ p : PortId, ∃ h : FrameHead, ∃ fn : Bool, ∃ index : BitVec 11, ∃ s : State, ∃ k : ℕ, timely s p h ∧
      k = remoteSlot h.src.toNat (b2n fn) index.toNat ∧ ((s.slot k).seen = true ∨ (s.slots.filter fun x => 4096 ≤ x.1).length < 2048)) ∧
    (∃ p : PortId, ∃ h : FrameHead, ∃ fn : Bool, ∃ index : BitVec 11, ∃ s : State, timely s p h ∧
      (s.slot (remoteSlot h.src.toNat (b2n fn) index.toNat)).seen = false ∧ 2048 ≤ (s.slots.filter fun x => 4096 ≤ x.1).length) ∧
    (∃ p : PortId, ∃ h : FrameHead, ∃ group : BitVec 16, ∃ attempt : BitVec 4, ∃ shot : BitVec 48, ∃ causes : BitVec 32, ∃ s : State, ∃ g : ℕ,
      inOrder s p h ∧ namesOpen s group attempt shot g ∧ voidable s g ∧ BitVec.toNat (w := 32) causes / 2 ^ 8 % 2 ^ 4 = 0 ∧
      ¬expiredJoins s g causes.toNat) ∧
    (∃ p : PortId, ∃ h : FrameHead, ∃ group : BitVec 16, ∃ attempt : BitVec 4, ∃ shot : BitVec 48, ∃ causes : BitVec 32, ∃ s : State, ∃ g : ℕ,
      inOrder s p h ∧ namesOpen s group attempt shot g ∧ BitVec.toNat (w := 32) causes / 2 ^ 8 % 2 ^ 4 ≠ 0) ∧
    (∃ c : Instr, ∃ p : PortId, ∃ h : FrameHead, ∃ group : BitVec 16, ∃ attempt : BitVec 4, ∃ shot : BitVec 48, ∃ s : State, ((∃ causes,
      c = .voidFrame p h group attempt shot causes) ∨ (∃ x, c = .rstart p h group attempt shot x)) ∧ inOrder s p h ∧ (∀ g,
      ¬namesOpen s group attempt shot g) ∧ (∀ g, ¬namesAhead s group attempt shot g)) ∧
    (∃ p : PortId, ∃ h : FrameHead, ∃ group : BitVec 16, ∃ attempt : BitVec 4, ∃ shot : BitVec 48, ∃ causes : BitVec 32, ∃ s : State, ∃ g : ℕ,
      inOrder s p h ∧ ¬namesOpen s group attempt shot g ∧ namesAhead s group attempt shot g ∧ BitVec.toNat (w := 32) causes / 2 ^ 8 % 2 ^ 4 = 0) ∧
    (∃ p : PortId, ∃ h : FrameHead, ∃ group : BitVec 16, ∃ attempt : BitVec 4, ∃ shot : BitVec 48, ∃ s : State, ∃ g : ℕ, inOrder s p h ∧
      ¬namesOpen s group attempt shot g ∧ namesAhead s group attempt shot g) ∧
    (∃ p : PortId, ∃ h : FrameHead, ∃ group : BitVec 16, ∃ attempt : BitVec 4, ∃ shot : BitVec 48, ∃ s : State, ∃ g : ℕ, inOrder s p h ∧
      namesAhead s group attempt shot g ∧ (s.group g).open' = false) ∧
    (∃ c : Instr, ∃ p : PortId, ∃ h : FrameHead, ∃ group : BitVec 16, ∃ attempt : BitVec 4, ∃ shot : BitVec 48, ∃ s : State,
      (c = .readyFrame p h group attempt shot ∨ c = .settle p h group attempt shot) ∧ inOrder s p h ∧ (∀ g, ¬namesOpen s group attempt shot g)) ∧
    (∃ p : PortId, ∃ h : FrameHead, ∃ group : BitVec 16, ∃ attempt : BitVec 4, ∃ shot : BitVec 48, ∃ s : State, ∃ g : ℕ, inOrder s p h ∧
      namesOpen s group attempt shot g ∧ h.src.toNat ∉ (s.group g).readyDevs) ∧
    (∃ p : PortId, ∃ h : FrameHead, ∃ group : BitVec 16, ∃ attempt : BitVec 4, ∃ shot : BitVec 48, ∃ s : State, ∃ g : ℕ, inOrder s p h ∧
      namesOpen s group attempt shot g ∧ (s.group g).voidedNow = true) ∧
    (∃ p : PortId, ∃ h : FrameHead, ∃ group : BitVec 16, ∃ attempt : BitVec 4, ∃ shot : BitVec 48, ∃ s : State, ∃ g : ℕ, inOrder s p h ∧
      namesOpen s group attempt shot g ∧ h.src.toNat ∉ (s.group g).settledDevs) ∧
    (∃ p : PortId, ∃ h : FrameHead, ∃ group : BitVec 16, ∃ attempt : BitVec 4, ∃ shot : BitVec 48, ∃ s : State, ∃ g : ℕ, inOrder s p h ∧
      namesOpen s group attempt shot g ∧ (∀ e ∈ s.members g, s.engStopped e = false → (s.eng e).wait = .settle .proceed ∧ s.quiesced e = false)) ∧
    (∃ p : PortId, ∃ h : FrameHead, ∃ group : BitVec 16, ∃ s : State, ∃ g : ℕ, inOrder s p h ∧ s.groupById group.toNat = some g ∧
      (s.group g).open' = true) ∧
    (∃ p : PortId, ∃ h : FrameHead, ∃ s : State, accepted s p h ∧ h.dlv = false ∧ h.dst.toNat = s.fabricId ∧ h.src.toNat ≠ 0x3F ∧
      h.word.toNat ≤ s.lastOrigin h.src.toNat) ∧
    (∃ p : PortId, ∃ h : FrameHead, ∃ s : State, accepted s p h ∧ h.dlv = false ∧ h.dst.toNat = s.fabricId ∧ h.src.toNat ≠ 0x3F ∧
      s.lastOrigin h.src.toNat + 1 < h.word.toNat) ∧
    (∃ p : PortId, ∃ h : FrameHead, ∃ s : State, accepted s p h ∧ h.dlv = true ∧ Stamp.atOrAfter (fullDeadline s.st h.word) s.st = false ∧
      h.src.toNat = s.fabricId ∧ s.groupById 0xFFFF = none) :=
  ⟨⟨0, { seq := 0, src := 1, dst := 1, dlv := true, word := 0, lat := 0 }, 0, 0x2bfc, 1, 9, (st [(.fabric, FABRIC.FSTATUS_FABRIC_ID, 1)] (tagged)), 0,
     by unfold timely accepted; decide +kernel⟩,
   ⟨0, frameOf5, 0, 3, 0, 1, voidTagged, 0, by unfold timely accepted; decide +kernel⟩,
   ⟨0, { seq := 0, src := 61, dst := 0, dlv := true, word := 3, lat := 2000 }, 0, 0xffff,
     { (tagged) with engs := [(0, { Engine.init with inbox := List.replicate 8 { tag := 0, dev := 0, payload := 0, arrival := 0, attempt := none } })] },
     0, by unfold timely accepted; decide +kernel⟩,
   ⟨.startFrame 0 frameOf5 0, 0, frameOf5, 0, memberOf, .inr rfl, by unfold timely accepted; decide +kernel, by decide +kernel⟩,
   ⟨0, { seq := 0, src := 62, dst := 0, dlv := true, word := 512, lat := 2 }, 0, (tagged), 0, by unfold startsListed timely accepted; decide +kernel⟩,
   ⟨0, { seq := 0, src := 0, dst := 0, dlv := true, word := 3, lat := 3 }, 0, (st [(.cell 0, CELL.STATUS_STATE, 1)] (tagged)), 0,
     by unfold timely accepted; decide +kernel⟩,
   ⟨0, frameOf5, 0, 32, coincOn, 0, 0, 0, by unfold timely accepted; decide +kernel⟩,
   ⟨0, { seq := 0, src := 61, dst := 0, dlv := true, word := 1, lat := 2 }, false, 0, (port0 [4] []), 0x3e000, by unfold timely accepted; decide +kernel⟩,
   ⟨0, frameOf5, false, 0, slotsFull, by unfold timely accepted; decide +kernel⟩,
   ⟨0, { seq := 0, src := 24, dst := 0, dlv := false, word := 1, lat := 2 }, 3, 1, 0, 0, grouped, 0,
     by unfold expiredJoins inOrder accepted namesOpen voidable; decide +kernel⟩,
   ⟨0, { seq := 0, src := 0, dst := 0, dlv := false, word := 1, lat := 1 }, 3, 2, 0, 0x367926ee,
     { (grouped) with groups := [(0, { Group.init with open' := true, attempt := 2 })] }, 0, by unfold inOrder accepted namesOpen; decide +kernel⟩,
   ⟨.voidFrame 0 orderOf5 9 1 0 0, 0, orderOf5, 9, 1, 0, memberOf, .inl ⟨0, rfl⟩, by unfold inOrder accepted; decide +kernel,
     unnamed (by decide +kernel), notAhead (by decide +kernel)⟩,
   ⟨0, { seq := 0, src := 3, dst := 0, dlv := false, word := 1, lat := 4 }, 3, 7, 2, 0, grouped, 0,
     by unfold inOrder accepted namesAhead namesOpen; decide +kernel⟩,
   ⟨3, { seq := 0, src := 2, dst := 0, dlv := false, word := 1, lat := 2 }, 0, 1, 352, (st [(.port 3, PORT.PSTATUS_STATE, 2)] void5), 5,
     by unfold inOrder accepted namesAhead namesOpen; decide +kernel⟩,
   ⟨1, { seq := 0, src := 20, dst := 0, dlv := false, word := 1, lat := 3 }, 0, 3, 1, (st [(.port 1, PORT.PSTATUS_STATE, 2)] (grp0 [])), 0,
     by unfold inOrder accepted namesAhead; decide +kernel⟩,
   ⟨.settle 0 orderOf5 9 1 0, 0, orderOf5, 9, 1, 0, memberOf, .inr rfl, by unfold inOrder accepted; decide +kernel, unnamed (by decide +kernel)⟩,
   ⟨0, { seq := 0, src := 53, dst := 0, dlv := false, word := 1, lat := 3 }, 0, 2, 53,
     { st [(.port 0, PORT.PSTATUS_STATE, 2)] (grp0 []) with groups := [(0, { Group.init with open' := true, shot := 53, attempt := 2 })] }, 0,
     by unfold inOrder accepted namesOpen; decide +kernel⟩,
   ⟨0, { seq := 0, src := 1, dst := 32, dlv := false, word := 1, lat := 0 }, 0, 1, 9, (st [(.fabric, FABRIC.FSTATUS_FABRIC_ID, 32), (.port 0,
     PORT.PSTATUS_STATE, 2)] void5), 5, by unfold inOrder accepted namesOpen; decide +kernel⟩,
   ⟨0, { seq := 0, src := 2, dst := 0, dlv := false, word := 1, lat := 0 }, 3, 15, 640,
     { (grouped) with groups := [(0, { Group.init with open' := true, shot := 640, attempt := 15 })] }, 0,
     by unfold inOrder accepted namesOpen; decide +kernel⟩,
   ⟨1, { seq := 0, src := 3, dst := 2, dlv := false, word := 1, lat := 3 }, 0, 1, 9, (st [(.fabric, FABRIC.FSTATUS_FABRIC_ID, 2), (.port 1,
     PORT.PSTATUS_STATE, 2), (.cell 0, CELL.STATUS_STATE, 0)] void5), 5, by unfold inOrder accepted namesOpen; decide +kernel⟩,
   ⟨0, { seq := 0, src := 0, dst := 0, dlv := false, word := 1, lat := 0 }, 0,
     { st [(.port 0, PORT.PSTATUS_STATE, 2)] (grp0 []) with groups := [(0, { Group.init with open' := true })] }, 0,
     by unfold inOrder accepted; decide +kernel⟩,
   ⟨0, { seq := 0, src := 0, dst := 0, dlv := false, word := 0, lat := 32 }, coincOn, by unfold accepted; decide +kernel⟩,
   ⟨0, { seq := 0, src := 1, dst := 0, dlv := false, word := 3, lat := 59 }, coincOn, by unfold accepted; decide +kernel⟩,
   ⟨0, { seq := 0, src := 0, dst := 61, dlv := true, word := 0xfffffffffffd, lat := 5 }, alone, by unfold accepted; decide +kernel⟩⟩

theorem witness_FabricMembership :
    (∃ s : State, ∃ p : PortId, s.pageIs .fabric .ready = true ∧ s.get .timebase TIMEBASE.TB_CTRL_SYNC_MODE = 2 ∧ s.fabState = 0 ∧
      s.joinablePort = some p.val) ∧
    (∃ s : State, ∃ p : PortId, s.pageIs .fabric .ready = true ∧ s.get .timebase TIMEBASE.TB_CTRL_SYNC_MODE = 2 ∧ s.fabState = 0 ∧
      s.joinablePort = some p.val ∧ joinsQuiet s) ∧
    (∃ s : State, s.pageIs .fabric .ready = true ∧ s.get .timebase TIMEBASE.TB_CTRL_SYNC_MODE = 2 ∧ s.fabState = 0 ∧ s.joinablePort = none) ∧
    (∃ s : State, (s.pageIs .fabric .ready = false ∨ s.get .timebase TIMEBASE.TB_CTRL_SYNC_MODE ≠ 2 ∨ s.fabState ≠ 0)) ∧
    (∃ s : State, s.fabState = 1 ∧ s.fab.joinTries < 3 ∧ joinsQuiet s) ∧
    (∃ s : State, s.fabState ≠ 1) ∧
    (∃ s : State, s.fabState = 1 ∧ 3 ≤ s.fab.joinTries) ∧
    (∃ s : State, s.fabState = 2 ∧ noMulti s) ∧
    (∃ s : State, s.fabState = 3 ∧ s.fab.rejoin = false) ∧
    (∃ s : State, s.fabState ≠ 3) ∧
    (∃ p : PortId, ∃ h : FrameHead, ∃ s : State, accepted s p h ∧ h.dlv = false ∧ s.fabState ≠ 1 ∧ s.pageIs .fabric .ready = true ∧ s.isChair = true) ∧
    (∃ p : PortId, ∃ h : FrameHead, ∃ s : State, accepted s p h ∧ h.dlv = false ∧ s.fabState ≠ 1 ∧ s.pageIs .fabric .ready = true ∧ s.isChair = false) ∧
    (∃ p : PortId, ∃ h : FrameHead, ∃ id : BitVec 6, ∃ s : State, accepted s p h ∧ h.dlv = false ∧ s.fabState = 1 ∧ id.toNat ≠ 0x3F ∧
      s.time.syncGone = false) ∧
    (∃ p : PortId, ∃ h : FrameHead, ∃ id : BitVec 6, ∃ s : State, accepted s p h ∧ h.dlv = false ∧ s.fabState = 1 ∧ id.toNat ≠ 0x3F ∧
      s.time.syncGone = true) ∧
    (∃ p : PortId, ∃ h : FrameHead, ∃ id : BitVec 6, ∃ s : State, accepted s p h ∧ h.dlv = false ∧ s.fabState = 1 ∧ id.toNat = 0x3F) ∧
    (∃ p : PortId, ∃ h : FrameHead, ∃ s : State, ∃ q : ℕ, ∃ rest : List ℕ, accepted s p h ∧ h.dlv = false ∧ s.fabState ≠ 1 ∧ s.fab.relays = q :: rest) ∧
    (∃ p : PortId, ∃ h : FrameHead, ∃ s : State, inOrder s p h ∧ s.chairId = h.src.toNat) ∧
    (∃ p : PortId, ∃ h : FrameHead, ∃ s : State, inOrder s p h ∧ s.chairId ≠ h.src.toNat ∧ h.src.toNat ≠ s.fabricId) ∧
    (∃ p : PortId, ∃ h : FrameHead, ∃ s : State, inOrder s p h) ∧
    (∃ p : PortId, ∃ h : FrameHead, ∃ id : BitVec 6, ∃ s : State, inOrder s p h ∧ id.toNat ≠ s.fabricId ∧ s.isPresent id.toNat = true ∧ noMulti s) ∧
    (∃ p : PortId, ∃ h : FrameHead, ∃ id : BitVec 6, ∃ s : State, inOrder s p h ∧ id.toNat = s.fabricId ∧ noMulti s ∧ s.fab.rejoin = false) ∧
    (∃ p : PortId, ∃ h : FrameHead, ∃ s : State, inOrder s p h ∧ s.isChair = true ∧ s.isPresent h.src.toNat = true ∧ h.src.toNat ≠ s.fabricId ∧ noMulti s) ∧
    (∃ p : PortId, ∃ h : FrameHead, ∃ s : State, inOrder s p h ∧ s.isChair = false) :=
  ⟨⟨neighbour, 0, by decide +kernel⟩,
   ⟨neighbour, 0, by decide +kernel, by decide +kernel, by decide +kernel, by decide +kernel, .inr (by decide +kernel)⟩,
   ⟨alone, by decide +kernel⟩,
   ⟨run0, by decide +kernel⟩,
   ⟨(joiner 1), by unfold joinsQuiet; decide +kernel⟩,
   ⟨runCtx, by decide +kernel⟩,
   ⟨(joiner 3), by decide +kernel⟩,
   ⟨coincOn, by unfold noMulti; decide +kernel⟩,
   ⟨(st [(.fabric, FABRIC.FSTATUS_STATE, 3)] group5), by decide +kernel⟩,
   ⟨(rxAt 0), by decide +kernel⟩,
   ⟨0, { seq := 0, src := 52, dst := 40, dlv := false, word := 0xffffffffffff, lat := 0xfffe }, alone, by unfold accepted; decide +kernel⟩,
   ⟨0, { seq := 0, src := 0, dst := 3, dlv := false, word := 2, lat := 1 }, withFive, by unfold accepted; decide +kernel⟩,
   ⟨0, { seq := 0, src := 2, dst := 2, dlv := false, word := 1, lat := 2 }, 2, (joiner 1), by unfold accepted; decide +kernel⟩,
   ⟨0, { seq := 0, src := 49, dst := 2, dlv := false, word := 1, lat := 3 }, 3,
     { st [(.fabric, FABRIC.FSTATUS_STATE, 1), (.port 0, PORT.PSTATUS_STATE, 2)] oneEntry with time := { oneEntry.time with syncGone := true } },
     by unfold accepted; decide +kernel⟩,
   ⟨0, { seq := 0, src := 0, dst := 32, dlv := false, word := 3, lat := 5 }, 63, (joiner 1), by unfold accepted; decide +kernel⟩,
   ⟨0, { seq := 0, src := 3, dst := 0, dlv := false, word := 224, lat := 3 },
     { st [(.port 0, PORT.PSTATUS_STATE, 2)] (asked .recover) with fab := { FabricState.init with relays := [37] } }, 37, [],
     by unfold accepted; decide +kernel⟩,
   ⟨0, { seq := 0, src := 0, dst := 0, dlv := false, word := 1, lat := 0 }, alone, by unfold inOrder accepted; decide +kernel⟩,
   ⟨0, { seq := 0, src := 1, dst := 0, dlv := false, word := 1, lat := 3 }, coincOn, by unfold inOrder accepted; decide +kernel⟩,
   ⟨0, { seq := 0, src := 61, dst := 0, dlv := false, word := 1, lat := 288 }, (joiner 1), by unfold inOrder accepted; decide +kernel⟩,
   ⟨3, { seq := 0, src := 0, dst := 0, dlv := false, word := 1, lat := 96 }, 16, (st [(.fabric, FABRIC.PRESENT_LO, 0x10000), (.port 3,
     PORT.PSTATUS_STATE, 2)] (guest1 2 1)), by unfold inOrder accepted noMulti; decide +kernel⟩,
   ⟨0, { seq := 0, src := 1, dst := 0, dlv := false, word := 1, lat := 0xf74b }, 0, alone, by unfold inOrder accepted noMulti; decide +kernel⟩,
   ⟨0, { seq := 0, src := 3, dst := 0, dlv := false, word := 1, lat := 0x76f8 }, (st [(.fabric, FABRIC.PRESENT_LO, 8), (.port 0, PORT.PSTATUS_STATE,
     2)] (ledOn)), by unfold inOrder accepted noMulti; decide +kernel⟩,
   ⟨0, { seq := 0, src := 0, dst := 0, dlv := false, word := 1, lat := 2 }, coincOn, by unfold inOrder accepted; decide +kernel⟩⟩

theorem witness_FabricTime :
    (∃ s : State, s.time.counting = true ∧ s.get .timebase TIMEBASE.TB_CTRL_SYNC_MODE = 1 ∧ s.get .timebase TIMEBASE.TB_CTRL_SYNC_ARM = 1 ∧
      s.anyRunning = false) ∧
    (∃ s : State, s.time.counting = true ∧ s.get .timebase TIMEBASE.TB_CTRL_SYNC_MODE = 1 ∧ (s.get .timebase TIMEBASE.TB_CTRL_SYNC_ARM ≠ 1 ∨
      s.anyRunning = true)) ∧
    (∃ s : State, s.time.counting = true ∧ s.get .timebase TIMEBASE.TB_CTRL_SYNC_MODE = 2 ∧ s.isChair = false) ∧
    (∃ s : State, s.time.counting = true ∧ s.get .timebase TIMEBASE.TB_CTRL_SYNC_MODE = 2 ∧ s.isChair = true ∧ s.fab.joiners = []) ∧
    (∃ s : State, ∃ serial : ℕ, ∃ p : ℕ, s.time.counting = true ∧ s.get .timebase TIMEBASE.TB_CTRL_SYNC_MODE = 2 ∧ s.isChair = true ∧ s.peers = [] ∧
      s.fab.joiners = [(serial, none, p)]) ∧
    (∃ s : State, (s.time.counting = false ∨ (s.get .timebase TIMEBASE.TB_CTRL_SYNC_MODE ≠ 1 ∧ s.get .timebase TIMEBASE.TB_CTRL_SYNC_MODE ≠ 2))) ∧
    (∃ s : State, s.get .timebase TIMEBASE.TB_STATUS_ALIGN_PENDING ≠ 0 ∧ s.time.syncGone = false ∧ s.fab.rejoin = false ∧ noneHeld s) ∧
    (∃ s : State, ∃ e : EngineId, s.get .timebase TIMEBASE.TB_STATUS_ALIGN_PENDING ≠ 0 ∧ s.time.syncGone = false ∧ s.fab.rejoin = false ∧
      s.fab.offered ≠ none ∧ s.get (.cell e) CELL.STATUS_START_PENDING = 1 ∧ (∀ j,
      j < 1024 → j ≠ e.val → s.get (cellPage j) CELL.STATUS_START_PENDING = 0) ∧ s.engIs e .stopped = true ∧ (edgeState s).loading e = false ∧
      s.pageIs (.cell e) .ready = true ∧ s.crit = false ∧ (s.eng e).tending = false ∧ startsListed s e) ∧
    (∃ s : State, s.get .timebase TIMEBASE.TB_STATUS_ALIGN_PENDING ≠ 0 ∧ s.time.syncGone = false ∧ s.fab.rejoin = true ∧ alignOffset s ≠ 0 ∧ noneHeld s) ∧
    (∃ s : State, (s.get .timebase TIMEBASE.TB_STATUS_ALIGN_PENDING = 0 ∨ s.time.syncGone = true)) ∧
    (∃ p : PortId, ∃ h : FrameHead, ∃ capture : Stamp, ∃ s : State, inOrder s p h ∧ s.get .timebase TIMEBASE.TB_CTRL_SYNC_MODE = 2 ∧ s.fabState = 2 ∧
      s.pair .timebase TIMEBASE.SYNC_CAPT_LO TIMEBASE.SYNC_CAPT_HI = capture.toNat) ∧
    (∃ p : PortId, ∃ h : FrameHead, ∃ capture : Stamp, ∃ s : State, inOrder s p h ∧ s.get .timebase TIMEBASE.TB_CTRL_SYNC_MODE = 2 ∧ s.fabState = 2 ∧
      s.openGroups = [] ∧ noMulti s ∧ s.pair .timebase TIMEBASE.SYNC_CAPT_LO TIMEBASE.SYNC_CAPT_HI ≠ capture.toNat) ∧
    (∃ p : PortId, ∃ n : BitVec 16, ∃ s : State, s.time.frozen = false ∧
      (s.st - BitVec.ofNat 64 (s.get (.port p) PORT.LINK_DELAY_ST)).toNat / 2 ^ 24 % 2 ^ 16 = n.toNat) ∧
    (∃ p : PortId, ∃ n : BitVec 16, ∃ s : State, s.time.frozen = false ∧ s.openGroups = [] ∧ s.fabState ≠ 2 ∧
      (s.st - BitVec.ofNat 64 (s.get (.port p) PORT.LINK_DELAY_ST)).toNat / 2 ^ 24 % 2 ^ 16 ≠ n.toNat) ∧
    (∃ s : State, s.fabState = 0 ∧ s.fab.admitted = []) ∧
    (∃ s : State, ∃ id : ℕ, ∃ e : ℕ, s.fabState = 1 ∧ s.get .fabric FABRIC.FSTATUS_CHAIR = 0 ∧ s.fab.offered = some (id, e) ∧ id < 63 ∧ e ≤ s.epochNo ∧
      s.fab.epoch < s.epochNo ∧ s.time.syncGone = false ∧ s.get .timebase TIMEBASE.TB_STATUS_ALIGN_PENDING = 0) ∧
    (∃ s : State, s.fabState = 1 ∧ s.get .fabric FABRIC.FSTATUS_CHAIR = 0 ∧ (s.time.syncGone = true ∨
      s.get .timebase TIMEBASE.TB_STATUS_ALIGN_PENDING = 1)) ∧
    (∃ s : State, s.fabState = 2 ∧ s.get .fabric FABRIC.FSTATUS_CHAIR = 0 ∧ s.fab.epoch < s.epochNo ∧ s.epochNo < s.fab.routesAt + 2 ∧
      s.fab.offered = none) :=
  ⟨⟨{ st [(.timebase, TIMEBASE.TB_CTRL_SYNC_MODE, 1), (.timebase, TIMEBASE.TB_CTRL_SYNC_ARM, 1)] (held) with time := { (held).time with counting := true } },
     by decide +kernel⟩,
   ⟨{ st [(.timebase, TIMEBASE.TB_CTRL_SYNC_MODE, 1)] runs3 with time := { runs3.time with counting := true } }, by decide +kernel⟩,
   ⟨(counting withFive), by decide +kernel⟩,
   ⟨{ st [(.timebase, TIMEBASE.TB_CTRL_SYNC_MODE, 2)] micro0 with time := { micro0.time with counting := true } }, by decide +kernel⟩,
   ⟨{ st [(.timebase, TIMEBASE.TB_CTRL_SYNC_MODE, 2)] (shot0) with time := { (shot0).time with counting := true }, fab := { (shot0).fab with joiners := [(1, none, 2)] } },
     1, 2, by decide +kernel⟩,
   ⟨grp1, by decide +kernel⟩,
   ⟨(aligning false), by unfold noneHeld; decide +kernel⟩,
   ⟨alignStart, 0, by unfold startsListed; decide +kernel⟩,
   ⟨(aligning true), by unfold noneHeld; decide +kernel⟩,
   ⟨micro0, by decide +kernel⟩,
   ⟨0, { seq := 0, src := 3, dst := 0, dlv := false, word := 1, lat := 2 }, 0, tagged, by unfold inOrder accepted; decide +kernel⟩,
   ⟨0, { seq := 0, src := 16, dst := 0, dlv := false, word := 1, lat := 1 }, 2, (aligning false), by unfold inOrder accepted noMulti; decide +kernel⟩,
   ⟨0, 0, void5, by decide +kernel⟩,
   ⟨0, 0x9392, runCtx, by decide +kernel⟩,
   ⟨gap, by decide +kernel⟩,
   ⟨{ st [(.fabric, FABRIC.FSTATUS_STATE, 1)] void5 with time := { void5.time with coarse := 0x1000000 }, fab := { void5.fab with offered := some (15, 0) } },
     15, 0, by decide +kernel⟩,
   ⟨(st [(.fabric, FABRIC.FSTATUS_STATE, 1)] (aligning false)), by decide +kernel⟩,
   ⟨(newEpoch withFive), by decide +kernel⟩⟩

theorem witness_Switchover :
    (∃ mv : BitVec 16, ∃ s : State, ∃ i : ℕ, i = s.activeStage ∧ i < 2 ∧ mv.toNat < 10200 ∧ s.mayTrigger = true) ∧
    (∃ mv : BitVec 16, ∃ s : State, mv.toNat < 10200 ∧ s.mayTrigger = true) ∧
    (∃ mv : BitVec 16, 10200 ≤ mv.toNat) ∧
    (∃ mv : BitVec 16, ∃ s : State, ∃ i : ℕ, i = s.activeStage ∧ i < 2 ∧ 14000 < mv.toNat ∧ s.mayTrigger = true) ∧
    (∃ mv : BitVec 16, mv.toNat ≤ 14000) ∧
    (∃ s : State, s.mayTrigger = true) ∧
    (∃ mv : BitVec 12, ∃ s : State, mv.toNat < 1620 ∧ s.mayTrigger = true) ∧
    (∃ mv : BitVec 12, 1620 ≤ mv.toNat) ∧
    (∃ s : State, s.get .power POWER.PSTATUS_REDUNDANT = 1 ∧ s.get .power ALL.PAGE_CTRL_ENABLE = 1 ∧ s.mayTrigger = true) ∧
    (∃ s : State, (s.get .power POWER.PSTATUS_REDUNDANT ≠ 1 ∨ s.get .power ALL.PAGE_CTRL_ENABLE ≠ 1)) ∧
    (∃ s : State, ∃ c : ℕ, c = s.otherStage ∧ c < 2 ∧ s.power.triggered = true ∧ s.get .power POWER.PSTATUS_REDUNDANT = 1) ∧
    (∃ s : State, (s.power.triggered = false ∨ s.get .power POWER.PSTATUS_REDUNDANT = 0)) ∧
    (∃ s : State, ∃ i : ℕ, i = s.activeStage ∧ i < 2 ∧ s.get .power POWER.PSTATUS_SWITCHING = 1 ∧ s.power.returned = false) ∧
    (∃ s : State, s.power.returned = true) ∧
    (∃ s : State, s.power.returned = false ∧ s.get .power POWER.PSTATUS_SWITCHING = 0 ∧ s.get .power POWER.PSTATUS_STATE = 2) ∧
    (∃ s : State, s.power.returned = false ∧ (s.get .power POWER.PSTATUS_SWITCHING = 1 ∨ s.get .power POWER.PSTATUS_STATE ≠ 2)) ∧
    (∃ s : State, s.get .power POWER.PSTATUS_SWITCHING = 1 ∧ s.power.relocked = true ∧ s.power.resetHeld = false ∧ s.power.afterGap = none ∧
      (∀ g ∈ s.openGroups, voidable s g) ∧ s.openGroups.Nodup) ∧
    (∃ s : State, ∃ a : Stamp, s.time.liveAt = some a ∧ Stamp.future a s.st = true ∧ a ≠ s.st) ∧
    (∃ mv : BitVec 12, ∃ s : State, s.power.cause = none ∧ s.power.unpowered = false ∧ ((s.power.triggered = true ∧
      s.get .power POWER.PSTATUS_SWITCHING = 0 ∧ s.get .power POWER.PSTATUS_REDUNDANT = 0) ∨ (s.get .power POWER.PSTATUS_SWITCHING = 1 ∧
      s.power.returned = false ∧ 300000 ≤ (s.st - s.power.shedAt).toNat) ∨ mv.toNat < 1300)) ∧
    (∃ mv : BitVec 12, ∃ s : State, s.power.triggered = false ∧ s.get .power POWER.PSTATUS_SWITCHING = 0 ∧ 1300 ≤ mv.toNat) ∧
    (∃ s : State, s.power.cause = none ∧ s.power.unpowered = false) ∧
    (∃ s : State, ∃ i : ℕ, i = s.activeStage ∧ i < 2 ∧ s.power.triggered = true ∧ s.power.byCold = true ∧ s.get .power POWER.PSTATUS_SWITCHING = 0 ∧
      s.get .power POWER.PSTATUS_REDUNDANT = 1 ∧ s.get (feedPage i) FEED.KSTATUS_FEED_GOOD ≠ 0) :=
  ⟨⟨0, fed, 0, by decide +kernel⟩,
   ⟨544, fed, by decide +kernel⟩,
   ⟨0xdb12, by decide +kernel⟩,
   ⟨0xfffe, fed, 0, by decide +kernel⟩,
   ⟨0, by decide +kernel⟩,
   ⟨fed, by decide +kernel⟩,
   ⟨1619, fed, by decide +kernel⟩,
   ⟨1620, by decide +kernel⟩,
   ⟨fed, by decide +kernel⟩,
   ⟨crit0, by decide +kernel⟩,
   ⟨gap, 1, by decide +kernel⟩,
   ⟨rival, by decide +kernel⟩,
   ⟨(st [(.power, POWER.PSTATUS_SWITCHING, 1)] waiting5), 0, by decide +kernel⟩,
   ⟨gap, by decide +kernel⟩,
   ⟨fed, by decide +kernel⟩,
   ⟨ringOn, by decide +kernel⟩,
   ⟨gap, by unfold voidable; decide +kernel⟩,
   ⟨{ State.reset with time := { State.reset.time with liveAt := some 64 } }, 64, by decide +kernel⟩,
   ⟨0, held, by decide +kernel⟩,
   ⟨4093, ucStd0, by decide +kernel⟩,
   ⟨run0, by decide +kernel⟩,
   ⟨{ st [(.power, POWER.PSTATUS_REDUNDANT, 1), (.feed 0, FEED.KSTATUS_FEED_GOOD, 1)] held0 with power := { held0.power with triggered := true, byCold := true } },
     0, by decide +kernel⟩⟩

theorem witness_KeepersAndPowerStates :
    (∃ s : State, s.power.keepers.length = 2) ∧
    (∃ i : Fin 2, ∃ s : State, s.roleIs i.val .cold = true ∧ s.get .power POWER.PSTATUS_SWITCHING = 0) ∧
    (∃ s : State, ∃ i : ℕ, i = s.activeStage ∧ i < 2 ∧ s.roleIs i .active = true ∧ s.power.keepers.length = 2) ∧
    (∃ s : State, ∃ i : ℕ, i = s.activeStage ∧ i < 2 ∧ s.roleIs i .active = true ∧ s.power.keepers.length = 2 ∧ (∀ y,
      (s.keeper i).copyAt = some y → 3600 * 20000000000 ≤ (s.st - y).toNat)) ∧
    (∃ s : State, ∃ i : ℕ, i = s.otherStage ∧ i < 2 ∧ s.roleIs i .cold = true ∧ s.power.keepers.length = 2) ∧
    (∃ i : Fin 2, ∃ s : State, s.roleIs i.val .off = true ∧ s.power.cause = none ∧ s.power.keepers.length = 2) ∧
    (∃ s : State, s.power.unpowered = false) ∧
    (∃ mv : BitVec 16, (mv.toNat < 10600 ∨ 13600 < mv.toNat)) ∧
    (∃ mv : BitVec 16, 10600 ≤ mv.toNat ∧ mv.toNat ≤ 13600) ∧
    (∃ s : State, s.get .power POWER.PSTATUS_AUX_A_OK ≠ 1 ∧ s.get .power POWER.PSTATUS_AUX_B_OK ≠ 1) ∧
    (∃ s : State, (s.get .power POWER.PSTATUS_AUX_A_OK = 1 ∨ s.get .power POWER.PSTATUS_AUX_B_OK = 1)) ∧
    (∃ v : Fin 4, ∃ s : State, s.get .power ALL.PAGE_CTRL_ENABLE ≠ 0 ∧ s.power.cause = none ∧ s.power.change = none ∧ ((s.powerState = 2 ∧ v.val = 1 ∧
      s.allStopped = true ∧ s.allInert = true) ∨ (s.powerState = 1 ∧ (v.val = 2 ∨ v.val = 0)))) ∧
    (∃ v : Fin 4, ∃ s : State, s.get .power ALL.PAGE_CTRL_ENABLE ≠ 0 ∧ s.power.cause = none ∧ (s.powerState = 3 ∨ v.val = 3 ∨ v.val = s.powerState)) ∧
    (∃ s : State, s.get .power ALL.PAGE_CTRL_ENABLE ≠ 0 ∧ s.power.cause = some .target) ∧
    (∃ s : State, s.power.change = some 1) ∧
    (∃ s : State, s.power.change = some 2 ∧ s.start.retest.Nodup) ∧
    (∃ s : State, s.power.change = some 0) ∧
    (∃ s : State, s.power.change = none) ∧
    (∃ x : BitVec 16, ∃ s : State, s.power.cause = some .trip ∧ s.power.unpowered = false ∧ x.toInt < 850 ∧ (s.get (.feed 0) FEED.KSTATUS_FEED_GOOD = 1 ∨
      s.get (.feed 1) FEED.KSTATUS_FEED_GOOD = 1)) ∧
    (∃ x : BitVec 16, ∃ b : Bool, ∃ s : State, (s.power.cause = none ∨ (s.power.cause = some .trip ∧ (850 ≤ x.toInt ∨ b = false)))) :=
  ⟨⟨void5, by decide +kernel⟩,
   ⟨1, fed, by decide +kernel⟩,
   ⟨gap, 0, by decide +kernel⟩,
   ⟨gap, 0, by decide +kernel, by decide +kernel, by decide +kernel, by decide +kernel, vacuous (by decide +kernel)⟩,
   ⟨gap, 1, by decide +kernel⟩,
   ⟨0, held0, by decide +kernel⟩,
   ⟨idle0, by decide +kernel⟩,
   ⟨32, by decide +kernel⟩,
   ⟨0x2968, by decide +kernel⟩,
   ⟨trap1, by decide +kernel⟩,
   ⟨fed, by decide +kernel⟩,
   ⟨1, fed, by decide +kernel⟩,
   ⟨2, gap, by decide +kernel⟩,
   ⟨{ st [(.power, ALL.PAGE_CTRL_ENABLE, 1)] unitOn with power := { unitOn.power with cause := some .target } }, by decide +kernel⟩,
   ⟨{ (gap) with power := { (gap).power with change := some 1 } }, by decide +kernel⟩,
   ⟨{ ucFar with power := { ucFar.power with change := some 2 } }, by decide +kernel⟩,
   ⟨{ runs3 with power := { runs3.power with change := some 0 } }, by decide +kernel⟩,
   ⟨rival, by decide +kernel⟩,
   ⟨224, { st [(.feed 1, FEED.KSTATUS_FEED_GOOD, 1)] held0 with power := { held0.power with cause := some .trip } }, by decide +kernel⟩,
   ⟨160, true, rival, by decide +kernel⟩⟩

theorem witness_Temperature :
    (∃ l : Fin 3, ∃ i : Fin 84, ∃ s : State, i.val < 80 ∧ s.inForce l.val = false ∧ s.broken i.val = false ∧ s.get .thermal THERMAL.EXT_CFG_PRESENT ≠ 0) ∧
    (∃ l : Fin 3, ∃ i : Fin 84, ∃ s : State, 80 ≤ i.val ∧ s.inForce l.val = false ∧ s.broken i.val = false) ∧
    (∃ l : Fin 4, ∃ s : State, l.val < 2 ∧ s.inForce l.val = false ∧ s.power.cause = none) ∧
    (∃ s : State, s.inForce 2 = false ∧ s.power.cause = none ∧ (∀ g ∈ s.openGroups, (s.group g).voidedNow = false)) ∧
    (∃ s : State, s.inForce 3 = false ∧ s.power.cause = none ∧ s.get .power POWER.PSTATUS_SWITCHING = 0) ∧
    (∃ l : Fin 4, ∃ s : State, s.inForce l.val = true) ∧
    (∃ l : Fin 3, ∃ s : State, s.inForce l.val = true) ∧
    (∃ o : OutputId, ∃ s : State, s.crit = true ∧ (∀ e ∈ s.outputOwners (.dac o), s.inShot e = false)) ∧
    (∃ m : Fin 16, ∃ s : State, s.crit = true ∧ (∀ e ∈ s.outputOwners (.marker m), s.inShot e = false) ∧ s.markerCond m ≠ Cond.inert.code) ∧
    (∃ o : AnyOutput, ∃ s : State, (s.crit = false ∨ (∃ e ∈ s.outputOwners o, s.inShot e = true))) ∧
    (∃ i : Fin 80, ∃ s : State, s.broken i.val = false) ∧
    (∃ i : Fin 80, ∃ s : State, s.broken i.val = true) ∧
    (∃ s : State, s.power.unpowered = false) ∧
    (∃ s : State, s.power.unpowered = true) :=
  ⟨⟨0, 0, (st [(.thermal, THERMAL.EXT_CFG_PRESENT, 1)] parked), by decide +kernel⟩,
   ⟨0, 83, gap, by decide +kernel⟩,
   ⟨0, run0, by decide +kernel⟩,
   ⟨runs3, by decide +kernel⟩,
   ⟨crit0, by decide +kernel⟩,
   ⟨0, (warm 1), by decide +kernel⟩,
   ⟨0, (warm 3), by decide +kernel⟩,
   ⟨(.flux 0), crit0, by decide +kernel⟩,
   ⟨0, (st [(.thermal, THERMAL.TSTATE_STATE, 3), (.acquisition 0, ACQUISITION.MARK_STATUS_COND0, 1)] funcSet), by decide +kernel⟩,
   ⟨(.marker 0), alone, by decide +kernel⟩,
   ⟨0, trap1, by decide +kernel⟩,
   ⟨0, { (dqOn) with tbl := [(0x900000000000, 0x10000)] }, by decide +kernel⟩,
   ⟨parked, by decide +kernel⟩,
   ⟨{ grp1 with power := { grp1.power with unpowered := true } }, by decide +kernel⟩⟩

theorem witness_Security :
    (∃ s : State, s.power.unpowered = false ∧ s.lc ≠ 2) ∧
    (∃ s : State, awake s ∧ s.lc = 2) ∧
    (∃ x : BitVec 16, ∃ s : State, s.start.phase = .due ∧ s.start.tempHeld = false ∧ (x.toInt < -100 ∨ 1000 < x.toInt)) ∧
    (∃ x : BitVec 16, -100 ≤ x.toInt ∧ x.toInt ≤ 1000) ∧
    (∃ s : State, awake s) ∧
    (∃ s : State, s.power.unpowered = false ∧ s.power.cause ≠ none) ∧
    (∃ fn : FuncId, fn.val ≠ 0) ∧
    (∃ s : State, s.get .security SECURITY.CMD_STATUS_BUSY = 0) ∧
    (∃ s : State, s.get .security SECURITY.CMD_STATUS_BUSY = 1 ∧ s.srcRange = true ∧ (∀ r, s.start.security ≠ some (.passport r))) ∧
    (∃ s : State, ∃ r : ℕ, s.get .security SECURITY.CMD_STATUS_BUSY = 1 ∧ s.srcRange = true ∧ s.start.security = some (.passport r)) ∧
    (∃ s : State, ∃ a : ℕ, ∃ kind : ℕ, s.payloadLen a = 112 ∧ s.bytes (a + 0x8A) 6 = 0 ∧ ((kind = 4 ∧ s.bytes (a + 0x88) 1 = 0 ∧
      s.bytes (a + 0x89) 1 = 1) ∨ s.bytes (a + 0xB0) 64 = 0)) ∧
    (∃ s : State, s.lc ≠ 0) ∧
    (∃ s : State, s.lc = 0 ∧ s.get .security SECURITY.CMD_STATUS_BUSY = 0) ∧
    (∃ s : State, ∃ d : ℕ, s.start.security = some (.transition d 0) ∧ awake s ∧ 1 ≤ d ∧ d ≤ 4) ∧
    (∃ s : State, ∃ d : ℕ, ∃ r : ℕ, s.start.security = some (.transition d r) ∧ r ≠ 0) ∧
    (∃ s : State, s.start.security = some (.extend 0) ∧ s.get .security SECURITY.EXT_SEL_REG < 16) ∧
    (∃ s : State, ∃ r : ℕ, s.start.security = some (.extend r) ∧ r ≠ 0) ∧
    (∃ s : State, s.start.security = none) ∧
    (∃ s : State, s.start.security = some (.passport 0) ∧ onHost s.dstAddr = true) ∧
    (∃ s : State, s.start.security = some (.passport 0) ∧ s.dstAddr + passportLen ≤ hbmEnd ∧ s.get .hbm HBM.STATUS_WIPING = 0) ∧
    (∃ s : State, ∃ r : ℕ, s.start.security = some (.passport r) ∧ r ≠ 0) ∧
    (∃ token : List Byte, ∃ s : State, s.lc = 2 ∧ awake s ∧ token.length ≤ 2 ^ 32) ∧
    (∃ token : List Byte, ∃ s : State, s.lc ≠ 2 ∧ (s.lc = 4 ∨ s.get .security SECURITY.DEBUG_FAILS_COUNT = 3) ∧ token.length ≤ 2 ^ 32) ∧
    (∃ token : List Byte, ∃ s : State, awake s ∧ s.lc ≠ 2 ∧ s.lc ≠ 4 ∧ s.get .security SECURITY.DEBUG_FAILS_COUNT ≠ 3 ∧ token.length ≤ 2 ^ 32) ∧
    (∃ s : State, s.start.resetLow = true) ∧
    (∃ s : State, s.start.resetLow = false) :=
  ⟨⟨run0, by decide +kernel⟩,
   ⟨(lcIs 2), by unfold awake; decide +kernel⟩,
   ⟨0x4c6f, grp1, by decide +kernel⟩,
   ⟨3, by decide +kernel⟩,
   ⟨dqOn, by unfold awake; decide +kernel⟩,
   ⟨{ trap1 with power := { trap1.power with cause := some .target } }, by decide +kernel⟩,
   ⟨1, by decide +kernel⟩,
   ⟨trap1, by decide +kernel⟩,
   ⟨cmd (.extend 0), by decide +kernel, by decide +kernel, nofun⟩,
   ⟨(cmd (.passport 0)), 0, by decide +kernel⟩,
   ⟨emptyKey, 0, 0, by decide +kernel⟩,
   ⟨(lcIs 1), by decide +kernel⟩,
   ⟨idle0, by decide +kernel⟩,
   ⟨(cmd (.transition 1 0)), 1, by unfold awake; decide +kernel⟩,
   ⟨{ rival with start := { rival.start with security := some (.transition 16 3) } }, 16, 3, by decide +kernel⟩,
   ⟨(cmd (.extend 0)), by decide +kernel⟩,
   ⟨{ runCtx with start := { runCtx.start with security := some (.extend 23) } }, 23, by decide +kernel⟩,
   ⟨trap1, by decide +kernel⟩,
   ⟨{ st [(.security, SECURITY.DST_LO, 0x200000000000000)] unitOn with start := { unitOn.start with security := some (.passport 0) } },
     by decide +kernel⟩,
   ⟨(cmd (.passport 0)), by decide +kernel⟩,
   ⟨{ run0 with start := { run0.start with security := some (.passport 2) } }, 2, by decide +kernel⟩,
   ⟨[], (lcIs 2), by unfold awake; decide +kernel⟩,
   ⟨[4], { parked with tbl := [(0xc00000000022, 4)] }, by decide +kernel⟩,
   ⟨[], (coinc0 []), by unfold awake; decide +kernel⟩,
   ⟨{ crit0 with start := { crit0.start with resetLow := true } }, by decide +kernel⟩,
   ⟨held0, by decide +kernel⟩⟩

theorem witness_StartsAndResets :
    (∃ ext : BitVec 16, ∃ goodA : Bool, ∃ goodB : Bool, ∃ s : State, mayStart ext goodA goodB s ∧ s.power.keepers.length = 2) ∧
    (∃ ext : BitVec 16, ∃ s : State, (s.start.phase ≠ .due ∨ s.start.resetLow = true ∨ ext.toInt < -100 ∨ 1000 < ext.toInt)) ∧
    (∃ s : State, s.start.phase = .rom ∧ s.lc ≠ 4) ∧
    (∃ s : State, (s.start.phase ≠ .rom ∨ s.lc = 4)) ∧
    (∃ s : State, s.start.phase = .firmware ∧ s.start.slot ≤ 1) ∧
    (∃ s : State, ∃ x : FaultRecord, s.start.phase = .firmware ∧ s.power.records = [x] ∧ s.start.retest = [] ∧ x.kind < 2 ^ 8) ∧
    (∃ s : State, s.start.phase ≠ .firmware) ∧
    (∃ s : State, awake s) ∧
    (∃ s : State, s.power.cause ≠ none) ∧
    (∃ s : State, awake s ∧ s.get .power POWER.PSTATUS_SWITCHING = 0) ∧
    (∃ s : State, s.get .power POWER.PSTATUS_SWITCHING = 1) ∧
    (∃ fn : FuncId, fn.val ≠ 0) ∧
    (∃ n : RegionId, ∃ s : State, s.start.phase = .complete ∧ n.val ∉ s.start.regionsInReset) ∧
    (∃ n : RegionId, ∃ s : State, (s.start.phase ≠ .complete ∨ n.val ∈ s.start.regionsInReset)) ∧
    (∃ k : BlockId, ∃ s : State, s.start.phase = .complete ∧ k.val ∉ s.start.blocksInReset ∧ k.val / 8 ∉ s.start.regionsInReset) ∧
    (∃ k : BlockId, ∃ s : State, (s.start.phase ≠ .complete ∨ k.val ∈ s.start.blocksInReset ∨ k.val / 8 ∈ s.start.regionsInReset)) ∧
    (∃ n : RegionId, ∃ s : State, n.val ∈ s.start.regionsInReset) ∧
    (∃ n : RegionId, ∃ s : State, n.val ∉ s.start.regionsInReset) ∧
    (∃ k : BlockId, ∃ s : State, k.val ∈ s.start.blocksInReset) ∧
    (∃ k : BlockId, ∃ s : State, k.val ∉ s.start.blocksInReset) ∧
    (∃ s : State, ∃ e : ℕ, ∃ w : ℕ, e = s.get .nvm NVM.LOG_SEL_ENTRY ∧ w = s.get .nvm NVM.LOG_SEL_WORD ∧ e < 4096 ∧ w < 16) :=
  ⟨⟨3, true, true, gap, by unfold mayStart awake; decide +kernel⟩,
   ⟨0xc453, pinned, by decide +kernel⟩,
   ⟨(begun .rom), by decide +kernel⟩,
   ⟨rival, by decide +kernel⟩,
   ⟨(begun .firmware), by decide +kernel⟩,
   ⟨{ parked with power := { parked.power with records := [{ kind := 0, boot := 3, at' := 32, detail := [] }] }, start := { parked.start with phase := .firmware } },
     { kind := 0, boot := 3, at' := 32, detail := [] }, by decide +kernel⟩,
   ⟨(warm 7), by decide +kernel⟩,
   ⟨held, by unfold awake; decide +kernel⟩,
   ⟨{ pinned with power := { pinned.power with cause := some .target } }, by decide +kernel⟩,
   ⟨trap1, by unfold awake; decide +kernel⟩,
   ⟨gap, by decide +kernel⟩,
   ⟨1, by decide +kernel⟩,
   ⟨0, runs3, by decide +kernel⟩,
   ⟨0, (warm 1), by decide +kernel⟩,
   ⟨0, held, by decide +kernel⟩,
   ⟨0, grp1, by decide +kernel⟩,
   ⟨0, { runCkpt with start := { runCkpt.start with regionsInReset := [0] } }, by decide +kernel⟩,
   ⟨3, held0, by decide +kernel⟩,
   ⟨32, { (rxAt 3) with start := { (rxAt 3).start with blocksInReset := [32] } }, by decide +kernel⟩,
   ⟨2, gap, by decide +kernel⟩,
   ⟨runs3, 0, 0, by decide +kernel⟩⟩

theorem witness_Firmware :
    (∃ fn : FuncId, fn.val ≠ 0) ∧
    (∃ s : State, s.start.phase = .complete ∧ s.get .chip CHIP.FW_STATUS_BUSY = 0) ∧
    (∃ s : State, s.start.phase = .complete ∧ s.get .chip CHIP.FW_STATUS_BUSY = 1) ∧
    (∃ s : State, s.start.phase = .recovery ∧ s.get .chip CHIP.FW_STATUS_BUSY = 0) ∧
    (∃ s : State, s.start.phase ≠ .recovery) ∧
    (∃ s : State, s.start.phase ≠ .complete) ∧
    (∃ s : State, s.start.firmware = some .stage ∧ s.start.slot ≤ 1) ∧
    (∃ s : State, s.start.firmware = some .recover ∧ awake s) ∧
    (∃ s : State, s.start.firmware ≠ some .stage ∧ s.start.firmware ≠ some .recover) ∧
    (∃ s : State, s.word .misc 1 ≠ 0 ∧ s.openGroups = [] ∧ s.start.reverting = false) ∧
    (∃ s : State, s.word .misc 1 ≠ 0 ∧ s.openGroups = [] ∧ s.start.reverting = true) ∧
    (∃ s : State, (s.word .misc 1 = 0 ∨ s.openGroups ≠ [])) ∧
    (∃ s : State, s.word .misc 1 ≠ 0 ∧ s.openGroups ≠ [] ∧ s.start.firmware = some .switch) ∧
    (∃ s : State, (s.word .misc 1 = 0 ∨ s.openGroups = [])) ∧
    (∃ s : State, s.start.confirming = true ∧ s.start.slot ≤ 1) ∧
    (∃ s : State, s.start.confirming = true) ∧
    (∃ s : State, s.start.confirming = false) :=
  ⟨⟨3, by decide +kernel⟩,
   ⟨guest3, by decide +kernel⟩,
   ⟨{ st [(.chip, CHIP.FW_STATUS_BUSY, 1)] parked with start := { parked.start with phase := .complete } }, by decide +kernel⟩,
   ⟨(begun .recovery), by decide +kernel⟩,
   ⟨runs3, by decide +kernel⟩,
   ⟨(lcIs 1), by decide +kernel⟩,
   ⟨(asked .stage), by decide +kernel⟩,
   ⟨(asked .recover), by unfold awake; decide +kernel⟩,
   ⟨void5, by decide +kernel⟩,
   ⟨held, by decide +kernel⟩,
   ⟨{ ucFar with tbl := [(0xd00000000001, 1)], start := { ucFar.start with reverting := true } }, by decide +kernel⟩,
   ⟨ringOn, by decide +kernel⟩,
   ⟨heldOpen, by decide +kernel⟩,
   ⟨trap1, by decide +kernel⟩,
   ⟨{ parked with start := { parked.start with confirming := true } }, by decide +kernel⟩,
   ⟨{ idlePort with start := { idlePort.start with confirming := true } }, by decide +kernel⟩,
   ⟨rival, by decide +kernel⟩⟩

theorem witness_Pages :
    (∃ fn : FuncId, ∃ p : Page, ∃ s : State, s.reachesPage fn p = true ∧ hasEnable p = true ∧ (onUnit p = true → 2 ≤ s.get .power POWER.PSTATUS_STATE) ∧
      (∀ q ∈ p :: enclosers p, s.pageIs q .quarantined = false) ∧ s.pageIs p .off = true) ∧
    (∃ fn : FuncId, ∃ p : Page, ∃ s : State, s.reachesPage fn p = true ∧ hasEnable p = true ∧ (onUnit p = true → 2 ≤ s.get .power POWER.PSTATUS_STATE) ∧
      (∀ q ∈ p :: enclosers p, s.pageIs q .quarantined = false) ∧ s.pageIs p .draining = true) ∧
    (∃ p : Page, ∃ s : State, hasEnable p = true ∧ (s.pageIs p .starting = true ∨ s.pageIs p .ready = true ∨ (∃ q ∈ enclosers p,
      s.pageIs q .quarantined = true) ∨ (onUnit p = true ∧ s.get .power POWER.PSTATUS_STATE < 2))) ∧
    (∃ fn : FuncId, ∃ p : Page, ∃ s : State, s.reachesPage fn p = true ∧ hasEnable p = false) ∧
    (∃ fn : FuncId, ∃ p : Page, ∃ s : State, s.reachesPage fn p = false) ∧
    (∃ fn : FuncId, ∃ p : Page, ∃ s : State, s.reachesPage fn p = true ∧ hasEnable p = true ∧ (onUnit p = true → 2 ≤ s.get .power POWER.PSTATUS_STATE) ∧
      s.pageIs p .ready = true) ∧
    (∃ fn : FuncId, ∃ p : Page, ∃ s : State, s.reachesPage fn p = true ∧ hasEnable p = true ∧ (onUnit p = true → 2 ≤ s.get .power POWER.PSTATUS_STATE) ∧
      s.pageIs p .ready = false) ∧
    (∃ p : Page, ∃ s : State, hasEnable p = true ∧ s.pageIs p .starting = true ∧ s.pageInReset p = false ∧ s.start.phase = .complete ∧
      s.get p ALL.PAGE_CTRL_ENABLE ≠ 0 ∧ (∀ q ∈ enclosers p, s.pageIs q .ready = true) ∧ (∀ q, p ≠ .port q) ∧ (∀ e,
      p = .cell e → s.paceHoldsCell e.val = false ∧ s.get p CELL.STATUS_START_PENDING = 0)) ∧
    (∃ q : PortId, ∃ s : State, s.pageIs (.port q) .starting = true ∧ s.start.phase = .complete ∧ s.get (.port q) ALL.PAGE_CTRL_ENABLE ≠ 0) ∧
    (∃ p : Page, ∃ s : State, hasEnable p = true ∧ s.pageIs p .starting = true ∧ s.pageInReset p = false ∧ s.start.phase = .complete ∧
      s.get p ALL.PAGE_CTRL_ENABLE = 0) ∧
    (∃ p : Page, ∃ s : State, (s.pageIs p .starting = false ∨ s.pageInReset p = true ∨ (s.get p ALL.PAGE_CTRL_ENABLE = 1 ∧ ∃ q ∈ enclosers p,
      s.pageIs q .ready = false) ∨ (s.get p ALL.PAGE_CTRL_ENABLE = 1 ∧ ∃ e, p = .cell e ∧ s.paceHoldsCell e.val = true))) ∧
    (∃ p : Page, ∃ s : State, s.pageIs p .draining = true ∧ (∀ q ∈ enclosed p, s.pageIs q .draining = false) ∧ s.get p ALL.PAGE_CTRL_ENABLE = 0) ∧
    (∃ p : Page, ∃ s : State, s.pageIs p .draining = true ∧ (∀ q ∈ enclosed p, s.pageIs q .draining = false) ∧ s.get p ALL.PAGE_CTRL_ENABLE = 1 ∧
      (∀ q ∈ enclosers p, s.pageIs q .off = false ∧ s.pageIs q .draining = false)) ∧
    (∃ p : Page, ∃ s : State, (s.pageIs p .draining = false ∨ (∃ q ∈ enclosed p, s.pageIs q .draining = true))) ∧
    (∃ fn : FuncId, ∃ p : Page, ∃ s : State, s.reachesPage fn p = true) ∧
    (∃ fn : FuncId, ∃ e : EngineId, ∃ v : Word, ∃ s : State, ∃ k : Page, ∃ c : ℕ, k = blockPage (blockOf e.val) ∧ c = cellOf e.val ∧
      s.reachesRoute fn e.val = true ∧ (s.pageIs k .off = true ∨ s.engStopped e.val = true) ∧ (run (putRoute (.cell e) v) s).toneClash e.val = false) ∧
    (∃ fn : FuncId, ∃ e : EngineId, ∃ v : Word, ∃ s : State, ∃ n : Page, ∃ i : ℕ, n = regionPage (regionOf e.val) ∧ i = e.val % 128 ∧
      s.reachesRoute fn e.val = true ∧ (s.pageIs n .off = true ∨ s.engStopped e.val = true) ∧ (run (putRoute (.read e) v) s).toneClash e.val = false) ∧
    (∃ fn : FuncId, ∃ r : RouteReg, ∃ s : State, s.reachesRoute fn (routeEngine r) = true ∧ s.pageIs (routePage r) .off = false ∧
      s.engStopped (routeEngine r) = false) ∧
    (∃ fn : FuncId, ∃ r : RouteReg, ∃ v : Word, ∃ s : State, s.reachesRoute fn (routeEngine r) = true ∧ (s.pageIs (routePage r) .off = true ∨
      s.engStopped (routeEngine r) = true) ∧ (run (putRoute r v) s).toneClash (routeEngine r) = true) ∧
    (∃ fn : FuncId, ∃ r : RouteReg, ∃ s : State, s.reachesRoute fn (routeEngine r) = false) ∧
    (∃ fn : FuncId, ∃ e : EngineId, ∃ v : Word, ∃ s : State, openTo fn e s ∧ s.markClash e v.toNat = false) ∧
    (∃ fn : FuncId, ∃ e : EngineId, ∃ v : Word, ∃ s : State, openTo fn e s ∧ s.markClash e v.toNat = true) ∧
    (∃ fn : FuncId, ∃ e : EngineId, ∃ s : State, closedTo fn e s) ∧
    (∃ fn : FuncId, ∃ e : EngineId, ∃ s : State, openTo fn e s) ∧
    (∃ fn : FuncId, ∃ e : EngineId, ∃ i : Fin 4, ∃ s : State, ∃ low : ℕ, openTo fn e s ∧ s.get (.cell e) (CELL.T_LO i) < 2 ^ 32 ∧
      low = (match (s.eng e).stagedLow.getD i none with | some w => w.toNat | none => s.get (.cell e) (CELL.T_LO i))) ∧
    (∃ fn : FuncId, ∃ e : EngineId, ∃ s : State, s.reachesPage fn (.cell e) = false) :=
  ⟨⟨0, .fabric, dspIrq, by decide +kernel⟩,
   ⟨0, (.block 0), (st [(.power, POWER.PSTATUS_STATE, 2), (.block 0, ALL.PAGE_STATE_STATE, 3)] restored5), by decide +kernel⟩,
   ⟨(.cell 0), fired0, by decide +kernel⟩,
   ⟨0, .host, grp1, by decide +kernel⟩,
   ⟨64, .hbm, idle0, by decide +kernel⟩,
   ⟨0, .fabric, alone, by decide +kernel⟩,
   ⟨0, .fabric, held0, by decide +kernel⟩,
   ⟨.fabric, (st [(.fabric, ALL.PAGE_CTRL_ENABLE, 1), (.fabric, ALL.PAGE_STATE_STATE, 1)] oneEntry), by decide +kernel⟩,
   ⟨0, (st [(.port 0, ALL.PAGE_CTRL_ENABLE, 1), (.port 0, ALL.PAGE_STATE_STATE, 1)] heldOpen), by decide +kernel⟩,
   ⟨(.port 0), (st [(.port 0, ALL.PAGE_STATE_STATE, 1)] oneEntry), by decide +kernel⟩,
   ⟨.hbm, held, by decide +kernel⟩,
   ⟨.host, (st [(.host, ALL.PAGE_STATE_STATE, 3)] waitingLate), by decide +kernel⟩,
   ⟨.hbm, (st [(.hbm, ALL.PAGE_CTRL_ENABLE, 1), (.hbm, ALL.PAGE_STATE_STATE, 3)] heldOpen), by decide +kernel⟩,
   ⟨.power, (dspAt 0), by decide +kernel⟩,
   ⟨0, .hbm, rcvOpen, by decide +kernel⟩,
   ⟨0, 0, 0x21d625fe, ucFar, (.block 0), 0, by decide +kernel⟩,
   ⟨0, 0, 5, trap1, (.region 0), 0, by decide +kernel⟩,
   ⟨0, (.cell 0), (st [(.block 0, ALL.PAGE_STATE_STATE, 1)] runDeep), by decide +kernel⟩,
   ⟨0, (.read 1), 0x9561d0a8, parked, by decide +kernel⟩,
   ⟨7, (.cell 0), (warm 1), by decide +kernel⟩,
   ⟨0, 0, 3, idle0, by unfold openTo; decide +kernel⟩,
   ⟨0, 0, 3, (st [(.ledger, LEDGER.MARK_ATT_EN, 1)] (warm 7)), by unfold openTo; decide +kernel⟩,
   ⟨0, 0, held0, by unfold closedTo; decide +kernel⟩,
   ⟨0, 0, run0, by unfold openTo; decide +kernel⟩,
   ⟨0, 0, 0, (rxAt 1), 0, by unfold openTo; decide +kernel⟩,
   ⟨2, 3, (lcIs 1), by decide +kernel⟩⟩

theorem witness_HostAccess :
    (∃ fn : FuncId, ∃ x : BarOffset, fn.val ≠ 0 ∧ (pageAt fn x.toNat = some .fabric ∨ ∃ q, pageAt fn x.toNat = some (.port q))) ∧
    (∃ p : Page, ∃ off : ℕ, (∀ g, p ≠ .fence g) ∧ off < 4096) ∧
    (∃ off : ℕ, off < 4096) ∧
    (∃ fn : FuncId, ∃ x : ℕ, ∃ p : Page, pageAt fn x = some p) ∧
    (∃ fn : FuncId, ∃ x : BarOffset, ∃ p : Page, fn.val ≠ 0 ∧ pageAt fn x.toNat = some p ∧ hiddenFromGuests p) ∧
    (∃ fn : FuncId, ∃ x : BarOffset, ∃ g : Fin 64, fn.val ≠ 0 ∧ fn.val ≠ g.val + 1 ∧ pageAt fn x.toNat = some (.session g)) ∧
    (∃ fn : FuncId, ∃ x : BarOffset, ∃ e : EngineId, ∃ s : State, fn.val ≠ 0 ∧ s.reachesCell fn e.val = false ∧ pageAt fn x.toNat = some (.cell e)) ∧
    (∃ fn : FuncId, ∃ x : BarOffset, ∃ k : BlockId, ∃ s : State, fn.val ≠ 0 ∧ s.reachesDsp fn k.val = false ∧ pageAt fn x.toNat = some (.dsp k)) ∧
    (∃ fn : FuncId, ∃ x : BarOffset, pageAt fn x.toNat = none) ∧
    (∃ x : BarOffset, ∃ p : Page, ∃ s : State, s.start.phase = .recovery ∧ pageAt 0 x.toNat = some p ∧ p ≠ .chip) ∧
    (∃ fn : FuncId, ∃ e : EngineId, ∃ off : ℕ, ∃ s : State, s.reachesCell fn e.val = true ∧ s.start.phase ≠ .recovery ∧ off < 0x40) ∧
    (∃ p : Page, ∃ s : State, shownToPf s p) ∧
    (∃ s : State, s.start.phase ≠ .recovery) ∧
    (∃ e : EngineId, ∃ s : State, s.start.phase ≠ .recovery ∧ s.cellOpen e.val = true) ∧
    (∃ e : EngineId, ∃ s : State, s.start.phase ≠ .recovery ∧ s.cellOpen e.val = false) ∧
    (∃ v : Word, v.getLsbD 0 = true) :=
  ⟨⟨1, 0x33a5e, by decide +kernel⟩,
   ⟨.watch, 23, by decide +kernel⟩,
   ⟨3, by decide +kernel⟩,
   ⟨1, 0, .chip, by decide +kernel⟩,
   ⟨1, 0, .chip, by decide, by decide, trivial⟩,
   ⟨1, 0x102000, 1, by decide, by decide, by decide⟩,
   ⟨1, 0x1010000, 0, State.reset, by decide, by decide +kernel, by decide⟩,
   ⟨1, 0x1006df2, 0, (cmd (.extend 0)), by decide +kernel⟩,
   ⟨0, 0x68e794, by decide +kernel⟩,
   ⟨0x1175c16, (.cell 181), { void5 with start := { void5.start with phase := .recovery } }, by decide +kernel⟩,
   ⟨0, 0, 4, trap1, by decide +kernel⟩,
   ⟨.thermal, parked, by unfold shownToPf; decide +kernel⟩,
   ⟨pinned, by decide +kernel⟩,
   ⟨0, (rxAt 3), by decide +kernel⟩,
   ⟨0, held0, by decide +kernel⟩,
   ⟨0x1e5a91dd, by decide +kernel⟩⟩

theorem witness_StepRunsFront :
    ∃ s : State, s.pending = [] :=
  ⟨grp1, by decide +kernel⟩

theorem witness_StepKeepsWf :
    ∃ s : State, s.wf = true :=
  ⟨micro0, by decide +kernel⟩

/-- ALUI ADD wraps and sets Z and C (R106). -/
theorem test_add_wraps : let s := after (.alui 0 .add 2 1 1) (st [(.cell 0, CELL.STATUS_STATE, 1), (.cell 0, CELL.G_VALUE 1, 0xFFFFFFFF)])
    s.greg 0 2 = 0 ∧ s.pc 0 = 1 ∧ s.greg 0 1 = 0xFFFFFFFF ∧ s.cw 0 = 5 := by decide +kernel

theorem test_guest_view_of_its_cell : guest3.hostRead 3 0x125C000 = 0xA512C001 ∧ guest3.hostRead 0 0x125C000 = 0xA512C001 ∧
    guest3.hostRead 3 0x125C028 = 3 ∧ guest3.hostRead 3 0x125D000 = 0 := by decide +kernel

theorem test_guest_view_of_an_output : guest3.hostRead 3 0x1243000 = 0xA1025001 ∧ guest3.hostRead 3 0x1243004 = 0 ∧ guest3.hostRead 3 0x1243050 = 0 ∧
    (st [(.drive 37, OUTP.TONE_STATUS_PLAYING 4, 1), (.drive 37, OUTP.TONE_STATUS_PLAYING 5, 1)] guest3).hostRead 3 0x1243140 = 1 ∧
    (st [(.drive 37, OUTP.TONE_STATUS_PLAYING 4, 1), (.drive 37, OUTP.TONE_STATUS_PLAYING 5, 1)] guest3).hostRead 3 0x1243150 = 0 := by decide +kernel

theorem test_guest_view_of_the_rest : guest3.hostRead 3 0x888000 = 0 ∧ guest3.hostRead 3 0x2000 = 0x03003001 ∧ guest3.hostRead 3 0x103000 = 0x06003001 ∧
    guest3.hostRead 3 0x103008 = 2 ∧ guest3.hostRead 3 0 = 0 := by decide +kernel

end Sys2Proof.Tests
end

/-! The reset values of the register fields (R10): a field outside `resetTable` resets to 0x0 and one in it to the value listed
there, page by page; and what the empty register store of `State.reset` shows of engines, outputs and markers. -/

namespace Sys2Proof.Machine

/-! The register fields after reset -/

/-- The register store is empty after reset, so each field reads its reset value. -/
@[simp] theorem State.get_reset (p : Page) (f : Field) : State.reset.get p f = f.reset := rfl

theorem cond_reset (o : OutputId) : State.reset.cond o = Cond.inert.code := by
  cases o <;> rfl

/-- Whichever of the two fields shows marker m's condition, it resets to the code of INERT. -/
theorem markerCond_reset (m : Nat) : State.reset.markerCond m = Cond.inert.code :=
  (apply_ite Field.reset (m % 2 = 0) _ _).trans (ite_self 0)

/-! The table of reset values -/

/-- `resetTable` has an entry for every field of the rows that does not reset to 0x0. -/
abbrev ResetsListed (rows : List FieldRow) : Prop :=
  ∀ r ∈ rows, r.field.reset ≠ 0 → ∃ x ∈ resetTable, x.1 = r.field

theorem value_of_mem_resetTable : ∀ x ∈ resetTable, x.2 = x.1.reset := by decide

/-- Looking a field up in `resetTable` finds its reset value, where the table has an entry for it unless the value is 0x0. -/
theorem reset_eq_lookup {f : Field} (h : f.reset ≠ 0 → ∃ x ∈ resetTable, x.1 = f) :
    f.reset = ((resetTable.find? fun x => x.1 = f).map (·.2)).getD 0 := by
  cases hfind : resetTable.find? fun x => x.1 = f with
  | none =>
    by_contra hne
    obtain ⟨x, hx, hxf⟩ := h hne
    exact List.find?_eq_none.1 hfind x hx (decide_eq_true hxf)
  | some x =>
    have hxf : x.1 = f := by simpa using List.find?_some hfind
    have hval : x.2 = x.1.reset := value_of_mem_resetTable x (List.mem_of_find?_eq_some hfind)
    rw [Option.map_some, Option.getD_some, hval, hxf]

/-! The pages' field tables -/

theorem resetsListed_header : ResetsListed ALL.rows := by decide

theorem resetsListed_output : ResetsListed OUTP.rows := by decide

/-- Every field of every page that does not reset to 0x0 is listed, header and own fields apart; a DRIVE page repeats the
fields of an output's rows less often. -/
theorem resetsListed_pageRows (p : Page) : ResetsListed (pageRows p) := by
  have own {rows : List FieldRow} (h : ResetsListed rows) : ResetsListed (ALL.rows ++ rows) :=
    List.forall_mem_append.2 ⟨resetsListed_header, h⟩
  cases p with
  | drive d =>
    refine own (List.forall_mem_map.2 fun r hr => ?_)
    split <;> exact resetsListed_output r hr
  | transceiver t => exact List.forall_mem_append.2 ⟨own resetsListed_output, by decide⟩
  | _ => exact own (by decide)

/-- Settles O59: the register store is empty after reset, and each page's field table agrees with `resetTable`. -/
theorem resetState : Obligations.ResetState :=
  ⟨State.get_reset, fun p r hr => reset_eq_lookup (resetsListed_pageRows p r hr), fun p => State.get_reset p _,
   fun _ => rfl, cond_reset, markerCond_reset⟩

end Sys2Proof.Machine

/-! Host access through BAR0 (R402, R406, R497 to R503, R512, R520, R521): where the map finds each page, what each function's view
leaves out, register writes under their access codes and those that are commands; and that an engine's stop leaves every page's common
header alone, so that a FAULT bit raised by an ignored write stays set. -/

namespace Sys2Proof.Bar0

-- `Unseen` is the statements' predicate here, not the model's record of a byte an engine does not see yet.
open Sys2Proof.Machine hiding Unseen

/-! The map of BAR0 (R498, R499, R520) -/

/-- Page `r` of block `n`'s 128 KiB, as the map finds it. -/
theorem unit_of_blockPage {x n r : Nat} (hx : x = 0x100_0000 + n * 0x2_0000 + r * 0x1000) (hn : n < 64) (hr : r < 32) :
    0x100_0000 ≤ x ∧ x < 0x180_0000 ∧ (x - 0x100_0000) / 0x2_0000 = n ∧ x % 0x2_0000 / 0x1000 = r := by
  omega

/-- Page `r` of region `n`'s 256 KiB, as the map finds it. -/
theorem unit_of_regionPage {x n r : Nat} (hx : x = 0x80_0000 + n * 0x4_0000 + r * 0x1000) (hn : n < 8) (hr : r < 64) :
    ¬ 0x100_0000 ≤ x ∧ 0x80_0000 ≤ x ∧ x < 0xA0_0000 ∧ (x - 0x80_0000) / 0x4_0000 = n ∧ x % 0x4_0000 / 0x1000 = r := by
  omega

/-- The number of a unit of `n` pages that starts at page `a`, from the page number alone. -/
theorem unit_of_page (x a n : Nat) : (x - 0x1000 * a) / (0x1000 * n) = (x / 0x1000 - a) / n := by
  rw [← Nat.div_div_eq_div_mul, Nat.sub_mul_div]

/-- The map goes by pages of 4 KiB: offsets of one page's 4 KiB lie on the same page. -/
theorem pageAt_congr (fn : FuncId) {x y : Nat} (h : x / 0x1000 = y / 0x1000) : pageAt fn x = pageAt fn y := by
  have hunit (a n : Nat) : (x - 0x1000 * a) / (0x1000 * n) = (y - 0x1000 * a) / (0x1000 * n) := by
    rw [unit_of_page, unit_of_page, h]
  have hpage (n : Nat) : x % (0x1000 * n) / 0x1000 = y % (0x1000 * n) / 0x1000 := by
    rw [Nat.mod_mul_right_div_self, Nat.mod_mul_right_div_self, h]
  have hle (a : Nat) : 0x1000 * a ≤ x ↔ 0x1000 * a ≤ y := by omega
  have hlt (a : Nat) : x < 0x1000 * a ↔ y < 0x1000 * a := by omega
  delta pageAt
  simp only [hunit 0x1000 0x20, hpage 0x20, hunit 0x800 0x40, hpage 0x40, hunit 0x101 1, hle 0x1000, hlt 0x1800, hle 0x800, hlt 0xA00, hle 0x101,
    hlt 0x141, h]

/-- Only the FENCE page depends on the function whose BAR0 it is: each function has its own (R424, R520). -/
theorem pageAt_eq_zero (fn : FuncId) {x : Nat} (h : x / 0x1000 ≠ 2) : pageAt fn x = pageAt 0 x := by
  delta pageAt
  split
  · rfl
  · split
    · rfl
    · split
      · rfl
      · -- The chip-level pages end with page 0x70.
        generalize x / 0x1000 = n at h ⊢
        rcases Nat.lt_or_ge n 0x71 with hn | hn
        · interval_cases n <;> trivial
        · obtain ⟨m, rfl⟩ := Nat.exists_eq_add_of_le' hn
          rfl

theorem pageAt_fence (fn : FuncId) {x : Nat} (h : x / 0x1000 = 2) : pageAt fn x = some (.fence fn) := by
  rw [pageAt_congr fn (y := 0x2000) h]; rfl

/-! Where the pages of blocks, of regions and of sessions lie -/

theorem pageAt_block (k : BlockId) : pageAt 0 (pageBase (.block k)) = some (.block k) := by
  obtain ⟨hge, hlt, hunit, hpage⟩ := unit_of_blockPage (x := pageBase (.block k)) (n := k.val) (r := 0)
    (by simp only [pageBase]; omega) k.isLt (by decide)
  delta pageAt
  simp [hge, hlt, hunit, hpage]

theorem pageAt_dsp (k : BlockId) : pageAt 0 (pageBase (.dsp k)) = some (.dsp k) := by
  obtain ⟨hge, hlt, hunit, hpage⟩ := unit_of_blockPage (x := pageBase (.dsp k)) (n := k.val) (r := 6)
    (by simp only [pageBase]) k.isLt (by decide)
  delta pageAt
  simp [hge, hlt, hunit, hpage]

theorem pageAt_bank (k : BlockId) : pageAt 0 (pageBase (.bank k)) = some (.bank k) := by
  obtain ⟨hge, hlt, hunit, hpage⟩ := unit_of_blockPage (x := pageBase (.bank k)) (n := k.val) (r := 8)
    (by simp only [pageBase]) k.isLt (by decide)
  delta pageAt
  simp [hge, hlt, hunit, hpage]

theorem pageAt_cell (e : EngineId) : pageAt 0 (pageBase (.cell e)) = some (.cell e) := by
  obtain ⟨hge, hlt, hunit, hpage⟩ := unit_of_blockPage (x := pageBase (.cell e)) (n := e.val / 16) (r := 16 + e.val % 16)
    (by simp only [pageBase]; omega) (by omega) (by omega)
  have hnum : 16 * (e.val / 16) + e.val % 16 = e.val := Nat.div_add_mod _ _
  delta pageAt
  simp [hge, hlt, hunit, hpage, hnum]

theorem pageAt_drive (d : Fin 128) : pageAt 0 (pageBase (.drive d)) = some (.drive d) := by
  obtain ⟨hge, hlt, hunit, hpage⟩ := unit_of_blockPage (x := pageBase (.drive d)) (n := d.val / 2) (r := 2 + d.val % 2)
    (by simp only [pageBase]; omega) (by omega) (by omega)
  rcases Nat.mod_two_eq_zero_or_one d.val with hr | hr <;> rw [hr] at hpage
  · have hnum : 2 * (d.val / 2) = d.val := by omega
    delta pageAt
    simp [hge, hlt, hunit, hpage, hnum]
  · have hnum : 2 * (d.val / 2) + 1 = d.val := by omega
    delta pageAt
    simp [hge, hlt, hunit, hpage, hnum]

theorem pageAt_flux (f : Fin 128) : pageAt 0 (pageBase (.flux f)) = some (.flux f) := by
  obtain ⟨hge, hlt, hunit, hpage⟩ := unit_of_blockPage (x := pageBase (.flux f)) (n := f.val / 2) (r := 4 + f.val % 2)
    (by simp only [pageBase]; omega) (by omega) (by omega)
  rcases Nat.mod_two_eq_zero_or_one f.val with hr | hr <;> rw [hr] at hpage
  · have hnum : 2 * (f.val / 2) = f.val := by omega
    delta pageAt
    simp [hge, hlt, hunit, hpage, hnum]
  · have hnum : 2 * (f.val / 2) + 1 = f.val := by omega
    delta pageAt
    simp [hge, hlt, hunit, hpage, hnum]

theorem pageAt_region (n : RegionId) : pageAt 0 (pageBase (.region n)) = some (.region n) := by
  obtain ⟨hblock, hge, hlt, hunit, hpage⟩ := unit_of_regionPage (x := pageBase (.region n)) (n := n.val) (r := 0)
    (by simp only [pageBase]; omega) n.isLt (by decide)
  delta pageAt
  simp [hblock, hge, hlt, hunit, hpage]

theorem pageAt_decision (n : RegionId) : pageAt 0 (pageBase (.decision n)) = some (.decision n) := by
  obtain ⟨hblock, hge, hlt, hunit, hpage⟩ := unit_of_regionPage (x := pageBase (.decision n)) (n := n.val) (r := 8)
    (by simp only [pageBase]) n.isLt (by decide)
  delta pageAt
  simp [hblock, hge, hlt, hunit, hpage]

theorem pageAt_acquisition (n : RegionId) : pageAt 0 (pageBase (.acquisition n)) = some (.acquisition n) := by
  obtain ⟨hblock, hge, hlt, hunit, hpage⟩ := unit_of_regionPage (x := pageBase (.acquisition n)) (n := n.val) (r := 12)
    (by simp only [pageBase]) n.isLt (by decide)
  delta pageAt
  simp [hblock, hge, hlt, hunit, hpage]

theorem pageAt_porter (n : RegionId) : pageAt 0 (pageBase (.porter n)) = some (.porter n) := by
  obtain ⟨hblock, hge, hlt, hunit, hpage⟩ := unit_of_regionPage (x := pageBase (.porter n)) (n := n.val) (r := 16)
    (by simp only [pageBase]) n.isLt (by decide)
  delta pageAt
  simp [hblock, hge, hlt, hunit, hpage]

theorem pageAt_transceiver (t : FeedlineId) : pageAt 0 (pageBase (.transceiver t)) = some (.transceiver t) := by
  obtain ⟨hblock, hge, hlt, hunit, hpage⟩ := unit_of_regionPage (x := pageBase (.transceiver t)) (n := t.val / 4) (r := 4 + t.val % 4)
    (by simp only [pageBase]; omega) (by omega) (by omega)
  have hnum : 4 * (t.val / 4) + t.val % 4 = t.val := Nat.div_add_mod _ _
  obtain hr | hr | hr | hr : t.val % 4 = 0 ∨ t.val % 4 = 1 ∨ t.val % 4 = 2 ∨ t.val % 4 = 3 := by omega
  all_goals
    rw [hr] at hpage hnum
    delta pageAt
    simp [hblock, hge, hlt, hunit, hpage, -add_zero, hnum]

theorem pageAt_session (g : Fin 64) : pageAt 0 (pageBase (.session g)) = some (.session g) := by
  have h : 0x10_1000 ≤ pageBase (.session g) ∧ pageBase (.session g) < 0x14_1000 ∧ (pageBase (.session g) - 0x10_1000) / 0x1000 = g.val := by
    simp only [pageBase]; omega
  obtain ⟨hge, hlt, hunit⟩ := h
  have hblock : ¬ 0x100_0000 ≤ pageBase (.session g) := by omega
  have hregion : ¬ 0x80_0000 ≤ pageBase (.session g) := by omega
  delta pageAt
  simp [hblock, hregion, hge, hlt, hunit]

/-- Every page but the functions' own FENCE pages lies where `pageBase` says. -/
theorem pageAt_pageBase (p : Page) (hp : ∀ g, p ≠ .fence g) : pageAt 0 (pageBase p) = some p := by
  cases p with
  | fence g => exact absurd rfl (hp g)
  | feed i => revert i; decide
  | port i => revert i; decide
  | session g => exact pageAt_session g
  | region n => exact pageAt_region n
  | transceiver t => exact pageAt_transceiver t
  | decision n => exact pageAt_decision n
  | acquisition n => exact pageAt_acquisition n
  | porter n => exact pageAt_porter n
  | block k => exact pageAt_block k
  | drive d => exact pageAt_drive d
  | flux f => exact pageAt_flux f
  | dsp k => exact pageAt_dsp k
  | bank k => exact pageAt_bank k
  | cell e => exact pageAt_cell e
  | _ => rfl

/-! The page of an offset within a page -/

theorem pageAt_of_page (fn : FuncId) {p : Page} {off : Nat} (hp : ∀ g, p ≠ .fence g) (hoff : off < 0x1000) :
    pageAt fn (pageBase p + off) = some p := by
  have hal := pageBase_aligned p
  have h0 : pageAt 0 (pageBase p + off) = some p := by
    rw [pageAt_congr 0 (y := pageBase p) (by omega), pageAt_pageBase p hp]
  by_cases h : (pageBase p + off) / 0x1000 = 2
  · rw [pageAt_fence 0 h] at h0
    exact absurd (Option.some.inj h0).symm (hp 0)
  · rw [pageAt_eq_zero fn h, h0]

theorem pageAt_cases {fn : FuncId} {x : Nat} {p : Page} (h : pageAt fn x = some p) : p = .fence fn ∨ pageAt 0 x = some p := by
  by_cases hx : x / 0x1000 = 2
  · exact .inl (Option.some.inj (h.symm.trans (pageAt_fence fn hx)))
  · exact .inr (pageAt_eq_zero fn hx ▸ h)

theorem pageBase_add_lt {p : Page} {off : Nat} (hp : ∀ g, p ≠ .fence g) (hoff : off < 0x1000) : pageBase p + off < 2 ^ 25 := by
  cases p with
  | fence g => exact absurd rfl (hp g)
  | _ => simp only [pageBase]; omega

section
variable {p : Page} {off : Nat} (hp : ∀ g, p ≠ .fence g) (hoff : off < 0x1000)
include hp hoff

theorem toNat_barOf : (barOf p off).toNat = pageBase p + off := by
  rw [barOf, BitVec.toNat_ofNat, Nat.mod_eq_of_lt (pageBase_add_lt hp hoff)]

theorem barOf_mod : (barOf p off).toNat % 0x1000 = off := by
  have hal := pageBase_aligned p
  rw [toNat_barOf hp hoff]; omega

theorem pageAt_barOf (fn : FuncId) : pageAt fn (barOf p off).toNat = some p := by
  rw [toNat_barOf hp hoff, pageAt_of_page fn hp hoff]
end

/-! Who reads and who writes (R402, R406, R502, R521) -/

theorem hostRead_of_reserved {s : State} {fn : FuncId} {x : BarOffset} (hx : pageAt fn x.toNat = none) : s.hostRead fn x = 0 := by
  delta State.hostRead
  rw [hx]

theorem hostRead_of_unaligned {s : State} {fn : FuncId} {x : BarOffset} (hal : x.toNat % 0x1000 % 4 ≠ 0) : s.hostRead fn x = 0 := by
  delta State.hostRead
  cases pageAt fn x.toNat with
  | none => rfl
  | some p => exact if_pos hal

/-- A read by the physical function of an aligned word: 0x0 on a page its BAR0 does not show. -/
theorem hostRead_zero {s : State} {x : BarOffset} {p : Page} (hx : pageAt 0 x.toNat = some p) (hal : x.toNat % 0x1000 % 4 = 0) :
    s.hostRead 0 x = if s.pfReaches p = true then s.shownWord 0 p (x.toNat % 0x1000) else 0 := by
  delta State.hostRead
  rw [hx]
  exact (if_neg (not_not_intro hal)).trans (if_pos rfl)

theorem hostRead_of_not_pfReaches {s : State} {x : BarOffset} {p : Page} (hx : pageAt 0 x.toNat = some p) (hr : s.pfReaches p = false) :
    s.hostRead 0 x = 0 := by
  by_cases hal : x.toNat % 0x1000 % 4 = 0
  · rw [hostRead_zero hx hal, hr]
    rfl
  · exact hostRead_of_unaligned hal

theorem hostRead_zero_barOf {s : State} {p : Page} {off : Nat} (hp : ∀ g, p ≠ .fence g) (hoff : off < 0x1000) (hal : off % 4 = 0)
    (hr : s.pfReaches p = true) : s.hostRead 0 (barOf p off) = s.shownWord 0 p off := by
  have hmod : (barOf p off).toNat % 0x1000 = off := barOf_mod hp hoff
  rw [hostRead_zero (pageAt_barOf hp hoff 0) (by rwa [hmod]), if_pos hr, hmod]

/-- A guest reads 0x0 where its view leaves the word out. -/
theorem hostRead_of_not_guestReads {s : State} {fn : FuncId} {x : BarOffset} {p : Page} (hfn : fn.val ≠ 0) (hx : pageAt fn x.toNat = some p)
    (hr : s.guestReads fn p (x.toNat % 0x1000) = false) : s.hostRead fn x = 0 := by
  by_cases hal : x.toNat % 0x1000 % 4 = 0
  · delta State.hostRead
    rw [hx]
    exact (if_neg (not_not_intro hal)).trans ((if_neg hfn).trans (if_pos (congrArg not hr)))
  · exact hostRead_of_unaligned hal

/-- A guest that reaches a CELL page reads its words as the page shows them. -/
theorem hostRead_cell_of_guest {s : State} {fn : FuncId} {x : BarOffset} {e : EngineId} (hfn : fn.val ≠ 0) (he : s.reachesCell fn e.val = true)
    (hx : pageAt fn x.toNat = some (.cell e)) (hal : x.toNat % 0x1000 % 4 = 0) :
    s.hostRead fn x = s.shownWord fn (.cell e) (x.toNat % 0x1000) := by
  have hg : (!s.guestReads fn (.cell e) (x.toNat % 0x1000)) = false := congrArg not he
  delta State.hostRead
  rw [hx]
  exact (if_neg (not_not_intro hal)).trans ((if_neg hfn).trans (if_neg (Bool.eq_false_iff.1 hg)))

/-- A function whose view takes in a word of a page writes it; any other register write changes nothing. -/
theorem run_actRegisterWrite {s : State} {fn : FuncId} {x : BarOffset} {p : Page} (hx : pageAt fn x.toNat = some p) (v : Word) :
    run (actRegisterWrite fn x v) s = if x.toNat % 0x1000 % 4 ≠ 0 then s
      else if (if fn.val = 0 then s.pfReaches p else s.guestWrites fn p (x.toNat % 0x1000)) = true
        then run (writeReg fn p (x.toNat % 0x1000) v.toNat) s else s := by
  delta actRegisterWrite
  rw [run_look, hx]
  exact (run_ite _ _ _ _).trans (congrArg _ (run_ite _ _ _ _))

theorem exec_registerWrite_barOf {s : State} {p : Page} {off : Nat} (hp : ∀ g, p ≠ .fence g) (hoff : off < 0x1000) (hal : off % 4 = 0)
    (hr : s.pfReaches p = true) (v : Word) : exec (.registerWrite 0 (barOf p off) v) s = done (writeReg 0 p off v.toNat) s := by
  rw [exec_registerWrite, done_eq, done_eq, run_actRegisterWrite (pageAt_barOf hp hoff 0), barOf_mod hp hoff]
  simp [hal, hr]

/-- A function whose view leaves a page out neither reads nor writes its registers. -/
theorem unseen_of_no_view {s : State} {fn : FuncId} {x : BarOffset} {p : Page} (hfn : fn.val ≠ 0) (hx : pageAt fn x.toNat = some p)
    (hr : s.guestReads fn p (x.toNat % 0x1000) = false) (hw : s.guestWrites fn p (x.toNat % 0x1000) = false) : Unseen fn x s := by
  refine ⟨hostRead_of_not_guestReads hfn hx hr, fun v => completes_done (exec_registerWrite fn x v s) ?_⟩
  rw [run_actRegisterWrite hx, if_neg hfn, hw]
  simp

/-- No function reads or writes a register at a reserved offset. -/
theorem unseen_of_reserved {s : State} {fn : FuncId} {x : BarOffset} (hx : pageAt fn x.toNat = none) : Unseen fn x s := by
  refine ⟨hostRead_of_reserved hx, fun v => completes_done (exec_registerWrite fn x v s) ?_⟩
  delta actRegisterWrite
  rw [run_look, hx, run_skip]

theorem guestReads_of_hidden {p : Page} (h : hiddenFromGuests p) (s : State) (fn : FuncId) (off : Nat) : s.guestReads fn p off = false := by
  cases p <;> trivial

theorem guestWrites_of_hidden {p : Page} (h : hiddenFromGuests p) (s : State) (fn : FuncId) (off : Nat) : s.guestWrites fn p off = false := by
  cases p <;> trivial

theorem unseen_of_hidden {s : State} {fn : FuncId} {x : BarOffset} {p : Page} (hfn : fn.val ≠ 0) (hx : pageAt fn x.toNat = some p)
    (hp : hiddenFromGuests p) : Unseen fn x s :=
  unseen_of_no_view hfn hx (guestReads_of_hidden hp s fn _) (guestWrites_of_hidden hp s fn _)

theorem guestReaches_other_session {s : State} {fn : FuncId} {g : Fin 64} (h : fn.val ≠ g.val + 1) : s.guestReaches fn (.session g) = false := by
  show (decide (g.val + 1 = fn.val) && s.guestReady fn.val) = false
  rw [decide_eq_false h.symm, Bool.false_and]

/-- In recovery the physical function's BAR0 shows the CHIP page alone (R502). -/
theorem pfReaches_recovery {s : State} {p : Page} (hs : s.start.phase = .recovery) (hp : p ≠ .chip) : s.pfReaches p = false := by
  delta State.pfReaches
  simp [hs, hp]

theorem pfReaches_chip (s : State) : s.pfReaches .chip = true := by
  delta State.pfReaches
  simp

theorem pfReaches_of_shown {s : State} {p : Page} (h : shownToPf s p) : s.pfReaches p = true := by
  obtain ⟨hs, hp⟩ := h
  delta State.pfReaches
  cases p with
  | fence g => exact absurd rfl (hp g)
  | _ => simp [hs]

/-- No header word of a CELL page depends on who reads it. -/
theorem shownWord_cell_header (s : State) (fn : FuncId) (e : EngineId) {off : Nat} (hoff : off < 0x40) :
    s.shownWord fn (.cell e) off = s.shownWord 0 (.cell e) off := by
  interval_cases off <;> rfl

/-- The header words of a CELL page that a function reaches read alike for it and for the physical function (R521). -/
theorem hostRead_cell_header {s : State} {fn : FuncId} {e : EngineId} {off : Nat} (he : s.reachesCell fn e.val = true)
    (hs : s.start.phase ≠ .recovery) (hoff : off < 0x40) : s.hostRead fn (barOf (.cell e) off) = s.hostRead 0 (barOf (.cell e) off) := by
  have hp : ∀ g, Page.cell e ≠ .fence g := nofun
  have hlt : off < 0x1000 := by omega
  have hmod : (barOf (.cell e) off).toNat % 0x1000 = off := barOf_mod hp hlt
  by_cases hal : off % 4 = 0
  · rw [hostRead_zero_barOf hp hlt hal (pfReaches_of_shown ⟨hs, hp⟩), ← shownWord_cell_header s fn e hoff]
    by_cases hfn : fn.val = 0
    · rw [show fn = 0 from Fin.ext hfn, hostRead_zero_barOf hp hlt hal (pfReaches_of_shown ⟨hs, hp⟩)]
    · rw [hostRead_cell_of_guest hfn he (pageAt_barOf hp hlt fn) (by rwa [hmod]), hmod]
  · rw [hostRead_of_unaligned (by rwa [hmod]), hostRead_of_unaligned (by rwa [hmod])]

/-! Words of a page (R9, R11, R497) -/

/-- A word of one readable field shows the field at its place. -/
theorem storedWord_of_field {s : State} {p : Page} {off : Nat} {f : Field} (hf : fieldsAt p off = [f]) (hacc : f.acc ≠ .wo) :
    s.storedWord p off = s.get p f * 2 ^ f.lo := by
  delta State.storedWord
  simp [hf, hacc]

theorem fieldsAt_zero (p : Page) : fieldsAt p 0 = [ALL.PAGE_ID_VERSION] := by cases p <;> rfl

theorem hostRead_pageId {s : State} {p : Page} (h : shownToPf s p) :
    s.hostRead 0 (barOf p 0) = s.get p ALL.PAGE_ID_VERSION + (pageIdent p).2 * 2 ^ 12 + (pageIdent p).1 * 2 ^ 24 := by
  have hw : s.shownWord 0 p 0 = s.storedWord p 0 + (pageIdent p).2 * 2 ^ 12 + (pageIdent p).1 * 2 ^ 24 := by
    cases p <;> rfl
  have hv : s.storedWord p 0 = s.get p ALL.PAGE_ID_VERSION :=
    (storedWord_of_field (fieldsAt_zero p) (by decide)).trans (Nat.mul_one _)
  rw [hostRead_zero_barOf h.2 (by decide) (by decide) (pfReaches_of_shown h), hw, hv]

/-! What an engine's stop leaves alone -/

/-- A field of a page's own registers, which lie past the common header (R503, R519). -/
abbrev OwnField (f : Field) : Prop := 0x40 ≤ f.off ∧ f.off < 0x1000 ∧ f.lo < 32

/-- The cells of the pages' own registers. -/
def PastHeader (k : Nat) : Prop := ∃ p f, OwnField f ∧ k = regKey p f

/-- An act that writes no register of a page's common header. -/
abbrev KeepsHeaders (a : Act) : Prop := Act.within (fun _ => True) PastHeader a

theorem keepsHeaders_setF {f : Field} (h : OwnField f) (p : Page) (v : Nat) : KeepsHeaders (setF p f v) :=
  within_setF trivial ⟨p, f, h, rfl⟩

theorem keepsHeaders_modF {f : Field} (h : OwnField f) (p : Page) (g : Nat → Nat) : KeepsHeaders (modF p f g) :=
  within_modF trivial ⟨p, f, h, rfl⟩

/-- The header's fields read as before. -/
theorem KeepsHeaders.get {a : Act} (h : KeepsHeaders a) (s : State) (p : Page) {f : Field} (hf : f.off < 0x40 ∧ f.lo < 32) :
    (run a s).get p f = s.get p f := by
  refine Act.within.cell h s ?_ f.reset
  rintro ⟨q, g, ⟨hlo, hhi, hbit⟩, hk⟩
  obtain ⟨-, hoff, -⟩ := (regKey_eq_iff ⟨by omega, hf.2⟩ ⟨hhi, hbit⟩).1 hk
  omega

theorem keepsHeaders_freeSlot (k : Nat) (i : Option Nat) : KeepsHeaders (freeSlot k i) := by
  refine within_look fun s => ?_
  cases i with
  | none => exact within_skip
  | some i => exact within_cons (within_updBlk trivial) (within_cons (keepsHeaders_setF (by decide) _ _) within_nil)

theorem keepsHeaders_discardEntries (e : Nat) : KeepsHeaders (discardEntries e) :=
  within_look fun _ => within_cons (within_forEach fun x _ => keepsHeaders_freeSlot _ x.slot) (within_cons (within_updEng trivial) within_nil)

theorem keepsHeaders_releaseLeases (e : Nat) : KeepsHeaders (releaseLeases e) := by
  refine within_forEach fun j _ => within_cons ?_ (within_cons (within_look fun _ => ?_) within_nil)
  · exact within_look fun s => within_ite (fun _ => within_cons (keepsHeaders_setF (by decide) _ _) (within_cons (keepsHeaders_setF (by decide) _ _)
      within_nil)) fun _ => within_skip
  · exact within_cons (within_updOutput trivial) (within_cons (keepsHeaders_setF (by decide) _ _) within_nil)

theorem keepsHeaders_clearWait (e : Nat) : KeepsHeaders (clearWait e) :=
  within_cons (within_cons (keepsHeaders_setF (by decide) _ _) (within_cons (keepsHeaders_setF (by decide) _ _)
    (within_cons (keepsHeaders_setF (by decide) _ _) within_nil))) (within_cons (within_updEng trivial) within_nil)

theorem keepsHeaders_applyUpdate (u : Update) : KeepsHeaders (applyUpdate u) := by
  refine within_look fun s => within_ite (fun _ => keepsHeaders_modF (by decide) _ _) fun _ => ?_
  refine within_cons ?_ (within_cons ?_ (within_cons (within_storeBytes trivial trivial)
    (within_cons (keepsHeaders_modF (by decide) _ _) within_nil)))
  · cases u.df with
    | none => exact within_skip
    | some v => exact within_storeBytes trivial trivial
  · cases u.disc with
    | none => exact within_skip
    | some v => exact within_storeBytes trivial trivial

theorem keepsHeaders_riseVset (g : Nat) : KeepsHeaders (riseVset g) :=
  within_look fun _ => within_ite (fun _ => keepsHeaders_modF (by decide) _ _) fun _ => within_setWord trivial

theorem keepsHeaders_applyUpdates (release : Bool) (p : Nat → Bool) : KeepsHeaders (applyUpdates release p) :=
  within_look fun _ => within_cons (within_forEach fun u _ => keepsHeaders_applyUpdate u) (within_cons (within_updTend trivial)
    (within_cons (within_look fun _ => keepsHeaders_setF (by decide) _ _)
      (within_cons (within_ite (fun _ => within_forEach fun g _ => keepsHeaders_riseVset g) fun _ => within_skip) within_nil)))

theorem keepsHeaders_haltCell (e : Nat) (st : EngState) : KeepsHeaders (haltCell e st) := by
  refine within_cons (within_look fun s => within_ite (fun _ => within_updEng trivial) fun _ => within_skip) ?_
  refine within_cons (within_look fun s => within_ite (fun _ => within_updEng trivial) fun _ => within_skip) ?_
  refine within_cons (keepsHeaders_setF (by decide) _ _) (within_cons (keepsHeaders_setF (by decide) _ _) ?_)
  refine within_cons (keepsHeaders_discardEntries e) (within_cons (keepsHeaders_releaseLeases e) (within_cons (keepsHeaders_clearWait e) ?_))
  refine within_cons (keepsHeaders_setF (by decide) _ _) (within_cons (keepsHeaders_setF (by decide) _ _) ?_)
  refine within_cons (keepsHeaders_setF (by decide) _ _) (within_cons (keepsHeaders_setF (by decide) _ _) ?_)
  refine within_cons (within_updEng trivial) (within_cons (within_look fun s => ?_) (within_cons ?_ within_nil))
  · exact within_ite (fun _ => within_updGroup trivial) fun _ => within_skip
  · exact within_ite (fun _ => keepsHeaders_applyUpdates _ _) fun _ => within_skip

/-! A stopping group (R324, R331, R335) -/

theorem keepsHeaders_showGroup (g : Nat) : KeepsHeaders (showGroup g) :=
  within_look fun _ => within_ite (fun _ => within_skip) fun _ =>
    within_cons (within_setWord trivial) (within_cons (within_setWord trivial) (within_cons (within_setWord trivial)
      (within_cons (within_setWord trivial) (within_cons (within_setWord trivial) within_nil))))

theorem keepsHeaders_countVoid (causes : Nat) : KeepsHeaders (countVoid causes) := by
  refine within_cons (keepsHeaders_modF (by decide) _ _) (within_cons (within_forEach fun i hi => keepsHeaders_modF ?_ _ _) within_nil)
  have hi : i < 12 := by simpa [upTo] using (List.mem_filter.1 hi).1
  simp only [OwnField, LEDGER.VOID_CAUSE_COUNT]
  omega

theorem keepsHeaders_deliverRecord (g flags : Nat) : KeepsHeaders (deliverRecord g flags) := by
  refine within_look fun _ => within_cons (within_updLed trivial) (within_cons (keepsHeaders_modF (by decide) _ _) ?_)
  refine within_cons (within_ite (fun _ => keepsHeaders_modF (by decide) _ _) fun _ => within_skip) (within_cons ?_ within_nil)
  exact within_ite (fun _ => within_skip) fun _ => within_cons (within_setWord trivial) (within_cons (within_setWord trivial)
    (within_cons (within_setWord trivial) (within_cons (within_setWord trivial) within_nil)))

theorem keepsHeaders_driveMarkAtt (g : Nat) (level : Bool) : KeepsHeaders (driveMarkAtt g level) := by
  refine within_look fun s => ?_
  cases s.markAtt g with
  | none => exact within_skip
  | some m => exact within_ite (fun _ => within_updOutput trivial) fun _ => within_skip

theorem keepsHeaders_stopGroupHere (g causes flags : Nat) : KeepsHeaders (stopGroupHere g causes flags) := by
  refine within_look fun s => within_cons (within_ite (fun _ => ?_) fun _ => within_skip) (within_cons (within_updGroup trivial) ?_)
  · exact within_cons (within_updGroup trivial) (within_cons (within_ite (fun _ => within_skip) fun _ => keepsHeaders_countVoid causes)
      (within_cons (keepsHeaders_deliverRecord g flags) within_nil))
  · exact within_cons (within_forEach fun e _ => within_look fun _ => keepsHeaders_haltCell e _) (within_cons (keepsHeaders_driveMarkAtt g _)
      (within_cons (within_ite (fun _ => within_updGroup trivial) fun _ => keepsHeaders_showGroup g) within_nil))

theorem keepsHeaders_stopGroup (g causes flags : Nat) : KeepsHeaders (stopGroup g causes flags) :=
  within_look fun _ => within_cons (within_ite (fun _ => within_look fun _ => within_forEach fun _ _ => within_updFab trivial) fun _ => within_skip)
    (within_cons (keepsHeaders_stopGroupHere g causes flags) within_nil)

theorem keepsHeaders_stopEngine (e : Nat) (st : EngState) : KeepsHeaders (stopEngine e st) :=
  within_look fun _ => within_cons (within_ite (fun _ => keepsHeaders_stopGroup _ _ _) fun _ => within_skip)
    (within_cons (keepsHeaders_haltCell e st) within_nil)

/-- FAULT_STOP_EN stops the engine of a CELL page, whichever state it comes to rest in. -/
theorem keepsHeaders_faultStop_cell (e : EngineId) : KeepsHeaders (faultStop (.cell e)) :=
  within_look (f := fun s => stopEngine e.val (if s.engIs e.val .faulted then .faulted else .stopped)) fun _ => keepsHeaders_stopEngine e.val _

/-- A FAULT bit of a CELL page is set beside those that were, whether or not it stops the engine (R509, R510). -/
theorem raised_raiseFault_cell (e : EngineId) (i : Nat) (s : State) : Raised (.cell e) i s (run (raiseFault (.cell e) i) s) := by
  have hstop : KeepsHeaders (if s.stopsOn (.cell e) i then faultStop (.cell e) else skip) :=
    within_ite (fun _ => keepsHeaders_faultStop_cell e) fun _ => within_skip
  rw [Raised, raiseFault, run_look, run_acts_cons, run_acts_cons, run_acts_nil, hstop.get _ _ (by decide), setFaultBit_bits]

/-! Register writes by access code (R9, R11) -/

theorem onlyChanges_setF (p : Page) (f : Field) (v : Nat) (s : State) : OnlyChanges [(p, f)] [] s (run (setF p f v) s) :=
  Act.within.frame (within_setF (by simp) ⟨(p, f), by simp, rfl⟩) s

theorem writeField_of_writable {p : Page} {v : Nat} {f : Field} (hacc : f.acc = .rw ∨ f.acc = .rwl) :
    writeField p v f = setF p f (v / 2 ^ f.lo % 2 ^ f.width) := by
  delta writeField
  rcases hacc with hacc | hacc <;> rw [hacc]

/-- A write to a word of one field is a write of the field, or a fault where the field is RWL and the page's RWL registers are closed. -/
theorem run_writePlain {p : Page} {off : Nat} {f : Field} (hf : fieldsAt p off = [f]) (v : Nat) (s : State) :
    run (writePlain p off v) s = if (f.acc = .rwl && !s.rwlOpen p) = true then run (raiseFault p (rwlBit p)) s else run (writeField p v f) s := by
  delta writePlain
  rw [run_look, hf]
  refine (run_ite _ _ _ _).trans ?_
  simp

/-- A word of one writable field takes the bits written, unless its RWL registers are closed, and nothing else changes. -/
theorem writePlain_of_field {p : Page} {off : Nat} {f : Field} {s : State} (hf : fieldsAt p off = [f])
    (hacc : f.acc = .rw ∨ f.acc = .rwl ∧ s.rwlOpen p = true) (v : Nat) :
    (run (writePlain p off v) s).get p f = v / 2 ^ f.lo % 2 ^ f.width ∧ OnlyChanges [(p, f)] [] s (run (writePlain p off v) s) := by
  have hopen : ¬ (f.acc = .rwl && !s.rwlOpen p) = true := by
    rcases hacc with hacc | ⟨-, hopen⟩
    · simp [hacc]
    · simp [hopen]
  rw [run_writePlain hf, if_neg hopen, writeField_of_writable (hacc.imp_right And.left), run_setF_same, Nat.mod_mod]
  exact ⟨rfl, onlyChanges_setF _ _ _ _⟩

/-- A write to a word of one RWL field of a page whose RWL registers are closed sets the page's FAULT bit instead. -/
theorem run_writePlain_of_closed {p : Page} {off v : Nat} {f : Field} {s : State} (hf : fieldsAt p off = [f]) (hacc : f.acc = .rwl)
    (hopen : s.rwlOpen p = false) : run (writePlain p off v) s = run (raiseFault p (rwlBit p)) s := by
  rw [run_writePlain hf, if_pos (by rw [hacc, hopen]; rfl)]

theorem hostRead_scratch (s : State) : s.hostRead 0 (barOf .chip 0x60) = s.get .chip CHIP.SCRATCH_DATA := by
  have hw : s.shownWord 0 .chip 0x60 = s.storedWord .chip 0x60 := rfl
  have hv : s.storedWord .chip 0x60 = s.get .chip CHIP.SCRATCH_DATA :=
    (storedWord_of_field (f := CHIP.SCRATCH_DATA) rfl (by decide)).trans (Nat.mul_one _)
  rw [hostRead_zero_barOf (by simp) (by decide) (by decide) (pfReaches_chip s), hw, hv]

theorem completes_write_scratch (v : Word) (s : State) : Completes (.registerWrite 0 (barOf .chip 0x60) v) s fun t =>
    t.get .chip CHIP.SCRATCH_DATA = v.toNat ∧ t.hostRead 0 (barOf .chip 0x60) = v.toNat ∧ OnlyChanges [(.chip, CHIP.SCRATCH_DATA)] [] s t := by
  obtain ⟨hget, hframe⟩ := writePlain_of_field (p := .chip) (f := CHIP.SCRATCH_DATA) (off := 0x60) (s := s) rfl (.inl rfl) v.toNat
  have hval : v.toNat / 2 ^ 0 % 2 ^ 32 = v.toNat := by rw [pow_zero, Nat.div_one, Nat.mod_eq_of_lt v.isLt]
  exact completes_done (exec_registerWrite_barOf (by simp) (by decide) (by decide) (pfReaches_chip s) v)
    ⟨hget.trans hval, (hostRead_scratch _).trans (hget.trans hval), hframe⟩

theorem completes_write_partId (v : Word) (s : State) : Completes (.registerWrite 0 (barOf .chip 0x40) v) s (· = s) :=
  completes_done (exec_registerWrite_barOf (by simp) (by decide) (by decide) (pfReaches_chip s) v)
    (run_writePlain (f := CHIP.PART_ID_PART) rfl v.toNat s)

/-- The device alone keeps GUEST_OWNER of a CELL page: host writes are ignored (R512). -/
theorem completes_write_cell_owner (fn : FuncId) (e : EngineId) (v : Word) (s : State) :
    Completes (.registerWrite fn (barOf (.cell e) 0x28) v) s (· = s) := by
  have hp : ∀ g, Page.cell e ≠ .fence g := nofun
  have hskip : writeReg fn (.cell e) 0x28 v.toNat = skip := rfl
  refine completes_done (exec_registerWrite _ _ _ _) ?_
  rw [run_actRegisterWrite (pageAt_barOf hp (by decide) fn), barOf_mod hp (by decide), hskip, run_skip, ite_self, ite_self]

section
variable {s : State} (hs : s.start.phase ≠ .recovery)
include hs

theorem exec_write_of_shown {p : Page} {off : Nat} (hp : ∀ g, p ≠ .fence g) (hoff : off < 0x1000 ∧ off % 4 = 0) (v : Word) :
    exec (.registerWrite 0 (barOf p off) v) s = done (writeReg 0 p off v.toNat) s :=
  exec_registerWrite_barOf hp hoff.1 hoff.2 (pfReaches_of_shown ⟨hs, hp⟩) v

/-- 65 to 127 name no guest and are taken as 0 (R512). -/
theorem completes_write_owner (k : BlockId) (v : Word) : Completes (.registerWrite 0 (barOf (.dsp k) 0x28) v) s fun t =>
    t.get (.dsp k) ALL.GUEST_OWNER_GUEST = (if v.toNat % 128 ≤ 64 then v.toNat % 128 else 0) ∧
      OnlyChanges [(.dsp k, ALL.GUEST_OWNER_GUEST)] [] s t := by
  refine completes_done (exec_write_of_shown hs (by simp) (by decide) v)
    ⟨(run_setF_same _ _ _ _).trans (Nat.mod_eq_of_lt ?_), onlyChanges_setF _ _ _ _⟩
  show _ < 128
  split <;> omega

theorem completes_write_startPc (e : EngineId) (v : Word) (ho : s.cellOpen e.val = true) :
    Completes (.registerWrite 0 (barOf (.cell e) 0x48) v) s fun t =>
      t.get (.cell e) CELL.START_PC_PC = v.toNat % 2 ^ 12 ∧ OnlyChanges [(.cell e, CELL.START_PC_PC)] [] s t := by
  obtain ⟨hget, hframe⟩ :=
    writePlain_of_field (p := .cell e) (f := CELL.START_PC_PC) (off := 0x48) (s := s) rfl (.inr ⟨rfl, ho⟩) v.toNat
  have hval : v.toNat / 2 ^ 0 % 2 ^ 12 = v.toNat % 2 ^ 12 := by rw [pow_zero, Nat.div_one]
  exact completes_done (exec_write_of_shown hs (by simp) (by decide) v) ⟨hget.trans hval, hframe⟩

theorem completes_write_startPc_closed (e : EngineId) (v : Word) (ho : s.cellOpen e.val = false) :
    Completes (.registerWrite 0 (barOf (.cell e) 0x48) v) s fun t => Raised (.cell e) 8 s t ∧
      (s.stopsOn (.cell e) 8 = false → OnlyChanges (faultRegs (.cell e)) [.out] s t) := by
  have hrun : run (writeReg 0 (.cell e) 0x48 v.toNat) s = run (raiseFault (.cell e) 8) s :=
    run_writePlain_of_closed (f := CELL.START_PC_PC) rfl rfl ho
  refine completes_done (exec_write_of_shown hs (by simp) (by decide) v) ?_
  rw [hrun]
  refine ⟨raised_raiseFault_cell e 8 s, fun hstop => ?_⟩
  rw [raiseFault_of_not_stops hstop]
  exact Act.within.frame (within_setFaultBit (by simp) (by simp) fun x hx => ⟨x, hx, rfl⟩) s

end

/-! Register writes that are commands -/

theorem exec_write_of_run {s : State} {p : Page} {off : Nat} (h : shownToPf s p) (hoff : off < 0x1000 ∧ off % 4 = 0) {v : Word} {a : Act}
    (hrun : run (writeReg 0 p off v.toNat) s = run a s) : exec (.registerWrite 0 (barOf p off) v) s = done a s := by
  rw [exec_write_of_shown h.1 h.2 hoff v, done_eq, done_eq, hrun]

theorem exec_write_fault {s : State} {p : Page} (h : shownToPf s p) (v : Word) :
    exec (.registerWrite 0 (barOf p 0x0C) v) s = exec (.faultWrite 0 p v) s := by
  have hpf : s.reachesPage 0 p = true := pfReaches_of_shown h
  rw [exec_faultWrite]
  refine exec_write_of_run h (by decide) ?_
  show run (clearFault p (BitVec.ofNat 32 v.toNat)) s = _
  rw [BitVec.ofNat_toNat, BitVec.setWidth_eq, actFaultWrite, forPage, run_look, hpf]
  rfl

theorem exec_write_cell {s : State} (hs : s.start.phase ≠ .recovery) (e : EngineId) (v : Word) :
    exec (.registerWrite 0 (barOf (.cell e) 0x148) v) s = exec (.doorbell 0 e v) s ∧
    exec (.registerWrite 0 (barOf (.cell e) 0x40) 1) s = exec (.start 0 e) s ∧
    exec (.registerWrite 0 (barOf (.cell e) 0x58) v) s = exec (.markRouteWrite 0 e v) s := by
  have h : shownToPf s (.cell e) := ⟨hs, nofun⟩
  have hv : BitVec.ofNat 32 v.toNat = v := by simp
  refine ⟨exec_write_of_run h (by decide) ?_, exec_write_of_run h (by decide) ?_, exec_write_of_run h (by decide) ?_⟩
  · show run (actDoorbell 0 e (BitVec.ofNat 32 v.toNat)) s = _
    rw [hv]
  · have hacts : writeReg 0 (.cell e) 0x40 1 = acts [skip, skip, skip, actStart 0 e] := rfl
    show run (writeReg 0 (.cell e) 0x40 1) s = _
    rw [hacts]
    simp
  · show run (actMarkRouteWrite 0 e (BitVec.ofNat 32 v.toNat)) s = _
    rw [hv]

theorem exec_write_resetCtrl (v : Word) (s : State) (hv : v.getLsbD 0 = true) :
    exec (.registerWrite 0 (barOf .chip 0x80) v) s = exec (.resetCtrlChip 0) s := by
  rw [exec_registerWrite_barOf (by simp) (by decide) (by decide) (pfReaches_chip s) v]
  have hb : bitOf v.toNat 0 = 1 := by simpa [bitOf, BitVec.getLsbD, Nat.testBit] using hv
  exact congrArg (done · s) (if_pos hb)

/-- Of DISABLE, MUTE and ENABLE in one OUT_CMD write DISABLE acts (R191). -/
theorem exec_write_outCmd {s : State} (hs : s.start.phase ≠ .recovery) (d : Fin 128) :
    exec (.registerWrite 0 (barOf (.drive d) 0x40) 7) s = exec (.outDisable (.drive d)) s := by
  have hcmd : writeReg 0 (.drive d) 0x40 7 = acts [actOutDisable (.drive d), perBit 7 [(3, actOutClrCounts (.drive d))]] := rfl
  refine exec_write_of_run ⟨hs, by simp⟩ (by decide) ?_
  show run (writeReg 0 (.drive d) 0x40 7) s = _
  rw [hcmd]
  simp [perBit, Nat.testBit]

/-! The map, the views and the writes together -/

/-- Settles O56: a guest's view leaves the FABRIC and PORT pages out; the map goes page by page, and each register write listed is a plain
write under its access code or the command its register is. -/
theorem hostAccess : Obligations.HostAccess := by
  refine ⟨fun fn x s hfn hx => ?_, fun p off => pageAt_of_page 0, fun fn off hoff => pageAt_fence fn (by omega), fun fn x p => pageAt_cases,
    fun fn x p s => unseen_of_hidden, fun fn x g s hfn hg hx => ?_, fun fn x e s hfn he hx => unseen_of_no_view hfn hx he he,
    fun fn x k s hfn hk hx => unseen_of_no_view hfn hx hk hk, fun fn x s => unseen_of_reserved,
    fun x p s hs hx hp => hostRead_of_not_pfReaches hx (pfReaches_recovery hs hp), fun fn e off s => hostRead_cell_header,
    fun p s => hostRead_pageId, completes_write_scratch, completes_write_partId, fun k v s hs => completes_write_owner hs k v,
    completes_write_cell_owner, fun e v s hs => completes_write_startPc hs e v, fun e v s hs => completes_write_startPc_closed hs e v,
    fun p v s h => exec_write_fault h v, fun e v s hs => exec_write_cell hs e v, fun v s => exec_write_resetCtrl v s,
    fun d s hs => exec_write_outCmd hs d⟩
  · rcases hx with hx | ⟨q, hx⟩ <;> exact unseen_of_hidden hfn hx trivial
  · exact unseen_of_no_view hfn hx (guestReaches_other_session hg) (guestReaches_other_session hg)

end Sys2Proof.Bar0
